-- ==== Sys2Proof/Word.lean ====
section
/-! DEFINITION. The word types of the LYH-9600 and the plainest arithmetic on them (R5, R10).

Registers are 64-bit words, instruction words 32 bits, and memory is a store of bytes. Everything that a test
could show wrong (bit fields, sign extension, byte order) stands in `Sys2Proof/Machine/Bits.lean`. -/

namespace Sys2Proof

/-- A 64-bit register value (R108). -/
abbrev Word := BitVec 64

/-- One 32-bit scalar instruction word, stage word or lane (R52, R82, R211). -/
abbrev Word32 := BitVec 32

/-- One byte of any store (R5). -/
abbrev Byte := BitVec 8

/-- A 6-bit operand specifier (R54). -/
abbrev Spec := BitVec 6

end Sys2Proof
end

