-- ==== Sys2Proof/Config.lean ====
section
/-! DEFINITION. What one LYH-9600 fixes and the manual leaves open: the free values.

Every `opaque` constant here has no body, so no proof can learn a value of it: a statement that mentions one
holds for every value. The numbers of the headline table (R17) are plain definitions. -/

namespace Sys2Proof.Config

/-- Clerk cores of a module in which every field has joined (R17). -/
def coreCount : Nat := 1536

/-- Hardware thread slots per clerk core (R133). -/
def slotCount : Nat := 16

/-- Outstanding misses per clerk core (R17, R163, R180). -/
def missLimit : Nat := 48

/-- Range-scoreboard entries per clerk core (R169). -/
def scoreboardSize : Nat := 32

/-- Copies that the copy FIFO of a core holds (R294). -/
def copyFifo : Nat := 32

/-- Commands that a domain engine holds (R305). -/
def engineFifo : Nat := 8

/-- Contexts installed at once (R323). -/
def contextLimit : Nat := 64

/-- Entries of a core's L1 translation cache (R185). -/
def tlbSize : Nat := 64

/-- Entries of a walker's translation cache (R185). -/
def walkerSize : Nat := 512

/-- Entries of a region's address-compare queue (R286). -/
def compareSize : Nat := 16

/-- Blocks that an agn stream holds read: the next one and eight ahead of it (R280). -/
def aheadLimit : Nat := 9

/-- Entries of a core's arrival queue (R148). -/
def arrivalLimit : Nat := 16

/-- Clk between two quantum ticks: 1 ms at 1.9 GHz (R336). -/
def quantum : Nat := 1900000

/-- Non-posted requests that the module has outstanding at its host (R363). -/
def hostLimit : Nat := 768

/-- Entries of a network interface's name cache (R356). -/
def nameSize : Nat := 64

/-- Ticks after which a retryable fault turns fatal (R349). -/
def retryLimit : Nat := 1000

/-- FREE VALUE (log entry 6). Whether a fetch that could return either the old or the new instruction word returns
the old one (R53); the argument is the model's counter. -/
opaque fetchOld : Nat → Bool

/-- FREE VALUE (log entry 45). How a host or peer completes an access of an engine, a node or the module itself: 0 data, 1
Unsupported Request or Completer Abort, 2 or 3 poisoned data (R178), and how a peer completes a posted write. Arguments: CLK and
the address. -/
opaque linkAnswer : Nat → Nat → BitVec 2

/-- FREE VALUE (log entry 10). The row number within its unit of an erring row: opaque to software (R358).
Arguments: the store code of R358 and the address. -/
opaque rowNumber : Nat → Nat → BitVec 28

/-- FREE VALUE (log entry 11). The measurement of the Aeltas ROM image, which the manual does not print (R373). -/
opaque romMeasure : BitVec 384

/-- FREE VALUE (log entry 11). The measurement of the configuration fuses (R373). -/
opaque fuseMeasure : BitVec 384

/-- FREE VALUE (log entry 11). The P-384 identity key in fuses, of which 1 to the order less 1 is made (R373). -/
opaque identityKey : Nat

/-- FREE VALUE (log entry 11). The per-message secret of a signature, in the same form; the argument is the model's counter (R3, R374). -/
opaque signSecret : Nat → Nat

/-- FREE VALUE (log entry 11). The certificate chain in DER form that the attestation window shows (R373). -/
opaque certChain : List Byte

/-- FREE VALUE (log entry 12). The hottest junction sensor in half degrees at a sample (R367); the argument is the model's
counter. -/
opaque sensors : Nat → BitVec 16

/-- FREE VALUE (log entry 10). What orders the deep-memory units that a grant may take: the mapping is visible only through latency and in
retirement (R160, R360). Arguments: the model's counter and the unit. -/
opaque unitOrder : Nat → Nat → Nat

/-- FREE VALUE (log entry 22). A lane for which the manual states no value: the payload that a later stage reads from an
sts (R239), and a draw of an accn in mode SR (R246). The arguments are all that it may depend on: the image's seed, the place
in it, how often that has come there, and the lane (R51). -/
opaque openLane : List Nat → BitVec 32

/-- FREE VALUE (log entry 22). What a lane op that computes in another kind than the accumulator's makes of an
accumulator entry that it reads (R226, R232, R233); the argument is the entry. -/
opaque mixedAcc : BitVec 64 → BitVec 64

end Sys2Proof.Config
end

