-- ==== Sys2Proof/Syntax.lean ====
section
/-! DEFINITION. `Instr`: one constructor for each row of the table of operations and events.

The first 173 constructors are scalar words; their arguments are the fields of the word, as R56 to R79 lay them out
(d, a, b specifiers; i, n, o immediates; z size; c class; p and s scopes). The others are the module's own steps, which
another agent, the host, a link or time brings about; their arguments name the unit that takes the step (u a thread,
r a region instance, n a node, core a clerk core). The steps of copy engines, domain engines and arrival queues take no
argument: the unit that steps is named by the agenda (`State.unit`). `illegalWord` and `unassignedFnWord` hold every
word that is no instruction (R58, R81). -/

namespace Sys2Proof

/-- One step of the module (R11, R58 and the chapters that own each step). -/
inductive Instr where
  /-- ADD (R121). 64-bit integer add of a and b into d. -/
  | add (d : BitVec 6) (a : BitVec 6) (b : BitVec 6)
  /-- SUB (R121). 64-bit integer subtract. -/
  | sub (d : BitVec 6) (a : BitVec 6) (b : BitVec 6)
  /-- AND (R121). 64-bit bitwise and. -/
  | and (d : BitVec 6) (a : BitVec 6) (b : BitVec 6)
  /-- OR (R121). 64-bit bitwise or. -/
  | or (d : BitVec 6) (a : BitVec 6) (b : BitVec 6)
  /-- XOR (R121). 64-bit bitwise xor. -/
  | xor (d : BitVec 6) (a : BitVec 6) (b : BitVec 6)
  /-- ANDN (R121). 64-bit a and not b. -/
  | andn (d : BitVec 6) (a : BitVec 6) (b : BitVec 6)
  /-- ORN (R121). 64-bit a or not b. -/
  | orn (d : BitVec 6) (a : BitVec 6) (b : BitVec 6)
  /-- SHL (R121). 64-bit shift left by b mod 64. -/
  | shl (d : BitVec 6) (a : BitVec 6) (b : BitVec 6)
  /-- SHR (R121). 64-bit logical shift right. -/
  | shr (d : BitVec 6) (a : BitVec 6) (b : BitVec 6)
  /-- SHA (R121). 64-bit arithmetic shift right. -/
  | sha (d : BitVec 6) (a : BitVec 6) (b : BitVec 6)
  /-- ROTL (R121). 64-bit rotate left. -/
  | rotl (d : BitVec 6) (a : BitVec 6) (b : BitVec 6)
  /-- MIN (R121). 64-bit signed minimum. -/
  | min (d : BitVec 6) (a : BitVec 6) (b : BitVec 6)
  /-- MAX (R121). 64-bit signed maximum. -/
  | max (d : BitVec 6) (a : BitVec 6) (b : BitVec 6)
  /-- MINN (R121). 64-bit natural minimum. -/
  | minn (d : BitVec 6) (a : BitVec 6) (b : BitVec 6)
  /-- MAXN (R121). 64-bit natural maximum. -/
  | maxn (d : BitVec 6) (a : BitVec 6) (b : BitVec 6)
  /-- SLT (R121). 64-bit signed set-less-than. -/
  | slt (d : BitVec 6) (a : BitVec 6) (b : BitVec 6)
  /-- SLTN (R121). 64-bit natural set-less-than. -/
  | sltn (d : BitVec 6) (a : BitVec 6) (b : BitVec 6)
  /-- SEQ (R121). 64-bit set-equal. -/
  | seq (d : BitVec 6) (a : BitVec 6) (b : BitVec 6)
  /-- SNE (R121). 64-bit set-not-equal. -/
  | sne (d : BitVec 6) (a : BitVec 6) (b : BitVec 6)
  /-- SEL (R121). 64-bit select a if d non-zero else b. -/
  | sel (d : BitVec 6) (a : BitVec 6) (b : BitVec 6)
  /-- MUL (R121). 64-bit multiply, low half. -/
  | mul (d : BitVec 6) (a : BitVec 6) (b : BitVec 6)
  /-- MULH (R121). 64-bit signed multiply, high half. -/
  | mulh (d : BitVec 6) (a : BitVec 6) (b : BitVec 6)
  /-- MULHN (R121). 64-bit natural multiply, high half. -/
  | mulhn (d : BitVec 6) (a : BitVec 6) (b : BitVec 6)
  /-- DIV (R29). 64-bit signed division with the corner cases of R29. -/
  | div (d : BitVec 6) (a : BitVec 6) (b : BitVec 6)
  /-- DIVN (R29). 64-bit natural division. -/
  | divn (d : BitVec 6) (a : BitVec 6) (b : BitVec 6)
  /-- REM (R29). 64-bit signed remainder. -/
  | rem (d : BitVec 6) (a : BitVec 6) (b : BitVec 6)
  /-- REMN (R29). 64-bit natural remainder. -/
  | remn (d : BitVec 6) (a : BitVec 6) (b : BitVec 6)
  /-- CLZ (R121). 64-bit count leading zeros. -/
  | clz (d : BitVec 6) (a : BitVec 6)
  /-- CTZ (R121). 64-bit count trailing zeros. -/
  | ctz (d : BitVec 6) (a : BitVec 6)
  /-- POP (R121). 64-bit population count. -/
  | pop (d : BitVec 6) (a : BitVec 6)
  /-- BREV (R121). 64-bit bit reverse. -/
  | brev (d : BitVec 6) (a : BitVec 6)
  /-- BSWAP (R121). 64-bit byte swap. -/
  | bswap (d : BitVec 6) (a : BitVec 6)
  /-- BFX (R122). 64-bit bit-field extract. -/
  | bfx (d : BitVec 6) (a : BitVec 6) (b : BitVec 6)
  /-- BFI (R122). 64-bit bit-field insert into d. -/
  | bfi (d : BitVec 6) (a : BitVec 6) (b : BitVec 6)
  /-- ADD_32 (R121). 32-bit add, sign-extended. -/
  | add32 (d : BitVec 6) (a : BitVec 6) (b : BitVec 6)
  /-- SUB_32 (R121). 32-bit subtract, sign-extended. -/
  | sub32 (d : BitVec 6) (a : BitVec 6) (b : BitVec 6)
  /-- AND_32 (R121). 32-bit and, sign-extended. -/
  | and32 (d : BitVec 6) (a : BitVec 6) (b : BitVec 6)
  /-- OR_32 (R121). 32-bit or, sign-extended. -/
  | or32 (d : BitVec 6) (a : BitVec 6) (b : BitVec 6)
  /-- XOR_32 (R121). 32-bit xor, sign-extended. -/
  | xor32 (d : BitVec 6) (a : BitVec 6) (b : BitVec 6)
  /-- ANDN_32 (R121). 32-bit and-not, sign-extended. -/
  | andn32 (d : BitVec 6) (a : BitVec 6) (b : BitVec 6)
  /-- ORN_32 (R121). 32-bit or-not, sign-extended. -/
  | orn32 (d : BitVec 6) (a : BitVec 6) (b : BitVec 6)
  /-- SHL_32 (R121). 32-bit shift left by b mod 32. -/
  | shl32 (d : BitVec 6) (a : BitVec 6) (b : BitVec 6)
  /-- SHR_32 (R121). 32-bit logical shift right. -/
  | shr32 (d : BitVec 6) (a : BitVec 6) (b : BitVec 6)
  /-- SHA_32 (R121). 32-bit arithmetic shift right. -/
  | sha32 (d : BitVec 6) (a : BitVec 6) (b : BitVec 6)
  /-- ROTL_32 (R121). 32-bit rotate left. -/
  | rotl32 (d : BitVec 6) (a : BitVec 6) (b : BitVec 6)
  /-- MIN_32 (R121). 32-bit signed minimum. -/
  | min32 (d : BitVec 6) (a : BitVec 6) (b : BitVec 6)
  /-- MAX_32 (R121). 32-bit signed maximum. -/
  | max32 (d : BitVec 6) (a : BitVec 6) (b : BitVec 6)
  /-- MINN_32 (R121). 32-bit natural minimum. -/
  | minn32 (d : BitVec 6) (a : BitVec 6) (b : BitVec 6)
  /-- MAXN_32 (R121). 32-bit natural maximum. -/
  | maxn32 (d : BitVec 6) (a : BitVec 6) (b : BitVec 6)
  /-- SLT_32 (R121). 32-bit signed set-less-than. -/
  | slt32 (d : BitVec 6) (a : BitVec 6) (b : BitVec 6)
  /-- SLTN_32 (R121). 32-bit natural set-less-than. -/
  | sltn32 (d : BitVec 6) (a : BitVec 6) (b : BitVec 6)
  /-- SEQ_32 (R121). 32-bit set-equal. -/
  | seq32 (d : BitVec 6) (a : BitVec 6) (b : BitVec 6)
  /-- SNE_32 (R121). 32-bit set-not-equal. -/
  | sne32 (d : BitVec 6) (a : BitVec 6) (b : BitVec 6)
  /-- SEL_32 (R121). 32-bit select, sign-extended. -/
  | sel32 (d : BitVec 6) (a : BitVec 6) (b : BitVec 6)
  /-- MUL_32 (R121). 32-bit multiply, low half. -/
  | mul32 (d : BitVec 6) (a : BitVec 6) (b : BitVec 6)
  /-- MULH_32 (R121). 32-bit signed multiply, high half. -/
  | mulh32 (d : BitVec 6) (a : BitVec 6) (b : BitVec 6)
  /-- MULHN_32 (R121). 32-bit natural multiply, high half. -/
  | mulhn32 (d : BitVec 6) (a : BitVec 6) (b : BitVec 6)
  /-- DIV_32 (R29). 32-bit signed division. -/
  | div32 (d : BitVec 6) (a : BitVec 6) (b : BitVec 6)
  /-- DIVN_32 (R29). 32-bit natural division. -/
  | divn32 (d : BitVec 6) (a : BitVec 6) (b : BitVec 6)
  /-- REM_32 (R29). 32-bit signed remainder. -/
  | rem32 (d : BitVec 6) (a : BitVec 6) (b : BitVec 6)
  /-- REMN_32 (R29). 32-bit natural remainder. -/
  | remn32 (d : BitVec 6) (a : BitVec 6) (b : BitVec 6)
  /-- CLZ_32 (R121). 32-bit count leading zeros. -/
  | clz32 (d : BitVec 6) (a : BitVec 6)
  /-- CTZ_32 (R121). 32-bit count trailing zeros. -/
  | ctz32 (d : BitVec 6) (a : BitVec 6)
  /-- POP_32 (R121). 32-bit population count. -/
  | pop32 (d : BitVec 6) (a : BitVec 6)
  /-- BREV_32 (R121). 32-bit bit reverse. -/
  | brev32 (d : BitVec 6) (a : BitVec 6)
  /-- BSWAP_32 (R121). 32-bit byte swap. -/
  | bswap32 (d : BitVec 6) (a : BitVec 6)
  /-- BFX_32 (R122). 32-bit bit-field extract. -/
  | bfx32 (d : BitVec 6) (a : BitVec 6) (b : BitVec 6)
  /-- BFI_32 (R122). 32-bit bit-field insert. -/
  | bfi32 (d : BitVec 6) (a : BitVec 6) (b : BitVec 6)
  /-- FADD (R125). Float add with one rounding. -/
  | fadd (d : BitVec 6) (a : BitVec 6) (b : BitVec 6) (f : BitVec 2)
  /-- FSUB (R125). Float subtract. -/
  | fsub (d : BitVec 6) (a : BitVec 6) (b : BitVec 6) (f : BitVec 2)
  /-- FMUL (R125). Float multiply. -/
  | fmul (d : BitVec 6) (a : BitVec 6) (b : BitVec 6) (f : BitVec 2)
  /-- FDIV (R125). Float divide. -/
  | fdiv (d : BitVec 6) (a : BitVec 6) (b : BitVec 6) (f : BitVec 2)
  /-- FSQRT (R125). Float square root. -/
  | fsqrt (d : BitVec 6) (a : BitVec 6) (f : BitVec 2)
  /-- FMA (R125). Fused a*b+d with one rounding. -/
  | fma (d : BitVec 6) (a : BitVec 6) (b : BitVec 6) (f : BitVec 2)
  /-- FNMA (R125). Fused d-a*b with one rounding. -/
  | fnma (d : BitVec 6) (a : BitVec 6) (b : BitVec 6) (f : BitVec 2)
  /-- FMIN (R125). Float minimum. -/
  | fmin (d : BitVec 6) (a : BitVec 6) (b : BitVec 6) (f : BitVec 2)
  /-- FMAX (R125). Float maximum. -/
  | fmax (d : BitVec 6) (a : BitVec 6) (b : BitVec 6) (f : BitVec 2)
  /-- FSGN (R127). Copy a with the sign of b, no flags. -/
  | fsgn (d : BitVec 6) (a : BitVec 6) (b : BitVec 6) (f : BitVec 2)
  /-- FEQ (R126). Float equality compare. -/
  | feq (d : BitVec 6) (a : BitVec 6) (b : BitVec 6) (f : BitVec 2)
  /-- FLT (R126). Float less-than compare. -/
  | flt (d : BitVec 6) (a : BitVec 6) (b : BitVec 6) (f : BitVec 2)
  /-- FLE (R126). Float less-or-equal compare. -/
  | fle (d : BitVec 6) (a : BitVec 6) (b : BitVec 6) (f : BitVec 2)
  /-- FCLASS (R126). Classify a float into a one-hot mask. -/
  | fclass (d : BitVec 6) (a : BitVec 6) (f : BitVec 2)
  /-- FMV (R127). Move float bits without arithmetic. -/
  | fmv (d : BitVec 6) (a : BitVec 6) (f : BitVec 2)
  /-- CVT (R129). Convert one value between formats. -/
  | cvt (d : BitVec 6) (a : BitVec 6) (r : BitVec 3) (w : BitVec 2) (t : BitVec 4) (s : BitVec 4)
  /-- CVTB (R131). Pack or unpack one block-scaled block in core scratch. -/
  | cvtb (d : BitVec 6) (a : BitVec 6) (r : BitVec 3) (w : BitVec 2) (t : BitVec 4) (s : BitVec 4)
  /-- CSRR (R115). Read a control register into d. -/
  | csrr (d : BitVec 6) (n : BitVec 12)
  /-- CSRW (R115). Write a control register from a. -/
  | csrw (a : BitVec 6) (n : BitVec 12)
  /-- CSRS (R115). Set bits of a control register. -/
  | csrs (a : BitVec 6) (n : BitVec 12)
  /-- CSRC (R115). Clear bits of a control register. -/
  | csrc (a : BitVec 6) (n : BitVec 12)
  /-- ADDI (R123). Add sign-extended immediate. -/
  | addi (d : BitVec 6) (a : BitVec 6) (i : BitVec 14)
  /-- ANDI (R123). And with immediate. -/
  | andi (d : BitVec 6) (a : BitVec 6) (i : BitVec 14)
  /-- ORI (R123). Or with immediate. -/
  | ori (d : BitVec 6) (a : BitVec 6) (i : BitVec 14)
  /-- XORI (R123). Xor with immediate. -/
  | xori (d : BitVec 6) (a : BitVec 6) (i : BitVec 14)
  /-- SLTI (R123). Signed set-less-than immediate. -/
  | slti (d : BitVec 6) (a : BitVec 6) (i : BitVec 14)
  /-- SLTNI (R123). Natural set-less-than immediate. -/
  | sltni (d : BitVec 6) (a : BitVec 6) (i : BitVec 14)
  /-- SHLI (R123). Shift left by immediate. -/
  | shli (d : BitVec 6) (a : BitVec 6) (n : BitVec 6)
  /-- SHRI (R123). Logical shift right by immediate. -/
  | shri (d : BitVec 6) (a : BitVec 6) (n : BitVec 6)
  /-- SHAI (R123). Arithmetic shift right by immediate. -/
  | shai (d : BitVec 6) (a : BitVec 6) (n : BitVec 6)
  /-- MULI (R123). Multiply by immediate. -/
  | muli (d : BitVec 6) (a : BitVec 6) (i : BitVec 14)
  /-- LUI (R123). Load upper immediate. -/
  | lui (d : BitVec 6) (i : BitVec 20)
  /-- ADDPC (R123). Add upper immediate to the pc. -/
  | addpc (d : BitVec 6) (i : BitVec 20)
  /-- LD (R172). Sign-extending load of 1 to 8 bytes in the selected class. -/
  | ld (d : BitVec 6) (b : BitVec 6) (c : BitVec 2) (z : BitVec 2) (o : BitVec 9)
  /-- LDP (R172). 16-byte load into an even register pair. -/
  | ldp (d : BitVec 6) (b : BitVec 6) (c : BitVec 2) (o : BitVec 9)
  /-- LDN (R172). Zero-extending load of 1 to 4 bytes. -/
  | ldn (d : BitVec 6) (b : BitVec 6) (c : BitVec 2) (z : BitVec 2) (o : BitVec 9)
  /-- ST (R172). Store of 1 to 8 bytes. -/
  | st (s : BitVec 6) (b : BitVec 6) (c : BitVec 2) (z : BitVec 2) (o : BitVec 9)
  /-- STP (R172). 16-byte store from an even register pair. -/
  | stp (s : BitVec 6) (b : BitVec 6) (c : BitVec 2) (o : BitVec 9)
  /-- LDBIT (R174). Load 1 to 64 bits at a cursor bit address. -/
  | ldbit (d : BitVec 6) (k : BitVec 6) (c : BitVec 2) (x : BitVec 1) (w : BitVec 6) (v : BitVec 2)
  /-- STBIT (R174). Store 1 to 64 bits at a cursor bit address. -/
  | stbit (s : BitVec 6) (k : BitVec 6) (c : BitVec 2) (w : BitVec 6) (v : BitVec 2)
  /-- LD_ACQ (R200). Load with acquire at a scope. -/
  | ldAcq (d : BitVec 6) (b : BitVec 6) (c : BitVec 2) (z : BitVec 2) (p : BitVec 3) (o : BitVec 6)
  /-- ST_REL (R200). Store with release at a scope. -/
  | stRel (s : BitVec 6) (b : BitVec 6) (c : BitVec 2) (z : BitVec 2) (p : BitVec 3) (o : BitVec 6)
  /-- AMO_ADD (R203). Atomic add at the home slice. -/
  | amoAdd (d : BitVec 6) (a : BitVec 6) (b : BitVec 6) (w : BitVec 1) (o : BitVec 2) (s : BitVec 1)
  /-- AMO_AND (R203). Atomic and. -/
  | amoAnd (d : BitVec 6) (a : BitVec 6) (b : BitVec 6) (w : BitVec 1) (o : BitVec 2) (s : BitVec 1)
  /-- AMO_OR (R203). Atomic or. -/
  | amoOr (d : BitVec 6) (a : BitVec 6) (b : BitVec 6) (w : BitVec 1) (o : BitVec 2) (s : BitVec 1)
  /-- AMO_XOR (R203). Atomic xor. -/
  | amoXor (d : BitVec 6) (a : BitVec 6) (b : BitVec 6) (w : BitVec 1) (o : BitVec 2) (s : BitVec 1)
  /-- AMO_MIN (R203). Atomic signed minimum. -/
  | amoMin (d : BitVec 6) (a : BitVec 6) (b : BitVec 6) (w : BitVec 1) (o : BitVec 2) (s : BitVec 1)
  /-- AMO_MAX (R203). Atomic signed maximum. -/
  | amoMax (d : BitVec 6) (a : BitVec 6) (b : BitVec 6) (w : BitVec 1) (o : BitVec 2) (s : BitVec 1)
  /-- AMO_MINN (R203). Atomic natural minimum. -/
  | amoMinn (d : BitVec 6) (a : BitVec 6) (b : BitVec 6) (w : BitVec 1) (o : BitVec 2) (s : BitVec 1)
  /-- AMO_MAXN (R203). Atomic natural maximum. -/
  | amoMaxn (d : BitVec 6) (a : BitVec 6) (b : BitVec 6) (w : BitVec 1) (o : BitVec 2) (s : BitVec 1)
  /-- AMO_SWAP (R203). Atomic swap. -/
  | amoSwap (d : BitVec 6) (a : BitVec 6) (b : BitVec 6) (w : BitVec 1) (o : BitVec 2) (s : BitVec 1)
  /-- AMO_CAS (R203). Atomic compare-and-swap with d as comparand. -/
  | amoCas (d : BitVec 6) (a : BitVec 6) (b : BitVec 6) (w : BitVec 1) (o : BitVec 2) (s : BitVec 1)
  /-- PREF (R176). Prefetch a line by hint, never faulting. -/
  | pref (h : BitVec 6) (b : BitVec 6) (c : BitVec 2) (o : BitVec 9)
  /-- FENCE (R201). Release then acquire at a scope. -/
  | fence (s : BitVec 3)
  /-- PUBL (R202). Flip a publication record's generation after its writers finish. -/
  | publ (d : BitVec 6) (a : BitVec 6) (s : BitVec 3)
  /-- BR_EQ (R137). Branch if equal. -/
  | brEq (a : BitVec 6) (b : BitVec 6) (d : BitVec 10)
  /-- BR_NE (R137). Branch if not equal. -/
  | brNe (a : BitVec 6) (b : BitVec 6) (d : BitVec 10)
  /-- BR_LT (R137). Branch if signed less. -/
  | brLt (a : BitVec 6) (b : BitVec 6) (d : BitVec 10)
  /-- BR_GE (R137). Branch if signed greater or equal. -/
  | brGe (a : BitVec 6) (b : BitVec 6) (d : BitVec 10)
  /-- BR_LTN (R137). Branch if natural less. -/
  | brLtn (a : BitVec 6) (b : BitVec 6) (d : BitVec 10)
  /-- BR_GEN (R137). Branch if natural greater or equal. -/
  | brGen (a : BitVec 6) (b : BitVec 6) (d : BitVec 10)
  /-- JMP (R137). Pc-relative jump. -/
  | jmp (d : BitVec 26)
  /-- CALL (R137). Pc-relative call writing g31. -/
  | call (d : BitVec 26)
  /-- JR (R137). Jump through a register. -/
  | jr (a : BitVec 6)
  /-- CALLR (R137). Call through a register. -/
  | callr (d : BitVec 6) (a : BitVec 6)
  /-- RET (R137). Return through a register. -/
  | ret (a : BitVec 6)
  /-- CALLX (R150). Send a call request to another core and wait. -/
  | callx (d : BitVec 6) (a : BitVec 6) (b : BitVec 6)
  /-- REPLY (R150). Answer a callx and free the slot. -/
  | reply (a : BitVec 6)
  /-- LOOPI (R138). Start a hardware loop with an immediate count. -/
  | loopi (c : BitVec 12) (l : BitVec 13)
  /-- LOOP (R138). Start a hardware loop with a register count. -/
  | loop (a : BitVec 6) (l : BitVec 13)
  /-- SPAWN (R140). Create a thread on the own core with join counting. -/
  | spawn (d : BitVec 6) (a : BitVec 6) (b : BitVec 6)
  /-- EXIT (R141). End the thread, unpin, count down join, report exit code. -/
  | exit (a : BitVec 6)
  /-- YIELD (R142). Skip issue until the other ready threads have issued. -/
  | yield
  /-- SLEEP (R144). Sleep until a wake or the deadline. -/
  | sleep (a : BitVec 6)
  /-- WAKE (R143). Post a wake to a named thread. -/
  | wake (a : BitVec 6)
  /-- SEMP (R145). Take a semaphore or wait. -/
  | semp (n : BitVec 4)
  /-- SEMV (R145). Release the oldest waiter or increment the count. -/
  | semv (n : BitVec 4)
  /-- BARR (R147). Arrive at a bus barrier and wait for release. -/
  | barr (a : BitVec 6)
  /-- BCAST (R147). Arrive at a bus broadcast and receive the root value. -/
  | bcast (d : BitVec 6) (a : BitVec 6)
  /-- MIGR (R149). Move the thread to another core's arrival queue. -/
  | migr (a : BitVec 6)
  /-- PIN (R151). Pin an engine or wait for it. -/
  | pin (e : BitVec 3)
  /-- UNPIN (R151). Release an engine pin after its commands complete. -/
  | unpin (e : BitVec 3)
  /-- WAITL (R152). Wait on a lock word until it reads free or is written. -/
  | waitl (a : BitVec 6)
  /-- TRAP (R154). Raise TRAP with a number. -/
  | trap (n : BitVec 6)
  /-- ERET (R154). Return from a handler, restoring the saved context. -/
  | eret
  /-- CQPUSH (R299). Check and accept a copy request into the copy FIFO. -/
  | cqpush (d : BitVec 6) (a : BitVec 6)
  /-- NBL_BOX (R305). Accept an nbl.box command. -/
  | nblBox (d : BitVec 6) (a : BitVec 6)
  /-- NBL_BIN (R305). Accept an nbl.bin command. -/
  | nblBin (d : BitVec 6) (a : BitVec 6)
  /-- NBL_PAIRS (R305). Accept an nbl.pairs command. -/
  | nblPairs (d : BitVec 6) (a : BitVec 6)
  /-- NBL_STAT (R305). Accept an nbl.stat command. -/
  | nblStat (d : BitVec 6)
  /-- PGS_SUM (R305). Accept a pgs.sum command. -/
  | pgsSum (d : BitVec 6) (a : BitVec 6)
  /-- PGS_SEL (R305). Accept a pgs.sel command. -/
  | pgsSel (d : BitVec 6) (a : BitVec 6)
  /-- SFL_TAB (R305). Accept an sfl.tab command. -/
  | sflTab (d : BitVec 6) (a : BitVec 6)
  /-- SFL_BAG (R305). Accept an sfl.bag command. -/
  | sflBag (d : BitVec 6) (a : BitVec 6)
  /-- WDQ_GRID (R305). Accept a wdq.grid command. -/
  | wdqGrid (d : BitVec 6) (a : BitVec 6)
  /-- WDQ_ASK (R305). Accept a wdq.ask command. -/
  | wdqAsk (d : BitVec 6) (a : BitVec 6)
  /-- ENQ (R343). Release and hand a launch, cancel, invalidate or map request to the registrar. -/
  | enq (d : BitVec 6) (a : BitVec 6)
  /-- CHPUT (R271). Put one token on a channel, waiting for room. -/
  | chput (a : BitVec 6) (b : BitVec 6)
  /-- CHGET (R272). Take the oldest token of a channel or time out. -/
  | chget (d : BitVec 6) (a : BitVec 6) (b : BitVec 6)
  /-- CHWIN (R273). Snapshot a channel's occupancy. -/
  | chwin (d : BitVec 6) (a : BitVec 6)
  /-- CHSYNC (R273). Wait until a channel is empty and return its take count. -/
  | chsync (d : BitVec 6) (a : BitVec 6)
  /-- SLIPR (R274). Read a parked call slip. -/
  | slipr (d : BitVec 6) (a : BitVec 6)
  /-- SLIPREP (R275). Answer a parked call slip. -/
  | sliprep (a : BitVec 6) (b : BitVec 6)
  /-- PFX_FMT (R75). Make a format prefix pending in PXS. -/
  | pfxFmt (a : BitVec 4) (b : BitVec 4) (d : BitVec 4) (r : BitVec 3) (f : BitVec 6)
  /-- PFX_SCL (R76). Make a scale prefix pending in PXS. -/
  | pfxScl (g : BitVec 2) (s : BitVec 6) (i : BitVec 1) (c : BitVec 8)
  /-- ILLEGAL_WORD (R58). A word with major 0x00 or an unassigned major raises ILLEGAL. -/
  | illegalWord (w : BitVec 32)
  /-- LOAD_DATA_RETURN (R110). Load data arrives for an in-flight destination or y value. -/
  | loadDataReturn (u i : Nat)
  /-- STORE_ACK (R206). The home slice acknowledges a posted store, possibly with an error. -/
  | storeAck (i : Nat)
  /-- WALK_DONE (R183). A page walk completes with a translation or a fault. -/
  | walkDone (core ctx : Nat) (va : BitVec 64) (acc : BitVec 2)
  /-- AMO_AT_HOME (R204). An atomic arriving by message or migration executes at the home slice. -/
  | amoAtHome (u : Nat)
  /-- NAME_WALK_DONE (R356). A catalogue walk after a name-cache miss resolves or raises NAME_UNMAPPED. -/
  | nameWalkDone (core : Nat) (name : BitVec 16)
  /-- WAKE_ARRIVAL (R143). A wake reaches its target and ends a sleep or sets wake-pending. -/
  | wakeArrival (i : Nat)
  /-- SLEEP_DEADLINE (R144). CLK reaches a sleeping thread's deadline. -/
  | sleepDeadline (u : Nat)
  /-- WAITL_END (R152). A write to the lock word ends the wait and the lock word is re-read. -/
  | waitlEnd (u : Nat)
  /-- LOCK_LEND (R339). The registrar deschedules a waitl waiter and restores its holder in its slot. -/
  | lockLend (u : Nat)
  /-- ARRIVAL_SEND_RETRY (R148). A back-pressured sender retries entry to a full arrival queue. -/
  | arrivalSendRetry (u : Nat)
  /-- CALLX_ANSWER (R150). A reply or callee fault reaches the waiting caller. -/
  | callxAnswer (u : Nat)
  /-- PIN_HANDOFF (R151). After the holder's commands complete, geometry clears and the engine passes to the oldest waiter. -/
  | pinHandoff (e : BitVec 3) (unit : Nat)
  /-- CHPUT_ENTER (R271). A waiting chput finds room and its token enters the channel. -/
  | chputEnter (u : Nat)
  /-- CHGET_TAKE (R272). A waiting chget receives a token. -/
  | chgetTake (u : Nat)
  /-- CHGET_TIMEOUT (R272). A chget's timeout expires with no token. -/
  | chgetTimeout (u : Nat)
  /-- CHSYNC_DRAINED (R273). A channel empties and a waiting chsync completes. -/
  | chsyncDrained (u : Nat)
  /-- PUBL_COMPLETE (R202). After writers and accesses drain, publ flips GEN and completes. -/
  | publComplete (u : Nat)
  /-- SPLIT_CHANGE_COMPLETE (R162). A deep-memory split change drains, writes back and releases held accesses. -/
  | splitChangeComplete (u : Nat)
  /-- ENGINE_RETIRE (R305). A domain-engine command lands its status, signals and releases. -/
  | engineRetire (e : BitVec 3) (unit : Nat)
  /-- ENQ_RETIRE (R343). The registrar finishes an enq request and its status lands. -/
  | enqRetire (core i : Nat)
  /-- REGION_STEP (R216). A region advances its schedule clock and every firing of that clk takes place. -/
  | regionStep (r : Nat)
  /-- SRC_SEND (R257). A src node sends a token into its region. -/
  | srcSend (r n : Nat)
  /-- INJ_SEND (R258). An inj node sends a chput token into its region. -/
  | injSend (r n : Nat)
  /-- SNK_TAKE (R259). A snk node takes a token, counts and forwards it. -/
  | snkTake (r n : Nat)
  /-- REGION_COMPLETE (R260). DRAIN reaches every end; the completion word is released and the region becomes reusable. -/
  | regionComplete (r : Nat)
  /-- AGN_RUN_START (R279). An agn node takes a DATA token on IN0 and starts a run of each stream. -/
  | agnRunStart (r n : Nat)
  /-- AGN_EMIT (R279). An agn stream emits the next block or EOR. -/
  | agnEmit (r n st : Nat)
  /-- MEMG_GATHER (R283). A memg node gathers elements for an index token. -/
  | memgGather (r n : Nat)
  /-- MEMS_WRITE (R284). A mems node writes elements for an index and data token. -/
  | memsWrite (r n : Nat)
  /-- SLH_EMIT (R288). An slh node emits set-bit positions of a pass. -/
  | slhEmit (r n : Nat)
  /-- SLUICE_SEND (R291). A sluice node sends an update as an atomic request. -/
  | sluiceSend (r n : Nat)
  /-- SLUICE_COMPLETION (R291). An atomic completion returns to a sluice, freeing a tag and forming replies. -/
  | sluiceCompletion (r n tag : Nat) (st : BitVec 2) (old : BitVec 64)
  /-- ACCN_SUM (R246). An accn node adds a token lane by lane or emits sums at EOR. -/
  | accnSum (r n : Nat)
  /-- ESC_TAKE (R266). An esc node parks, passes or marks a token on a slip and requests an escape thread. -/
  | escTake (r n : Nat)
  /-- ESC_EMIT (R267). An esc node emits a finished slip on OUT0. -/
  | escEmit (r n : Nat)
  /-- CISTERN_REFILL (R255). The head cistern entry moves into a free slot. -/
  | cisternRefill (isChan : Bool) (a b : Nat)
  /-- INGRESS_PUSH (R325). A write of an ingress port header pushes a token or launch token. -/
  | ingressPush (q : Nat) (hdr : BitVec 64)
  /-- LOAD_FINISH (R107). The loader completes its checks of an image in the shadow planes. -/
  | loadFinish (r : Nat)
  /-- CONFIG_SWITCH (R263). A checked configuration switches in one clk once the region is reusable. -/
  | configSwitch (r : Nat)
  /-- CHECKPOINT_COMPLETE (R262). CKPT reaches every end; the region stops and its state is saved. -/
  | checkpointComplete (r : Nat)
  /-- THREAD_SAVE_COMPLETE (R337). A pre-empted thread's work in flight completes and its context is saved. -/
  | threadSaveComplete (u : Nat)
  /-- FAULT_RETRY (R349). At a tick a retryable fault is retried. -/
  | faultRetry (isNode : Bool) (a b : Nat)
  /-- FAULT_RETRY_LIMIT (R349). After 1,000 ticks the fault turns fatal. -/
  | faultRetryLimit (isNode : Bool) (a b : Nat)
  /-- CHECKPOINT_WATCHDOG (R352). A pre-emption checkpoint exceeds 10 ms and is abandoned. -/
  | checkpointWatchdog (r : Nat)
  /-- THREAD_SAVE_WATCHDOG (R352). A pre-emption thread save exceeds 10 ms and is abandoned. -/
  | threadSaveWatchdog (u : Nat)
  /-- FORCED_ABORT_WATCHDOG (R352). A forced-cancel checkpoint exceeds 10 ms and the launch aborts. -/
  | forcedAbortWatchdog (r : Nat)
  /-- CTAIL_WRITE (R342). The command-ring doorbell hands commands to Aeltas. -/
  | ctailWrite (v : BitVec 32)
  /-- CMD_RING_CONFIG (R342). A write to CBASE or CSZ resets the command ring. -/
  | cmdRingConfig (v : BitVec 64)
  /-- CPL_RING_CONFIG (R342). A write to QBASE or QSZ resets the completion ring. -/
  | cplRingConfig (v : BitVec 64)
  /-- QHEAD_WRITE (R342). The host frees completion entries, letting Aeltas resume. -/
  | qheadWrite (v : BitVec 32)
  /-- PLIM_WRITE (R365). Set the sustained power limit, clamped to 30 to 72. -/
  | plimWrite (v : BitVec 64)
  /-- PORTS_WRITE (R365). Enable or take down UALink ports. -/
  | portsWrite (v : BitVec 64)
  /-- ATTEST_CMD (R374). A write of 1 to CMD starts an attestation report. -/
  | attestCmd (v : BitVec 64)
  /-- REGISTER_WRITE (R8). A write to a register without a row of its own sets its RW fields. -/
  | registerWrite (bar : BitVec 3) (off : Nat) (size : Nat) (v : BitVec 64)
  /-- HOST_APERTURE_ACCESS (R365). A host access through BAR4 is performed at the home slice. -/
  | hostApertureAccess (op : BitVec 3) (off size : Nat) (v : BitVec 4096) (cmp : BitVec 64)
  /-- PEER_REQUEST (R369). A request from a peer arrives on a UALink port. -/
  | peerRequest (op : BitVec 4) (pa size : Nat) (v : BitVec 2048) (cmp : BitVec 64)
  /-- LINK_COMPLETION (R178). A PCIe or UALink completion returns for a module request. -/
  | linkCompletion (i : Nat) (st : BitVec 2) (data : BitVec 128)
  /-- PORT_TRAINED (R369). A UALink port trains and becomes usable. -/
  | portTrained (p : Nat)
  /-- PORT_DOWN (R369). A port goes down and its requests complete with Completer Abort. -/
  | portDown (p : Nat)
  /-- FIELD_JOIN (R368). A field passes self-test and joins the module. -/
  | fieldJoin (f : Nat)
  /-- FIELD_FAIL (R368). A field fails self-test and is recorded in FAILED. -/
  | fieldFail (f : Nat)
  /-- CORRECTED_ERROR (R357). A corrected SRAM error is counted for its row. -/
  | correctedError (store : BitVec 4) (unit row : Nat) (hard : Bool)
  /-- RETIREMENT_EFFECT (R359). A retired unit leaves use once its records clear, remapping its name. -/
  | retirementEffect (i : Nat)
  /-- POWER_MEASURE (R372). Each 1 µs power sample adjusts the excursion allowance. -/
  | powerMeasure (watts : Nat)
  /-- THROTTLE_START (R168). Heat or a spent allowance sets THERM.TLF and gates clk. -/
  | throttleStart (hot : Bool)
  /-- MODULE_FATAL (R354). A module-fatal fault stops every launch and aborts peer requests. -/
  | moduleFatal (pa : BitVec 64)
  /-- MESH_LINK_FAIL (R354). A stitched link failure that splits joined fields is module-fatal. -/
  | meshLinkFail (a b : Nat)
  /-- UNASSIGNED_FN_WORD (R81). A word of an assigned major whose fn, cond, kind, sub-field, cursor, scope or size is unassigned, or whose must-be-zero field is not zero, raises ILLEGAL or PREFIX at decode. -/
  | unassignedFnWord (w : BitVec 32)
  /-- POWER_LOSS (R362). Module power fails, possibly in the middle of a retirement-log append or a compaction, leaving a torn slot or an uncommitted bank header. -/
  | powerLoss (done : Nat)
  /-- MIGRATION_ARRIVAL (R148). A migrating or callx context enters the target's arrival queue or a slot. -/
  | migrationArrival
  /-- ARRIVAL_RELIEF (R148). An entry that waited a quantum is moved to the save area or its launch aborted. -/
  | arrivalRelief
  /-- INDIRECT_PREFETCH (R293). The indirect prefetcher issues fetches for a trained index stream. -/
  | indirectPrefetch
  /-- COPY_START (R300). The copy engine begins the next accepted copy. -/
  | copyStart
  /-- COPY_RETIRE (R302). A copy ends, lands its status, signals and frees its scoreboard entry. -/
  | copyRetire
  /-- NBL_BOX_EXEC (R309). The NBL fixes the box and cell grid. -/
  | nblBoxExec
  /-- NBL_BIN_EXEC (R311). The NBL bins particles into cells. -/
  | nblBinExec
  /-- NBL_PAIRS_EXEC (R312). The NBL checks staleness and streams pairs into a channel. -/
  | nblPairsExec
  /-- NBL_STAT_EXEC (R314). The NBL reports its statistics. -/
  | nblStatExec
  /-- PGS_SUM_EXEC (R316). The page selector writes page summaries. -/
  | pgsSumExec
  /-- PGS_SEL_EXEC (R317). The page selector scores, chooses and fetches pages. -/
  | pgsSelExec
  /-- SFL_TAB_EXEC (R318). The sparse-feature port registers a table. -/
  | sflTabExec
  /-- SFL_BAG_EXEC (R319). The sparse-feature port pools bags across buffer chips. -/
  | sflBagExec
  /-- WDQ_GRID_EXEC (R320). The work distributor makes or frees a grid. -/
  | wdqGridExec
  /-- WDQ_ASK_EXEC (R321). The work distributor writes the next item of a grid. -/
  | wdqAskExec
  /-- QUANTUM_TICK (R336). A 1 ms tick runs the registrar schedule and resumes threads. -/
  | quantumTick
  /-- CTX_CREATE (R323). Install a context from its record. -/
  | ctxCreate
  /-- CTX_DESTROY (R341). Abort and remove everything of a context. -/
  | ctxDestroy
  /-- QBIND (R341). Bind a queue to a context and priority. -/
  | qbind
  /-- QUNBIND (R341). Unbind a queue, removing its launches that are not running. -/
  | qunbind
  /-- LAUNCH (R326). Enter a launch record into a queue and return its ticket. -/
  | launch
  /-- CANCEL (R340). Cancel a launch by ticket, optionally forced. -/
  | cancel
  /-- XINV (R186). Invalidate translations of a context range. -/
  | xinv
  /-- SLICEMAP (R341). Write the live-slice map to a buffer. -/
  | slicemap
  /-- BADOPC (R341). An unknown host opcode completes with BADOPC. -/
  | badopc
  /-- ATTEST_REPORT_DONE (R374). The signed report is written and DONE set. -/
  | attestReportDone
  /-- COLD_RESET (R368). PERST# or power-on starts the boot sequence. -/
  | coldReset
  /-- WARM_RESET (R371). FLR or a return from D3hot clears state and reboots. -/
  | warmReset
  /-- LIVE_SLICE_MAP_CHANGE (R179). The live-slice map changes when no context is installed. -/
  | liveSliceMapChange
  /-- THROTTLE_END (R168). After 1 ms cool with the allowance returned, TLF clears. -/
  | throttleEnd
  /-- REGISTRAR_UNRESPONSIVE (R354). The primary registrar silent for 5 ms is module-fatal. -/
  | registrarUnresponsive
  deriving DecidableEq, Repr

end Sys2Proof
end

