-- ==== Sys2Proof/WellFormed.lean ====
section
/-! DEFINITION. Which words are well formed: the part of R81's condition 2 that the fixed bits of a word do not settle
(reserved registers, y0 and y1 as destinations, codes out of range), and for the module's own steps the ranges of the
units they name. `Instr.uses` and `Instr.dests` list the operand specifiers of R55 that a word reads and writes. -/

namespace Sys2Proof

/-- A specifier that may be read (R54). -/
def Spec.readable (x : Spec) : Bool := decide (x.toNat < 42)

/-- A specifier that may be a destination: y0 and y1 may not (R54, R55). -/
def Spec.writable (x : Spec) : Bool := decide (x.toNat < 40)

/-- The operand specifiers that a scalar word reads by its own fields, in the order a, b, d (R55). The register blocks of
R295, R303 and R343, and q0 to q7 of R271, are read beside these. -/
def Instr.uses : Instr → List Spec
  | .add _ a b => [a, b]
  | .sub _ a b => [a, b]
  | .and _ a b => [a, b]
  | .or _ a b => [a, b]
  | .xor _ a b => [a, b]
  | .andn _ a b => [a, b]
  | .orn _ a b => [a, b]
  | .shl _ a b => [a, b]
  | .shr _ a b => [a, b]
  | .sha _ a b => [a, b]
  | .rotl _ a b => [a, b]
  | .min _ a b => [a, b]
  | .max _ a b => [a, b]
  | .minn _ a b => [a, b]
  | .maxn _ a b => [a, b]
  | .slt _ a b => [a, b]
  | .sltn _ a b => [a, b]
  | .seq _ a b => [a, b]
  | .sne _ a b => [a, b]
  | .mul _ a b => [a, b]
  | .mulh _ a b => [a, b]
  | .mulhn _ a b => [a, b]
  | .div _ a b => [a, b]
  | .divn _ a b => [a, b]
  | .rem _ a b => [a, b]
  | .remn _ a b => [a, b]
  | .bfx _ a b => [a, b]
  | .add32 _ a b => [a, b]
  | .sub32 _ a b => [a, b]
  | .and32 _ a b => [a, b]
  | .or32 _ a b => [a, b]
  | .xor32 _ a b => [a, b]
  | .andn32 _ a b => [a, b]
  | .orn32 _ a b => [a, b]
  | .shl32 _ a b => [a, b]
  | .shr32 _ a b => [a, b]
  | .sha32 _ a b => [a, b]
  | .rotl32 _ a b => [a, b]
  | .min32 _ a b => [a, b]
  | .max32 _ a b => [a, b]
  | .minn32 _ a b => [a, b]
  | .maxn32 _ a b => [a, b]
  | .slt32 _ a b => [a, b]
  | .sltn32 _ a b => [a, b]
  | .seq32 _ a b => [a, b]
  | .sne32 _ a b => [a, b]
  | .mul32 _ a b => [a, b]
  | .mulh32 _ a b => [a, b]
  | .mulhn32 _ a b => [a, b]
  | .div32 _ a b => [a, b]
  | .divn32 _ a b => [a, b]
  | .rem32 _ a b => [a, b]
  | .remn32 _ a b => [a, b]
  | .bfx32 _ a b => [a, b]
  | .fadd _ a b _ => [a, b]
  | .fsub _ a b _ => [a, b]
  | .fmul _ a b _ => [a, b]
  | .fdiv _ a b _ => [a, b]
  | .fmin _ a b _ => [a, b]
  | .fmax _ a b _ => [a, b]
  | .fsgn _ a b _ => [a, b]
  | .feq _ a b _ => [a, b]
  | .flt _ a b _ => [a, b]
  | .fle _ a b _ => [a, b]
  | .brEq a b _ => [a, b]
  | .brNe a b _ => [a, b]
  | .brLt a b _ => [a, b]
  | .brGe a b _ => [a, b]
  | .brLtn a b _ => [a, b]
  | .brGen a b _ => [a, b]
  | .chput a b => [a, b]
  | .chget _ a b => [a, b]
  | .sliprep a b => [a, b]
  | .sel d a b => [a, b, d]
  | .bfi d a b => [a, b, d]
  | .sel32 d a b => [a, b, d]
  | .bfi32 d a b => [a, b, d]
  | .fma d a b _ => [a, b, d]
  | .fnma d a b _ => [a, b, d]
  | .amoAdd d a b _ _ _ => [a, b, d]
  | .amoAnd d a b _ _ _ => [a, b, d]
  | .amoOr d a b _ _ _ => [a, b, d]
  | .amoXor d a b _ _ _ => [a, b, d]
  | .amoMin d a b _ _ _ => [a, b, d]
  | .amoMax d a b _ _ _ => [a, b, d]
  | .amoMinn d a b _ _ _ => [a, b, d]
  | .amoMaxn d a b _ _ _ => [a, b, d]
  | .amoSwap d a b _ _ _ => [a, b, d]
  | .amoCas d a b _ _ _ => [a, b, d]
  | .callx d a b => [a, b, d]
  | .spawn d a b => [a, b, d]
  | .clz _ a => [a]
  | .ctz _ a => [a]
  | .pop _ a => [a]
  | .brev _ a => [a]
  | .bswap _ a => [a]
  | .clz32 _ a => [a]
  | .ctz32 _ a => [a]
  | .pop32 _ a => [a]
  | .brev32 _ a => [a]
  | .bswap32 _ a => [a]
  | .fsqrt _ a _ => [a]
  | .fclass _ a _ => [a]
  | .fmv _ a _ => [a]
  | .cvt _ a _ _ _ _ => [a]
  | .csrw a _ => [a]
  | .csrs a _ => [a]
  | .csrc a _ => [a]
  | .addi _ a _ => [a]
  | .andi _ a _ => [a]
  | .ori _ a _ => [a]
  | .xori _ a _ => [a]
  | .slti _ a _ => [a]
  | .sltni _ a _ => [a]
  | .shli _ a _ => [a]
  | .shri _ a _ => [a]
  | .shai _ a _ => [a]
  | .muli _ a _ => [a]
  | .publ _ a _ => [a]
  | .jr a => [a]
  | .callr _ a => [a]
  | .ret a => [a]
  | .reply a => [a]
  | .loop a _ => [a]
  | .exit a => [a]
  | .sleep a => [a]
  | .wake a => [a]
  | .barr a => [a]
  | .migr a => [a]
  | .waitl a => [a]
  | .chwin _ a => [a]
  | .chsync _ a => [a]
  | .slipr _ a => [a]
  | .cvtb d a _ _ _ _ => [a, d]
  | .bcast d a => [a, d]
  | .ld _ b _ _ _ => [b]
  | .ldp _ b _ _ => [b]
  | .ldn _ b _ _ _ => [b]
  | .ldAcq _ b _ _ _ _ => [b]
  | .pref _ b _ _ => [b]
  | .st s b _ _ _ => [s, b]
  | .stp s b _ _ => [s, b]
  | .stRel s b _ _ _ _ => [s, b]
  | .stbit s _ _ _ _ => [s]
  | _ => []

/-- The operand specifiers that a scalar word writes (R55). -/
def Instr.dests : Instr → List Spec
  | .add d _ _ => [d]
  | .sub d _ _ => [d]
  | .and d _ _ => [d]
  | .or d _ _ => [d]
  | .xor d _ _ => [d]
  | .andn d _ _ => [d]
  | .orn d _ _ => [d]
  | .shl d _ _ => [d]
  | .shr d _ _ => [d]
  | .sha d _ _ => [d]
  | .rotl d _ _ => [d]
  | .min d _ _ => [d]
  | .max d _ _ => [d]
  | .minn d _ _ => [d]
  | .maxn d _ _ => [d]
  | .slt d _ _ => [d]
  | .sltn d _ _ => [d]
  | .seq d _ _ => [d]
  | .sne d _ _ => [d]
  | .sel d _ _ => [d]
  | .mul d _ _ => [d]
  | .mulh d _ _ => [d]
  | .mulhn d _ _ => [d]
  | .div d _ _ => [d]
  | .divn d _ _ => [d]
  | .rem d _ _ => [d]
  | .remn d _ _ => [d]
  | .clz d _ => [d]
  | .ctz d _ => [d]
  | .pop d _ => [d]
  | .brev d _ => [d]
  | .bswap d _ => [d]
  | .bfx d _ _ => [d]
  | .bfi d _ _ => [d]
  | .add32 d _ _ => [d]
  | .sub32 d _ _ => [d]
  | .and32 d _ _ => [d]
  | .or32 d _ _ => [d]
  | .xor32 d _ _ => [d]
  | .andn32 d _ _ => [d]
  | .orn32 d _ _ => [d]
  | .shl32 d _ _ => [d]
  | .shr32 d _ _ => [d]
  | .sha32 d _ _ => [d]
  | .rotl32 d _ _ => [d]
  | .min32 d _ _ => [d]
  | .max32 d _ _ => [d]
  | .minn32 d _ _ => [d]
  | .maxn32 d _ _ => [d]
  | .slt32 d _ _ => [d]
  | .sltn32 d _ _ => [d]
  | .seq32 d _ _ => [d]
  | .sne32 d _ _ => [d]
  | .sel32 d _ _ => [d]
  | .mul32 d _ _ => [d]
  | .mulh32 d _ _ => [d]
  | .mulhn32 d _ _ => [d]
  | .div32 d _ _ => [d]
  | .divn32 d _ _ => [d]
  | .rem32 d _ _ => [d]
  | .remn32 d _ _ => [d]
  | .clz32 d _ => [d]
  | .ctz32 d _ => [d]
  | .pop32 d _ => [d]
  | .brev32 d _ => [d]
  | .bswap32 d _ => [d]
  | .bfx32 d _ _ => [d]
  | .bfi32 d _ _ => [d]
  | .fadd d _ _ _ => [d]
  | .fsub d _ _ _ => [d]
  | .fmul d _ _ _ => [d]
  | .fdiv d _ _ _ => [d]
  | .fsqrt d _ _ => [d]
  | .fma d _ _ _ => [d]
  | .fnma d _ _ _ => [d]
  | .fmin d _ _ _ => [d]
  | .fmax d _ _ _ => [d]
  | .fsgn d _ _ _ => [d]
  | .feq d _ _ _ => [d]
  | .flt d _ _ _ => [d]
  | .fle d _ _ _ => [d]
  | .fclass d _ _ => [d]
  | .fmv d _ _ => [d]
  | .cvt d _ _ _ _ _ => [d]
  | .cvtb d _ _ _ _ _ => [d]
  | .csrr d _ => [d]
  | .addi d _ _ => [d]
  | .andi d _ _ => [d]
  | .ori d _ _ => [d]
  | .xori d _ _ => [d]
  | .slti d _ _ => [d]
  | .sltni d _ _ => [d]
  | .shli d _ _ => [d]
  | .shri d _ _ => [d]
  | .shai d _ _ => [d]
  | .muli d _ _ => [d]
  | .lui d _ => [d]
  | .addpc d _ => [d]
  | .ld d _ _ _ _ => [d]
  | .ldp d _ _ _ => [d]
  | .ldn d _ _ _ _ => [d]
  | .ldbit d _ _ _ _ _ => [d]
  | .ldAcq d _ _ _ _ _ => [d]
  | .amoAdd d _ _ _ _ _ => [d]
  | .amoAnd d _ _ _ _ _ => [d]
  | .amoOr d _ _ _ _ _ => [d]
  | .amoXor d _ _ _ _ _ => [d]
  | .amoMin d _ _ _ _ _ => [d]
  | .amoMax d _ _ _ _ _ => [d]
  | .amoMinn d _ _ _ _ _ => [d]
  | .amoMaxn d _ _ _ _ _ => [d]
  | .amoSwap d _ _ _ _ _ => [d]
  | .amoCas d _ _ _ _ _ => [d]
  | .publ d _ _ => [d]
  | .callr d _ => [d]
  | .callx d _ _ => [d]
  | .spawn d _ _ => [d]
  | .bcast d _ => [d]
  | .cqpush d _ => [d]
  | .nblBox d _ => [d]
  | .nblBin d _ => [d]
  | .nblPairs d _ => [d]
  | .nblStat d => [d]
  | .pgsSum d _ => [d]
  | .pgsSel d _ => [d]
  | .sflTab d _ => [d]
  | .sflBag d _ => [d]
  | .wdqGrid d _ => [d]
  | .wdqAsk d _ => [d]
  | .enq d _ => [d]
  | .chget d _ _ => [d]
  | .chwin d _ => [d]
  | .chsync d _ => [d]
  | .slipr d _ => [d]
  | _ => []

/-- The narrow floats e4m3 to e2m1 (R27). -/
def Fmt.narrowCode (f : BitVec 4) : Bool := decide (0x5 ≤ f.toNat ∧ f.toNat ≤ 0x9)

/-- The wide floats f64, f32, bf16 and f16 (R27). -/
def Fmt.wideCode (f : BitVec 4) : Bool := decide (0x1 ≤ f.toNat ∧ f.toNat ≤ 0x4)

/-- Integer and natural (R26). -/
def Fmt.intCode (f : BitVec 4) : Bool := decide (f = 0xB ∨ f = 0xC)

/-- The format rules that R61 sets for both conversion words. -/
def cvtFieldsOk (r : BitVec 3) (w : BitVec 2) (t s : BitVec 4) : Bool :=
  let ok (f : BitVec 4) := decide (f ≠ 0x0 ∧ f ≠ 0xA ∧ f ≠ 0xE ∧ f ≠ 0xF)
  ok t && ok s && decide (r ≠ 6) && (decide (w = 0) || Fmt.intCode t || Fmt.intCode s)

/-- The further rules of R61 for cvtb: exactly one side narrow, and the other a wide float (R131). -/
def cvtbFieldsOk (t s : BitVec 4) : Bool :=
  (Fmt.narrowCode t && Fmt.wideCode s) || (Fmt.wideCode t && Fmt.narrowCode s)

/-- A number that the table of R116 lists. -/
def csrNumberOk (n : BitVec 12) : Bool :=
  let k := n.toNat
  decide (k = 0x000 ∨ (0x002 ≤ k ∧ k ≤ 0x004) ∨ (0x008 ≤ k ∧ k ≤ 0x00A) ∨ (0x010 ≤ k ∧ k ≤ 0x013) ∨ k = 0x020 ∨
    k = 0x030 ∨ k = 0x031 ∨ (0x040 ≤ k ∧ k ≤ 0x047) ∨ (0x050 ≤ k ∧ k ≤ 0x05F) ∨ k = 0x801 ∨ k = 0x802)

/-- A register block of n words starting at a lies in g1 to g31 or in q0 to q7 (R295, R303, R343). -/
def blockOk (n : Nat) (a : Spec) : Bool :=
  decide ((1 ≤ a.toNat ∧ a.toNat + n ≤ 32) ∨ (32 ≤ a.toNat ∧ a.toNat + n ≤ 40))

/-- A major opcode to which R58 gives a group. -/
def majorAssigned (m : BitVec 6) : Bool :=
  let k := m.toNat
  decide ((0x01 ≤ k ∧ k ≤ 0x05) ∨ (0x08 ≤ k ∧ k ≤ 0x11) ∨ (0x14 ≤ k ∧ k ≤ 0x1D) ∨ (0x20 ≤ k ∧ k ≤ 0x24) ∨
    k = 0x28 ∨ k = 0x29 ∨ k = 0x2C ∨ k = 0x2D ∨ k = 0x30)

/-- The field rules of single words, beside their specifiers (R61 to R73), and the ranges of the units that the
module's own steps name. The register block of cqpush is checked here, with the reserved specifiers (log entry 46); of the block of
another command only that its first specifier names a register, the rest following the pin check (R81, R305). -/
def Instr.fieldsOk : Instr → Bool
  | .cvt _ _ r w t s => cvtFieldsOk r w t s
  | .cvtb _ _ r w t s => cvtFieldsOk r w t s && cvtbFieldsOk t s
  | .csrr _ n => csrNumberOk n
  | .csrw _ n => csrNumberOk n
  | .csrs _ n => csrNumberOk n
  | .csrc _ n => csrNumberOk n
  | .ldn _ _ _ z _ => decide (z ≠ 3)
  | .ldp d _ _ _ => decide (d.toNat % 2 = 0 ∧ 2 ≤ d.toNat ∧ d.toNat ≤ 30)
  | .stp s _ _ _ => decide (s.toNat % 2 = 0 ∧ s.toNat ≤ 30)
  | .ldbit _ k c _ _ v => decide (k.toNat < 4 ∧ (c = 1 ∨ c = 2) ∧ v ≠ 3)
  | .stbit _ k c _ v => decide (k.toNat < 4 ∧ (c = 1 ∨ c = 2) ∧ v ≠ 3)
  | .ldAcq _ _ _ _ p _ => decide (p ≠ 7)
  | .stRel _ _ _ _ p _ => decide (p ≠ 7)
  | .pref h _ _ _ => decide (h.toNat ≤ 2)
  | .fence s => decide (s ≠ 7)
  | .publ _ _ s => decide (s ≠ 7)
  | .pin e => decide (e.toNat ≤ 4)
  | .unpin e => decide (e.toNat ≤ 4)
  | .cqpush _ a => blockOk 4 a
  | .nblBox _ a => Spec.readable a
  | .nblBin _ a => Spec.readable a
  | .nblPairs _ a => Spec.readable a
  | .pgsSum _ a => Spec.readable a
  | .pgsSel _ a => Spec.readable a
  | .sflTab _ a => Spec.readable a
  | .sflBag _ a => Spec.readable a
  | .wdqGrid _ a => Spec.readable a
  | .wdqAsk _ a => Spec.readable a
  | .enq _ a => Spec.readable a
  | .illegalWord w => !majorAssigned (w.extractLsb' 26 6)
  | .unassignedFnWord w => majorAssigned (w.extractLsb' 26 6)
  | .agnEmit _ _ j => decide (j < 2)
  | .fieldJoin f => decide (f < 24)
  | .fieldFail f => decide (f < 24)
  | .portTrained p => decide (p < 16)
  | .portDown p => decide (p < 16)
  | .pinHandoff e _ => decide (e.toNat ≤ 4)
  | .engineRetire e _ => decide (1 ≤ e.toNat ∧ e.toNat ≤ 4)
  | .ingressPush q _ => decide (q < 16384)
  | .meshLinkFail a b => decide (a < 24 ∧ b < 24 ∧ a ≠ b)
  | .correctedError store _ _ _ => decide (1 ≤ store.toNat ∧ store.toNat ≤ 6)
  | _ => true

/-- A well-formed step: its specifiers name registers it may use (R54, R55) and its fields hold assigned codes. -/
def Instr.wf (i : Instr) : Bool :=
  i.uses.all Spec.readable && i.dests.all Spec.writable && i.fieldsOk

/-- Every constructor that a word decodes to: the scalar instructions, and the two that hold a word that is none (R58, R81). -/
def Instr.isScalar : Instr → Bool
  | .add _ _ _ => true
  | .sub _ _ _ => true
  | .and _ _ _ => true
  | .or _ _ _ => true
  | .xor _ _ _ => true
  | .andn _ _ _ => true
  | .orn _ _ _ => true
  | .shl _ _ _ => true
  | .shr _ _ _ => true
  | .sha _ _ _ => true
  | .rotl _ _ _ => true
  | .min _ _ _ => true
  | .max _ _ _ => true
  | .minn _ _ _ => true
  | .maxn _ _ _ => true
  | .slt _ _ _ => true
  | .sltn _ _ _ => true
  | .seq _ _ _ => true
  | .sne _ _ _ => true
  | .sel _ _ _ => true
  | .mul _ _ _ => true
  | .mulh _ _ _ => true
  | .mulhn _ _ _ => true
  | .div _ _ _ => true
  | .divn _ _ _ => true
  | .rem _ _ _ => true
  | .remn _ _ _ => true
  | .clz _ _ => true
  | .ctz _ _ => true
  | .pop _ _ => true
  | .brev _ _ => true
  | .bswap _ _ => true
  | .bfx _ _ _ => true
  | .bfi _ _ _ => true
  | .add32 _ _ _ => true
  | .sub32 _ _ _ => true
  | .and32 _ _ _ => true
  | .or32 _ _ _ => true
  | .xor32 _ _ _ => true
  | .andn32 _ _ _ => true
  | .orn32 _ _ _ => true
  | .shl32 _ _ _ => true
  | .shr32 _ _ _ => true
  | .sha32 _ _ _ => true
  | .rotl32 _ _ _ => true
  | .min32 _ _ _ => true
  | .max32 _ _ _ => true
  | .minn32 _ _ _ => true
  | .maxn32 _ _ _ => true
  | .slt32 _ _ _ => true
  | .sltn32 _ _ _ => true
  | .seq32 _ _ _ => true
  | .sne32 _ _ _ => true
  | .sel32 _ _ _ => true
  | .mul32 _ _ _ => true
  | .mulh32 _ _ _ => true
  | .mulhn32 _ _ _ => true
  | .div32 _ _ _ => true
  | .divn32 _ _ _ => true
  | .rem32 _ _ _ => true
  | .remn32 _ _ _ => true
  | .clz32 _ _ => true
  | .ctz32 _ _ => true
  | .pop32 _ _ => true
  | .brev32 _ _ => true
  | .bswap32 _ _ => true
  | .bfx32 _ _ _ => true
  | .bfi32 _ _ _ => true
  | .fadd _ _ _ _ => true
  | .fsub _ _ _ _ => true
  | .fmul _ _ _ _ => true
  | .fdiv _ _ _ _ => true
  | .fsqrt _ _ _ => true
  | .fma _ _ _ _ => true
  | .fnma _ _ _ _ => true
  | .fmin _ _ _ _ => true
  | .fmax _ _ _ _ => true
  | .fsgn _ _ _ _ => true
  | .feq _ _ _ _ => true
  | .flt _ _ _ _ => true
  | .fle _ _ _ _ => true
  | .fclass _ _ _ => true
  | .fmv _ _ _ => true
  | .cvt _ _ _ _ _ _ => true
  | .cvtb _ _ _ _ _ _ => true
  | .csrr _ _ => true
  | .csrw _ _ => true
  | .csrs _ _ => true
  | .csrc _ _ => true
  | .addi _ _ _ => true
  | .andi _ _ _ => true
  | .ori _ _ _ => true
  | .xori _ _ _ => true
  | .slti _ _ _ => true
  | .sltni _ _ _ => true
  | .shli _ _ _ => true
  | .shri _ _ _ => true
  | .shai _ _ _ => true
  | .muli _ _ _ => true
  | .lui _ _ => true
  | .addpc _ _ => true
  | .ld _ _ _ _ _ => true
  | .ldp _ _ _ _ => true
  | .ldn _ _ _ _ _ => true
  | .st _ _ _ _ _ => true
  | .stp _ _ _ _ => true
  | .ldbit _ _ _ _ _ _ => true
  | .stbit _ _ _ _ _ => true
  | .ldAcq _ _ _ _ _ _ => true
  | .stRel _ _ _ _ _ _ => true
  | .amoAdd _ _ _ _ _ _ => true
  | .amoAnd _ _ _ _ _ _ => true
  | .amoOr _ _ _ _ _ _ => true
  | .amoXor _ _ _ _ _ _ => true
  | .amoMin _ _ _ _ _ _ => true
  | .amoMax _ _ _ _ _ _ => true
  | .amoMinn _ _ _ _ _ _ => true
  | .amoMaxn _ _ _ _ _ _ => true
  | .amoSwap _ _ _ _ _ _ => true
  | .amoCas _ _ _ _ _ _ => true
  | .pref _ _ _ _ => true
  | .fence _ => true
  | .publ _ _ _ => true
  | .brEq _ _ _ => true
  | .brNe _ _ _ => true
  | .brLt _ _ _ => true
  | .brGe _ _ _ => true
  | .brLtn _ _ _ => true
  | .brGen _ _ _ => true
  | .jmp _ => true
  | .call _ => true
  | .jr _ => true
  | .callr _ _ => true
  | .ret _ => true
  | .callx _ _ _ => true
  | .reply _ => true
  | .loopi _ _ => true
  | .loop _ _ => true
  | .spawn _ _ _ => true
  | .exit _ => true
  | .yield => true
  | .sleep _ => true
  | .wake _ => true
  | .semp _ => true
  | .semv _ => true
  | .barr _ => true
  | .bcast _ _ => true
  | .migr _ => true
  | .pin _ => true
  | .unpin _ => true
  | .waitl _ => true
  | .trap _ => true
  | .eret => true
  | .cqpush _ _ => true
  | .nblBox _ _ => true
  | .nblBin _ _ => true
  | .nblPairs _ _ => true
  | .nblStat _ => true
  | .pgsSum _ _ => true
  | .pgsSel _ _ => true
  | .sflTab _ _ => true
  | .sflBag _ _ => true
  | .wdqGrid _ _ => true
  | .wdqAsk _ _ => true
  | .enq _ _ => true
  | .chput _ _ => true
  | .chget _ _ _ => true
  | .chwin _ _ => true
  | .chsync _ _ => true
  | .slipr _ _ => true
  | .sliprep _ _ => true
  | .pfxFmt _ _ _ _ _ => true
  | .pfxScl _ _ _ _ => true
  | .illegalWord _ => true
  | .unassignedFnWord _ => true
  | _ => false

end Sys2Proof
end

