-- ==== Sys2Proof/Decode.lean ====
section
/-! DEFINITION. The decoder of scalar words, total on every word, and after it the encoder (R52 to R79).

A word of an unassigned major decodes to `illegalWord` (R58); a word of an assigned major that matches no row of its
group decodes to `unassignedFnWord` (R81); both hold the word, so that no word is decoded to a neighbour. -/

namespace Sys2Proof

/-- Bits lo + len - 1 to lo of a word (R5). -/
def fld (w : Word32) (lo len : Nat) : BitVec len := w.extractLsb' lo len

/-- Major 0x01, integer, 64-bit (R59). -/
def decInt64 (w : Word32) : Instr :=
  match (fld w 0 8).toNat with
  | 0x00 => .add (fld w 20 6) (fld w 14 6) (fld w 8 6)
  | 0x01 => .sub (fld w 20 6) (fld w 14 6) (fld w 8 6)
  | 0x02 => .and (fld w 20 6) (fld w 14 6) (fld w 8 6)
  | 0x03 => .or (fld w 20 6) (fld w 14 6) (fld w 8 6)
  | 0x04 => .xor (fld w 20 6) (fld w 14 6) (fld w 8 6)
  | 0x05 => .andn (fld w 20 6) (fld w 14 6) (fld w 8 6)
  | 0x06 => .orn (fld w 20 6) (fld w 14 6) (fld w 8 6)
  | 0x08 => .shl (fld w 20 6) (fld w 14 6) (fld w 8 6)
  | 0x09 => .shr (fld w 20 6) (fld w 14 6) (fld w 8 6)
  | 0x0A => .sha (fld w 20 6) (fld w 14 6) (fld w 8 6)
  | 0x0B => .rotl (fld w 20 6) (fld w 14 6) (fld w 8 6)
  | 0x10 => .min (fld w 20 6) (fld w 14 6) (fld w 8 6)
  | 0x11 => .max (fld w 20 6) (fld w 14 6) (fld w 8 6)
  | 0x12 => .minn (fld w 20 6) (fld w 14 6) (fld w 8 6)
  | 0x13 => .maxn (fld w 20 6) (fld w 14 6) (fld w 8 6)
  | 0x14 => .slt (fld w 20 6) (fld w 14 6) (fld w 8 6)
  | 0x15 => .sltn (fld w 20 6) (fld w 14 6) (fld w 8 6)
  | 0x16 => .seq (fld w 20 6) (fld w 14 6) (fld w 8 6)
  | 0x17 => .sne (fld w 20 6) (fld w 14 6) (fld w 8 6)
  | 0x18 => .sel (fld w 20 6) (fld w 14 6) (fld w 8 6)
  | 0x20 => .mul (fld w 20 6) (fld w 14 6) (fld w 8 6)
  | 0x21 => .mulh (fld w 20 6) (fld w 14 6) (fld w 8 6)
  | 0x22 => .mulhn (fld w 20 6) (fld w 14 6) (fld w 8 6)
  | 0x24 => .div (fld w 20 6) (fld w 14 6) (fld w 8 6)
  | 0x25 => .divn (fld w 20 6) (fld w 14 6) (fld w 8 6)
  | 0x26 => .rem (fld w 20 6) (fld w 14 6) (fld w 8 6)
  | 0x27 => .remn (fld w 20 6) (fld w 14 6) (fld w 8 6)
  | 0x30 => if fld w 8 6 = 0x0#6 then .clz (fld w 20 6) (fld w 14 6) else .unassignedFnWord w
  | 0x31 => if fld w 8 6 = 0x0#6 then .ctz (fld w 20 6) (fld w 14 6) else .unassignedFnWord w
  | 0x32 => if fld w 8 6 = 0x0#6 then .pop (fld w 20 6) (fld w 14 6) else .unassignedFnWord w
  | 0x33 => if fld w 8 6 = 0x0#6 then .brev (fld w 20 6) (fld w 14 6) else .unassignedFnWord w
  | 0x34 => if fld w 8 6 = 0x0#6 then .bswap (fld w 20 6) (fld w 14 6) else .unassignedFnWord w
  | 0x40 => .bfx (fld w 20 6) (fld w 14 6) (fld w 8 6)
  | 0x41 => .bfi (fld w 20 6) (fld w 14 6) (fld w 8 6)
  | _ => .unassignedFnWord w

/-- Major 0x02, integer, 32-bit (R59). -/
def decInt32 (w : Word32) : Instr :=
  match (fld w 0 8).toNat with
  | 0x00 => .add32 (fld w 20 6) (fld w 14 6) (fld w 8 6)
  | 0x01 => .sub32 (fld w 20 6) (fld w 14 6) (fld w 8 6)
  | 0x02 => .and32 (fld w 20 6) (fld w 14 6) (fld w 8 6)
  | 0x03 => .or32 (fld w 20 6) (fld w 14 6) (fld w 8 6)
  | 0x04 => .xor32 (fld w 20 6) (fld w 14 6) (fld w 8 6)
  | 0x05 => .andn32 (fld w 20 6) (fld w 14 6) (fld w 8 6)
  | 0x06 => .orn32 (fld w 20 6) (fld w 14 6) (fld w 8 6)
  | 0x08 => .shl32 (fld w 20 6) (fld w 14 6) (fld w 8 6)
  | 0x09 => .shr32 (fld w 20 6) (fld w 14 6) (fld w 8 6)
  | 0x0A => .sha32 (fld w 20 6) (fld w 14 6) (fld w 8 6)
  | 0x0B => .rotl32 (fld w 20 6) (fld w 14 6) (fld w 8 6)
  | 0x10 => .min32 (fld w 20 6) (fld w 14 6) (fld w 8 6)
  | 0x11 => .max32 (fld w 20 6) (fld w 14 6) (fld w 8 6)
  | 0x12 => .minn32 (fld w 20 6) (fld w 14 6) (fld w 8 6)
  | 0x13 => .maxn32 (fld w 20 6) (fld w 14 6) (fld w 8 6)
  | 0x14 => .slt32 (fld w 20 6) (fld w 14 6) (fld w 8 6)
  | 0x15 => .sltn32 (fld w 20 6) (fld w 14 6) (fld w 8 6)
  | 0x16 => .seq32 (fld w 20 6) (fld w 14 6) (fld w 8 6)
  | 0x17 => .sne32 (fld w 20 6) (fld w 14 6) (fld w 8 6)
  | 0x18 => .sel32 (fld w 20 6) (fld w 14 6) (fld w 8 6)
  | 0x20 => .mul32 (fld w 20 6) (fld w 14 6) (fld w 8 6)
  | 0x21 => .mulh32 (fld w 20 6) (fld w 14 6) (fld w 8 6)
  | 0x22 => .mulhn32 (fld w 20 6) (fld w 14 6) (fld w 8 6)
  | 0x24 => .div32 (fld w 20 6) (fld w 14 6) (fld w 8 6)
  | 0x25 => .divn32 (fld w 20 6) (fld w 14 6) (fld w 8 6)
  | 0x26 => .rem32 (fld w 20 6) (fld w 14 6) (fld w 8 6)
  | 0x27 => .remn32 (fld w 20 6) (fld w 14 6) (fld w 8 6)
  | 0x30 => if fld w 8 6 = 0x0#6 then .clz32 (fld w 20 6) (fld w 14 6) else .unassignedFnWord w
  | 0x31 => if fld w 8 6 = 0x0#6 then .ctz32 (fld w 20 6) (fld w 14 6) else .unassignedFnWord w
  | 0x32 => if fld w 8 6 = 0x0#6 then .pop32 (fld w 20 6) (fld w 14 6) else .unassignedFnWord w
  | 0x33 => if fld w 8 6 = 0x0#6 then .brev32 (fld w 20 6) (fld w 14 6) else .unassignedFnWord w
  | 0x34 => if fld w 8 6 = 0x0#6 then .bswap32 (fld w 20 6) (fld w 14 6) else .unassignedFnWord w
  | 0x40 => .bfx32 (fld w 20 6) (fld w 14 6) (fld w 8 6)
  | 0x41 => .bfi32 (fld w 20 6) (fld w 14 6) (fld w 8 6)
  | _ => .unassignedFnWord w

/-- Major 0x03, float (R60). -/
def decFloat (w : Word32) : Instr :=
  match (fld w 0 6).toNat with
  | 0x00 => .fadd (fld w 20 6) (fld w 14 6) (fld w 8 6) (fld w 6 2)
  | 0x01 => .fsub (fld w 20 6) (fld w 14 6) (fld w 8 6) (fld w 6 2)
  | 0x02 => .fmul (fld w 20 6) (fld w 14 6) (fld w 8 6) (fld w 6 2)
  | 0x03 => .fdiv (fld w 20 6) (fld w 14 6) (fld w 8 6) (fld w 6 2)
  | 0x04 => if fld w 8 6 = 0x0#6 then .fsqrt (fld w 20 6) (fld w 14 6) (fld w 6 2) else .unassignedFnWord w
  | 0x05 => .fma (fld w 20 6) (fld w 14 6) (fld w 8 6) (fld w 6 2)
  | 0x06 => .fnma (fld w 20 6) (fld w 14 6) (fld w 8 6) (fld w 6 2)
  | 0x08 => .fmin (fld w 20 6) (fld w 14 6) (fld w 8 6) (fld w 6 2)
  | 0x09 => .fmax (fld w 20 6) (fld w 14 6) (fld w 8 6) (fld w 6 2)
  | 0x0A => .fsgn (fld w 20 6) (fld w 14 6) (fld w 8 6) (fld w 6 2)
  | 0x10 => .feq (fld w 20 6) (fld w 14 6) (fld w 8 6) (fld w 6 2)
  | 0x11 => .flt (fld w 20 6) (fld w 14 6) (fld w 8 6) (fld w 6 2)
  | 0x12 => .fle (fld w 20 6) (fld w 14 6) (fld w 8 6) (fld w 6 2)
  | 0x18 => if fld w 8 6 = 0x0#6 then .fclass (fld w 20 6) (fld w 14 6) (fld w 6 2) else .unassignedFnWord w
  | 0x19 => if fld w 8 6 = 0x0#6 then .fmv (fld w 20 6) (fld w 14 6) (fld w 6 2) else .unassignedFnWord w
  | _ => .unassignedFnWord w

/-- Major 0x04, conversion (R61). -/
def decConv (w : Word32) : Instr :=
  match (fld w 13 1).toNat with
  | 0x00 => .cvt (fld w 20 6) (fld w 14 6) (fld w 10 3) (fld w 8 2) (fld w 4 4) (fld w 0 4)
  | 0x01 => .cvtb (fld w 20 6) (fld w 14 6) (fld w 10 3) (fld w 8 2) (fld w 4 4) (fld w 0 4)
  | _ => .unassignedFnWord w

/-- Major 0x05, control registers (R62). -/
def decCsr (w : Word32) : Instr :=
  match (fld w 12 2).toNat with
  | 0x00 => if fld w 14 6 = 0x0#6 then .csrr (fld w 20 6) (fld w 0 12) else .unassignedFnWord w
  | 0x01 => if fld w 20 6 = 0x0#6 then .csrw (fld w 14 6) (fld w 0 12) else .unassignedFnWord w
  | 0x02 => if fld w 20 6 = 0x0#6 then .csrs (fld w 14 6) (fld w 0 12) else .unassignedFnWord w
  | 0x03 => if fld w 20 6 = 0x0#6 then .csrc (fld w 14 6) (fld w 0 12) else .unassignedFnWord w
  | _ => .unassignedFnWord w

/-- Major 0x0E, immediate shift (R63). -/
def decShift (w : Word32) : Instr :=
  match (fld w 12 2).toNat with
  | 0x00 => if fld w 6 6 = 0x0#6 then .shli (fld w 20 6) (fld w 14 6) (fld w 0 6) else .unassignedFnWord w
  | 0x01 => if fld w 6 6 = 0x0#6 then .shri (fld w 20 6) (fld w 14 6) (fld w 0 6) else .unassignedFnWord w
  | 0x02 => if fld w 6 6 = 0x0#6 then .shai (fld w 20 6) (fld w 14 6) (fld w 0 6) else .unassignedFnWord w
  | _ => .unassignedFnWord w

/-- Major 0x14, sign-extending load (R64). -/
def decLd (w : Word32) : Instr :=
  match (fld w 11 1).toNat with
  | 0x00 => .ld (fld w 20 6) (fld w 14 6) (fld w 12 2) (fld w 9 2) (fld w 0 9)
  | 0x01 => if fld w 9 2 = 0x0#2 then .ldp (fld w 20 6) (fld w 14 6) (fld w 12 2) (fld w 0 9) else .unassignedFnWord w
  | _ => .unassignedFnWord w

/-- Major 0x15, zero-extending load (R64). -/
def decLdn (w : Word32) : Instr :=
  match (fld w 11 1).toNat with
  | 0x00 => .ldn (fld w 20 6) (fld w 14 6) (fld w 12 2) (fld w 9 2) (fld w 0 9)
  | _ => .unassignedFnWord w

/-- Major 0x16, store (R64). -/
def decSt (w : Word32) : Instr :=
  match (fld w 11 1).toNat with
  | 0x00 => .st (fld w 20 6) (fld w 14 6) (fld w 12 2) (fld w 9 2) (fld w 0 9)
  | 0x01 => if fld w 9 2 = 0x0#2 then .stp (fld w 20 6) (fld w 14 6) (fld w 12 2) (fld w 0 9) else .unassignedFnWord w
  | _ => .unassignedFnWord w

/-- Major 0x17, bit load (R65). -/
def decLdbit (w : Word32) : Instr :=
  match (fld w 0 1).toNat with
  | 0x00 => if fld w 10 2 = 0x0#2 then .ldbit (fld w 20 6) (fld w 14 6) (fld w 12 2) (fld w 9 1) (fld w 3 6) (fld w 1 2) else .unassignedFnWord w
  | _ => .unassignedFnWord w

/-- Major 0x18, bit store (R65). -/
def decStbit (w : Word32) : Instr :=
  match (fld w 0 1).toNat with
  | 0x00 => if fld w 9 3 = 0x0#3 then .stbit (fld w 20 6) (fld w 14 6) (fld w 12 2) (fld w 3 6) (fld w 1 2) else .unassignedFnWord w
  | _ => .unassignedFnWord w

/-- Major 0x19, acquire load (R64). -/
def decLdAcq (w : Word32) : Instr :=
  match (fld w 11 1).toNat with
  | 0x00 => .ldAcq (fld w 20 6) (fld w 14 6) (fld w 12 2) (fld w 9 2) (fld w 6 3) (fld w 0 6)
  | _ => .unassignedFnWord w

/-- Major 0x1A, release store (R64). -/
def decStRel (w : Word32) : Instr :=
  match (fld w 11 1).toNat with
  | 0x00 => .stRel (fld w 20 6) (fld w 14 6) (fld w 12 2) (fld w 9 2) (fld w 6 3) (fld w 0 6)
  | _ => .unassignedFnWord w

/-- Major 0x1B, atomic (R66). -/
def decAmo (w : Word32) : Instr :=
  match (fld w 4 4).toNat with
  | 0x00 => .amoAdd (fld w 20 6) (fld w 14 6) (fld w 8 6) (fld w 3 1) (fld w 1 2) (fld w 0 1)
  | 0x01 => .amoAnd (fld w 20 6) (fld w 14 6) (fld w 8 6) (fld w 3 1) (fld w 1 2) (fld w 0 1)
  | 0x02 => .amoOr (fld w 20 6) (fld w 14 6) (fld w 8 6) (fld w 3 1) (fld w 1 2) (fld w 0 1)
  | 0x03 => .amoXor (fld w 20 6) (fld w 14 6) (fld w 8 6) (fld w 3 1) (fld w 1 2) (fld w 0 1)
  | 0x04 => .amoMin (fld w 20 6) (fld w 14 6) (fld w 8 6) (fld w 3 1) (fld w 1 2) (fld w 0 1)
  | 0x05 => .amoMax (fld w 20 6) (fld w 14 6) (fld w 8 6) (fld w 3 1) (fld w 1 2) (fld w 0 1)
  | 0x06 => .amoMinn (fld w 20 6) (fld w 14 6) (fld w 8 6) (fld w 3 1) (fld w 1 2) (fld w 0 1)
  | 0x07 => .amoMaxn (fld w 20 6) (fld w 14 6) (fld w 8 6) (fld w 3 1) (fld w 1 2) (fld w 0 1)
  | 0x08 => .amoSwap (fld w 20 6) (fld w 14 6) (fld w 8 6) (fld w 3 1) (fld w 1 2) (fld w 0 1)
  | 0x09 => .amoCas (fld w 20 6) (fld w 14 6) (fld w 8 6) (fld w 3 1) (fld w 1 2) (fld w 0 1)
  | _ => .unassignedFnWord w

/-- Major 0x1C, prefetch (R64). -/
def decPref (w : Word32) : Instr :=
  match (fld w 9 3).toNat with
  | 0x00 => .pref (fld w 20 6) (fld w 14 6) (fld w 12 2) (fld w 0 9)
  | _ => .unassignedFnWord w

/-- Major 0x1D, ordering (R67). -/
def decOrder (w : Word32) : Instr :=
  match (fld w 0 3).toNat with
  | 0x00 => if fld w 8 18 = 0x0#18 ∧ fld w 3 2 = 0x0#2 then .fence (fld w 5 3) else .unassignedFnWord w
  | 0x01 => if fld w 8 6 = 0x0#6 ∧ fld w 3 2 = 0x0#2 then .publ (fld w 20 6) (fld w 14 6) (fld w 5 3) else .unassignedFnWord w
  | _ => .unassignedFnWord w

/-- Major 0x20, branch (R68). -/
def decBr (w : Word32) : Instr :=
  match (fld w 22 4).toNat with
  | 0x00 => .brEq (fld w 16 6) (fld w 10 6) (fld w 0 10)
  | 0x01 => .brNe (fld w 16 6) (fld w 10 6) (fld w 0 10)
  | 0x02 => .brLt (fld w 16 6) (fld w 10 6) (fld w 0 10)
  | 0x03 => .brGe (fld w 16 6) (fld w 10 6) (fld w 0 10)
  | 0x04 => .brLtn (fld w 16 6) (fld w 10 6) (fld w 0 10)
  | 0x05 => .brGen (fld w 16 6) (fld w 10 6) (fld w 0 10)
  | _ => .unassignedFnWord w

/-- Major 0x23, indirect (R69). -/
def decIndirect (w : Word32) : Instr :=
  match (fld w 0 8).toNat with
  | 0x00 => if fld w 20 6 = 0x0#6 ∧ fld w 8 6 = 0x0#6 then .jr (fld w 14 6) else .unassignedFnWord w
  | 0x01 => if fld w 8 6 = 0x0#6 then .callr (fld w 20 6) (fld w 14 6) else .unassignedFnWord w
  | 0x02 => if fld w 20 6 = 0x0#6 ∧ fld w 8 6 = 0x0#6 then .ret (fld w 14 6) else .unassignedFnWord w
  | 0x03 => .callx (fld w 20 6) (fld w 14 6) (fld w 8 6)
  | 0x04 => if fld w 20 6 = 0x0#6 ∧ fld w 8 6 = 0x0#6 then .reply (fld w 14 6) else .unassignedFnWord w
  | _ => .unassignedFnWord w

/-- Major 0x24, hardware loop (R69). -/
def decLoop (w : Word32) : Instr :=
  match (fld w 25 1).toNat with
  | 0x01 => .loopi (fld w 13 12) (fld w 0 13)
  | 0x00 => if fld w 13 6 = 0x0#6 then .loop (fld w 19 6) (fld w 0 13) else .unassignedFnWord w
  | _ => .unassignedFnWord w

/-- Major 0x28, thread ops (R70). -/
def decThread (w : Word32) : Instr :=
  match (fld w 0 8).toNat with
  | 0x00 => .spawn (fld w 20 6) (fld w 14 6) (fld w 8 6)
  | 0x01 => if fld w 20 6 = 0x0#6 ∧ fld w 8 6 = 0x0#6 then .exit (fld w 14 6) else .unassignedFnWord w
  | 0x02 => if fld w 8 18 = 0x0#18 then .yield else .unassignedFnWord w
  | 0x03 => if fld w 20 6 = 0x0#6 ∧ fld w 8 6 = 0x0#6 then .sleep (fld w 14 6) else .unassignedFnWord w
  | 0x04 => if fld w 20 6 = 0x0#6 ∧ fld w 8 6 = 0x0#6 then .wake (fld w 14 6) else .unassignedFnWord w
  | 0x08 => if fld w 12 14 = 0x0#14 then .semp (fld w 8 4) else .unassignedFnWord w
  | 0x09 => if fld w 12 14 = 0x0#14 then .semv (fld w 8 4) else .unassignedFnWord w
  | 0x0C => if fld w 20 6 = 0x0#6 ∧ fld w 8 6 = 0x0#6 then .barr (fld w 14 6) else .unassignedFnWord w
  | 0x0D => if fld w 8 6 = 0x0#6 then .bcast (fld w 20 6) (fld w 14 6) else .unassignedFnWord w
  | 0x10 => if fld w 20 6 = 0x0#6 ∧ fld w 8 6 = 0x0#6 then .migr (fld w 14 6) else .unassignedFnWord w
  | 0x14 => if fld w 11 15 = 0x0#15 then .pin (fld w 8 3) else .unassignedFnWord w
  | 0x15 => if fld w 11 15 = 0x0#15 then .unpin (fld w 8 3) else .unassignedFnWord w
  | 0x18 => if fld w 20 6 = 0x0#6 ∧ fld w 8 6 = 0x0#6 then .waitl (fld w 14 6) else .unassignedFnWord w
  | _ => .unassignedFnWord w

/-- Major 0x29, system (R71). -/
def decSystem (w : Word32) : Instr :=
  match (fld w 0 8).toNat with
  | 0x00 => if fld w 14 12 = 0x0#12 then .trap (fld w 8 6) else .unassignedFnWord w
  | 0x01 => if fld w 8 18 = 0x0#18 then .eret else .unassignedFnWord w
  | _ => .unassignedFnWord w

/-- Major 0x2C, engine commands (R72). -/
def decEngine (w : Word32) : Instr :=
  match (fld w 18 8).toNat with
  | 0x00 => if fld w 0 6 = 0x0#6 then .cqpush (fld w 12 6) (fld w 6 6) else .unassignedFnWord w
  | 0x10 => if fld w 0 6 = 0x0#6 then .nblBox (fld w 12 6) (fld w 6 6) else .unassignedFnWord w
  | 0x11 => if fld w 0 6 = 0x0#6 then .nblBin (fld w 12 6) (fld w 6 6) else .unassignedFnWord w
  | 0x12 => if fld w 0 6 = 0x0#6 then .nblPairs (fld w 12 6) (fld w 6 6) else .unassignedFnWord w
  | 0x13 => if fld w 0 12 = 0x0#12 then .nblStat (fld w 12 6) else .unassignedFnWord w
  | 0x20 => if fld w 0 6 = 0x0#6 then .pgsSum (fld w 12 6) (fld w 6 6) else .unassignedFnWord w
  | 0x21 => if fld w 0 6 = 0x0#6 then .pgsSel (fld w 12 6) (fld w 6 6) else .unassignedFnWord w
  | 0x30 => if fld w 0 6 = 0x0#6 then .sflTab (fld w 12 6) (fld w 6 6) else .unassignedFnWord w
  | 0x31 => if fld w 0 6 = 0x0#6 then .sflBag (fld w 12 6) (fld w 6 6) else .unassignedFnWord w
  | 0x40 => if fld w 0 6 = 0x0#6 then .wdqGrid (fld w 12 6) (fld w 6 6) else .unassignedFnWord w
  | 0x41 => if fld w 0 6 = 0x0#6 then .wdqAsk (fld w 12 6) (fld w 6 6) else .unassignedFnWord w
  | 0x50 => if fld w 0 6 = 0x0#6 then .enq (fld w 12 6) (fld w 6 6) else .unassignedFnWord w
  | _ => .unassignedFnWord w

/-- Major 0x2D, channel and slip ops (R73). -/
def decChannel (w : Word32) : Instr :=
  match (fld w 0 8).toNat with
  | 0x00 => if fld w 20 6 = 0x0#6 then .chput (fld w 14 6) (fld w 8 6) else .unassignedFnWord w
  | 0x01 => .chget (fld w 20 6) (fld w 14 6) (fld w 8 6)
  | 0x02 => if fld w 8 6 = 0x0#6 then .chwin (fld w 20 6) (fld w 14 6) else .unassignedFnWord w
  | 0x03 => if fld w 8 6 = 0x0#6 then .chsync (fld w 20 6) (fld w 14 6) else .unassignedFnWord w
  | 0x08 => if fld w 8 6 = 0x0#6 then .slipr (fld w 20 6) (fld w 14 6) else .unassignedFnWord w
  | 0x09 => if fld w 20 6 = 0x0#6 then .sliprep (fld w 14 6) (fld w 8 6) else .unassignedFnWord w
  | _ => .unassignedFnWord w

/-- Major 0x30, prefixes (R74 to R76). -/
def decPfx (w : Word32) : Instr :=
  match (fld w 24 2).toNat with
  | 0x00 => if fld w 0 3 = 0x0#3 then .pfxFmt (fld w 20 4) (fld w 16 4) (fld w 12 4) (fld w 9 3) (fld w 3 6) else .unassignedFnWord w
  | 0x01 => if fld w 0 7 = 0x0#7 then .pfxScl (fld w 22 2) (fld w 16 6) (fld w 15 1) (fld w 7 8) else .unassignedFnWord w
  | _ => .unassignedFnWord w

/-- The instruction a word holds, by its major opcode (R58). -/
def decode (w : Word32) : Instr :=
  match (fld w 26 6).toNat with
  | 0x01 => decInt64 w
  | 0x02 => decInt32 w
  | 0x03 => decFloat w
  | 0x04 => decConv w
  | 0x05 => decCsr w
  | 0x08 => .addi (fld w 20 6) (fld w 14 6) (fld w 0 14)
  | 0x09 => .andi (fld w 20 6) (fld w 14 6) (fld w 0 14)
  | 0x0A => .ori (fld w 20 6) (fld w 14 6) (fld w 0 14)
  | 0x0B => .xori (fld w 20 6) (fld w 14 6) (fld w 0 14)
  | 0x0C => .slti (fld w 20 6) (fld w 14 6) (fld w 0 14)
  | 0x0D => .sltni (fld w 20 6) (fld w 14 6) (fld w 0 14)
  | 0x0E => decShift w
  | 0x0F => .muli (fld w 20 6) (fld w 14 6) (fld w 0 14)
  | 0x10 => .lui (fld w 20 6) (fld w 0 20)
  | 0x11 => .addpc (fld w 20 6) (fld w 0 20)
  | 0x14 => decLd w
  | 0x15 => decLdn w
  | 0x16 => decSt w
  | 0x17 => decLdbit w
  | 0x18 => decStbit w
  | 0x19 => decLdAcq w
  | 0x1A => decStRel w
  | 0x1B => decAmo w
  | 0x1C => decPref w
  | 0x1D => decOrder w
  | 0x20 => decBr w
  | 0x21 => .jmp (fld w 0 26)
  | 0x22 => .call (fld w 0 26)
  | 0x23 => decIndirect w
  | 0x24 => decLoop w
  | 0x28 => decThread w
  | 0x29 => decSystem w
  | 0x2C => decEngine w
  | 0x2D => decChannel w
  | 0x30 => decPfx w
  | _ => .illegalWord w

/-- A number with one more field at its low end. -/
def pk {n : Nat} (hi : Nat) (x : BitVec n) : Nat := hi * 2 ^ n + x.toNat

/-- The word of a scalar instruction, field by field from its major down, as R56 to R76 lay it out. The two constructors
that hold a word that is no instruction give that word back; the module's own steps have no word and give 0. -/
def encode : Instr → Word32
  | .add d a b => .ofNat 32 (pk (pk (pk (pk 0x01 d) a) b) 0x0#8)
  | .sub d a b => .ofNat 32 (pk (pk (pk (pk 0x01 d) a) b) 0x1#8)
  | .and d a b => .ofNat 32 (pk (pk (pk (pk 0x01 d) a) b) 0x2#8)
  | .or d a b => .ofNat 32 (pk (pk (pk (pk 0x01 d) a) b) 0x3#8)
  | .xor d a b => .ofNat 32 (pk (pk (pk (pk 0x01 d) a) b) 0x4#8)
  | .andn d a b => .ofNat 32 (pk (pk (pk (pk 0x01 d) a) b) 0x5#8)
  | .orn d a b => .ofNat 32 (pk (pk (pk (pk 0x01 d) a) b) 0x6#8)
  | .shl d a b => .ofNat 32 (pk (pk (pk (pk 0x01 d) a) b) 0x8#8)
  | .shr d a b => .ofNat 32 (pk (pk (pk (pk 0x01 d) a) b) 0x9#8)
  | .sha d a b => .ofNat 32 (pk (pk (pk (pk 0x01 d) a) b) 0xA#8)
  | .rotl d a b => .ofNat 32 (pk (pk (pk (pk 0x01 d) a) b) 0xB#8)
  | .min d a b => .ofNat 32 (pk (pk (pk (pk 0x01 d) a) b) 0x10#8)
  | .max d a b => .ofNat 32 (pk (pk (pk (pk 0x01 d) a) b) 0x11#8)
  | .minn d a b => .ofNat 32 (pk (pk (pk (pk 0x01 d) a) b) 0x12#8)
  | .maxn d a b => .ofNat 32 (pk (pk (pk (pk 0x01 d) a) b) 0x13#8)
  | .slt d a b => .ofNat 32 (pk (pk (pk (pk 0x01 d) a) b) 0x14#8)
  | .sltn d a b => .ofNat 32 (pk (pk (pk (pk 0x01 d) a) b) 0x15#8)
  | .seq d a b => .ofNat 32 (pk (pk (pk (pk 0x01 d) a) b) 0x16#8)
  | .sne d a b => .ofNat 32 (pk (pk (pk (pk 0x01 d) a) b) 0x17#8)
  | .sel d a b => .ofNat 32 (pk (pk (pk (pk 0x01 d) a) b) 0x18#8)
  | .mul d a b => .ofNat 32 (pk (pk (pk (pk 0x01 d) a) b) 0x20#8)
  | .mulh d a b => .ofNat 32 (pk (pk (pk (pk 0x01 d) a) b) 0x21#8)
  | .mulhn d a b => .ofNat 32 (pk (pk (pk (pk 0x01 d) a) b) 0x22#8)
  | .div d a b => .ofNat 32 (pk (pk (pk (pk 0x01 d) a) b) 0x24#8)
  | .divn d a b => .ofNat 32 (pk (pk (pk (pk 0x01 d) a) b) 0x25#8)
  | .rem d a b => .ofNat 32 (pk (pk (pk (pk 0x01 d) a) b) 0x26#8)
  | .remn d a b => .ofNat 32 (pk (pk (pk (pk 0x01 d) a) b) 0x27#8)
  | .clz d a => .ofNat 32 (pk (pk (pk (pk 0x01 d) a) 0x0#6) 0x30#8)
  | .ctz d a => .ofNat 32 (pk (pk (pk (pk 0x01 d) a) 0x0#6) 0x31#8)
  | .pop d a => .ofNat 32 (pk (pk (pk (pk 0x01 d) a) 0x0#6) 0x32#8)
  | .brev d a => .ofNat 32 (pk (pk (pk (pk 0x01 d) a) 0x0#6) 0x33#8)
  | .bswap d a => .ofNat 32 (pk (pk (pk (pk 0x01 d) a) 0x0#6) 0x34#8)
  | .bfx d a b => .ofNat 32 (pk (pk (pk (pk 0x01 d) a) b) 0x40#8)
  | .bfi d a b => .ofNat 32 (pk (pk (pk (pk 0x01 d) a) b) 0x41#8)
  | .add32 d a b => .ofNat 32 (pk (pk (pk (pk 0x02 d) a) b) 0x0#8)
  | .sub32 d a b => .ofNat 32 (pk (pk (pk (pk 0x02 d) a) b) 0x1#8)
  | .and32 d a b => .ofNat 32 (pk (pk (pk (pk 0x02 d) a) b) 0x2#8)
  | .or32 d a b => .ofNat 32 (pk (pk (pk (pk 0x02 d) a) b) 0x3#8)
  | .xor32 d a b => .ofNat 32 (pk (pk (pk (pk 0x02 d) a) b) 0x4#8)
  | .andn32 d a b => .ofNat 32 (pk (pk (pk (pk 0x02 d) a) b) 0x5#8)
  | .orn32 d a b => .ofNat 32 (pk (pk (pk (pk 0x02 d) a) b) 0x6#8)
  | .shl32 d a b => .ofNat 32 (pk (pk (pk (pk 0x02 d) a) b) 0x8#8)
  | .shr32 d a b => .ofNat 32 (pk (pk (pk (pk 0x02 d) a) b) 0x9#8)
  | .sha32 d a b => .ofNat 32 (pk (pk (pk (pk 0x02 d) a) b) 0xA#8)
  | .rotl32 d a b => .ofNat 32 (pk (pk (pk (pk 0x02 d) a) b) 0xB#8)
  | .min32 d a b => .ofNat 32 (pk (pk (pk (pk 0x02 d) a) b) 0x10#8)
  | .max32 d a b => .ofNat 32 (pk (pk (pk (pk 0x02 d) a) b) 0x11#8)
  | .minn32 d a b => .ofNat 32 (pk (pk (pk (pk 0x02 d) a) b) 0x12#8)
  | .maxn32 d a b => .ofNat 32 (pk (pk (pk (pk 0x02 d) a) b) 0x13#8)
  | .slt32 d a b => .ofNat 32 (pk (pk (pk (pk 0x02 d) a) b) 0x14#8)
  | .sltn32 d a b => .ofNat 32 (pk (pk (pk (pk 0x02 d) a) b) 0x15#8)
  | .seq32 d a b => .ofNat 32 (pk (pk (pk (pk 0x02 d) a) b) 0x16#8)
  | .sne32 d a b => .ofNat 32 (pk (pk (pk (pk 0x02 d) a) b) 0x17#8)
  | .sel32 d a b => .ofNat 32 (pk (pk (pk (pk 0x02 d) a) b) 0x18#8)
  | .mul32 d a b => .ofNat 32 (pk (pk (pk (pk 0x02 d) a) b) 0x20#8)
  | .mulh32 d a b => .ofNat 32 (pk (pk (pk (pk 0x02 d) a) b) 0x21#8)
  | .mulhn32 d a b => .ofNat 32 (pk (pk (pk (pk 0x02 d) a) b) 0x22#8)
  | .div32 d a b => .ofNat 32 (pk (pk (pk (pk 0x02 d) a) b) 0x24#8)
  | .divn32 d a b => .ofNat 32 (pk (pk (pk (pk 0x02 d) a) b) 0x25#8)
  | .rem32 d a b => .ofNat 32 (pk (pk (pk (pk 0x02 d) a) b) 0x26#8)
  | .remn32 d a b => .ofNat 32 (pk (pk (pk (pk 0x02 d) a) b) 0x27#8)
  | .clz32 d a => .ofNat 32 (pk (pk (pk (pk 0x02 d) a) 0x0#6) 0x30#8)
  | .ctz32 d a => .ofNat 32 (pk (pk (pk (pk 0x02 d) a) 0x0#6) 0x31#8)
  | .pop32 d a => .ofNat 32 (pk (pk (pk (pk 0x02 d) a) 0x0#6) 0x32#8)
  | .brev32 d a => .ofNat 32 (pk (pk (pk (pk 0x02 d) a) 0x0#6) 0x33#8)
  | .bswap32 d a => .ofNat 32 (pk (pk (pk (pk 0x02 d) a) 0x0#6) 0x34#8)
  | .bfx32 d a b => .ofNat 32 (pk (pk (pk (pk 0x02 d) a) b) 0x40#8)
  | .bfi32 d a b => .ofNat 32 (pk (pk (pk (pk 0x02 d) a) b) 0x41#8)
  | .fadd d a b f => .ofNat 32 (pk (pk (pk (pk (pk 0x03 d) a) b) f) 0x0#6)
  | .fsub d a b f => .ofNat 32 (pk (pk (pk (pk (pk 0x03 d) a) b) f) 0x1#6)
  | .fmul d a b f => .ofNat 32 (pk (pk (pk (pk (pk 0x03 d) a) b) f) 0x2#6)
  | .fdiv d a b f => .ofNat 32 (pk (pk (pk (pk (pk 0x03 d) a) b) f) 0x3#6)
  | .fsqrt d a f => .ofNat 32 (pk (pk (pk (pk (pk 0x03 d) a) 0x0#6) f) 0x4#6)
  | .fma d a b f => .ofNat 32 (pk (pk (pk (pk (pk 0x03 d) a) b) f) 0x5#6)
  | .fnma d a b f => .ofNat 32 (pk (pk (pk (pk (pk 0x03 d) a) b) f) 0x6#6)
  | .fmin d a b f => .ofNat 32 (pk (pk (pk (pk (pk 0x03 d) a) b) f) 0x8#6)
  | .fmax d a b f => .ofNat 32 (pk (pk (pk (pk (pk 0x03 d) a) b) f) 0x9#6)
  | .fsgn d a b f => .ofNat 32 (pk (pk (pk (pk (pk 0x03 d) a) b) f) 0xA#6)
  | .feq d a b f => .ofNat 32 (pk (pk (pk (pk (pk 0x03 d) a) b) f) 0x10#6)
  | .flt d a b f => .ofNat 32 (pk (pk (pk (pk (pk 0x03 d) a) b) f) 0x11#6)
  | .fle d a b f => .ofNat 32 (pk (pk (pk (pk (pk 0x03 d) a) b) f) 0x12#6)
  | .fclass d a f => .ofNat 32 (pk (pk (pk (pk (pk 0x03 d) a) 0x0#6) f) 0x18#6)
  | .fmv d a f => .ofNat 32 (pk (pk (pk (pk (pk 0x03 d) a) 0x0#6) f) 0x19#6)
  | .cvt d a r w t s => .ofNat 32 (pk (pk (pk (pk (pk (pk (pk 0x04 d) a) 0x0#1) r) w) t) s)
  | .cvtb d a r w t s => .ofNat 32 (pk (pk (pk (pk (pk (pk (pk 0x04 d) a) 0x1#1) r) w) t) s)
  | .csrr d n => .ofNat 32 (pk (pk (pk (pk 0x05 d) 0x0#6) 0x0#2) n)
  | .csrw a n => .ofNat 32 (pk (pk (pk (pk 0x05 0x0#6) a) 0x1#2) n)
  | .csrs a n => .ofNat 32 (pk (pk (pk (pk 0x05 0x0#6) a) 0x2#2) n)
  | .csrc a n => .ofNat 32 (pk (pk (pk (pk 0x05 0x0#6) a) 0x3#2) n)
  | .addi d a i => .ofNat 32 (pk (pk (pk 0x08 d) a) i)
  | .andi d a i => .ofNat 32 (pk (pk (pk 0x09 d) a) i)
  | .ori d a i => .ofNat 32 (pk (pk (pk 0x0A d) a) i)
  | .xori d a i => .ofNat 32 (pk (pk (pk 0x0B d) a) i)
  | .slti d a i => .ofNat 32 (pk (pk (pk 0x0C d) a) i)
  | .sltni d a i => .ofNat 32 (pk (pk (pk 0x0D d) a) i)
  | .shli d a n => .ofNat 32 (pk (pk (pk (pk (pk 0x0E d) a) 0x0#2) 0x0#6) n)
  | .shri d a n => .ofNat 32 (pk (pk (pk (pk (pk 0x0E d) a) 0x1#2) 0x0#6) n)
  | .shai d a n => .ofNat 32 (pk (pk (pk (pk (pk 0x0E d) a) 0x2#2) 0x0#6) n)
  | .muli d a i => .ofNat 32 (pk (pk (pk 0x0F d) a) i)
  | .lui d i => .ofNat 32 (pk (pk 0x10 d) i)
  | .addpc d i => .ofNat 32 (pk (pk 0x11 d) i)
  | .ld d b c z o => .ofNat 32 (pk (pk (pk (pk (pk (pk 0x14 d) b) c) 0x0#1) z) o)
  | .ldp d b c o => .ofNat 32 (pk (pk (pk (pk (pk (pk 0x14 d) b) c) 0x1#1) 0x0#2) o)
  | .ldn d b c z o => .ofNat 32 (pk (pk (pk (pk (pk (pk 0x15 d) b) c) 0x0#1) z) o)
  | .st s b c z o => .ofNat 32 (pk (pk (pk (pk (pk (pk 0x16 s) b) c) 0x0#1) z) o)
  | .stp s b c o => .ofNat 32 (pk (pk (pk (pk (pk (pk 0x16 s) b) c) 0x1#1) 0x0#2) o)
  | .ldbit d k c x w v => .ofNat 32 (pk (pk (pk (pk (pk (pk (pk (pk 0x17 d) k) c) 0x0#2) x) w) v) 0x0#1)
  | .stbit s k c w v => .ofNat 32 (pk (pk (pk (pk (pk (pk (pk 0x18 s) k) c) 0x0#3) w) v) 0x0#1)
  | .ldAcq d b c z p o => .ofNat 32 (pk (pk (pk (pk (pk (pk (pk 0x19 d) b) c) 0x0#1) z) p) o)
  | .stRel s b c z p o => .ofNat 32 (pk (pk (pk (pk (pk (pk (pk 0x1A s) b) c) 0x0#1) z) p) o)
  | .amoAdd d a b w o s => .ofNat 32 (pk (pk (pk (pk (pk (pk (pk 0x1B d) a) b) 0x0#4) w) o) s)
  | .amoAnd d a b w o s => .ofNat 32 (pk (pk (pk (pk (pk (pk (pk 0x1B d) a) b) 0x1#4) w) o) s)
  | .amoOr d a b w o s => .ofNat 32 (pk (pk (pk (pk (pk (pk (pk 0x1B d) a) b) 0x2#4) w) o) s)
  | .amoXor d a b w o s => .ofNat 32 (pk (pk (pk (pk (pk (pk (pk 0x1B d) a) b) 0x3#4) w) o) s)
  | .amoMin d a b w o s => .ofNat 32 (pk (pk (pk (pk (pk (pk (pk 0x1B d) a) b) 0x4#4) w) o) s)
  | .amoMax d a b w o s => .ofNat 32 (pk (pk (pk (pk (pk (pk (pk 0x1B d) a) b) 0x5#4) w) o) s)
  | .amoMinn d a b w o s => .ofNat 32 (pk (pk (pk (pk (pk (pk (pk 0x1B d) a) b) 0x6#4) w) o) s)
  | .amoMaxn d a b w o s => .ofNat 32 (pk (pk (pk (pk (pk (pk (pk 0x1B d) a) b) 0x7#4) w) o) s)
  | .amoSwap d a b w o s => .ofNat 32 (pk (pk (pk (pk (pk (pk (pk 0x1B d) a) b) 0x8#4) w) o) s)
  | .amoCas d a b w o s => .ofNat 32 (pk (pk (pk (pk (pk (pk (pk 0x1B d) a) b) 0x9#4) w) o) s)
  | .pref h b c o => .ofNat 32 (pk (pk (pk (pk (pk 0x1C h) b) c) 0x0#3) o)
  | .fence s => .ofNat 32 (pk (pk (pk (pk 0x1D 0x0#18) s) 0x0#2) 0x0#3)
  | .publ d a s => .ofNat 32 (pk (pk (pk (pk (pk (pk 0x1D d) a) 0x0#6) s) 0x0#2) 0x1#3)
  | .brEq a b d => .ofNat 32 (pk (pk (pk (pk 0x20 0x0#4) a) b) d)
  | .brNe a b d => .ofNat 32 (pk (pk (pk (pk 0x20 0x1#4) a) b) d)
  | .brLt a b d => .ofNat 32 (pk (pk (pk (pk 0x20 0x2#4) a) b) d)
  | .brGe a b d => .ofNat 32 (pk (pk (pk (pk 0x20 0x3#4) a) b) d)
  | .brLtn a b d => .ofNat 32 (pk (pk (pk (pk 0x20 0x4#4) a) b) d)
  | .brGen a b d => .ofNat 32 (pk (pk (pk (pk 0x20 0x5#4) a) b) d)
  | .jmp d => .ofNat 32 (pk 0x21 d)
  | .call d => .ofNat 32 (pk 0x22 d)
  | .jr a => .ofNat 32 (pk (pk (pk (pk 0x23 0x0#6) a) 0x0#6) 0x0#8)
  | .callr d a => .ofNat 32 (pk (pk (pk (pk 0x23 d) a) 0x0#6) 0x1#8)
  | .ret a => .ofNat 32 (pk (pk (pk (pk 0x23 0x0#6) a) 0x0#6) 0x2#8)
  | .callx d a b => .ofNat 32 (pk (pk (pk (pk 0x23 d) a) b) 0x3#8)
  | .reply a => .ofNat 32 (pk (pk (pk (pk 0x23 0x0#6) a) 0x0#6) 0x4#8)
  | .loopi c l => .ofNat 32 (pk (pk (pk 0x24 0x1#1) c) l)
  | .loop a l => .ofNat 32 (pk (pk (pk (pk 0x24 0x0#1) a) 0x0#6) l)
  | .spawn d a b => .ofNat 32 (pk (pk (pk (pk 0x28 d) a) b) 0x0#8)
  | .exit a => .ofNat 32 (pk (pk (pk (pk 0x28 0x0#6) a) 0x0#6) 0x1#8)
  | .yield => .ofNat 32 (pk (pk 0x28 0x0#18) 0x2#8)
  | .sleep a => .ofNat 32 (pk (pk (pk (pk 0x28 0x0#6) a) 0x0#6) 0x3#8)
  | .wake a => .ofNat 32 (pk (pk (pk (pk 0x28 0x0#6) a) 0x0#6) 0x4#8)
  | .semp n => .ofNat 32 (pk (pk (pk 0x28 0x0#14) n) 0x8#8)
  | .semv n => .ofNat 32 (pk (pk (pk 0x28 0x0#14) n) 0x9#8)
  | .barr a => .ofNat 32 (pk (pk (pk (pk 0x28 0x0#6) a) 0x0#6) 0xC#8)
  | .bcast d a => .ofNat 32 (pk (pk (pk (pk 0x28 d) a) 0x0#6) 0xD#8)
  | .migr a => .ofNat 32 (pk (pk (pk (pk 0x28 0x0#6) a) 0x0#6) 0x10#8)
  | .pin e => .ofNat 32 (pk (pk (pk 0x28 0x0#15) e) 0x14#8)
  | .unpin e => .ofNat 32 (pk (pk (pk 0x28 0x0#15) e) 0x15#8)
  | .waitl a => .ofNat 32 (pk (pk (pk (pk 0x28 0x0#6) a) 0x0#6) 0x18#8)
  | .trap n => .ofNat 32 (pk (pk (pk 0x29 0x0#12) n) 0x0#8)
  | .eret => .ofNat 32 (pk (pk 0x29 0x0#18) 0x1#8)
  | .cqpush d a => .ofNat 32 (pk (pk (pk (pk 0x2C 0x0#8) d) a) 0x0#6)
  | .nblBox d a => .ofNat 32 (pk (pk (pk (pk 0x2C 0x10#8) d) a) 0x0#6)
  | .nblBin d a => .ofNat 32 (pk (pk (pk (pk 0x2C 0x11#8) d) a) 0x0#6)
  | .nblPairs d a => .ofNat 32 (pk (pk (pk (pk 0x2C 0x12#8) d) a) 0x0#6)
  | .nblStat d => .ofNat 32 (pk (pk (pk 0x2C 0x13#8) d) 0x0#12)
  | .pgsSum d a => .ofNat 32 (pk (pk (pk (pk 0x2C 0x20#8) d) a) 0x0#6)
  | .pgsSel d a => .ofNat 32 (pk (pk (pk (pk 0x2C 0x21#8) d) a) 0x0#6)
  | .sflTab d a => .ofNat 32 (pk (pk (pk (pk 0x2C 0x30#8) d) a) 0x0#6)
  | .sflBag d a => .ofNat 32 (pk (pk (pk (pk 0x2C 0x31#8) d) a) 0x0#6)
  | .wdqGrid d a => .ofNat 32 (pk (pk (pk (pk 0x2C 0x40#8) d) a) 0x0#6)
  | .wdqAsk d a => .ofNat 32 (pk (pk (pk (pk 0x2C 0x41#8) d) a) 0x0#6)
  | .enq d a => .ofNat 32 (pk (pk (pk (pk 0x2C 0x50#8) d) a) 0x0#6)
  | .chput a b => .ofNat 32 (pk (pk (pk (pk 0x2D 0x0#6) a) b) 0x0#8)
  | .chget d a b => .ofNat 32 (pk (pk (pk (pk 0x2D d) a) b) 0x1#8)
  | .chwin d a => .ofNat 32 (pk (pk (pk (pk 0x2D d) a) 0x0#6) 0x2#8)
  | .chsync d a => .ofNat 32 (pk (pk (pk (pk 0x2D d) a) 0x0#6) 0x3#8)
  | .slipr d a => .ofNat 32 (pk (pk (pk (pk 0x2D d) a) 0x0#6) 0x8#8)
  | .sliprep a b => .ofNat 32 (pk (pk (pk (pk 0x2D 0x0#6) a) b) 0x9#8)
  | .pfxFmt a b d r f => .ofNat 32 (pk (pk (pk (pk (pk (pk (pk 0x30 0x0#2) a) b) d) r) f) 0x0#3)
  | .pfxScl g s i c => .ofNat 32 (pk (pk (pk (pk (pk (pk 0x30 0x1#2) g) s) i) c) 0x0#7)
  | .illegalWord w => w
  | .unassignedFnWord w => w
  | _ => 0

/-- The instruction the decoder reads from a word of `nbits` bits numbered as the opcode table numbers them. Every word is 32 bits
long (R52), so a longer one holds none; a word that is no instruction gives the constructor that says so. -/
def decodeTableWord (nbits w : Nat) : Option Instr := if nbits ≤ 32 then some (decode (BitVec.ofNat 32 w)) else none

end Sys2Proof
end

