-- ==== Sys2Proof/Machine/Bits.lean ====
section
/-! DEFINITION. Bit fields, sign extension, byte order and plain list helpers, in one place (R5, R10, R35). -/

namespace Sys2Proof.Machine

/-- Bits lo + len - 1 to lo of a word, as a number (R5). -/
def fieldOf {n : Nat} (w : BitVec n) (lo len : Nat) : Nat := w.toNat / 2 ^ lo % 2 ^ len

/-- Bits lo + len - 1 to lo of a number (R5). -/
def nfield (v lo len : Nat) : Nat := v / 2 ^ lo % 2 ^ len

/-- Bit i of a number. -/
def nbit (v i : Nat) : Bool := v.testBit i

/-- sext(x, w) of R10: the low w bits of a number as a two's-complement value in 64 bits. -/
def sextN (w : Nat) (x : Nat) : Word := (BitVec.ofNat w x).signExtend 64

/-- The low w bits of a number as a signed integer. -/
def toSigned (w x : Nat) : Int :=
  let y := x % 2 ^ w
  if 2 * y < 2 ^ w then y else (y : Int) - (2 ^ w : Nat)

/-- The low w bits of an integer as a two's-complement number. -/
def ofSigned (w : Nat) (x : Int) : Nat := (x % ((2 ^ w : Nat) : Int)).toNat

/-- A Bool as a word, 0 or 1. -/
def ofBool (b : Bool) : Word := if b then 1 else 0

/-- The n bytes of a number, least significant first (R5: little-endian). -/
def leBytes : Nat → Nat → List Byte
  | 0, _ => []
  | n + 1, v => BitVec.ofNat 8 v :: leBytes n (v / 256)

/-- The number that bytes hold, least significant first (R5). -/
def ofLe : List Byte → Nat
  | [] => 0
  | b :: bs => b.toNat + 256 * ofLe bs

/-- The count of one bits below bit n. -/
def popBits : Nat → Nat → Nat
  | 0, _ => 0
  | n + 1, v => v % 2 + popBits n (v / 2)

/-- Trailing zeros among the low n bits; n when all are zero. -/
def ctzBits : Nat → Nat → Nat
  | 0, _ => 0
  | n + 1, v => if v % 2 = 1 then 0 else 1 + ctzBits n (v / 2)

/-- Leading zeros among the low n bits; n when all are zero. -/
def clzBits : Nat → Nat → Nat
  | 0, _ => 0
  | n + 1, v => if v.testBit n then 0 else 1 + clzBits n v

/-- The low n bits in reverse order. -/
def revBits : Nat → Nat → Nat
  | 0, _ => 0
  | n + 1, v => (v % 2) * 2 ^ n + revBits n (v / 2)

/-- The numbers below n, in rising order. -/
def upto (n : Nat) : List Nat := List.range n

/-- A list with the entry at position i replaced; unchanged past its end. -/
def setAt {α : Type} (l : List α) (i : Nat) (x : α) : List α := l.set i x

/-- The entry that a key has in a list of pairs. -/
def assoc {α : Type} (l : List (Nat × α)) (k : Nat) : Option α :=
  match l.find? (fun p => p.1 == k) with
  | some p => some p.2
  | none => none

/-- A list of pairs with the key's entry replaced, or added at the end. -/
def assocSet {α : Type} (l : List (Nat × α)) (k : Nat) (x : α) : List (Nat × α) :=
  if l.any (fun p => p.1 == k) then l.map (fun p => if p.1 == k then (k, x) else p) else l ++ [(k, x)]

/-- A list of pairs without a key. -/
def assocDel {α : Type} (l : List (Nat × α)) (k : Nat) : List (Nat × α) := l.filter (fun p => !(p.1 == k))

/-- The list cut into pieces of n; the last may be shorter. The first argument bounds the number of pieces. -/
def chunk {α : Type} : Nat → Nat → List α → List (List α)
  | 0, _, _ => []
  | _ + 1, _, [] => []
  | f + 1, n, x :: xs => (x :: xs).take n :: chunk f n ((x :: xs).drop n)

/-- Elements of w bits packed from bit 0 up (R35), as one number. -/
def packElems (w : Nat) : List Nat → Nat
  | [] => 0
  | x :: xs => x % 2 ^ w + 2 ^ w * packElems w xs

/-- The first n elements of w bits of a packed number (R35). -/
def unpackElems (w : Nat) : Nat → Nat → List Nat
  | 0, _ => []
  | n + 1, v => v % 2 ^ w :: unpackElems w n (v / 2 ^ w)

/-- The ceiling of a quotient. -/
def ceilDiv (a b : Nat) : Nat := (a + b - 1) / b

end Sys2Proof.Machine
end

