-- ==== Sys2Proof/Machine/FNum.lean ====
section
/-! DEFINITION. Numbers and their encodings: exact values, the float formats, rounding, conversions and flags
(02_numbers.md, R26 to R46). A value is exact: a finite one is (-1)^neg * m * 2^e. Quotients and square roots carry
one sticky bit far below the bits that any rounding keeps. -/

namespace Sys2Proof.Machine

/-- Sticky float flags of R46: INX bit 0, UFL 1, OVF 2, DVZ 3, INV 4. -/
abbrev FFlags := BitVec 5

/-- The flag bits of R46. -/
def fINX : FFlags := 1
/-- Tiny and inexact. -/
def fUFL : FFlags := 2
/-- Overflow, or an infinity saturated. -/
def fOVF : FFlags := 4
/-- Division of a finite non-zero value by zero. -/
def fDVZ : FFlags := 8
/-- Invalid operation. -/
def fINV : FFlags := 16

/-- An exact value (R30). `nan neg sig`: sig marks a signalling NaN (R31). -/
inductive FV where
  | nan (neg sig : Bool)
  | inf (neg : Bool)
  | fin (neg : Bool) (m : Nat) (e : Int)
  deriving DecidableEq, Repr

/-- What the all-ones exponent means in a format (R30). -/
inductive Specials where
  /-- infinities and NaNs as IEEE 754 -/
  | ieee
  /-- no infinity; 0x7F and 0xFF are NaN (e4m3) -/
  | e4m3
  /-- neither -/
  | none
  deriving DecidableEq, Repr

/-- A float format: exponent width, stored significand width, specials (R30). -/
structure FFmt where
  ew : Nat
  mw : Nat
  sp : Specials
  deriving DecidableEq, Repr

/-- The float formats by code (R26, R30). -/
def ffmt (code : Nat) : Option FFmt :=
  match code with
  | 1 => some ⟨11, 52, .ieee⟩
  | 2 => some ⟨8, 23, .ieee⟩
  | 3 => some ⟨8, 7, .ieee⟩
  | 4 => some ⟨5, 10, .ieee⟩
  | 5 => some ⟨4, 3, .e4m3⟩
  | 6 => some ⟨5, 2, .ieee⟩
  | 7 => some ⟨3, 2, .none⟩
  | 8 => some ⟨2, 3, .none⟩
  | 9 => some ⟨2, 1, .none⟩
  | _ => none

/-- f32, the format that many operations of the module name (R30). -/
def f32 : FFmt := ⟨8, 23, .ieee⟩
/-- f64 (R30). -/
def f64 : FFmt := ⟨11, 52, .ieee⟩
/-- bf16 (R30). -/
def bf16 : FFmt := ⟨8, 7, .ieee⟩

namespace FFmt

/-- Width in bits. -/
def width (f : FFmt) : Nat := 1 + f.ew + f.mw

/-- 2^(e-1) - 1 (R30). -/
def bias (f : FFmt) : Nat := 2 ^ (f.ew - 1) - 1

/-- The exponent of one unit of the smallest subnormal. -/
def qmin (f : FFmt) : Int := 1 - (f.bias : Int) - f.mw

/-- The code of the largest finite magnitude L (R30). -/
def maxCode (f : FFmt) : Nat :=
  match f.sp with
  | .ieee => (2 ^ f.ew - 1) * 2 ^ f.mw - 1
  | .e4m3 => 2 ^ (f.ew + f.mw) - 2
  | .none => 2 ^ (f.ew + f.mw) - 1

/-- The sign bit of a code. -/
def signBit (f : FFmt) (neg : Bool) : Nat := if neg then 2 ^ (f.ew + f.mw) else 0

/-- The code of an infinity in a format that has it; of L in the others (R41, R43). -/
def infCode (f : FFmt) (neg : Bool) : Nat :=
  f.signBit neg + (match f.sp with | .ieee => (2 ^ f.ew - 1) * 2 ^ f.mw | _ => f.maxCode)

/-- The canonical NaN (R31); ±L in a format without NaN (R43). -/
def nanCode (f : FFmt) (neg : Bool) : Nat :=
  f.signBit neg +
    (match f.sp with
     | .ieee => (2 ^ f.ew - 1) * 2 ^ f.mw + 2 ^ (f.mw - 1)
     | .e4m3 => 0x7F
     | .none => f.maxCode)

/-- The value of a code (R30). -/
def decode (f : FFmt) (code : Nat) : FV :=
  let mag := code % 2 ^ (f.ew + f.mw)
  let neg := code.testBit (f.ew + f.mw)
  let ee := mag / 2 ^ f.mw
  let mm := mag % 2 ^ f.mw
  if ee = 0 then .fin neg mm f.qmin
  else if f.sp = .ieee ∧ ee = 2 ^ f.ew - 1 then
    if mm = 0 then .inf neg else .nan neg (!mm.testBit (f.mw - 1))
  else if f.sp = .e4m3 ∧ mag = 0x7F then .nan neg false
  else .fin neg (2 ^ f.mw + mm) (f.qmin + (ee - 1 : Nat))

end FFmt

/-- The exponent of the leading bit of m * 2^e, m > 0. -/
def topExp (m : Nat) (e : Int) : Int := (m.log2 : Int) + e

/-- The rounding of the magnitude m * 2^e to a whole number of units 2^u, before the choice: the truncated number of
units, and the rest as (rest, unit) with rest < unit. -/
def truncUnits (m : Nat) (e u : Int) : Nat × Nat × Nat :=
  if u ≤ e then (m * 2 ^ (e - u).toNat, 0, 1)
  else
    let s := (u - e).toNat
    (m / 2 ^ s, m % 2 ^ s, 2 ^ s)

/-- Whether a mode rounds the truncated magnitude up (R40, R42). r is the draw that mode SR uses; its t is the 32 bits
below the last kept bit. -/
def roundsUp (rm : Nat) (r : Nat) (neg : Bool) (lo rest unit : Nat) : Bool :=
  match rm with
  | 0 => decide (2 * rest > unit ∨ (2 * rest = unit ∧ lo % 2 = 1))
  | 1 => false
  | 2 => neg && decide (rest ≠ 0)
  | 3 => !neg && decide (rest ≠ 0)
  | 4 => decide (rest ≠ 0 ∧ 2 * rest ≥ unit)
  | _ => decide (rest * 2 ^ 32 / unit + r ≥ 2 ^ 32)

/-- A magnitude rounded to a whole number of units 2^u: the number and whether it is inexact. -/
def roundUnits (rm r : Nat) (neg : Bool) (m : Nat) (e u : Int) : Nat × Bool :=
  let (lo, rest, unit) := truncUnits m e u
  (if roundsUp rm r neg lo rest unit then lo + 1 else lo, decide (rest ≠ 0))

/-- The code on overflow (R41). -/
def overflowCode (f : FFmt) (rm : Nat) (neg : Bool) : Nat :=
  let l := f.signBit neg + f.maxCode
  match rm with
  | 1 => l
  | 2 => if neg then f.infCode neg else l
  | 3 => if neg then l else f.infCode neg
  | _ => f.infCode neg

/-- The exponent of the unit at which a finite magnitude is rounded, subnormal spacing included (R42). -/
def unitExp (f : FFmt) (m : Nat) (e : Int) : Int :=
  if m = 0 then f.qmin else max (topExp m e - f.mw) f.qmin

/-- The magnitude code, with the exponent unbounded above, to which a finite magnitude rounds, and whether it is inexact. -/
def roundMag (f : FFmt) (rm r : Nat) (neg : Bool) (m : Nat) (e : Int) : Nat × Bool :=
  let u := unitExp f m e
  let (n, inx) := roundUnits rm r neg m e u
  ((u - f.qmin).toNat * 2 ^ f.mw + n, inx)

/-- A mode that rounds magnitudes of a sign down: RTZ, RDN of a positive value, RUP of a negative one (R40). -/
def truncates (rm : Nat) (neg : Bool) : Bool := rm == 1 || (rm == 2 && !neg) || (rm == 3 && neg)

/-- A finite value rounded into a format, with its flags (R40 to R42). In a mode that truncates, a value that is cut to L overflows where
rounding to nearest would take it beyond L (the examples of R128 and R132; log entry 26). -/
def roundFin (f : FFmt) (rm r : Nat) (neg : Bool) (m : Nat) (e : Int) : Nat × FFlags :=
  let (code, inx) := roundMag f rm r neg m e
  if code > f.maxCode ∨ (code = f.maxCode ∧ truncates rm neg = true ∧ (roundMag f 0 0 neg m e).1 > f.maxCode) then
    (overflowCode f rm neg, fOVF ||| fINX)
  else
    (f.signBit neg + code,
      (if inx then fINX else 0) ||| (if inx ∧ code < 2 ^ f.mw then fUFL else 0))

/-- store(v, f, rm) of R125 for a float format: rounding, overflow and special values (R41, R43). -/
def storeFloat (f : FFmt) (rm r : Nat) (v : FV) : Nat × FFlags :=
  match v with
  | .nan neg _ => (f.nanCode neg, if f.sp = .none then fINV else 0)
  | .inf neg => (f.infCode neg, if f.sp = .ieee then 0 else fOVF ||| fINX)
  | .fin neg m e => roundFin f rm r neg m e

/-- The generator step of R42. -/
def lfsrNext (s : BitVec 32) : BitVec 32 :=
  let n := s >>> 1
  if s.getLsbD 0 then n ^^^ 0x80200003#32 else n

namespace FV

/-- The value with its sign changed. -/
def negate : FV → FV
  | nan n s => nan (!n) s
  | inf n => inf (!n)
  | fin n m e => fin (!n) m e

/-- A finite value. -/
def isFin : FV → Bool
  | fin _ _ _ => true
  | _ => false

/-- A NaN. -/
def isNan : FV → Bool
  | nan _ _ => true
  | _ => false

/-- The invalid flag that a signalling NaN operand sets (R31). -/
def sigFlag : FV → FFlags
  | nan _ true => fINV
  | _ => 0

/-- A finite value as an integer times 2^e. -/
def signedM : FV → Int × Int
  | fin n m e => (if n then -(m : Int) else m, e)
  | _ => (0, 0)

/-- The canonical NaN of an arithmetic result (R31). -/
def qnan : FV := nan false false

/-- An integer times 2^e as a value; zero is +0. -/
def ofInt (v : Int) (e : Int) : FV := fin (decide (v < 0)) v.natAbs e

/-- The exact sum, with the sign of an exact zero by R41. -/
def add (rm : Nat) (x y : FV) : FV × FFlags :=
  match x, y with
  | nan _ s, y => (qnan, (if s then fINV else 0) ||| y.sigFlag)
  | _, nan _ s => (qnan, if s then fINV else 0)
  | inf a, inf b => if a = b then (inf a, 0) else (qnan, fINV)
  | inf a, _ => (inf a, 0)
  | _, inf b => (inf b, 0)
  | fin a m e, fin b n k =>
    let lo := min e k
    let sx : Int := (m * 2 ^ (e - lo).toNat : Nat)
    let sy : Int := (n * 2 ^ (k - lo).toNat : Nat)
    let z := (if a then -sx else sx) + (if b then -sy else sy)
    if z = 0 then (fin (if m = 0 ∧ n = 0 ∧ a = b then a else decide (rm = 2)) 0 0, 0)
    else (ofInt z lo, 0)

/-- The exact product. -/
def mul (x y : FV) : FV × FFlags :=
  match x, y with
  | nan _ s, y => (qnan, (if s then fINV else 0) ||| y.sigFlag)
  | _, nan _ s => (qnan, if s then fINV else 0)
  | inf a, inf b => (inf (a != b), 0)
  | inf a, fin b m _ => if m = 0 then (qnan, fINV) else (inf (a != b), 0)
  | fin a m _, inf b => if m = 0 then (qnan, fINV) else (inf (a != b), 0)
  | fin a m e, fin b n k => (fin (a != b) (m * n) (e + k), 0)

/-- The quotient, with a sticky bit at least 128 bits below its leading bit (R125). -/
def div (x y : FV) : FV × FFlags :=
  match x, y with
  | nan _ s, y => (qnan, (if s then fINV else 0) ||| y.sigFlag)
  | _, nan _ s => (qnan, if s then fINV else 0)
  | inf _, inf _ => (qnan, fINV)
  | inf a, fin b _ _ => (inf (a != b), 0)
  | fin a _ _, inf b => (fin (a != b) 0 0, 0)
  | fin a m e, fin b n k =>
    if n = 0 then (if m = 0 then (qnan, fINV) else (inf (a != b), fDVZ))
    else
      let s := 130 + n.log2
      let t := m * 2 ^ s
      (fin (a != b) (2 * (t / n) + (if t % n = 0 then 0 else 1)) (e - k - s - 1), 0)

/-- The integer square root, bit by bit from bit k. -/
def isqrt : Nat → Nat → Nat → Nat
  | 0, _, acc => acc
  | k + 1, m, acc =>
    let t := acc + 2 ^ k
    isqrt k m (if t * t ≤ m then t else acc)

/-- The square root, with a sticky bit far below its leading bit (R125). -/
def sqrt (x : FV) : FV × FFlags :=
  match x with
  | nan _ s => (qnan, if s then fINV else 0)
  | inf false => (inf false, 0)
  | inf true => (qnan, fINV)
  | fin a m e =>
    if m = 0 then (fin a 0 0, 0)
    else if a then (qnan, fINV)
    else
      let odd : Nat := if e % 2 = 0 then 0 else 1
      let t := m * 2 ^ (240 + odd)
      let q := isqrt (t.log2 / 2 + 1) t 0
      (fin false (2 * q + (if q * q = t then 0 else 1)) ((e - odd) / 2 - 120 - 1), 0)

/-- x * y + z with no rounding between (R125). 0 times an infinity is NaN with INV even when z is NaN. -/
def fma (rm : Nat) (x y z : FV) : FV × FFlags :=
  let (p, fp) := mul x y
  let (r, fr) := add rm p z
  (r, fp ||| fr)

/-- x < y on values that are not NaN; -0 and +0 are equal. -/
def lt (x y : FV) : Bool :=
  match x, y with
  | nan _ _, _ => false
  | _, nan _ _ => false
  | inf a, inf b => a && !b
  | inf a, _ => a
  | _, inf b => !b
  | fin a m e, fin b n k =>
    let lo := min e k
    let sx : Int := (m * 2 ^ (e - lo).toNat : Nat)
    let sy : Int := (n * 2 ^ (k - lo).toNat : Nat)
    decide ((if a then -sx else sx) < (if b then -sy else sy))

/-- x = y; a NaN equals nothing, and -0 equals +0 (R126). -/
def eq (x y : FV) : Bool := !x.isNan && !y.isNan && !(lt x y) && !(lt y x)

/-- The sign of a value. -/
def sign : FV → Bool
  | nan n _ => n
  | inf n => n
  | fin n _ _ => n

/-- The lesser, with -0 < +0; one NaN gives the other operand (R125). -/
def minV (x y : FV) : FV × FFlags :=
  let fl := x.sigFlag ||| y.sigFlag
  if x.isNan then (if y.isNan then qnan else y, fl)
  else if y.isNan then (x, fl)
  else if lt x y then (x, fl)
  else if lt y x then (y, fl)
  else (if x.sign then x else y, fl)

/-- The greater, with -0 < +0; one NaN gives the other operand (R125). -/
def maxV (x y : FV) : FV × FFlags :=
  let fl := x.sigFlag ||| y.sigFlag
  if x.isNan then (if y.isNan then qnan else y, fl)
  else if y.isNan then (x, fl)
  else if lt x y then (y, fl)
  else if lt y x then (x, fl)
  else (if x.sign then y else x, fl)

/-- The magnitude. -/
def absV : FV → FV
  | nan _ s => nan false s
  | inf _ => inf false
  | fin _ m e => fin false m e

/-- The value times 2^k, exactly. -/
def scale (k : Int) : FV → FV
  | fin n m e => fin n m (e + k)
  | v => v

end FV

/-- The value of an e8m0 code (R32). -/
def decodeE8m0 (c : Nat) : FV := if c % 256 = 0xFF then .nan false false else .fin false 1 ((c % 256 : Nat) - 127)

/-- A conversion to e8m0 (R45). -/
def storeE8m0 (rm r : Nat) (v : FV) : Nat × FFlags :=
  match v with
  | .nan _ _ => (0xFF, fINV)
  | .inf true => (0xFF, fINV)
  | .inf false => (0xFE, fOVF ||| fINX)
  | .fin neg m e =>
    if m = 0 then (0x00, fUFL ||| fINX)
    else if neg then (0xFF, fINV)
    else
      let k := topExp m e
      let unit := 2 ^ m.log2
      let rest := m - unit
      let up := match rm with
        | 0 => decide (2 * rest > unit ∨ (2 * rest = unit ∧ (k + 127) % 2 ≠ 0))
        | 1 => false
        | 2 => false
        | 3 => decide (rest ≠ 0)
        | 4 => decide (2 * rest ≥ unit)
        | _ => decide (rest * 2 ^ 32 / unit + r ≥ 2 ^ 32)
      let c := k + 127 + (if up then 1 else 0)
      if c > 254 then (0xFE, fOVF ||| fINX)
      else if c < 0 then (0x00, fUFL ||| fINX)
      else (c.toNat, if rest = 0 then 0 else fINX)

/-- The bounds of an integer or natural of width w (R28). -/
def intBounds (sgn : Bool) (w : Nat) : Int × Int :=
  if sgn then (-((2 ^ (w - 1) : Nat) : Int), (2 ^ (w - 1) : Nat) - 1) else (0, (2 ^ w : Nat) - 1)

/-- A conversion to an integer or natural of width w with f fraction bits (R44). -/
def storeInt (sgn : Bool) (w f rm r : Nat) (v : FV) : Int × FFlags :=
  let (lo, hi) := intBounds sgn w
  match v with
  | .nan _ _ => (0, fINV)
  | .inf neg => (if neg then lo else hi, fINV)
  | .fin neg m e =>
    let (n, inx) := roundUnits rm r neg m (e + f) 0
    let z : Int := if neg then -(n : Int) else n
    if z < lo ∨ (lo = 0 ∧ neg = true ∧ m ≠ 0) then (lo, fINV)
    else if z > hi then (hi, fINV)
    else (z, if inx then fINX else 0)

/-- The value of an integer or natural of width w with f fraction bits (R28). -/
def intValue (sgn : Bool) (w f : Nat) (bits : Nat) : FV :=
  let z : Int := if sgn then toSigned w bits else ((bits % 2 ^ w : Nat) : Int)
  FV.ofInt z (-(f : Int))

/-- decode_scaled(x, c) of R37: an element of a narrow float under a block scale. The NaN of a block whose scale is 0xFF is
positive: the spec does not give its sign (log entry 43). -/
def decodeScaled (f : FFmt) (x c : Nat) : FV :=
  if c % 256 = 0xFF then .nan false false else (f.decode x).scale ((c % 256 : Nat) - 127)

/-- The exponent of the largest normal of a narrow float, emax of R39. -/
def emaxOf (f : FFmt) : Int := (f.maxCode / 2 ^ f.mw : Nat) - (f.bias : Int)

/-- One element of a scaled block: a finite value over 2^s rounded and clamped, or an infinity at L (R39 steps 4, 5). -/
def encodeElem (f : FFmt) (rm r : Nat) (s : Int) (v : FV) : Nat × FFlags :=
  match v with
  | .nan _ _ => (0, 0)
  | .inf neg => (f.signBit neg + f.maxCode, fOVF ||| fINX)
  | .fin neg m e =>
    let (code, inx) := roundMag f rm r neg m (e - s)
    if code > f.maxCode then (f.signBit neg + f.maxCode, fINX)
    else (f.signBit neg + code, (if inx then fINX else 0) ||| (if inx ∧ code < 2 ^ f.mw then fUFL else 0))

/-- ⌊log2⌋ of the greatest magnitude among the finite values; none when it is zero (R39 step 2). -/
def amaxExp : List FV → Option Int
  | [] => none
  | .fin _ m e :: vs =>
    if m = 0 then amaxExp vs
    else match amaxExp vs with
      | none => some (topExp m e)
      | some k => some (max (topExp m e) k)
  | _ :: vs => amaxExp vs

/-- The elements of a block in rising order, each finite one taking one draw in mode SR (R39, R42, R131). -/
def encodeElems (f : FFmt) (rm : Nat) (s : Int) : BitVec 32 → List FV → List Nat × FFlags × BitVec 32
  | g, [] => ([], 0, g)
  | g, v :: vs =>
    let (c, fl) := encodeElem f rm g.toNat s v
    let g' := if rm = 5 ∧ v.isFin then lfsrNext g else g
    let (cs, fls, gz) := encodeElems f rm s g' vs
    (c :: cs, fl ||| fls, gz)

/-- encode_block of R39: the scale code, the element codes, the flags and the generator after. A block without a finite value
has no amax; its scale exponent is 0 as for amax = 0 (log entry 43). -/
def encodeBlock (f : FFmt) (rm : Nat) (g : BitVec 32) (xs : List FV) : Nat × List Nat × FFlags × BitVec 32 :=
  let sig := xs.foldl (fun a v => a ||| v.sigFlag) 0
  if xs.any FV.isNan then (0xFF, xs.map (fun _ => 0), fINV ||| sig, g)
  else
    let s : Int := match amaxExp xs with
      | none => 0
      | some k => max (-127) (min 127 (k - emaxOf f))
    let (cs, fl, gz) := encodeElems f rm s g xs
    ((s + 127).toNat, cs, fl, gz)

/-- Bytes of one element array of g elements (R36). -/
def elemBytes (f : FFmt) (g : Nat) : Nat := g * f.width / 8

/-- One entry of a codebook as a value (R33). -/
def bookValue (book : List Nat) (c : Nat) : FV := bf16.decode (book.getD c 0)

/-- The magnitude of the exact difference of two finite values, as (m, e). -/
def fvDist (x y : FV) : Nat × Int :=
  let (a, e) := x.signedM
  let (b, k) := y.signedM
  let lo := min e k
  ((a * (2 ^ (e - lo).toNat : Nat) - b * (2 ^ (k - lo).toNat : Nat)).natAbs, lo)

/-- Compare (m, e) pairs: the first is less. -/
def distLt (x y : Nat × Int) : Bool :=
  let lo := min x.2 y.2
  decide (x.1 * 2 ^ (x.2 - lo).toNat < y.1 * 2 ^ (y.2 - lo).toNat)

/-- The first code that a test accepts, among the 16 of a codebook (R34). -/
def firstCode (p : Nat → Bool) : Option Nat := (upto 16).find? p

/-- The lowest code that is best under a strict order, among those that a test accepts. -/
def bestCode (p : Nat → Bool) (better : Nat → Nat → Bool) : Option Nat :=
  (upto 16).foldl (fun acc c =>
    if p c then (match acc with | none => some c | some d => if better c d then some c else some d) else acc) none

/-- A conversion to lk4 (R34). -/
def storeLk4 (book : List Nat) (v : FV) : Nat × FFlags :=
  let ent := bookValue book
  let fin c := (ent c).isFin
  match v with
  | .nan _ s =>
    match firstCode (fun c => (ent c).isNan) with
    | some c => (c, if s then fINV else 0)
    | none => (0, fINV)
  | .inf neg =>
    match firstCode (fun c => ent c == .inf neg) with
    | some c => (c, 0)
    | none =>
      match bestCode fin (fun c d => if neg then FV.lt (ent c) (ent d) else FV.lt (ent d) (ent c)) with
      | some c => (c, fOVF ||| fINX)
      | none => (0, fINV)
  | .fin neg m e =>
    match bestCode fin (fun c d => distLt (fvDist (ent c) (.fin neg m e)) (fvDist (ent d) (.fin neg m e))) with
    | some c => (c, if (fvDist (ent c) (.fin neg m e)).1 = 0 then 0 else fINX)
    | none =>
      match firstCode (fun c => ent c == .inf neg) with
      | some c => (c, fOVF ||| fINX)
      | none => (0, fINV)

end Sys2Proof.Machine
end

