-- ==== Sys2Proof/Machine/ThreadState.lean ====
section
/-! DEFINITION. Plain data of the clerk side: stores, threads, cores, pins and buses (05 to 08, 14). -/

namespace Sys2Proof.Machine

/-- The byte stores of the module. `mem` is the 52-bit physical space of R178, the host's memory among it; `deep` is the
deep scratch of one context (R160); `win` a core-scratch window (R157); `tile` a fabric scratch tile (R165); `flash` the
on-module flash (R360). -/
inductive Space where
  | mem
  | deep (ctx : Nat)
  | win (core ctx : Nat)
  | tile (t : Nat)
  | flash
  deriving DecidableEq, Repr

/-- Fault codes (R344). -/
inductive Code where
  | illegal | pfx | priv | align | xlate | prot | nameUnmapped | eccUe | cfgUe | bitrange | zeroLoop | sluiceOp
  | watchdog | trapCode
  deriving DecidableEq, Repr

/-- A fault to be raised: its code, the address it names (0 for none), whether R344 calls it retryable, and the fields of
R345 and R346 that only some faults fill. -/
structure Trap where
  code : Code
  addr : Word := 0
  retry : Bool := false
  defer : Bool := false
  remote : Bool := false
  trapn : Nat := 0
  detail : Nat := 0
  /-- a REMOTE record carries the callee's WORD (R346) -/
  word : Option Word32 := none
  /-- the unit of the erring row, for an SRAM store's ECC_UE (R358): its store code and unit number -/
  unit : Option (Nat × Nat) := none
  /-- CLK at the fault, for one that is taken later (R113, R345), and whether its record stands in the log already (R347) -/
  clk : Option Nat := none
  logged : Bool := false
  deriving DecidableEq, Repr

/-- The states of R133. `empty` marks the selected thread of a module that holds none. -/
inductive TMode where
  | empty | ready | stalled | waiting | sleeping | descheduled
  deriving DecidableEq, Repr

/-- Where a load reads and how its data is extended (R172, R174). -/
structure LoadReq where
  space : Space
  addr : Nat
  size : Nat
  sgn : Bool
  /-- first bit and width of an ldbit; none for whole bytes -/
  bits : Option (Nat × Nat) := none
  deriving DecidableEq, Repr

/-- What a value in flight waits for (R110): load data, or the status word of a copy, an engine command or an enq. -/
inductive Late where
  | load (r : LoadReq)
  | status
  deriving DecidableEq, Repr

/-- A value in flight. `dst` and `dst2` are the registers it lands in, unless a younger write cancelled them. -/
structure InFlight where
  id : Nat
  dst : Option Spec
  dst2 : Option Spec := none
  late : Late
  deriving DecidableEq, Repr

/-- What an amo does at the home slice (R203). -/
structure AmoReq where
  op : BitVec 4
  wide : Bool
  ord : BitVec 2
  sys : Bool
  d : Spec
  va : Word
  pa : Nat
  v : Word
  c : Word
  deriving DecidableEq, Repr

/-- A token (R211): tag, lane mask, and the 16 lanes of 32 bits. -/
structure Token where
  tag : Nat
  mask : Nat
  lanes : List Nat
  deriving DecidableEq, Repr

/-- What a waiting thread waits for, with what its word needs at the end (R133 to R152, R162, R202, R271 to R273). -/
inductive Wait where
  | none
  | sem (n : Nat)
  /-- a bus word: the register that receives a broadcast, and the key, BID with BUS in bit 4 -/
  | bus (d : Option Spec) (key : Nat)
  | sleep
  | lock (va : Word) (pa : Nat) (written : Bool)
  | pin (e : Nat)
  | unpin (e : Nat)
  | callx (d : Spec)
  | arrival
  | link (req : Nat)
  | amo (r : AmoReq)
  | publ (d : Spec) (x : Nat) (scope : Nat) (cmds : List Nat)
  /-- a change of split, which the engine commands with names below `upTo` come before (R162) -/
  | split (die : Nat) (new old : Word) (upTo : Nat)
  | chput (ch : Nat) (tok : Token)
  | chget (d : Spec) (ch : Nat) (deadline : Nat)
  | chsync (d : Spec) (ch : Nat)
  /-- a fault that the thread takes once its copies and engine commands have completed (R113, R350) -/
  | fault (tr : Trap)
  deriving DecidableEq, Repr

/-- Where a thread stands: in its slot, in a core's arrival queue (R148), or in its context's save area (R113). -/
inductive Place where
  | slot | queue | saved
  deriving DecidableEq, Repr

/-- A fault that a handler does not take and the registrar retries (R349): the ticks before it, and those up to the last one that has let
it be retried. -/
structure Retry where
  trap : Trap
  word : Word32
  first : Nat
  last : Nat := 0
  deriving DecidableEq, Repr

/-- A clerk thread: the context of R113 and R136 and what the hardware keeps beside it. `uid` is the model's name of the
thread; no rule of the manual sees it. -/
structure Thread where
  uid : Nat
  ctx : Nat
  core : Nat
  slot : Nat
  mode : TMode
  place : Place
  g : Vector Word 32
  q : Vector Word 8
  y0 : Word
  y1 : Word
  k : Vector (BitVec 40) 4
  pc : Word
  dz : Bool
  la : Bool
  prv : Bool
  /-- the privilege that the bind record or the spawn gave (R117) -/
  bornPrv : Bool
  peng : BitVec 3
  fv : Bool
  fmt : BitVec 24
  sv : Bool
  scl : BitVec 24
  ffl : BitVec 5
  frm : BitVec 3
  srnd : BitVec 32
  lc : BitVec 32
  ls : Word
  le : Word
  join : Word
  parent : Word
  ticket : Word
  wait : Wait
  wres : Word
  wresValid : Bool
  wakePending : Bool
  inHandler : Bool
  deadline : Word
  savea : Word
  /-- values in flight and which of them y0 and y1 name (R110) -/
  inflight : List InFlight
  y0Id : Option Nat
  y1Id : Option Nat
  /-- pending stores of other threads whose value this thread has read (R194) -/
  seen : List Nat
  /-- errors of posted stores that have not been raised yet, oldest first (R178, R206) -/
  deferred : List Trap
  /-- the launch ticket of the bind record that grants the slot (R334) -/
  bindTicket : Nat
  /-- created by a bind record (R141), with its rank in the launch (R332) -/
  byBind : Option Nat
  /-- the launch that the thread belongs to: the one that created it, or that its parent belongs to (R350) -/
  origin : Nat
  /-- an escape thread: region instance and stripe key (R266) -/
  escape : Option (Nat × Nat)
  /-- the word that waits or faulted, for the fault record (R345) -/
  word : Word32
  /-- fault being retried (R349) -/
  retry : Option Retry
  /-- issue turns for which a yield still skips (R142): the slots that must issue first, and the last clk in which it does -/
  skip : List Nat
  skipTo : Nat := 0
  /-- CLK at which a sleep ends, 0 for none; DEADLINE holds its low 64 bits (R144) -/
  sleepTo : Nat := 0
  /-- fences counted by `State.fences` before its last taken transfer (R53) -/
  xfer : Nat := 0
  /-- CLK at which the thread entered the arrival queue or the sender's wait (R148) -/
  since : Nat
  /-- where in the registrar's store of its context the saved context lies, in units of 512 bytes (R338) -/
  saveAt : Option Nat := none
  deriving DecidableEq, Repr

/-- A posted store (R180): who made it, its bytes with the mask of the bits that it writes, the UALink port that it took (R369), and
whether a release has had it acknowledged at core scope (R188, R189). -/
structure Store where
  id : Nat
  uid : Nat
  ctx : Nat
  core : Nat
  va : Word
  space : Space
  addr : Nat
  bytes : List (Byte × Byte)
  port : Option Nat := none
  rel : Bool := false
  deriving DecidableEq, Repr

/-- A cached translation (R185): a page of 2^bits bytes, its rights, and its publication tag. -/
structure Tlb where
  ctx : Nat
  va : Nat
  bits : Nat
  pa : Nat
  rd : Bool
  wr : Bool
  ex : Bool
  po : Bool
  pub : Option Nat
  deriving DecidableEq, Repr

/-- A fetched instruction word that the core still holds, and the number of the first fence after which memory held another (R53). -/
structure CodeWord where
  pa : Nat
  word : Word32
  fenced : Option Nat
  deriving DecidableEq, Repr

/-- A counting semaphore: the context that holds its grant, its count, its waiters oldest first (R145). -/
structure Sem where
  grant : Option Nat
  count : Nat
  waiters : List Nat
  deriving DecidableEq, Repr

/-- A range of one store (R169). -/
structure Range where
  space : Space
  lo : Nat
  hi : Nat
  deriving DecidableEq, Repr

/-- An entry of the range scoreboard (R169). -/
structure SbEntry where
  cmd : Nat
  dst : Option Range
  src : Option Range
  deriving DecidableEq, Repr

/-- A run of executions of a load word whose addresses are B + v × S for the values v of an index stream (R293): the word of the
stream, S, B, and the executions in a row. -/
structure PrefLink where
  pc : Word
  scale : Word
  base : Word
  run : Nat
  deriving DecidableEq, Repr

/-- A load word that a core's indirect prefetcher watches (R293): its thread and the CLK since which that stands in its slot, its
destination and how it extends its data, its last address, the stride of its last executions and how many in a row have kept it, the
load in flight whose value it awaits or the value that it returned last, and the words whose values its addresses follow. -/
structure Watch where
  uid : Nat
  since : Nat
  pc : Word
  dst : Spec
  size : Nat
  sgn : Bool
  addr : Word
  stride : Word
  run : Nat
  pending : Option Nat
  value : Option Word
  links : List PrefLink
  deriving DecidableEq, Repr

/-- One clerk core. -/
structure CoreSt where
  /-- slot issued last (R134) -/
  rot : Nat
  sems : Vector Sem 16
  sb : List SbEntry
  tlb : List Tlb
  icache : List CodeWord
  /-- name cache (R356): logical name and core -/
  names : List (Nat × Nat)
  /-- arrival queue, oldest first (R148) -/
  queue : List Nat
  /-- senders that the full queue holds back, each with the program counter of its word (R148) -/
  senders : List (Nat × Word)
  /-- the indirect prefetcher: the words that it watches, the latest first (R293) -/
  watches : List Watch := []
  /-- the lines that the indirect prefetcher has fetched last (R293) -/
  prefetched : List Nat := []
  deriving DecidableEq, Repr

/-- One arrival at a bus instance (R146). -/
structure Arrival where
  uid : Nat
  coord : Nat
  slot : Nat
  root : Bool
  value : Word
  mismatch : Bool
  deriving DecidableEq, Repr

/-- A live instance of a bus key (R146). `bus` is 2 times the stripe, or 1 plus 2 times the column, under its field. -/
structure BusInst where
  bus : Nat
  bid : Nat
  ctx : Nat
  count : Nat
  arrivals : List Arrival
  deriving DecidableEq, Repr

/-- A wake on its way (R143). -/
structure WakeMsg where
  id : Nat
  ctx : Nat
  core : Nat
  slot : Nat
  deriving DecidableEq, Repr

/-- An answer to a callx on its way to the caller (R150): a value, or the callee's fault. -/
structure Answer where
  uid : Nat
  value : Word
  fault : Option Trap
  deriving DecidableEq, Repr

/-- A network interface with a name cache, beside the clerk cores' (R356): the copy engine of a core, an esc node by region instance and
NID, and the registrar. -/
inductive Iface where
  | copy (core : Nat)
  | esc (rinst nid : Nat)
  | registrar
  deriving DecidableEq, Repr

/-- A request sent over a link, whose completion is outstanding (R178, R205). -/
inductive LinkOp where
  /-- a load, with the registers it lands in, and whether it is an acquire (R200) -/
  | load (d : Spec) (d2 : Option Spec) (r : LoadReq) (acq : Bool)
  | amo (r : AmoReq)
  deriving DecidableEq, Repr

/-- An outstanding link request of a thread. -/
structure LinkReq where
  id : Nat
  uid : Nat
  ctx : Nat
  op : LinkOp
  va : Word
  /-- the UALink port that it took (R369) -/
  port : Option Nat
  deriving DecidableEq, Repr

end Sys2Proof.Machine
end

