-- ==== Sys2Proof/Machine/FabricState.lean ====
section
/-! DEFINITION. Plain data of the fabric: token rings, channels, configuration images, tiles, nodes and regions
(03, 04, 09, 10, 11). -/

namespace Sys2Proof.Machine

/-- One end of a circuit or channel (R255): its slots, its cistern (base 0 for none), the tokens in slots, oldest first,
the head and count of the cistern, and whether the consumer of a rendezvous waits for a token (R251). -/
structure Ring where
  slots : Nat
  vbase : Nat
  size : Nat
  q : List Token
  chead : Nat
  ccount : Nat
  want : Bool := false
  deriving DecidableEq, Repr

/-- A channel of a context (R253): `taken` counts the tokens taken since installation (R273), `run` is the engine command
that streams into it (R312), `getters` the threads that wait in chget, oldest first (R272), `fault` the cistern fault of a refill
that the next chput raises (R255). -/
structure Chan where
  ctx : Nat
  num : Nat
  ring : Ring
  cons : Nat
  prod : Nat
  taken : Nat
  run : Option Nat
  getters : List Nat
  fault : Option Trap := none
  deriving DecidableEq, Repr

/-- A stage word (R82). -/
structure StageWord where
  op : Nat
  sa : Nat
  sb : Nat
  sc : Nat
  dst : Nat
  fmt : Nat
  imm : Nat
  deriving DecidableEq, Repr

/-- A switch-table entry (R89). -/
structure SwEntry where
  port : Nat
  out : Bool
  circ : Nat
  deriving DecidableEq, Repr

/-- A tile record with what its header names (R87, R88): its position 32·row + column, the PREC entry, the codebook (empty
for none) and the constant pool. -/
structure TileCfg where
  pos : Nat
  ii : Nat
  sen : Nat
  psn : Nat
  phases : List Nat
  stages : List StageWord
  sw : List SwEntry
  prec : BitVec 64
  book : List Nat
  pool : List Nat
  deriving DecidableEq, Repr

/-- A node record (R90). The body is the whole record, bytes 0 to 63. -/
structure NodeCfg where
  pos : Nat
  kind : Nat
  nid : Nat
  kfl : Nat
  g : Bool
  in0 : Option Nat
  in1 : Option Nat
  out0 : Option Nat
  out1 : Option Nat
  body : List Byte
  deriving DecidableEq, Repr

/-- A link record with its cistern's base and size, 0 for none (R249, R255). -/
structure LinkCfg where
  slots : Nat
  dist : Nat
  vbase : Nat
  size : Nat
  deriving DecidableEq, Repr

/-- An accepted configuration image (R105, R106). -/
structure Image where
  handle : Nat
  rows : Nat
  cols : Nat
  seed : BitVec 32
  tiles : List TileCfg
  nodes : List NodeCfg
  links : List LinkCfg
  deriving DecidableEq, Repr

/-- A partly summed window of R47 for one accumulator entry: whether a product was formed, the exact sum in units of
2^-40, whether every product so far was -0 or +0, and the special products seen. -/
structure Win where
  any : Bool
  sum : Int
  allNeg : Bool
  allPos : Bool
  nan : Bool
  inv : Bool
  pinf : Bool
  ninf : Bool
  deriving DecidableEq, Repr

/-- A compute tile (R207). Accumulator banks are 256 codes, entry 16·row + column. -/
structure TileSt where
  prec : BitVec 64
  pendPrec : Option (BitVec 64)
  book : List Nat
  pendBook : Option (List Nat)
  flg : BitVec 5
  gens : List (BitVec 32)
  acc : List Nat
  bank : List Nat
  k : Nat
  /-- firings of acc.drain taken and to take for the drain bank, and the closing EOR (R244) -/
  drainAt : Nat
  drainLen : Nat
  closing : Bool
  /-- stream pointers: key, blocks taken so far (R227); the key is a stage number, or 60 to 63 for pln.mma, where 60 and 61 hold
  one more than the number of the block held -/
  ptrs : List (Nat × Nat)
  /-- the block that is held of each scale stream (R243); its number is in `ptrs` -/
  scaleA : List Nat
  scaleB : List Nat
  emits : List Nat
  latch : Option Token
  /-- what the latched marker waits for: 0 the end of the reduction, 1 the next closing EOR, 3 the
  one after it, 2 the next firing (R230) -/
  latchAt : Nat
  win : List Win
  /-- firings so far of each stage, the stages that have passed DRAIN, and the last result of each stage (R213, R260) -/
  fired : List Nat
  dead : List Nat
  res : List (Nat × Token)
  deriving DecidableEq, Repr

/-- A stream of an agn node (R279, R281): its run, the marker that follows it, the blocks that it has read ahead, oldest first, and
its translation entry (R280). -/
structure Stream where
  active : Bool
  base : Nat
  i2 : Nat
  i1 : Nat
  i0 : Nat
  eor : Bool
  /-- the marker that follows the runs -/
  mark : Option Token
  ahead : List (List Nat) := []
  tr : Option Tlb := none
  deriving DecidableEq, Repr

/-- A slip in use (R267): index, the thread started for it, state, the CLK at which it reached that state, and for a
marker or a POISON answer its token. -/
structure Slip where
  idx : Nat
  uid : Option Nat
  state : Nat
  ord : Nat
  tok : Token
  deriving DecidableEq, Repr

/-- A sluice request in flight (R291): its tag, its address, its reply token and slot, and its old value and outcome once
it has been performed at the module's own memory. -/
structure SluiceReq where
  tag : Nat
  va : Nat
  reply : Nat
  u : Nat
  old : Option Nat
  /-- the UALink port that it took (R369) -/
  port : Option Nat
  deriving DecidableEq, Repr

/-- A reply token being formed, or a marker behind the replies (R291). -/
structure Reply where
  id : Nat
  tok : Token
  left : Nat
  closed : Bool
  deriving DecidableEq, Repr

/-- What a node holds beside its header, by kind. -/
inductive NodeVar where
  | plain
  | snk (eos npois late : Nat) (reported : Bool)
  | agn (s0 s1 : Stream) (started : Bool)
  /-- memg and mems: index, data and guard tokens taken, first lane not performed, results so far, index tokens taken -/
  | mem (idx data guard : Option Token) (lane : Nat) (out : List Nat) (mask : Nat) (seen : Nat)
  /-- slh: next position and end of the pass, passes begun, the markers due after it, the word whose set bits a token has not
  taken whole, and the summary word that the pass has read last: their numbers and values -/
  | slh (pos : Option (Nat × Nat)) (started : Bool) (eor eos : Bool) (word sum : Option (Nat × Nat))
  /-- accn: sums, lanes that hold one, DATA tokens counted, IN1's turn, EOR seen on IN0 and IN1, tokens to emit, flags,
  the CKPT that waits, and the tokens taken so far, which number its draws in mode SR -/
  | accn (sums : List Nat) (got : Nat) (count : Nat) (turn e0 e1 : Bool) (out : List Token) (flg : BitVec 5) (latch : Option Token)
      (draws : Nat)
  /-- esc: sequence of the next slip, slips in use oldest first, starts waiting, core used last -/
  | esc (seq : Nat) (slips : List Slip) (starts : List Nat) (last : Nat)
  /-- sluice: tokens taken, next update, requests in flight, replies in order, update tokens taken -/
  | sluice (tok guard : Option Token) (u : Nat) (reqs : List SluiceReq) (replies : List Reply) (seen : Nat)
  deriving DecidableEq, Repr

/-- A node of a region. `fault` pauses it (R277), `part` names the step that met it, the only one that `retry` lets try again
(R349). `closed`: it takes no further
tokens (R260); `inject`: the marker that it sends next; `ended`: the marker that reached it where it has no output, or that it
has passed (a snk or an end node). -/
structure NodeSt where
  nid : Nat
  var : NodeVar
  fault : Option Trap
  retry : Bool
  part : Nat := 0
  /-- the ticks before its fault (R349) -/
  first : Nat
  /-- the ticks up to the last one that has let it try again (R349) -/
  last : Nat := 0
  closed : Bool
  inject : Option Nat
  ended : Option Nat
  deriving DecidableEq, Repr

/-- An entry of a region's address-compare queue (R286): a node that others are chained after, the number of its token, and the byte
ranges of the token's accesses, as class, address and length. -/
structure Compare where
  nid : Nat
  num : Nat
  ranges : List (Bool × Nat × Nat)
  deriving DecidableEq, Repr

/-- An in-bound end of a circuit: at the port of a tile (1 to 4) or the input of a node (0, 1). The ring of a timed circuit
counts in `chead` the iterations whose tokens have left it (R250). -/
structure End where
  circ : Nat
  node : Bool
  pos : Nat
  port : Nat
  timed : Bool
  ring : Ring
  deriving DecidableEq, Repr

/-- Where a region stands: its image is being checked, or has passed; it runs; it drains (R260); it checkpoints (R262), for
a pre-emption or for a forced cancel; its checkpoint has ended; it is empty and reusable (R263). -/
inductive RPhase where
  | loading | checked | running | draining | checkpoint (forced : Bool) | stopped | idle
  deriving DecidableEq, Repr

/-- A region of tiles that holds or loads a configuration. `stripe` is 24·die + 4·field + the fabric stripe's half. -/
structure Region where
  rinst : Nat
  ctx : Nat
  ticket : Nat
  stripe : Nat
  row : Nat
  col : Nat
  rows : Nat
  cols : Nat
  phase : RPhase
  img : Image
  /-- the image in the shadow planes, and the state restored when it switches (R262, R263) -/
  shadow : Option Image
  /-- the shadow planes hold an uncorrectable error (R264) -/
  shadowBad : Bool := false
  resume : Option (List NodeSt × List End)
  tiles : List TileSt
  nodes : List NodeSt
  ends : List End
  /-- the address-compare queue (R286) -/
  compares : List Compare := []
  sclk : Nat
  /-- CLK of the order that a watchdog counts from (R352) -/
  since : Nat
  /-- image address and handle of the launch (R326) -/
  code : Word
  handle : Nat
  deriving DecidableEq, Repr

end Sys2Proof.Machine
end

