-- ==== Sys2Proof/Machine/HostState.lean ====
section
/-! DEFINITION. Plain data of contexts, bind records, engines, the registrar and the outside (12 to 15). -/

namespace Sys2Proof.Machine

/-- The deep-memory split of a context on one die, SCSPLIT (R161). -/
structure Split where
  grant : Nat
  scr : Nat
  cch : Nat
  rej : Bool
  deriving DecidableEq, Repr

/-- An installed context: the copy of its record (R323) and what the registrar keeps for it. -/
structure Ctx where
  idx : Nat
  ptroot : Nat
  pubBase : Nat
  pubCnt : Nat
  chCnt : Nat
  lslots : Nat
  chBase : Word
  saveBase : Nat
  saveLen : Nat
  hsave : Word
  maxPri : Nat
  prvOk : Bool
  splits : Vector Split 4
  /-- sequence number of the next fault record (R348) -/
  logNext : Nat
  /-- the deep-memory units that it holds, as 32·die + unit, in the order in which it numbers those of a die (R160, R359) -/
  deep : List Nat := []
  deriving DecidableEq, Repr

/-- A bind record in force (R330). -/
structure Bind where
  region : Bool
  ctx : Nat
  /-- core number (threads) or region instance (regions) -/
  unit : Nat
  slots : Nat
  rinst : Nat
  ticket : Nat
  semg : Nat
  wbase : Nat
  wlen : Nat
  code : Word
  handler : Word
  /-- the escape stripe's region, for a record that an escape stripe's core holds (R266) -/
  escape : Option (Nat × Nat)
  deriving DecidableEq, Repr

/-- A core-scratch window of a context (R157). -/
structure Window where
  core : Nat
  ctx : Nat
  base : Nat
  len : Nat
  deriving DecidableEq, Repr

/-- A command that an engine accepted: its issuer, the words of its register block, the geometry as it stood at the
acceptance, whether one of its ranges lies in deep scratch (R162), whether its .c destination, if it has one, is resolved, and to
which publication record (R202), its status word once it has ended, the tokens that an nbl.pairs has still to put (R312), and of a copy
that has begun how far it has come, the bytes that it has written, its indices out of range and the index of its row (R300). -/
structure Cmd where
  id : Nat
  uid : Nat
  ctx : Nat
  core : Nat
  op : Nat
  regs : List Word
  geom : List Word
  deep : Bool := false
  resolved : Bool
  pubRec : Option Nat
  status : Option Word
  toks : List Token
  pos : Nat := 0
  bytes : Nat := 0
  oob : Nat := 0
  idx : Option Int := none
  deriving DecidableEq, Repr

/-- A table descriptor of the sparse-feature port (R318). -/
structure SflTab where
  tid : Nat
  base : Word
  nrow : Nat
  fmt : Nat
  elems : Nat
  deriving DecidableEq, Repr

/-- The statistics of a neighbour-list engine (R314). -/
structure NblStat where
  engst : Nat
  ovn : Nat
  maxocc : Nat
  stalen : Nat
  deriving DecidableEq, Repr

/-- A grid of a work distributor (R320). -/
structure Grid where
  gid : Nat
  owner : Nat
  x : Nat
  y : Nat
  z : Nat
  morton : Bool
  next : Nat
  deriving DecidableEq, Repr

/-- A copy engine (code 0) or a domain engine (codes 1 to 4) of one unit: pin holder and waiters (R151), geometry
registers (R116), accepted commands, oldest first, and what its kind keeps. -/
structure Engine where
  code : Nat
  unit : Nat
  holder : Option Nat
  waiters : List Nat
  geom : List Word
  fifo : List Cmd
  stat : NblStat
  tabs : List SflTab
  grids : List Grid
  deriving DecidableEq, Repr

/-- A level of a launch record (R326). -/
structure Level where
  extent : Nat
  scope : Nat
  dom : Nat
  deriving DecidableEq, Repr

/-- A launch record as the registrar read it (R326). -/
structure LaunchRec where
  region : Bool
  prv : Bool
  ser : Bool
  present : Bool
  cscope : Nat
  handle : Nat
  code : Word
  compl : Word
  arg : Word
  depw : Word
  handler : Word
  report : Word
  sems : Nat
  scrw : Nat
  escn : Nat
  levels : List Level
  deriving DecidableEq, Repr

/-- Where a launch stands (R324, R336, R340). A launch that is `preempting` runs still while its parts are being saved. -/
inductive LPhase where
  | queued | running | preempting | preempted
  deriving DecidableEq, Repr

/-- A launch in a queue or running. -/
structure Launch where
  ticket : Nat
  queue : Nat
  ctx : Nat
  pri : Nat
  spec : LaunchRec
  phase : LPhase
  /-- order of dispatch (R336) and number of the launch among those of its queue -/
  order : Nat
  /-- the previous launch of the queue, for SER (R329) -/
  prev : Option Nat
  /-- parts still running, and what the ended ones reported (R261, R333) -/
  left : Nat
  nnz : Nat
  xmax : Nat
  npois : Nat
  late : Nat
  flg : BitVec 5
  /-- the slots of each core that its records bind (R330), as they stood when it was pre-empted last -/
  place : List (Nat × Nat)
  /-- the counts of its semaphores, as core, number and count, where its grants ended with its pre-emption (R145, R379) -/
  sems : List (Nat × Nat × Nat) := []
  /-- saved state of region instances of a pre-empted launch (R262) -/
  saved : List (List NodeSt × List End)
  /-- a forced cancel or a fatal fault aborts it, at the next tick for threads (R340, R350) -/
  abort : Bool
  /-- the clk at which it was ordered to be pre-empted last (R352) -/
  since : Nat := 0
  /-- an abandoned pre-emption bars it from the next victim sets (R352) -/
  barred : Bool
  deriving DecidableEq, Repr

/-- An entry of an ingress cistern (R325): the number of the launch token that it follows or is, whether it is one, and where the entry
stands. -/
structure Spilled where
  epoch : Nat
  launch : Bool
  ctx : Nat
  va : Nat
  deriving DecidableEq, Repr

/-- A work queue and its ingress port (R324, R325). Every token and launch token carries the number of the launch token
that it follows. `opened` maps such a number to a launch ticket, `waiting` holds the launch tokens that wait in the port, and `ctail` is
the entry of the cistern that a token spills to next. -/
structure Queue where
  idx : Nat
  ctx : Nat
  pri : Nat
  bound : Bool
  cvbase : Nat
  csize : Nat
  port : List (Nat × Token)
  ctail : Nat
  cist : List Spilled
  payload : List Byte
  drop : Nat
  orphan : Nat
  accept : Nat
  epoch : Nat
  opened : List (Nat × Nat)
  waiting : List (Nat × Word)
  dropped : Bool
  deriving DecidableEq, Repr

/-- An enq that the registrar performs (R343). -/
structure Enq where
  id : Nat
  uid : Nat
  ctx : Nat
  core : Nat
  prv : Bool
  regs : List Word
  deriving DecidableEq, Repr

/-- The contents of a window that was withdrawn from a context (R157, R337), kept for the launch that was pre-empted, if it was for
that. -/
structure SavedWin where
  core : Nat
  ctx : Nat
  len : Nat
  ticket : Option Nat
  cells : List Host.Cell
  deriving DecidableEq, Repr

/-- A lending (R339): the holder, the waiter that gave its slot, the priority at which the holder counts, and the lock word. -/
structure Lend where
  holder : Nat
  waiter : Nat
  pri : Nat
  pa : Nat
  deriving DecidableEq, Repr

/-- The registrars (13). -/
structure Registrar where
  queues : List Queue
  launches : List Launch
  /-- launches entered so far, by queue (R334), and the latest ticket of each queue (R329) -/
  counts : List (Nat × Nat)
  latest : List (Nat × Nat)
  last : List Nat
  order : Nat
  nextRinst : Nat
  enqs : List Enq
  /-- saved windows of contexts (R157) -/
  savedWin : List SavedWin
  /-- lendings under way (R339) -/
  lends : List Lend := []
  /-- next tick of R336 -/
  ticks : Nat
  /-- Aeltas rings (R341, R342) -/
  cbase : BitVec 64
  csz : Nat
  qbase : BitVec 64
  qsz : Nat
  ctail : Nat
  chead : Nat
  qhead : Nat
  qtail : Nat
  phase : Bool
  /-- join events that wait for room in the completion ring -/
  joinq : List Word
  /-- the bytes of the command that Aeltas has taken and handles (R342) -/
  busy : Option (List Byte) := none
  deriving DecidableEq, Repr

/-- A row of the error table of a die (R357): store and row, unit, count, CLK of the first error. -/
structure ErrRow where
  store : Nat
  unit : Nat
  row : Nat
  count : Nat
  first : Nat
  deriving DecidableEq, Repr

/-- A lasting row (R358): store, unit, row identifier, and whether an uncorrectable error made it so. -/
structure LastRow where
  store : Nat
  unit : Nat
  row : Nat
  ue : Bool
  deriving DecidableEq, Repr

/-- A retired unit (R359, R360): record kind, unit number, and whether the retirement has taken effect. -/
structure Retired where
  kind : Nat
  unit : Nat
  effect : Bool
  deriving DecidableEq, Repr

/-- A completion that the module has sent to the host, or to a peer on a port (R363, R365, R369). -/
inductive HostReply where
  | data (bs : List Byte)
  | poisoned
  | unsupported
  | abort
  deriving DecidableEq, Repr

/-- The outside: control registers, status page, links, error counting and attestation (14, 15). -/
structure Outside where
  aperture : BitVec 64
  /-- the size of BAR4 as a power of 2: 16 GiB at reset (R364) -/
  bar4 : Nat := 34
  myV : Bool
  myIdx : Nat
  plim : Nat
  msix : List Host.Cell
  pba : List Nat
  /-- AtomicOp Requester Enable of PCIe Device Control 2 (R292) -/
  atomReq : Bool
  /-- power state D3hot (R363) -/
  d3 : Bool := false
  /-- completions sent to the host (none) and to peers, by port, newest first (R363, R365, R369) -/
  replies : List (Option Nat × HostReply) := []
  bootcnt : Nat
  settled : Bool
  fatal : Bool
  joingen : Nat
  failed : List Nat
  tjmax : Nat
  /-- excursion allowance, and microseconds above the limit and at or below it that have not moved it yet (R372) -/
  allow : Nat
  above : Nat
  below : Nat
  joinclk : Nat
  /-- power samples of the last millisecond, newest first (R367, R372) -/
  samples : List Nat
  /-- CLK at which THERM.TLF was set (R168) -/
  tlfSince : Nat
  /-- CLK since which every sensor has read 95 °C or below (R168) -/
  coolSince : Option Nat := none
  errors : List (Nat × List ErrRow)
  lasting : List LastRow
  retired : List Retired
  nonce : List Byte
  attBusy : Bool
  attDone : Bool
  report : List Byte
  /-- the bytes that M_LOG measures, as they stood at the reset (R373) -/
  mlog : List Byte
  /-- failed links of the stitched mesh between fields (R354) -/
  links : List (Nat × Nat)
  /-- from a reset until field 0 of die 0 joins (R371) -/
  booting : Bool
  /-- the module has power -/
  powered : Bool
  /-- CLK and flash address of the slot that the last append or compaction wrote (R360, R362) -/
  lastSlot : Option (Nat × Nat)
  deriving DecidableEq, Repr

end Sys2Proof.Machine
end

