-- ==== Sys2Proof/Machine/State.lean ====
section
/-! DEFINITION. The state of the module, its faults and refusals, and the state after reset. -/

namespace Sys2Proof.Machine

/-- Why a step can stop. -/
inductive Fault where
  /-- A scalar word was to be executed but the selected thread is not in state ready (R133: such a thread does not
  issue). Raised by every scalar meaning. Safe: the manual lets no such word execute. -/
  | noReadyThread
  deriving DecidableEq, Repr

/-- Why a step can be refused. -/
inductive Refusal where
  /-- The instruction has no meaning yet; the dispatcher answers with it. Safe. -/
  | notModelled (mnemonic : String)
  deriving DecidableEq, Repr

/-- What moves next: a core issues one word, or a step of the module's own takes place. -/
inductive Move where
  | issue (core : Nat)
  | event (i : Instr)
  deriving DecidableEq, Repr

/-- One entry of the agenda: the clk that pass first, the unit that steps, and the move. -/
structure Plan where
  dt : Nat
  unit : Nat
  move : Move
  deriving DecidableEq, Repr

/-- The state of the module. -/
structure State where
  /-- CLK (R119) -/
  clk : Nat
  /-- MODEL: what moves next, in order (log entry 2) -/
  agenda : List Plan
  /-- MODEL: the unit that a step without an argument names; for COPY_START the core, and 2,048 times the source lines that it reads, 0 for
  all (log entry 9) -/
  unit : Nat
  /-- MODEL: the counter that free values are applied to -/
  free : Nat
  /-- MODEL: the next name for threads, loads, stores, commands and requests -/
  nextId : Nat
  /-- the thread that issues now, and all others -/
  th : Thread
  others : List Thread
  cores : List (Nat × CoreSt)
  /-- CLK and core of the last word that issued (R134) -/
  issued : Option (Nat × Nat)
  /-- fences so far that cover instruction fetch (R53) -/
  fences : Nat
  /-- the translation caches of the walkers, by swarm stripe (R185) -/
  walkers : List (Nat × List Tlb)
  mem : List Host.Cell
  deep : List Host.Cell
  scratch : List Host.Cell
  tiles : List Host.Cell
  flash : List Host.Cell
  /-- units that hold an uncorrectable error: 64-byte lines of `mem`, 8-byte words of the others (R170, R206) -/
  bad : List (Space × Nat)
  stores : List Store
  links : List LinkReq
  answers : List Answer
  wakes : List WakeMsg
  buses : List BusInst
  /-- releases so far of a bus key: bus, bid, context, count (R147) -/
  busCounts : List (Nat × Nat × Nat × Nat)
  windows : List Window
  ctxs : List Ctx
  binds : List Bind
  /-- the name caches of interfaces other than the clerk cores': logical name and core, newest first (R356) -/
  caches : List (Iface × List (Nat × Nat)) := []
  engines : List Engine
  /-- fields that have joined, as 6·die + field (R368) -/
  joined : List Nat
  retiredCores : List Nat
  /-- live-slice map: entry n is the swarm stripe (24·die + 4·field + index) that serves home n (R179) -/
  sliceMap : List Nat
  tlf : Bool
  pwx : Bool
  routes : List (Nat × Nat)
  portsUp : Nat
  portsEn : Nat
  /-- MSI-X vectors sent so far, newest first (R341, R348, R366) -/
  msi : List Nat
  /-- VEC, the vector of completions and fault records (R341) -/
  vec : Nat
  /-- launches that a fatal fault or an order aborts, by ticket; the registrar acts on them (R350) -/
  dying : List Nat
  /-- exit codes reported and not yet taken by the registrar: ticket, rank, code (R141) -/
  exits : List (Nat × Nat × Nat)
  chans : List Chan
  regions : List Region
  reg : Registrar
  out : Outside
  deriving DecidableEq, Repr

/-- A thread with the values that R114 gives at creation; the selected thread of a module that holds none. -/
def Thread.initial : Thread :=
  { uid := 0, ctx := 0, core := 0, slot := 0, mode := .empty, place := .slot, g := Vector.replicate 32 0,
    q := Vector.replicate 8 0, y0 := 0, y1 := 0, k := Vector.replicate 4 0, pc := 0, dz := false, la := false,
    prv := false, bornPrv := false, peng := 7, fv := false, fmt := 0, sv := false, scl := 0, ffl := 0, frm := 0, srnd := 1, lc := 0,
    ls := 0, le := 0, join := 0, parent := 0, ticket := 0, wait := .none, wres := 0, wresValid := false,
    wakePending := false, inHandler := false, deadline := 0, savea := 0, inflight := [], y0Id := none, y1Id := none,
    seen := [], deferred := [], bindTicket := 0, byBind := none, origin := 0, escape := none, word := 0, retry := none, skip := [],
    since := 0 }

/-- What the flash of a new module holds after the recovery of an erased log (R362): the header of bank 0, GEN 1. Unlisted
bytes read 0xFF. -/
def flashStart : List Host.Cell :=
  (List.range 64).map (fun i => (i, (if i = 16 then 1 else if i = 59 then 0xA5 else if i = 60 then 180 else if i = 61 then 128
    else if i = 62 then 224 else if i = 63 then 173 else 0)))

/-- The registrars right after a reset (R336, R341, R342). -/
def Registrar.start : Registrar :=
  { queues := [], launches := [], counts := [], latest := [], last := List.replicate 8 16383, order := 0, nextRinst := 0,
    enqs := [], savedWin := [], ticks := 0, cbase := 0, csz := 0, qbase := 0, qsz := 0, ctail := 0, chead := 0, qhead := 0,
    qtail := 0, phase := true, joinq := [] }

/-- The outside right after a reset (R365 to R374). -/
def Outside.start : Outside :=
  { aperture := 0, myV := false, myIdx := 0, plim := 72, msix := [], pba := [], atomReq := false, bootcnt := 1, settled := false,
    fatal := false, joingen := 0, failed := [], tjmax := 0, allow := 1000, above := 0, below := 0, joinclk := 0, samples := [],
    tlfSince := 0, errors := [], lasting := [], retired := [], nonce := List.replicate 48 0, attBusy := false, attDone := false,
    report := List.replicate 304 0, mlog := [], links := [], booting := true, powered := true, lastSlot := none }

/-- The module right after reset (R8, R371): no field has joined, no context is installed and no thread exists. Memory lists
nothing. -/
def State.reset : State :=
  { clk := 0, agenda := [], unit := 0, free := 0, nextId := 1, th := Thread.initial, others := [], cores := [], issued := none, fences := 0, walkers := [], mem := [],
    deep := [], scratch := [], tiles := [], flash := flashStart, bad := [], stores := [], links := [], answers := [], wakes := [],
    buses := [], busCounts := [], windows := [], ctxs := [], binds := [], engines := [], joined := [], retiredCores := [],
    sliceMap := [], tlf := false, pwx := false, routes := [], portsUp := 0, portsEn := 0xFFFF, msi := [], vec := 0, dying := [],
    exits := [], chans := [], regions := [], reg := Registrar.start, out := Outside.start }

end Sys2Proof.Machine
end

