-- ==== Sys2Proof/Machine/Mem.lean ====
section
/-! DEFINITION. Byte stores as lists of cells in one canonical form, and the access of any store of the module to them
(R5, R157, R160, R165, R178). A cell list is rising in address and lists no byte that an unlisted address reads as. -/

namespace Sys2Proof.Machine

/-- The byte at an address; d is what an unlisted address reads as. -/
def cellRead (d : Byte) : List Host.Cell → Nat → Byte
  | [], _ => d
  | (k, v) :: l, a => if k = a then v else cellRead d l a

/-- The list with one byte written; a byte equal to d is not listed. -/
def cellWrite (d : Byte) : List Host.Cell → Nat → Byte → List Host.Cell
  | [], a, b => if b = d then [] else [(a, b)]
  | (k, v) :: l, a, b =>
    if k = a then cellWrite d l a b
    else if a < k ∧ b ≠ d then (a, b) :: (k, v) :: l
    else (k, v) :: cellWrite d l a b

/-- The canonical form: addresses strictly rising above a bound, and no byte equal to d. -/
def cellsWfFrom (d : Byte) : Nat → List Host.Cell → Bool
  | _, [] => true
  | lo, (k, v) :: l => decide (lo ≤ k) && decide (v ≠ d) && cellsWfFrom d (k + 1) l

/-- The canonical form of a store (log entry 1: an unlisted byte reads d). -/
def Memory.wf (d : Byte) (l : List Host.Cell) : Bool := cellsWfFrom d 0 l

/-- What an unlisted byte of a store reads as: 0, and 0xFF in the flash (R360; log entry 1). -/
def Space.blank : Space → Byte
  | .flash => 0xFF
  | _ => 0

/-- The key of a store's byte in its cell list: windows lie 2^18 apart, deep scratch of contexts 2^33, tiles 2^18. -/
def Space.key : Space → Nat → Nat
  | .mem, a => a
  | .deep c, a => c * 2 ^ 33 + a
  | .win core ctx, a => (core * 64 + ctx) * 2 ^ 18 + a
  | .tile t, a => t * 2 ^ 18 + a
  | .flash, a => a

/-- The cell list that holds a store. -/
def State.cells (s : State) : Space → List Host.Cell
  | .mem => s.mem
  | .deep _ => s.deep
  | .win _ _ => s.scratch
  | .tile _ => s.tiles
  | .flash => s.flash

/-- The state with the cell list of a store replaced. -/
def State.setCells (s : State) (sp : Space) (l : List Host.Cell) : State :=
  match sp with
  | .mem => { s with mem := l }
  | .deep _ => { s with deep := l }
  | .win _ _ => { s with scratch := l }
  | .tile _ => { s with tiles := l }
  | .flash => { s with flash := l }

/-- One byte of a store. -/
def State.readByte (s : State) (sp : Space) (a : Nat) : Byte := cellRead sp.blank (s.cells sp) (sp.key a)

/-- The state with one byte of a store written. -/
def State.writeByte (s : State) (sp : Space) (a : Nat) (b : Byte) : State :=
  s.setCells sp (cellWrite sp.blank (s.cells sp) (sp.key a) b)

/-- n bytes of a store from an address up. -/
def State.readBytes (s : State) (sp : Space) : Nat → Nat → List Byte
  | _, 0 => []
  | a, n + 1 => s.readByte sp a :: State.readBytes s sp (a + 1) n

/-- The state with bytes of a store written from an address up. -/
def State.writeBytes (s : State) (sp : Space) : Nat → List Byte → State
  | _, [] => s
  | a, b :: bs => State.writeBytes (s.writeByte sp a b) sp (a + 1) bs

/-- A byte with the bits of a mask replaced (R174). -/
def maskByte (old new m : Byte) : Byte := (old &&& ~~~m) ||| (new &&& m)

/-- The state with masked bytes of a store written from an address up. -/
def State.writeMasked (s : State) (sp : Space) : Nat → List (Byte × Byte) → State
  | _, [] => s
  | a, (b, m) :: bs => State.writeMasked (s.writeByte sp a (maskByte (s.readByte sp a) b m)) sp (a + 1) bs

/-- n bytes of a store as a little-endian number (R5). -/
def State.readNat (s : State) (sp : Space) (a n : Nat) : Nat := ofLe (s.readBytes sp a n)

/-- The state with an n-byte little-endian number written (R5). -/
def State.writeNat (s : State) (sp : Space) (a n v : Nat) : State := s.writeBytes sp a (leBytes n v)

/-- log2 of the bytes that one error unit covers: a line of memory, an ECC word elsewhere (R156, R177). -/
def Space.unitBits : Space → Nat
  | .mem => 6
  | _ => 3

/-- A unit that holds an uncorrectable error among n bytes from an address (R170, R206). -/
def State.badAt (s : State) (sp : Space) (a n : Nat) : Bool :=
  s.bad.any (fun p => p.1 == sp && decide (a >>> sp.unitBits ≤ p.2 ∧ p.2 ≤ (a + n - 1) >>> sp.unitBits))

/-- The error units that a store of n whole bytes overwrites entirely are cleared (R170: whole 8-byte words). -/
def State.clearBad (s : State) (sp : Space) (a n : Nat) : State :=
  match sp with
  | .mem => s
  | _ => { s with bad := s.bad.filter (fun p => !(p.1 == sp && decide (a ≤ p.2 * 8 ∧ p.2 * 8 + 8 ≤ a + n))) }

/-- A partial write of a unit that holds an uncorrectable error (R170). -/
def State.badPartial (s : State) (sp : Space) (a n : Nat) (whole : Bool) : Bool :=
  s.bad.any (fun p => p.1 == sp && decide (a / 8 ≤ p.2 ∧ p.2 ≤ (a + n - 1) / 8) &&
    !(whole && decide (a ≤ p.2 * 8 ∧ p.2 * 8 + 8 ≤ a + n)))

/-! ### Writes at the home (R152, R170, R180) -/

/-- A write at a store of the module: the bytes land, whole words lose their errors, and a waitl on a word that they
touch is ended (R152, R170). -/
def State.putBytes (s : State) (sp : Space) (a : Nat) (bs : List (Byte × Byte)) : State :=
  let s1 := s.writeMasked sp a bs
  let s2 := if bs.all (fun p => p.2 == 0xFF) then s1.clearBad sp a bs.length else s1
  match sp with
  | .mem =>
    let touch (t : Thread) : Thread :=
      match t.wait with
      | .lock va pa _ => if a < pa + 8 ∧ pa < a + bs.length then { t with wait := .lock va pa true } else t
      | _ => t
    { s2 with th := touch s2.th, others := s2.others.map touch }
  | _ => s2

/-- Whole bytes as masked bytes. -/
def full (bs : List Byte) : List (Byte × Byte) := bs.map (fun b => (b, 0xFF))

/-- A write of whole bytes at a store of the module. -/
def State.put (s : State) (sp : Space) (a : Nat) (bs : List Byte) : State := s.putBytes sp a (full bs)

end Sys2Proof.Machine
end

