-- ==== Sys2Proof/Machine/Retirement.lean ====
section
/-! DEFINITION. Places (R16), soft errors and lasting rows (R357, R358), retired units (R359), the retirement log (R360 to
R362), and the counts and words of the module status page (R367). -/

namespace Sys2Proof.Machine

/-! ### Places (R16, R331) -/

/-- Die of a core. -/
def coreDie (c : Nat) : Nat := c / 384
/-- Field of a core, 0 to 5. -/
def coreField (c : Nat) : Nat := c / 64 % 6
/-- Swarm stripe number of a core: odd, 1 to 7. -/
def coreStripe (c : Nat) : Nat := 2 * (c / 16 % 4) + 1
/-- Index of a core in its stripe. -/
def coreIndex (c : Nat) : Nat := c % 16

/-- Packed coordinate of R16. -/
def packCoord (die field stripe row col : Nat) : Nat := die * 2 ^ 14 + field * 2 ^ 11 + stripe * 2 ^ 8 + row * 2 ^ 5 + col

/-- Packed coordinate of a core. -/
def coreCoord (c : Nat) : Nat := packCoord (coreDie c) (coreField c) (coreStripe c) 0 (coreIndex c)

/-- The scratch-tile number of a place: 256 positions for each fabric stripe (R16). -/
def tileKey (stripe row col : Nat) : Nat := stripe * 256 + row * 32 + col

/-- Packed coordinate of a tile, by its number. -/
def tileCoord (key : Nat) : Nat := packCoord (key / 6144) (key / 1024 % 6) (2 * (key / 256 % 4)) (key / 32 % 8) (key % 32)

/-- A field, as 6·die + field, has joined (R368). -/
def State.fieldJoined (s : State) (f : Nat) : Bool := s.joined.contains f

/-! ### Rows and units (R357 to R359) -/

/-- Row identifier of an erring address (R358); the row number is a free value (log entry 10). -/
def rowId (code a : Nat) : Nat := code * 2 ^ 28 + (Config.rowNumber code a).toNat

/-- The store code of R358 under which an erring byte counts. -/
def Space.rowCode : Space → Nat
  | .mem => 5
  | .deep _ => 6
  | .win _ _ => 1
  | .tile _ => 2
  | .flash => 0

/-- The unit that holds an erring byte: its store code and number, of deep memory the unit as its context numbers it, behind 128 for each
context; none for a line of HBM or the capacity tier, which is no row of an SRAM store (R357). -/
def Space.rowUnit : Space → Nat → Option (Nat × Nat)
  | .win core _, _ => some (1, core)
  | .tile t, _ => some (2, t)
  | .deep ctx, a => some (6, 128 * (ctx + 1) + a / 2 ^ 26)
  | _, _ => none

/-- The record kind of the unit toward which a store's rows count (R359, R360): 1 compute tile, 2 scratch tile, 3 clerk core,
4 L2 slice, 5 deep-memory unit. -/
def kindOfStore (store : Nat) : Nat :=
  match store with
  | 1 => 3 | 2 => 2 | 3 => 1 | 4 => 3 | 5 => 4 | _ => 5

/-- The die of a unit of a record kind. A tile is numbered by `tileKey`, a core by its name, a slice by its swarm stripe
24·die + 4·field + index, a deep unit by 32·die + unit. -/
def dieOfUnit (kind unit : Nat) : Nat :=
  match kind with
  | 1 => unit / 6144 | 2 => unit / 6144 | 3 => unit / 384 | 4 => unit / 24 | _ => unit / 32

/-- COORD of a unit of a record kind (R360). -/
def unitCoord (kind unit : Nat) : Nat :=
  match kind with
  | 1 => tileCoord unit
  | 2 => tileCoord unit
  | 3 => coreCoord unit
  | 4 => coreCoord (16 * unit)
  | _ => unit / 32 * 2 ^ 14 + unit % 32

/-- The unit of a record kind that a COORD names (R16, R360). -/
def coordUnit (kind coord : Nat) : Nat :=
  let die := coord / 2 ^ 14
  let field := coord / 2 ^ 11 % 8
  let stripe := coord / 2 ^ 8 % 8
  let f := 24 * die + 4 * field + stripe / 2
  match kind with
  | 1 => f * 256 + coord % 256
  | 2 => f * 256 + coord % 256
  | 3 => f * 16 + coord % 16
  | 4 => f
  | _ => 32 * die + coord % 32

/-- A COORD names a unit of a record kind (R16): not a field 6 or 7, not a row or column that a swarm stripe has not, and not a tile of
the other colour. A record that carries another is not applied. -/
def coordNames (kind coord : Nat) : Bool :=
  let row := coord / 2 ^ 5 % 8
  let col := coord % 2 ^ 5
  let fabric := decide (coord / 2 ^ 8 % 2 = 0)
  let swarm := !fabric && decide (row = 0 ∧ col < 16)
  decide (coord / 2 ^ 11 % 8 < 6) &&
    match kind with
    | 1 => fabric && decide ((row + col) % 2 = 0)
    | 2 => fabric && decide ((row + col) % 2 = 1)
    | 3 => swarm
    | 4 => swarm
    | 6 => fabric || swarm
    | _ => true

/-- A unit is retired, or to be retired (R359): record kind and unit number. -/
def State.isRetired (s : State) (kind unit : Nat) : Bool := s.out.retired.any (fun r => r.kind == kind && r.unit == unit)

/-- A tile position cannot be used for placement: it is retired, or one of its four scratch neighbours is (R14, R359). -/
def State.tileBad (s : State) (stripe row col : Nat) : Bool :=
  s.isRetired 1 (tileKey stripe row col) || s.isRetired 2 (tileKey stripe row col) || (decide ((row + col) % 2 = 0) &&
    (s.isRetired 2 (tileKey stripe ((row + 7) % 8) col) || s.isRetired 2 (tileKey stripe ((row + 1) % 8) col) ||
      s.isRetired 2 (tileKey stripe row ((col + 31) % 32)) || s.isRetired 2 (tileKey stripe row ((col + 1) % 32))))

/-! ### The module status page (R367) -/

/-- The physical address of the status page: the last page of HBM. -/
def statusPage : Nat := 0xBFFFFFF000

/-- A set of bits as a number. -/
def bitSet (l : List Nat) : Nat := l.foldl (fun m i => m ||| 2 ^ i) 0

/-- Compute tiles of the joined fields that can be used for placement (R25, R359). -/
def State.tileCount (s : State) : Nat :=
  let near (k : Nat) : List Nat :=
    let f := k / 256
    let row := k / 32 % 8
    let col := k % 32
    [tileKey f ((row + 7) % 8) col, tileKey f ((row + 1) % 8) col, tileKey f row ((col + 31) % 32), tileKey f row ((col + 1) % 32)]
  let bad := s.out.retired.flatMap (fun r => if r.kind = 1 then [r.unit] else if r.kind = 2 then near r.unit else [])
  let gone := (bad.filter (fun k => s.fieldJoined (k / 1024))).foldl (fun (l : List Nat) k => if l.contains k then l else k :: l) []
  512 * s.joined.length - gone.length

/-- Units of a record kind in joined fields that are retired. -/
def State.goneUnits (s : State) (kind perField : Nat) : Nat :=
  (s.out.retired.filter (fun r => r.kind == kind && s.fieldJoined (r.unit / perField))).length

/-- Clerk cores that can be named in bind records (R359). -/
def State.coreTotal (s : State) : Nat := 64 * s.joined.length - s.goneUnits 3 64

/-- Live L2 slices (R359): a retired one is live until the slice map lets it go. -/
def State.sliceTotal (s : State) : Nat :=
  4 * s.joined.length - (s.out.retired.filter (fun r => r.kind == 4 && r.effect && s.fieldJoined (r.unit / 4))).length

/-- Deep-memory units of a die that can be granted (R359, R367). -/
def State.deepUnits (s : State) (die : Nat) : Nat :=
  if (upto 6).any (fun f => s.fieldJoined (6 * die + f)) then
    32 - (s.out.retired.filter (fun r => r.kind == 5 && r.unit / 32 == die)).length
  else 0

/-- The word of counts at offset 0x18. -/
def State.countWord (s : State) : Nat :=
  s.coreTotal + s.tileCount * 2 ^ 16 + s.sliceTotal * 2 ^ 40 + ((upto 4).map s.deepUnits).sum * 2 ^ 48

/-- The average of the power samples of the last millisecond, in watts (R367). -/
def Outside.power (o : Outside) : Nat := if o.samples = [] then 0 else o.samples.sum / o.samples.length

/-- The words of the status page but JOINGEN and JOINCLK: offset and value. After a module-fatal fault the counts keep their
values. -/
def State.statusWords (s : State) : List (Nat × Nat) :=
  [(0x00, s.out.bootcnt % 2 ^ 32 * 2 ^ 32 + (if s.out.settled then 2 else 0) + (if s.out.fatal then 1 else 0)),
   (0x10, bitSet s.joined + bitSet s.out.failed * 2 ^ 32)] ++
  (if s.out.fatal then [] else [(0x18, s.countWord)]) ++
  [(0x20, s.out.allow % 2 ^ 16 + s.out.tjmax % 2 ^ 16 * 2 ^ 16 + s.out.power % 2 ^ 32 * 2 ^ 32)]

/-- Aeltas writes the status page without a join event. -/
def State.showStatus (s : State) : State :=
  s.statusWords.foldl (fun s p => s.put .mem (statusPage + p.1) (leBytes 8 p.2)) s

/-- Aeltas writes the status page at a join event, JOINGEN last (R367). -/
def State.showJoin (s : State) : State :=
  let s1 := (s.showStatus).put .mem (statusPage + 0x28) (leBytes 8 s.out.joinclk)
  s1.put .mem (statusPage + 0x08) (leBytes 8 s.out.joingen)

/-! ### The retirement log (R360 to R362) -/

/-- One byte of CRC-32C, reflected (R88). -/
def crcByte (c : BitVec 32) (b : Byte) : BitVec 32 :=
  (upto 8).foldl (fun (x : BitVec 32) _ => if x.getLsbD 0 then (x >>> 1) ^^^ 0x82F63B78#32 else x >>> 1) (c ^^^ b.setWidth 32)

/-- CRC-32C of a byte string (R88). -/
def crc32c (bs : List Byte) : Nat := ((bs.foldl crcByte 0xFFFFFFFF#32) ^^^ 0xFFFFFFFF#32).toNat

/-- n bytes of a record from an offset as a number (R5). -/
def recNat (bs : List Byte) (off n : Nat) : Nat := ofLe ((bs.drop off).take n)

/-- Flash address of a slot of a bank. -/
def slotAt (bank slot : Nat) : Nat := bank * 2 ^ 20 + 64 * slot

/-- The 64 bytes of a slot. -/
def State.slotBytes (s : State) (bank slot : Nat) : List Byte := s.readBytes .flash (slotAt bank slot) 64

/-- A slot's bytes as they stand once committed: bytes 0 to 58, COMMIT and CRC. -/
def sealSlot (bs : List Byte) : List Byte :=
  let body := (bs ++ List.replicate 59 0).take 59 ++ [0xA5]
  body ++ leBytes 4 (crc32c body)

/-- A slot is committed. -/
def slotCommitted (bs : List Byte) : Bool := recNat bs 59 1 == 0xA5 && crc32c (bs.take 60) == recNat bs 60 4

/-- A slot is empty. -/
def slotEmptyBytes (bs : List Byte) : Bool := bs.all (fun b => b == 0xFF)

/-- The bytes of a record (R360). -/
def logRecord (seq kind cause coord clk boot : Nat) (rest : List Byte) : List Byte :=
  sealSlot (leBytes 4 seq ++ [BitVec.ofNat 8 kind, BitVec.ofNat 8 cause] ++ leBytes 2 coord ++ leBytes 8 clk ++ leBytes 4 boot ++ rest)

/-- GEN of a bank whose header is committed. -/
def State.bankGen (s : State) (bank : Nat) : Option Nat :=
  let bs := s.slotBytes bank 0
  if slotCommitted bs = true ∧ recNat bs 4 1 = 0 then some (recNat bs 16 4) else none

/-- The live bank: the one whose header is committed with the greater GEN (R362). -/
def State.liveBank (s : State) : Option Nat :=
  match s.bankGen 0, s.bankGen 1 with
  | some a, some b => some (if a < b then 1 else 0)
  | some _, none => some 0
  | none, some _ => some 1
  | none, none => none

/-- A bank with every byte erased. -/
def State.eraseBank (s : State) (bank : Nat) : State :=
  { s with flash := s.flash.filter (fun p => p.1 / 2 ^ 20 != bank) }

/-- The last slot of a bank that is not empty; 0 stands for none beside the header. -/
def State.lastSlot (s : State) (bank : Nat) : Nat :=
  (s.flash.filter (fun p => p.1 / 2 ^ 20 == bank && p.2 != 0xFF)).foldl (fun m p => Nat.max m (p.1 % 2 ^ 20 / 64)) 0

/-- A unit is marked retired; a unit that is marked already stays as it is. -/
def State.markRetired (s : State) (effect : Bool) (kind unit : Nat) : State :=
  if s.isRetired kind unit then s
  else { s with out := { s.out with retired := s.out.retired ++ [{ kind := kind, unit := unit, effect := effect }] } }

/-- Bits of a summary's MAP that are set (R361). -/
def mapBits (bs : List Byte) : List Nat := (upto 256).filter (fun b => ((bs.getD (20 + b / 8) 0).toNat).testBit (b % 8))

/-- The units that a committed record retires (R359, R361): none where its COORD names no resource (R16). -/
def recordUnits (bs : List Byte) : List (Nat × Nat) :=
  let kind := recNat bs 4 1
  let coord := recNat bs 6 2
  if coordNames kind coord = false then []
  else if kind = 6 then
    if coord / 256 % 2 = 0 then
      (mapBits bs).map (fun b => (if (b / 32 + b % 32) % 2 = 0 then 1 else 2, coordUnit 1 (coord / 256 * 256) + b))
    else (mapBits bs).filterMap (fun b =>
      if b < 16 then some (3, coordUnit 3 (coord / 256 * 256) + b) else if b = 16 then some (4, coordUnit 4 coord) else none)
  else if kind = 7 then (mapBits bs).filterMap (fun b => if b < 32 then some (5, coord / 2 ^ 14 * 32 + b) else none)
  else if 1 ≤ kind ∧ kind ≤ 5 then [(kind, coordUnit kind coord)]
  else []

/-- The committed records of a bank in slot order, up to its first empty slot; torn slots are skipped. -/
def State.logRecords (s : State) (bank : Nat) : Nat → Nat → List (List Byte)
  | 0, _ => []
  | n + 1, k =>
    let bs := s.slotBytes bank k
    if slotEmptyBytes bs then []
    else if slotCommitted bs then bs :: State.logRecords s bank n (k + 1)
    else State.logRecords s bank n (k + 1)

/-- The individual record of a unit in a bank. -/
def State.recordOf (s : State) (bank kind unit : Nat) : List Byte :=
  ((s.logRecords bank 16383 1).find? (fun bs => recNat bs 4 1 == kind && coordNames kind (recNat bs 6 2) && coordUnit kind (recNat bs 6 2) == unit)).getD []

/-- Retired units of one stripe (its number 8·(6·die + field) + stripe) or, from 192 on, of one die. -/
def State.retiredIn (s : State) (n : Nat) : List (Nat × Nat) :=
  (s.out.retired.filter (fun r =>
    if 192 ≤ n then r.kind == 5 && r.unit / 32 == n - 192
    else if n % 2 = 0 then (r.kind == 1 || r.kind == 2) && r.unit / 256 == n / 2
    else (r.kind == 3 && r.unit / 16 == n / 2) || (r.kind == 4 && r.unit == n / 2))).map (fun r => (r.kind, r.unit))

/-- The bit of a summary's MAP that stands for a unit (R361). -/
def mapBit (kind unit : Nat) : Nat :=
  match kind with
  | 1 => unit % 256 | 2 => unit % 256 | 3 => unit % 16 | 4 => 16 | _ => unit % 32

/-- compact() of R362: the retired units of each stripe, then of each die, in one record each of the other bank, and last that
bank's header. A unit that only a summary names gets a record without rows (log entry 42). -/
def State.compact (s : State) (live : Nat) : State :=
  let other := 1 - live
  let gen := (s.bankGen live).getD 0
  let one (n : Nat) : Option (Nat → List Byte) :=
    match s.retiredIn n with
    | [] => none
    | [(kind, unit)] =>
      let old := s.recordOf live kind unit
      some (fun seq => if old = [] then logRecord seq kind 1 (unitCoord kind unit) s.clk s.out.bootcnt []
        else sealSlot (leBytes 4 seq ++ (old.drop 4).take 55))
    | us =>
      let map := leBytes 39 (bitSet (us.map (fun p => mapBit p.1 p.2)))
      let coord := if 192 ≤ n then (n - 192) * 2 ^ 14 else packCoord (n / 48) (n / 8 % 6) (n % 8) 0 0
      some (fun seq => logRecord seq (if 192 ≤ n then 7 else 6) 0 coord s.clk s.out.bootcnt map)
  let recs := (upto 196).filterMap one
  let s1 := recs.foldl (fun (p : Nat × State) r => (p.1 + 1, p.2.writeBytes .flash (slotAt other p.1) (r p.1)))
    (1, s.eraseBank other)
  let s2 := s1.2.writeBytes .flash (slotAt other 0) (logRecord 0 0 0 0 0 (gen + 1) [])
  { s2 with out := { s2.out with lastSlot := some (s.clk, slotAt other 0) } }

/-- Fewer than 256 slots behind the last one written are empty. -/
def State.logTight (s : State) (bank : Nat) : Bool := decide (16383 - s.lastSlot bank < 256)

/-- A record is appended to the live bank (R360), which is compacted when little room is left (R362). -/
def State.appendRecord (s : State) (kind cause unit : Nat) (rows : List Nat) : State :=
  match s.liveBank with
  | none => s
  | some bank =>
    let k := s.lastSlot bank + 1
    let seq := ((s.logRecords bank 16383 1).map (fun bs => recNat bs 0 4)).foldl Nat.max 0 + 1
    let bs := logRecord seq kind cause (unitCoord kind unit) s.clk s.out.bootcnt ((rows.take 3).flatMap (leBytes 4))
    let s1 := s.writeBytes .flash (slotAt bank k) bs
    let s2 : State := { s1 with out := { s1.out with lastSlot := some (s.clk, slotAt bank k) } }
    if s2.logTight bank then s2.compact bank else s2

/-- The recovery of the log at a reset (R362): with no live bank both are erased and bank 0 gets a header; then every
committed record up to the first empty slot is applied, and the log is compacted when little room is left. Units of the log are
excluded before their field joins (R368), so their retirement is in effect. -/
def State.recoverLog (s : State) : State :=
  let s0 : State := { s with out := { s.out with retired := [] }, retiredCores := [] }
  match s0.liveBank with
  | none => ((s0.eraseBank 0).eraseBank 1).writeBytes .flash (slotAt 0 0) (logRecord 0 0 0 0 0 1 [])
  | some bank =>
    let units := (s0.logRecords bank 16383 1).flatMap recordUnits
    let s1 := units.foldl (fun s p => s.markRetired true p.1 p.2) s0
    let s2 : State := { s1 with retiredCores := (s1.out.retired.filter (fun r => r.kind == 3)).map Retired.unit }
    if s2.logTight bank then s2.compact bank else s2

/-! ### Counting errors (R357 to R359) -/

/-- Clk after which the first error of a row no longer counts: 24 hours at 1.9 GHz. -/
def errorWindow : Nat := 164160000000000

/-- A corrected error is counted for its row: the new count. -/
def State.countError (s : State) (store unit row : Nat) : Nat × State :=
  let die := dieOfUnit (kindOfStore store) unit
  let tab := (assoc s.out.errors die).getD []
  let mine (e : ErrRow) : Bool := e.store == store && e.unit == unit && e.row == row
  let rest := tab.filter (fun e => !mine e)
  let (entry, kept) : ErrRow × List ErrRow :=
    match tab.find? mine with
    | some e =>
      (if e.first + errorWindow < s.clk then { e with count := 1, first := s.clk } else { e with count := e.count + 1 }, rest)
    | none =>
      let new : ErrRow := { store := store, unit := unit, row := row, count := 1, first := s.clk }
      if 256 ≤ rest.length then
        let oldest := rest.foldl (fun m (e : ErrRow) => Nat.min m e.first) s.clk
        (new, match rest.find? (fun e => e.first == oldest) with | some e => rest.erase e | none => rest)
      else (new, rest)
  (entry.count, { s with out := { s.out with errors := assocSet s.out.errors die (kept ++ [entry]) } })

/-- A row becomes lasting (R358); the third one of its unit retires that (R359). -/
def State.rowLasting (s : State) (store unit row : Nat) (ue : Bool) : State :=
  let same (r : LastRow) : Bool := r.store == store && r.unit == unit && r.row == row
  let kind := kindOfStore store
  if s.out.lasting.any same then
    if ue then { s with out := { s.out with lasting := s.out.lasting.map (fun r => if same r then { r with ue := true } else r) } }
    else s
  else
    let all := s.out.lasting ++ [{ store := store, unit := unit, row := row, ue := ue }]
    let s1 : State := { s with out := { s.out with lasting := all } }
    let rows := all.filter (fun r => kindOfStore r.store == kind && r.unit == unit)
    if rows.length < 3 ∨ s.isRetired kind unit = true then s1
    else
      let s2 := s1.markRetired (kind == 1 || kind == 2 || kind == 5) kind unit
      (s2.appendRecord kind (if rows.any LastRow.ue then 2 else 1) unit
        (rows.map (fun r => r.store * 2 ^ 28 + r.row % 2 ^ 28))).showStatus

/-- The deep-memory unit of the module that a context numbers so (R160). -/
def State.deepUnit (s : State) (ctx n : Nat) : Nat :=
  match s.ctxs.find? (fun c => c.idx == ctx) with
  | some c => (c.deep.filter (fun u => u / 32 == n / 32)).getD (n % 32) n
  | none => n

/-- An SRAM store has returned an uncorrectable error (R358). -/
def State.noteUe (s : State) (tr : Trap) : State :=
  match tr.unit with
  | some (store, unit) =>
    if tr.code = .eccUe then
      s.rowLasting store (if 128 ≤ unit ∧ store = 6 then s.deepUnit (unit / 128 - 1) (unit % 128) else unit) (tr.detail % 2 ^ 28) true
    else s
  | none => s

end Sys2Proof.Machine
end

