-- ==== Sys2Proof/Machine/Ops.lean ====
section
/-! DEFINITION. The shared operations over threads, cores, registers and memory: access to the parts of the state,
operand specifiers (R54, R110), address resolution and translation (R157, R160, R178 to R186, R199), posted stores and
values in flight (R180, R188, R206), completing a word (R110, R139), and taking a fault and returning from one
(R153, R154, R345 to R350). -/

namespace Sys2Proof.Machine

/-! ### Parts of the state -/

/-- A semaphore that no context holds (R145). -/
def Sem.initial : Sem := { grant := none, count := 0, waiters := [] }

/-- A core that has done nothing. Slot 15 counts as issued last, so that slot 0 comes first (R134). -/
def CoreSt.initial : CoreSt :=
  { rot := 15, sems := Vector.replicate 16 Sem.initial, sb := [], tlb := [], icache := [], names := [], queue := [],
    senders := [] }

namespace State

/-- Every thread of the module. -/
def threads (s : State) : List Thread := if s.th.mode = .empty then s.others else s.th :: s.others

/-- The thread with a model name. -/
def getT (s : State) (uid : Nat) : Option Thread := s.threads.find? (fun t => t.uid == uid)

/-- The state with a thread replaced. -/
def setT (s : State) (t : Thread) : State :=
  if s.th.uid = t.uid then { s with th := t }
  else { s with others := s.others.map (fun o => if o.uid = t.uid then t else o) }

/-- The state with one thread changed. -/
def modT (s : State) (uid : Nat) (f : Thread → Thread) : State :=
  match s.getT uid with
  | some t => s.setT (f t)
  | none => s

/-- The state without a thread. -/
def delT (s : State) (uid : Nat) : State :=
  if s.th.uid = uid then { s with th := Thread.initial }
  else { s with others := s.others.filter (fun o => o.uid != uid) }

/-- The state with a further thread. -/
def addT (s : State) (t : Thread) : State := { s with others := s.others ++ [t] }

/-- The state with another thread selected. -/
def select (s : State) (uid : Nat) : State :=
  if s.th.uid = uid ∧ s.th.mode ≠ .empty then s
  else match s.others.find? (fun t => t.uid == uid) with
    | none => s
    | some t =>
      let rest := s.others.filter (fun o => o.uid != uid)
      { s with th := t, others := if s.th.mode = .empty then rest else s.th :: rest }

/-- One clerk core. -/
def core (s : State) (c : Nat) : CoreSt := (assoc s.cores c).getD CoreSt.initial

/-- The state with a clerk core replaced. -/
def setCore (s : State) (c : Nat) (x : CoreSt) : State := { s with cores := assocSet s.cores c x }

/-- An installed context. -/
def ctx? (s : State) (i : Nat) : Option Ctx := s.ctxs.find? (fun c => c.idx == i)

/-- The state with an installed context replaced. -/
def setCtx (s : State) (c : Ctx) : State := { s with ctxs := s.ctxs.map (fun o => if o.idx = c.idx then c else o) }

/-- The engine of a code and unit. -/
def engine (s : State) (e u : Nat) : Engine :=
  (s.engines.find? (fun x => x.code == e && x.unit == u)).getD
    { code := e, unit := u, holder := none, waiters := [], geom := List.replicate (if e = 0 then 8 else 4) 0, fifo := [],
      stat := { engst := 0, ovn := 0, maxocc := 0, stalen := 0 }, tabs := [], grids := [] }

/-- The state with an engine replaced. -/
def setEngine (s : State) (x : Engine) : State :=
  if s.engines.any (fun o => o.code == x.code && o.unit == x.unit) then
    { s with engines := s.engines.map (fun o => if o.code = x.code ∧ o.unit = x.unit then x else o) }
  else { s with engines := s.engines ++ [x] }

/-- A fresh model name. -/
def fresh (s : State) : Nat × State := (s.nextId, { s with nextId := s.nextId + 1 })

end State

/-! ### Places (R16, R331) -/

/-- The unit of an engine that a core's thread names: its core, its stripe or its die (R151). -/
def engineUnit (e c : Nat) : Nat := if e = 0 then c else if e = 4 then coreDie c else c / 16

/-- The unit of the engine of a code that a thread holds, wherever it stands now; its own core's where it holds none (R151). -/
def State.heldUnit (s : State) (e : Nat) (t : Thread) : Nat :=
  match s.engines.find? (fun x => x.code == e && x.holder == some t.uid) with
  | some x => x.unit
  | none => engineUnit e t.core

/-- A core is live: its field has joined and it is not retired (R355). -/
def State.coreLive (s : State) (c : Nat) : Bool := s.fieldJoined (c / 64) && !s.retiredCores.contains c && decide (c < 1536)

/-- The live core of a stripe that stands for an index: that core, else the next live one above it, wrapping
(R204, R355). -/
def State.liveCoreFrom (s : State) (stripe idx : Nat) : Option Nat :=
  (upto 16).map (fun i => stripe * 16 + (idx + i) % 16) |>.find? s.coreLive

/-- The core that the registrars map a logical name to, and whether it stands in for a retired one (R355). -/
def State.named? (s : State) (name : Nat) : Option (Nat × Bool) :=
  if name < 1536 ∧ s.fieldJoined (name / 64) then
    if s.retiredCores.contains name then (s.liveCoreFrom (name / 16) (name % 16)).map (fun c => (c, true)) else some (name, false)
  else none

/-- The 4-byte catalogue entry of a name: V, ALIAS and the coordinate of the core that it maps to (R355). -/
def State.catalogueEntry (s : State) (name : Nat) : Word32 :=
  match s.named? name with
  | some (c, aliased) => BitVec.ofNat 32 (2 ^ 31 + (if aliased then 2 ^ 30 else 0) + coreCoord c)
  | none => 0

/-- The core that the catalogue maps a logical name to: the one whose coordinate a valid entry holds (R355). -/
def State.catalogue (s : State) (name : Nat) : Option Nat :=
  let e := s.catalogueEntry name
  if e.getLsbD 31 then some (coordUnit 3 (e.toNat % 2 ^ 16)) else none

/-! ### Operand specifiers (R54, R110) -/

/-- read_spec of R54; a reserved specifier never reaches it, and reads 0. -/
def Thread.read (t : Thread) (x : Spec) : Word :=
  let n := x.toNat
  if n = 0 then 0
  else if h : n < 32 then t.g[n]
  else if h : n - 32 < 8 then t.q[n - 32]
  else if n = 40 then t.y0
  else if n = 41 then t.y1
  else 0

/-- A younger write of a register: no value in flight lands there any more (R110); g0, which discards writes, has none (R54). -/
def InFlight.cancel (x : Spec) (f : InFlight) : InFlight :=
  if x = 0 then f
  else { f with dst := if f.dst = some x then none else f.dst, dst2 := if f.dst2 = some x then none else f.dst2 }

/-- The register file with a specifier written; g0 and the specifiers above 39 are discarded. -/
def Thread.put (t : Thread) (x : Spec) (v : Word) : Thread :=
  let n := x.toNat
  if n = 0 then t
  else if h : n < 32 then { t with g := t.g.set n v }
  else if h : n - 32 < 8 then { t with q := t.q.set (n - 32) v }
  else t

/-- write_dest of R54: the register takes the value, and values in flight for it are cancelled. -/
def Thread.write (t : Thread) (x : Spec) (v : Word) : Thread :=
  { t.put x v with inflight := t.inflight.map (InFlight.cancel x) }

/-- A register or y value still in flight (R110, R133). -/
def Thread.busy (t : Thread) (x : Spec) : Bool :=
  (decide (x ≠ 0) && t.inflight.any (fun f => f.dst == some x || f.dst2 == some x)) ||
    (decide (x = 40) && t.y0Id.isSome) || (decide (x = 41) && t.y1Id.isSome)

/-- The n consecutive registers from a first one (R109). -/
def regBlock (a : Spec) (n : Nat) : List Spec := (upto n).map (fun i => a + BitVec.ofNat 6 i)

/-! ### Registers with fields (R79, R117) -/

/-- TS as a word (R117). -/
def Thread.ts (t : Thread) : Word :=
  BitVec.ofNat 64 ((if t.dz then 1 else 0) + (if t.fv ∨ t.sv then 2 else 0) + (if t.prv then 8 else 0) +
    (if t.la then 16 else 0) + t.peng.toNat * 32)

/-- PXS as a word (R79). -/
def Thread.pxs (t : Thread) : Word :=
  BitVec.ofNat 64 (t.fmt.toNat + (if t.fv then 2 ^ 24 else 0) + t.scl.toNat * 2 ^ 25 + (if t.sv then 2 ^ 49 else 0))

/-- PXS loaded from a word (R79). A payload that no prefix word could hold is kept as it is and used (log entry 44). -/
def Thread.setPxs (t : Thread) (w : Word) : Thread :=
  { t with fmt := w.extractLsb' 0 24, fv := w.getLsbD 24, scl := w.extractLsb' 25 24, sv := w.getLsbD 49 }

/-- ADDR of LS and LE: bits 55:2 (R118). -/
def maskLoopAddr (w : Word) : Word := w &&& 0x00FFFFFFFFFFFFFC#64

/-- WAIT of R136: the kind in bits 3:0 and the object in bits 63:8. A thread in an arrival queue waits for its arrival. -/
def Thread.waitWord (t : Thread) : Word :=
  let pk (kind obj : Nat) : Word := BitVec.ofNat 64 (kind + obj * 256)
  if t.place = .queue then pk 7 0
  else match t.wait with
  | .none => 0
  | .sem n => pk 1 n
  | .bus _ key => pk 2 key
  | .sleep => pk 3 0
  | .lock va _ _ => pk 4 (va.toNat / 8 % 2 ^ 53)
  | .pin e => pk 5 e
  | .callx _ => pk 6 0
  | .arrival => pk 7 0
  | _ => 0

/-- WFLG of R136. -/
def Thread.wflg (t : Thread) : Nat :=
  (if t.wresValid then 1 else 0) + (if t.wakePending then 2 else 0) + (if t.inHandler then 4 else 0)

/-- The 512-byte thread context as 64 words (R113, R136), with a given program counter. -/
def Thread.image (t : Thread) (pc : Word) : List Word :=
  (0 :: t.g.toList.drop 1) ++ t.q.toList ++ [t.y0, t.y1] ++ t.k.toList.map (fun k => k.setWidth 64) ++
    [pc, t.ts, t.pxs, t.ffl.setWidth 64, t.frm.setWidth 64, t.srnd.setWidth 64, t.lc.setWidth 64, t.ls, t.le,
      t.join, t.parent, t.ticket, t.waitWord, t.wres, BitVec.ofNat 64 t.wflg, t.deadline, t.savea, 0]

/-- Words as bytes (R5). -/
def wordBytes (ws : List Word) : List Byte := ws.flatMap (fun w => leBytes 8 w.toNat)

/-- The thread with its registers reloaded from a saved context (R113, R154): PRV and PENG are not taken from it (R117). A
reserved rounding mode is loaded and rounds as SR without a draw (log entry 44). -/
def Thread.restore (t : Thread) (w : Nat → Word) : Thread :=
  let ts := w 47
  let base : Thread :=
    { t with g := Vector.ofFn (fun i => if i.val = 0 then 0 else w i.val), q := Vector.ofFn (fun i => w (32 + i.val)),
             y0 := w 40, y1 := w 41, k := Vector.ofFn (fun i => (w (42 + i.val)).setWidth 40), pc := w 46,
             dz := ts.getLsbD 0, la := ts.getLsbD 4, ffl := (w 49).setWidth 5, frm := (w 50).setWidth 3,
             srnd := (w 51).setWidth 32, lc := (w 52).setWidth 32, ls := maskLoopAddr (w 53), le := maskLoopAddr (w 54),
             join := w 55, parent := w 56, ticket := w 57, wres := w 59, wresValid := (w 60).getLsbD 0,
             wakePending := (w 60).getLsbD 1, deadline := w 61, sleepTo := 0, savea := w 62, y0Id := none, y1Id := none }
  base.setPxs (w 48)

/-! ### The range scoreboard and windows (R157, R169) -/

/-- rs_blocks of R169 for bytes lo to hi - 1 of a store. -/
def rsBlocks (l : List SbEntry) (sp : Space) (lo hi : Nat) (isStore : Bool) : Bool :=
  let hit (r : Option Range) : Bool :=
    match r with
    | some r => r.space == sp && decide (lo < r.hi ∧ r.lo < hi)
    | none => false
  l.any (fun e => hit e.dst || (isStore && hit e.src))

/-- The window of a context on a core (R157). -/
def State.window (s : State) (core ctx : Nat) : Option Window :=
  s.windows.find? (fun w => w.core == core && w.ctx == ctx)

/-- Length of the window of a context on a core, 0 when it holds none. -/
def State.windowLen (s : State) (core ctx : Nat) : Nat :=
  match s.window core ctx with
  | some w => w.len
  | none => 0

/-- A byte of the .k space that a context may reach (R160). -/
def State.deepOk (s : State) (ctx a : Nat) : Bool :=
  match s.ctx? ctx with
  | none => false
  | some c =>
    let die := a / 2 ^ 31
    let unit := a / 2 ^ 26 % 32
    decide (die < 4) && (upto 6).any (fun f => s.fieldJoined (6 * die + f)) &&
      decide (unit < (c.splits.toList.getD die { grant := 0, scr := 0, cch := 0, rej := false }).scr)

/-! ### Physical targets and translation (R178, R181 to R186, R199) -/

/-- What a physical address names (R178). -/
inductive Target where
  | home | host | peer (idx off : Nat) | none
  deriving DecidableEq, Repr

/-- The physical address map of R178. -/
def target (pa : Nat) : Target :=
  if pa < 0xC000000000 then .home
  else if pa < 0x40000000000 then .none
  else if pa < 0x80000000000 then .home
  else if pa < 0x8000000000000 then .none
  else if pa < 0x9000000000000 then .host
  else if pa < 0xC000000000000 then .none
  else if pa < 0x10000000000000 then .peer (pa / 2 ^ 40 % 1024) (pa % 2 ^ 40)
  else .none

/-- A peer index has a usable port (R369). -/
def State.peerRouted (s : State) (idx : Nat) : Bool :=
  let e := (assoc s.routes idx).getD 0
  e.testBit 31 && decide (e % 2 ^ 16 &&& s.portsUp &&& s.portsEn ≠ 0)

/-- The port by which an access to a peer goes: of the usable ports in ascending order the one that the line selects; none
for an address that is no peer's, or without a usable port (R369). -/
def State.peerPort (s : State) (pa : Nat) : Option Nat :=
  match target pa with
  | .peer idx _ =>
    let e := (assoc s.routes idx).getD 0
    let usable := (upto 16).filter (fun p => (e % 2 ^ 16 &&& s.portsUp &&& s.portsEn).testBit p)
    if usable = [] then none else usable[pa / 64 % usable.length]?
  | _ => none

/-- Access kinds of rights() in R183. -/
inductive Acc where
  | rd | wr | amo | ex
  deriving DecidableEq, Repr

/-- rights() of R183. -/
def Tlb.allows (e : Tlb) (acc : Acc) (prv : Bool) : Bool :=
  (match acc with | .rd => e.rd | .wr => e.wr | .amo => e.rd && e.wr | .ex => e.ex) && (!e.po || prv)

/-- A physical range inside HBM. -/
def inHbm (a n : Nat) : Bool := decide (a + n ≤ 0xC000000000)

/-- A physical range inside HBM or inside the capacity tier. -/
def inTier (a n : Nat) : Bool := inHbm a n || decide (0x40000000000 ≤ a ∧ a + n ≤ 0x80000000000)

/-- A publication record (R198). -/
structure PubRec where
  vbase : Nat
  len : Nat
  phys0 : Nat
  phys1 : Nat
  gen : Nat
  deriving DecidableEq, Repr

/-- The backing in view (R198). -/
def PubRec.inView (r : PubRec) : Nat := if r.gen % 2 = 0 then r.phys0 else r.phys1

/-- The backing not in view, the shadow (R197). -/
def PubRec.shadow (r : PubRec) : Nat := if r.gen % 2 = 0 then r.phys1 else r.phys0

/-- Address of publication record i of a context. -/
def Ctx.pubAddr (c : Ctx) (i : Nat) : Nat := c.pubBase + 64 * i

/-- A valid publication record (R198). One that does not lie in HBM is none (log entry 50). -/
def State.pubRec (s : State) (c : Ctx) (i : Nat) : Option PubRec :=
  let a := c.pubAddr i
  let r : PubRec := { vbase := s.readNat .mem a 8, len := s.readNat .mem (a + 8) 8, phys0 := s.readNat .mem (a + 16) 8,
                      phys1 := s.readNat .mem (a + 24) 8, gen := s.readNat .mem (a + 32) 8 }
  if i < c.pubCnt ∧ inHbm a 64 = true ∧ s.readNat .mem (a + 40) 24 = 0 ∧ r.vbase % 4096 = 0 ∧ r.vbase < 2 ^ 56 ∧ r.len % 4096 = 0 ∧
      4096 ≤ r.len ∧ r.len ≤ 2 ^ 30 ∧ r.phys0 % 4096 = 0 ∧ r.phys1 % 4096 = 0 ∧ inTier r.phys0 r.len = true ∧
      inTier r.phys1 r.len = true
  then some r else none

/-- A page-table entry with a legal set of bits, or none (R182, R183: V set and reserved bits 0). -/
def pteValid (e : Nat) : Bool :=
  e.testBit 0 && decide (nfield e 52 12 = 0 ∧ nfield e 10 2 = 0 ∧ nfield e 5 2 = 0)

/-- The 16 entries around one form a 64 KiB leaf (R184); they do not when a line of theirs cannot be read (log entry 50). -/
def State.contGroup (s : State) (tbl va e : Nat) : Bool :=
  let first := va / 2 ^ 16 % 32 * 16
  let es := (upto 16).map (fun i => s.readNat .mem (tbl + 8 * (first + i)) 8)
  let base := nfield (es.getD 0 0) 12 40
  decide (base % 16 = 0) && !s.badAt .mem (tbl + 8 * first) 128 && (upto 16).all (fun i =>
    let x := es.getD i 0
    x.testBit 0 && x.testBit 7 && x.testBit 8 && decide (nfield x 1 4 = nfield e 1 4) && decide (nfield x 12 40 = base + i))

/-- ECC_UE at an access (R170, R206, R346). -/
def eccTrap (sp : Space) (a : Nat) (ea : Word) : Trap := { code := .eccUe, addr := ea, detail := rowId sp.rowCode a, unit := sp.rowUnit a }

/-- walk of R183, from a table at a level down: the translation to cache, or the fault. -/
def State.walkFrom (s : State) (c : Ctx) (va : Nat) (acc : Acc) (prv : Bool) : Nat → Nat → Except Trap Tlb
  | 0, _ => .error { code := .xlate, addr := BitVec.ofNat 64 va, retry := true }
  | fuel + 1, tbl =>
    let lvl := fuel
    let xlate : Except Trap Tlb := .error { code := .xlate, addr := BitVec.ofNat 64 va, retry := true }
    let idx := va / 2 ^ (12 + 9 * lvl) % (if lvl = 4 then 256 else 512)
    let a := tbl + 8 * idx
    if !inHbm a 8 then xlate
    else if s.badAt .mem a 8 then .error (eccTrap .mem a (BitVec.ofNat 64 va))
    else
      let e := s.readNat .mem a 8
      let pfn := nfield e 12 40
      if !pteValid e then xlate
      else if !e.testBit 7 then
        if lvl = 0 ∨ nfield e 1 4 ≠ 0 ∨ nfield e 8 2 ≠ 0 then xlate
        else State.walkFrom s c va acc prv fuel (pfn * 4096)
      else if lvl ≥ 3 then xlate
      else if (e.testBit 8 ∨ e.testBit 9) ∧ lvl ≠ 0 then xlate
      else if e.testBit 8 ∧ e.testBit 9 then xlate
      else if lvl = 2 ∧ pfn % 2 ^ 18 ≠ 0 then xlate
      else if lvl = 1 ∧ pfn % 2 ^ 9 ≠ 0 then xlate
      else
        let mk (bits pa : Nat) (pub : Option Nat) : Tlb :=
          { ctx := c.idx, va := va / 2 ^ bits * 2 ^ bits, bits := bits, pa := pa, rd := e.testBit 1, wr := e.testBit 2,
            ex := e.testBit 3, po := e.testBit 4, pub := pub }
        if !(mk 12 0 none).allows acc prv then .error { code := .prot, addr := BitVec.ofNat 64 va, retry := true }
        else if e.testBit 9 then
          let i := pfn % 4096
          if pfn / 4096 ≠ 0 then xlate
          else if i < c.pubCnt ∧ s.badAt .mem (c.pubAddr i) 64 = true then
            .error (eccTrap .mem (c.pubAddr i) (BitVec.ofNat 64 va))
          else match s.pubRec c i with
            | none => xlate
            | some r =>
              if va < r.vbase ∨ r.vbase + r.len ≤ va then xlate
              else .ok (mk 12 (r.inView + (va / 4096 * 4096 - r.vbase)) (some i))
        else if e.testBit 8 ∧ s.contGroup tbl va e then .ok (mk 16 (pfn / 16 * 65536) none)
        else .ok (mk (12 + 9 * lvl) (pfn * 4096) none)

/-- walk(va, access, priv) of R183 in a context. -/
def State.walk (s : State) (ctx : Nat) (va : Word) (acc : Acc) (prv : Bool) : Except Trap Tlb :=
  match s.ctx? ctx with
  | none => .error { code := .xlate, addr := va, retry := true }
  | some c =>
    if va.toNat ≥ 2 ^ 56 then .error { code := .xlate, addr := va, retry := true }
    else s.walkFrom c va.toNat acc prv 5 c.ptroot

/-- The physical address that a cached translation gives. -/
def Tlb.paOf (e : Tlb) (va : Nat) : Nat := e.pa + (va - e.va)

/-- A cached translation of a context covers an address. -/
def Tlb.covers (e : Tlb) (ctx va : Nat) : Bool := e.ctx == ctx && decide (va / 2 ^ e.bits * 2 ^ e.bits = e.va)

/-- A translation cache of a size with one more entry; an older entry of the same page goes, and beyond the size the oldest
(log entry 7). -/
def tlbFill (size : Nat) (l : List Tlb) (e : Tlb) : List Tlb :=
  (e :: l.filter (fun o => !(o.ctx == e.ctx && o.va == e.va && o.bits == e.bits))).take size

/-- The translations that the walker of a swarm stripe holds (R185). -/
def State.walker (s : State) (stripe : Nat) : List Tlb := (assoc s.walkers stripe).getD []

/-- The walker of a stripe holds one more translation. -/
def State.walkerFill (s : State) (stripe : Nat) (e : Tlb) : State :=
  { s with walkers := assocSet s.walkers stripe (tlbFill Config.walkerSize (s.walker stripe) e) }

/-- A translation by the walker of a stripe: from its cache when that has the rights, else by a walk, which fills it (R185,
R186). -/
def State.walkBy (s : State) (stripe ctx : Nat) (va : Word) (acc : Acc) (prv : Bool) : Except Trap (Tlb × State) :=
  match (s.walker stripe).find? (fun e => e.covers ctx va.toNat && e.allows acc prv) with
  | some e => .ok (e, s)
  | none =>
    match s.walk ctx va acc prv with
    | .error t => .error t
    | .ok e => .ok (e, s.walkerFill stripe e)

/-- A core's translation cache holds one more translation. -/
def State.tlbFillAt (s : State) (core : Nat) (e : Tlb) : State :=
  s.setCore core { s.core core with tlb := tlbFill Config.tlbSize (s.core core).tlb e }

/-- The translation of a virtual address by a core for a context: from its cache when that has the rights, else by the walker of its
stripe, which fills the cache (R185, R186). -/
def State.translate (s : State) (core ctx : Nat) (va : Word) (acc : Acc) (prv : Bool) : Except Trap (Nat × State) :=
  match (s.core core).tlb.find? (fun e => e.covers ctx va.toNat && e.allows acc prv) with
  | some e => .ok (e.paOf va.toNat, s)
  | none =>
    match s.walkBy (core / 16) ctx va acc prv with
    | .error t => .error t
    | .ok (e, s1) => .ok (e.paOf va.toNat, s1.tlbFillAt core e)

/-- Where an access goes (R173). -/
inductive Loc where
  | at (sp : Space) (a : Nat)
  | link (pa : Nat)
  deriving DecidableEq, Repr

/-- A range check that fails: PROT, not retryable (R344). -/
def rangeProt (addr : Word) : Trap := { code := .prot, addr := addr }

/-- A store or an amo to the status page (R367: PROT). -/
def shut (pa : Nat) (acc : Acc) : Bool :=
  decide (statusPage ≤ pa ∧ pa < statusPage + 4096) && (match acc with | .wr => true | .amo => true | _ => false)

/-- Where in the model's picture of memory an access at a physical address lands that an engine, a node or the module itself makes:
at a host or a peer it may be refused or meet poisoned data (R178); an update there has its answer in its completion (R291, R292). -/
def State.reachPa (s : State) (va : Word) (acc : Acc) (pa : Nat) : Except Trap Nat :=
  let own (a : Nat) : Except Trap Nat := if shut a acc then .error (rangeProt va) else .ok a
  let linked : Except Trap Nat :=
    if acc = .amo ∨ Config.linkAnswer s.clk pa = 0 then .ok pa
    else if Config.linkAnswer s.clk pa = 1 then .error (rangeProt va)
    else .error { code := .eccUe, addr := va, detail := rowId 0 va.toNat }
  match target pa with
  | .home => own pa
  | .host => linked
  | .peer idx off =>
    if s.out.myV = true ∧ idx = s.out.myIdx then (match target off with | .home => own off | _ => .error (rangeProt va))
    else if s.peerRouted idx then linked
    else .error (rangeProt va)
  | .none => .error (rangeProt va)

/-- resolve of R173, before the check for uncorrectable errors. Class codes of R64: 0 .c, 1 .s, 2 .k, 3 .x. -/
def State.resolve (s : State) (t : Thread) (cls : BitVec 2) (ea : Word) (size : Nat) (acc : Acc) :
    Except Trap (Loc × State) :=
  match cls with
  | 1#2 =>
    if ea.toNat + size ≤ s.windowLen t.core t.ctx then .ok (.at (.win t.core t.ctx) ea.toNat, s)
    else .error (rangeProt ea)
  | 2#2 =>
    if ea.toNat < 2 ^ 33 ∧ s.deepOk t.ctx ea.toNat = true ∧ s.deepOk t.ctx (ea.toNat + size - 1) = true
    then .ok (.at (.deep t.ctx) ea.toNat, s)
    else .error (rangeProt ea)
  | _ =>
    match s.translate t.core t.ctx ea acc t.prv with
    | .error e => .error e
    | .ok (pa, s1) =>
      match target pa with
      | .home => if shut pa acc then .error (rangeProt ea) else .ok (.at .mem pa, s1)
      | .host => .ok (.link pa, s1)
      | .peer idx off =>
        if s1.out.myV = true ∧ idx = s1.out.myIdx then
          (match target off with
            | .home => if shut off acc then .error (rangeProt ea) else .ok (.at .mem off, s1)
            | _ => .error (rangeProt ea))
        else if s1.peerRouted idx then .ok (.link pa, s1)
        else .error (rangeProt ea)
      | .none => .error (rangeProt ea)

/-! ### Writes at the home, posted stores and values in flight (R152, R180, R188, R206) -/

/-- A posted store overlaps bytes of a store. -/
def Store.overlaps (x : Store) (sp : Space) (a n : Nat) : Bool :=
  x.space == sp && decide (x.addr < a + n ∧ a < x.addr + x.bytes.length)

/-- An error that the acknowledgement of a posted store returns: its thread has still to raise it (R178, R206; log entry 51). -/
def State.deferError (s : State) (x : Store) (tr : Trap) : State :=
  s.modT x.uid (fun t => { t with deferred := t.deferred ++ [{ tr with addr := x.va, defer := true }] })

/-- A posted store goes to a peer, whose completion may refuse it (R178, R369). -/
def Store.toPeer (x : Store) : Bool := x.space == .mem && (match target x.addr with | .peer _ _ => true | _ => false)

/-- A posted store reaches its home (R180, R206): it is applied, or discarded with the error returned to its thread, on a poisoned
line and at a peer that completes it with Unsupported Request or Completer Abort (R178). -/
def State.applyStore (s : State) (x : Store) : State :=
  let s1 := { s with stores := s.stores.filter (fun y => y.id != x.id) }
  if x.space = .mem ∧ s1.badAt .mem x.addr x.bytes.length = true then s1.deferError x { code := .eccUe, detail := rowId 5 x.addr }
  else if x.toPeer = true ∧ Config.linkAnswer s.clk x.addr = 1 then s1.deferError x { code := .prot }
  else s1.putBytes x.space x.addr x.bytes

/-- The posted stores that must be applied for those of a set to be applied: with each, the older ones of its core that
overlap it (R190). -/
def storeClosure (set : List Nat) (l : List Store) : List Store :=
  l.foldr (fun x acc =>
    if set.contains x.id || acc.any (fun y => y.core == x.core && x.overlaps y.space y.addr y.bytes.length)
    then x :: acc else acc) []

/-- Posted stores applied, oldest first, each after the older ones of its core that overlap it. -/
def State.drain (s : State) (set : List Nat) : State := (storeClosure set s.stores).foldl State.applyStore s

/-- A byte as the threads of a core see it: the youngest posted store of the core to it, else the home's byte (R180). -/
def State.viewByte (s : State) (core : Nat) (sp : Space) (a : Nat) : Byte :=
  s.stores.foldl (fun b x =>
    if x.core = core ∧ x.overlaps sp a 1 = true then
      (match x.bytes[a - x.addr]? with | some (v, m) => maskByte b v m | none => b)
    else b) (s.readByte sp a)

/-- A unit among n bytes holds an uncorrectable error that a thread of a core meets, but for one that a posted store of the core will
overwrite whole first (R170, R190), and in a write but for one that it overwrites whole itself. -/
def State.badFor (s : State) (core : Nat) (sp : Space) (a n : Nat) (write whole : Bool) : Bool :=
  let mends (lo len u : Nat) : Bool := decide (lo ≤ u * 8 ∧ u * 8 + 8 ≤ lo + len)
  s.bad.any (fun p => p.1 == sp && decide (a >>> sp.unitBits ≤ p.2 ∧ p.2 ≤ (a + n - 1) >>> sp.unitBits) &&
    !(sp != .mem && ((write && whole && mends a n p.2) || s.stores.any (fun x => x.core == core && x.space == sp &&
      x.bytes.all (fun b => b.2 == 0xFF) && mends x.addr x.bytes.length p.2))))

/-- n bytes as the threads of a core see them. -/
def State.viewBytes (s : State) (core : Nat) (sp : Space) : Nat → Nat → List Byte
  | _, 0 => []
  | a, n + 1 => s.viewByte core sp a :: State.viewBytes s core sp (a + 1) n

/-- Posted stores of other threads of the core that a read of bytes sees (R188, R194). -/
def State.seenStores (s : State) (t : Thread) (sp : Space) (a n : Nat) : List Nat :=
  (s.stores.filter (fun x => x.core == t.core && x.uid != t.uid && x.overlaps sp a n)).map Store.id

/-- The 64-bit value that a load delivers, and for an ldp the second one (R172, R174). -/
def loadValue (r : LoadReq) (bs : List Byte) : Word × Word :=
  let v := ofLe bs
  match r.bits with
  | some (b, w) =>
    let f := v / 2 ^ b % 2 ^ w
    (if r.sgn then sextN w f else BitVec.ofNat 64 f, 0)
  | none =>
    if r.size = 16 then (BitVec.ofNat 64 v, BitVec.ofNat 64 (v / 2 ^ 64))
    else (if r.sgn then sextN (8 * r.size) v else BitVec.ofNat 64 v, 0)

/-- A value in flight lands: in its destinations and in the y registers that name it (R110). -/
def Thread.land (t : Thread) (f : InFlight) (v v2 : Word) : Thread :=
  let t1 := match f.dst with | some x => t.put x v | none => t
  let t2 := match f.dst2 with | some x => t1.put x v2 | none => t1
  { t2 with inflight := t.inflight.filter (fun g => g.id != f.id),
            y0 := if t.y0Id = some f.id then v else t.y0, y0Id := if t.y0Id = some f.id then none else t.y0Id,
            y1 := if t.y1Id = some f.id then v else t.y1, y1Id := if t.y1Id = some f.id then none else t.y1Id }

/-- A load in flight is performed and lands. -/
def State.landLoad (s : State) (t : Thread) (f : InFlight) : Thread :=
  match f.late with
  | .load r =>
    let (v, v2) := loadValue r (s.viewBytes t.core r.space r.addr r.size)
    { t.land f v v2 with seen := t.seen ++ s.seenStores t r.space r.addr r.size }
  | .status => t

/-- Every load in flight of a thread is performed and lands, oldest first. -/
def State.landAll (s : State) (t : Thread) : Thread := t.inflight.foldl (fun u f => s.landLoad u f) t

/-- A load touches bytes. -/
def LoadReq.touches (r : LoadReq) (sp : Space) (a n : Nat) : Bool := r.space == sp && decide (r.addr < a + n ∧ a < r.addr + r.size)

/-- The loads in flight to be performed before an access to bytes: those that touch them, and with each the older ones that it
overlaps (R190: same location in program order). -/
def loadClosure (sp : Space) (a n : Nat) (l : List InFlight) : List (LoadReq × InFlight) :=
  l.foldr (fun f acc =>
    match f.late with
    | .load r => if r.touches sp a n || acc.any (fun g => r.touches g.1.space g.1.addr g.1.size) then (r, f) :: acc else acc
    | .status => acc) []

/-- The loads in flight of a thread that touch bytes are performed and land, after the older ones that they overlap (R190). -/
def State.landOverlap (s : State) (t : Thread) (sp : Space) (a n : Nat) : Thread :=
  (loadClosure sp a n t.inflight).foldl (fun u g => s.landLoad u g.2) t

/-- The posted stores that a release of a thread covers: its own and those that it has read or acquired (R188, R194). -/
def State.covered (s : State) (t : Thread) : List Nat :=
  (s.stores.filter (fun x => x.uid == t.uid && x.core == t.core)).map Store.id ++ t.seen

/-- The thread after an acquire at core scope or wider: the stores of its core that a release has had acknowledged there are among
those that it has seen (R193, R194). -/
def State.acquired (s : State) (t : Thread) : Thread :=
  { t with seen := t.seen ++ (s.stores.filter (fun x => x.core == t.core && x.rel && x.uid != t.uid)).map Store.id }

/-- release(scope) of R188 by a thread: its loads in flight land; the posted stores that it covers are acknowledged, at scope core by
the agents of the core, at scope region or wider at their homes, and there deferred store errors are collected (R206): the oldest is
raised, and stands for all (log entry 51). -/
def State.release (s : State) (t0 : Thread) (scope : Nat) : State × Option Trap :=
  let t := s.landAll t0
  let s1 := s.setT t
  if scope = 0 then (s1, none)
  else if scope = 1 then
    ({ s1 with stores := s1.stores.map (fun x => if (s1.covered t).contains x.id then { x with rel := true } else x) }, none)
  else
    let s2 := (s1.drain (s1.covered t)).modT t.uid (fun u => { u with seen := [] })
    match s2.getT t.uid with
    | none => (s2, none)
    | some u =>
      match u.deferred with
      | [] => (s2, none)
      | tr :: _ => (s2.setT { u with deferred := [] }, some tr)

/-! ### Completing a word (R110, R135, R137, R139) -/

/-- Where a completed word goes next. `jump` is a taken transfer; its flag says that it clears TS.LA when it leaves the
loop body. `to` is the target of a loop word. -/
inductive Next where
  | seq
  | jump (target : Word) (leaves : Bool)
  | to (target : Word)
  deriving DecidableEq, Repr

/-- The thread after a taken transfer: it fetches no word that is older than a fence before it (R53). -/
def Thread.transferred (t : Thread) (fences : Nat) : Thread := { t with xfer := fences }

/-- The hardware-loop back-edge after the word at LE - 4, or the next word (R139). The flag says whether a back-edge
was taken. -/
def Thread.advance (t : Thread) : Thread × Bool :=
  if t.la ∧ t.pc + 4 = t.le then
    let lc := if t.lc = 0 then 0 else t.lc - 1
    if lc = 0 then ({ t with lc := lc, la := false, pc := t.le }, false)
    else ({ t with lc := lc, pc := t.ls }, true)
  else ({ t with pc := t.pc + 4 }, false)

/-- A transfer's target lies outside LS to LE - 4 (R139). -/
def Thread.outside (t : Thread) (target : Word) : Bool :=
  decide (target.toNat < t.ls.toNat ∨ t.le.toNat ≤ target.toNat)

/-- The thread after a word completes: the y pair shifts (R110), pending prefixes are consumed (R78), the program counter
moves. The flag says whether a transfer was taken. -/
def Thread.complete (t : Thread) (res : Word) (late : Option Nat) (n : Next) : Thread × Bool :=
  let t1 : Thread :=
    { t with y1 := t.y0, y1Id := t.y0Id, y0 := res, y0Id := late, fv := false, fmt := if t.fv then 0 else t.fmt, sv := false,
             scl := if t.sv then 0 else t.scl, mode := .ready, wait := .none, retry := none }
  match n with
  | .seq => t1.advance
  | .jump target leaves =>
    ({ t1 with pc := target, la := if t1.la ∧ leaves ∧ t1.outside target = true then false else t1.la }, true)
  | .to target => ({ t1 with pc := target }, false)

/-- A word of a thread completes (R110, R135). -/
def State.completeWord (s : State) (t : Thread) (res : Word) (late : Option Nat) (n : Next) : State :=
  let (t1, taken) := t.complete res late n
  s.setT (if taken then t1.transferred s.fences else t1)

/-- A clk in which no core issues, no stage fires and no access to deep memory begins: with TLF set, every odd one (R168). -/
def State.gated (s : State) : Bool := s.tlf && decide (s.clk % 2 = 1)

/-- A change of split on the die of an access holds the accesses of its context (R162 step 1). -/
def State.splitHeld (s : State) (ctx die : Nat) : Bool :=
  s.threads.any (fun t => t.ctx == ctx && (match t.wait with | .split d _ _ _ => d == die | _ => false))

/-- No new access of a context's copies, engines and memory nodes to deep scratch begins: the clk is gated, or a change of split is
under way on some die (R162 step 1, R168). -/
def State.deepHeld (s : State) (ctx : Nat) : Bool := s.gated || (upto 4).any (s.splitHeld ctx)

/-- A command does not begin now: in a gated clk a copy and any access to deep memory, and during a change of split a command on deep
scratch that was accepted after the change began (R162, R168). -/
def State.cmdHeld (s : State) (e : Nat) (c : Cmd) : Bool :=
  (s.gated && (e == 0 || c.deep)) ||
    (c.deep && s.threads.any (fun t => t.ctx == c.ctx && (match t.wait with | .split _ _ _ n => decide (n ≤ c.id) | _ => false)))

/-! ### Slots and arrival queues (R133, R141, R148) -/

/-- Where a thread stands among those that act in one clk: ascending coordinate of its core, then slot (R148, R151, R271). -/
def Thread.placeNo (t : Thread) : Nat := t.core * 16 + t.slot

/-- A list with one more element, in the order of a key; behind those of an equal key. -/
def insertBy {α : Type} (key : α → Nat) (x : α) : List α → List α
  | [] => [x]
  | y :: ys => if key x < key y then x :: y :: ys else y :: insertBy key x ys

/-- A list in the order of a key; equal keys stay in their order. -/
def sortBy {α : Type} (key : α → Nat) (l : List α) : List α := l.foldl (fun acc x => insertBy key x acc) []

/-- Threads in the order of their places. -/
def byPlace (l : List Thread) : List Thread := sortBy Thread.placeNo l

/-- The bind record in force that grants a slot of a core to a context (R330). -/
def State.grant (s : State) (core ctx slot : Nat) : Option Bind :=
  s.binds.find? (fun b => !b.region && b.unit == core && b.ctx == ctx && b.slots.testBit slot)

/-- A slot holds no thread. -/
def State.slotEmpty (s : State) (core slot : Nat) : Bool :=
  !s.threads.any (fun t => t.core == core && t.slot == slot && t.place == .slot)

/-- The lowest empty slot of a core that is granted to a context (R140, R148). -/
def State.freeSlot (s : State) (core ctx : Nat) : Option Nat :=
  (upto 16).find? (fun j => s.slotEmpty core j && (s.grant core ctx j).isSome)

/-- A thread takes a slot (R148): a migrating atomic waits there for its execution at the home, others are ready. -/
def State.enterSlot (s : State) (t : Thread) (core slot : Nat) : State :=
  let ticket := match s.grant core t.ctx slot with | some b => b.ticket | none => t.bindTicket
  let t1 : Thread := { t with core := core, slot := slot, place := .slot, bindTicket := ticket, since := s.clk }
  s.setT (match t.wait with
    | .amo _ => { t1 with mode := .waiting }
    | _ => { t1 with mode := .ready, wait := .none })

/-- A core gives its empty slots to the oldest entries of its arrival queue that may take one (R148). -/
def State.serveQueue (s : State) (core : Nat) : State :=
  (s.core core).queue.foldl (fun s uid =>
    match s.getT uid with
    | none => s
    | some t =>
      match s.freeSlot core t.ctx with
      | none => s
      | some j =>
        let cs := s.core core
        (s.setCore core { cs with queue := cs.queue.filter (fun u => u != uid) }).enterSlot t core j) s

/-- An engine without a holder passes to its oldest waiter, whose pin completes; its geometry is 0 (R151). -/
def State.handoff (s : State) (e u : Nat) : State :=
  let x := s.engine e u
  let y : Engine :=
    { x with holder := none, geom := x.geom.map (fun _ => 0), tabs := [],
             stat := { engst := 0, ovn := 0, maxocc := 0, stalen := 0 } }
  match x.waiters with
  | [] => s.setEngine y
  | w :: ws =>
    let s1 := s.setEngine { y with holder := some w, waiters := ws }
    match s1.getT w with
    | none => s1
    | some t => s1.completeWord { t with peng := BitVec.ofNat 3 e } 0 none .seq

/-- A thread has copies or engine commands in flight (R141, R113). -/
def State.hasCmds (s : State) (t : Thread) : Bool :=
  s.engines.any (fun x => x.fifo.any (fun c => c.uid == t.uid)) || t.inflight.any (fun f => f.late == .status)

/-- A thread leaves the module: its pin passes on, its semaphore and pin waits are withdrawn, its slot is freed
(R141, R150, R350). -/
def State.endThread (s : State) (t : Thread) : State :=
  let s1 := if t.peng.toNat < 5 then s.handoff t.peng.toNat (s.heldUnit t.peng.toNat t) else s
  let cs := s1.core t.core
  let s2 := s1.setCore t.core
    { cs with sems := cs.sems.map (fun x => { x with waiters := x.waiters.filter (fun u => u != t.uid) }),
              queue := cs.queue.filter (fun u => u != t.uid), senders := cs.senders.filter (fun u => u.1 != t.uid) }
  let s3 := { s2 with
    engines := s2.engines.map (fun (x : Engine) => { x with waiters := x.waiters.filter (fun u => u != t.uid) }),
    chans := s2.chans.map (fun (c : Chan) => { c with getters := c.getters.filter (fun u => u != t.uid) }) }
  (s3.delT t.uid).serveQueue t.core

/-! ### The registrar's store (R113, R337, R338) -/

/-- A thread belongs to a launch. -/
def Thread.isOf (t : Thread) (ticket : Nat) : Bool := t.origin == ticket

/-- The places of 512 bytes in a context's store that hold saved threads. -/
def State.storeSlots (s : State) (ctx : Nat) : List Nat :=
  (s.threads.filter (fun t => t.ctx == ctx && t.place == .saved)).filterMap Thread.saveAt

/-- 4 KiB pages that saved things of a context take in its store: threads, eight to a page, windows, and regions (R338). -/
def State.storePages (s : State) (ctx : Nat) : Nat :=
  ((s.storeSlots ctx).map (fun k => k / 8)).eraseDups.length +
  ((s.reg.savedWin.filter (fun w => w.ctx == ctx)).map (fun w => w.len / 4096)).sum +
  ((s.reg.launches.filter (fun l => l.ctx == ctx)).map (fun l =>
    (l.saved.map (fun p => ceilDiv (64 * p.1.length + (p.2.map (fun e => 8 + 72 * e.ring.q.length)).sum) 4096)).sum)).sum

/-- Pages that what is still to be saved of a launch would take (R338). -/
def State.pagesFor (s : State) (l : Launch) : Nat :=
  ceilDiv ((s.threads.filter (fun t => t.isOf l.ticket && t.place != .saved)).length * 512) 4096 +
  ((s.binds.filter (fun b => b.ticket == l.ticket && !b.region)).map (fun b => s.windowLen b.unit b.ctx / 4096)).sum +
  ((s.regions.filter (fun r => r.ticket == l.ticket && r.phase != .idle)).map (fun r =>
    ceilDiv (64 * r.nodes.length + (r.ends.map (fun e => 8 + 72 * (e.ring.slots + e.ring.q.length))).sum) 4096)).sum

/-- Pages of a context's store that saves under way have taken, but for those of one launch (R338: the pages are taken before the save
begins). -/
def State.reserved (s : State) (ctx : Nat) (own : Option Nat) : Nat :=
  ((s.reg.launches.filter (fun l => l.ctx == ctx && l.phase == .preempting && own != some l.ticket)).map s.pagesFor).sum

/-- The registrar's store of a context has pages left, for a save of a launch that has taken its own or for another (R338). -/
def State.storeHolds (s : State) (ctx pages : Nat) (own : Option Nat := none) : Bool :=
  match s.ctx? ctx with
  | none => false
  | some c => decide (s.storePages ctx + s.reserved ctx own + pages ≤ (c.saveLen - 0x10000) / 4096)

/-- The place in a context's store for one more thread: the lowest that is free; none while a page that it needs is not (R338; log
entry 47). -/
def State.storeSlot (s : State) (ctx : Nat) (own : Option Nat) : Option Nat :=
  let used := s.storeSlots ctx
  match (upto (used.length + 1)).find? (fun k => !used.contains k) with
  | none => none
  | some k => if used.any (fun j => j / 8 == k / 8) || s.storeHolds ctx 1 own then some k else none

/-- The physical address of a place in a context's store (R338). -/
def Ctx.storeAt (c : Ctx) (k : Nat) : Nat := c.saveBase + 0x10000 + 512 * k

/-- The state with a thread replaced, and with its saved context if it has one (R113). -/
def State.keepT (s : State) (t : Thread) : State :=
  match t.saveAt, s.ctx? t.ctx with
  | some k, some c => (s.setT t).put .mem (c.storeAt k) (wordBytes (t.image t.pc))
  | _, _ => s.setT t

/-- A thread is saved: its context goes to a place in the registrar's store (R113, R337, R338). None while that has no room. -/
def State.stow (s : State) (t : Thread) (own : Option Nat) : Option State :=
  (s.storeSlot t.ctx own).map (fun k => s.keepT { t with place := .saved, saveAt := some k })

/-- A saved thread as its context in the store gives it again, with the privilege of its bind record and the pin that the registrar holds
(R113, R117, R136). -/
def State.unstow (s : State) (t : Thread) : Thread :=
  match t.saveAt, s.ctx? t.ctx with
  | some k, some c =>
    let w (i : Nat) : Word := BitVec.ofNat 64 (s.readNat .mem (c.storeAt k + 8 * i) 8)
    { t.restore w with prv := t.bornPrv, inHandler := (w 60).getLsbD 2, sleepTo := if w 61 = t.deadline then t.sleepTo else 0,
                       saveAt := none }
  | _, _ => { t with prv := t.bornPrv }

/-! ### Faults (R153, R345 to R350) -/

/-- Number of a fault code (R344). -/
def Code.num : Code → Nat
  | .illegal => 0x01 | .pfx => 0x02 | .priv => 0x03 | .align => 0x04 | .xlate => 0x05 | .prot => 0x06
  | .nameUnmapped => 0x07 | .eccUe => 0x08 | .cfgUe => 0x09 | .bitrange => 0x0A | .zeroLoop => 0x0B
  | .sluiceOp => 0x0C | .watchdog => 0x0D | .trapCode => 0x10

/-- The fields of a fault record that its KIND and its place give (R345). -/
structure RecordAt where
  kind : Nat
  coord : Nat
  slot : Nat
  ctx : Nat
  pc : Word
  word : Word32
  nid : Nat
  rinst : Nat
  pxs : Word
  ticket : Nat
  deriving DecidableEq, Repr

/-- A 64-byte fault record (R345). -/
def faultRecord (r : RecordAt) (tr : Trap) (fatal : Bool) (clk seq : Nat) : List Byte :=
  let flags := (if fatal then 1 else 0) + (if tr.retry then 2 else 0) + (if tr.remote then 4 else 0) +
    (if tr.defer then 8 else 0)
  [BitVec.ofNat 8 tr.code.num, BitVec.ofNat 8 r.kind, BitVec.ofNat 8 flags, BitVec.ofNat 8 (tr.trapn % 64)] ++
    leBytes 2 r.coord ++ [BitVec.ofNat 8 (r.slot % 16), BitVec.ofNat 8 (r.ctx % 64)] ++ leBytes 8 r.pc.toNat ++
    leBytes 8 tr.addr.toNat ++ leBytes 4 r.word.toNat ++ leBytes 2 (r.nid % 4096) ++ leBytes 2 r.rinst ++
    leBytes 8 r.pxs.toNat ++ leBytes 8 (tr.clk.getD clk) ++ leBytes 4 r.ticket ++ leBytes 4 tr.detail ++ leBytes 4 seq ++ leBytes 4 0

/-- A byte of the MSI-X table: 16 bytes for each vector, of which bit 0 of byte 12 masks it, and is 1 until written
(log entry 36: the layout and reset value of PCI Express, R3). -/
def State.msixByte (s : State) (o : Nat) : Byte := cellRead (if o % 16 = 12 then 1 else 0) s.out.msix o

/-- An MSI-X vector is sent, or pends while it is masked; a vector of 2,048 or more is not sent (R341, R366). -/
def State.sendMsi (s : State) (v : Nat) : State :=
  if 2048 ≤ v then s
  else if (s.msixByte (16 * v + 12)).getLsbD 0 then { s with out := { s.out with pba := v :: s.out.pba.filter (fun x => x != v) } }
  else { s with msi := v :: s.msi }

/-- What orders the records of one clk: COORD, then SLOT, then NID (R348). -/
def logKey (bs : List Byte) : Nat := (recNat bs 4 2 * 16 + recNat bs 6 1) * 4096 + recNat bs 28 2

/-- How many of the last records of a log, the next of which has the number n, are of a clk and come after a key (R348). -/
def State.laterRecords (s : State) (base clk key : Nat) : Nat → Nat → Nat
  | f + 1, n + 1 =>
    let bs := s.readBytes .mem (base + 64 * (1 + n % 1023)) 64
    if recNat bs 40 8 = clk ∧ key < logKey bs then 1 + State.laterRecords s base clk key f n else 0
  | _, _ => 0

/-- A record is appended to a context's fault log, before those of its clk that come after it (R348). -/
def State.appendLog (s : State) (ctx : Nat) (mk : Nat → List Byte) : State :=
  match s.ctx? ctx with
  | none => s
  | some c =>
    let n := c.logNext % 2 ^ 32
    let place (i : Nat) : Nat := c.saveBase + 64 * (1 + i % 1023)
    let k := s.laterRecords c.saveBase s.clk (logKey (mk n)) 1022 n
    let moved := (upto k).foldl (fun s i =>
      let bs := s.readBytes .mem (place (n - 1 - i)) 64
      s.put .mem (place (n - i)) (bs.take 56 ++ leBytes 4 (n - i) ++ bs.drop 60)) s
    let s1 := moved.put .mem (place (n - k)) (mk (n - k))
    let s2 := s1.put .mem c.saveBase (leBytes 4 (n + 1))
    (s2.setCtx { c with logNext := (n + 1) % 2 ^ 32 }).sendMsi s.vec

/-- Where the record of a thread's fault says that it arose (R345): for TRAP the program counter is that of the word
after (R153), but for a REMOTE one that of the callx (R346). -/
def Thread.recordAt (t : Thread) (tr : Trap) (word : Word32) : RecordAt :=
  { kind := 1, coord := coreCoord t.core, slot := t.slot, ctx := t.ctx,
    pc := if tr.code = .trapCode ∧ tr.remote = false then t.pc + 4 else t.pc, word := tr.word.getD word, nid := 0, rinst := 0,
    pxs := t.pxs, ticket := t.bindTicket }

/-- The pieces of a virtual range of bytes that lie in one 4 KiB page each. -/
def pagePieces : Nat → Nat → List Byte → List (Nat × List Byte)
  | 0, _, _ => []
  | _ + 1, _, [] => []
  | f + 1, va, bs =>
    let n := 4096 - va % 4096
    (va, bs.take n) :: pagePieces f (va + n) (bs.drop n)

/-- The places of a virtual range, translated with the rights of a privileged thread; none if a piece faults (R153). -/
def State.placePieces (s : State) (t : Thread) (acc : Acc) :
    List (Nat × List Byte) → Option (List (Nat × List Byte) × State)
  | [] => some ([], s)
  | (va, bs) :: ps =>
    match s.translate t.core t.ctx (BitVec.ofNat 64 va) acc true with
    | .error _ => none
    | .ok (pa, s1) =>
      match s1.reachPa (BitVec.ofNat 64 va) acc pa with
      | .error _ => none
      | .ok a =>
        if s1.badAt .mem a bs.length then none
        else match State.placePieces s1 t acc ps with
          | none => none
          | some (qs, s2) => some ((a, bs) :: qs, s2)

/-- Bytes of the module's own for a core's thread land at the home, after the posted stores of the core that they overlap (R190). -/
def State.putAfter (s : State) (core : Nat) (a : Nat) (bs : List Byte) : State :=
  (s.drain ((s.stores.filter (fun x => x.core == core && x.overlaps .mem a bs.length)).map Store.id)).put .mem a bs

/-- The save area of a thread in the handler save areas of its context (R331). -/
def saveSlot (t : Thread) : Nat := 16 * t.core + t.slot

/-- The entry of a handler (R153 step 4), bits 1:0 of its address read as 0 (R52; log entry 48). FFL, FRM, SRND, TS.DZ and TS.PENG keep
their values. -/
def Thread.enterHandler (t : Thread) (entry save recAddr : Word) : Thread :=
  { t with g := ((Vector.replicate 32 0).set 1 save).set 2 recAddr, q := Vector.replicate 8 0,
           k := Vector.replicate 4 0, y0 := 0, y1 := 0, y0Id := none, y1Id := none, inflight := [], fv := false,
           fmt := 0, sv := false, scl := 0, lc := 0, ls := 0, le := 0, la := false, prv := true, pc := entry &&& ~~~3#64,
           savea := save, inHandler := true, mode := .ready, wait := .none, retry := none }

/-- The handler path of R153: the record and the context are written, then the thread restarts at the handler. None when
the thread has no handler, is in one, or a write faults. -/
def State.toHandler (s : State) (t : Thread) (tr : Trap) (word : Word32) : Option State :=
  match s.grant t.core t.ctx t.slot, s.ctx? t.ctx with
  | some b, some c =>
    if b.handler = 0 ∨ c.hsave = 0 ∨ t.inHandler = true then none
    else
      let u := s.landAll t
      let save := c.hsave + BitVec.ofNat 64 (512 * saveSlot t)
      let recAddr := c.hsave + BitVec.ofNat 64 (0xC00000 + 64 * saveSlot t)
      let r := u.recordAt tr word
      let recBytes := faultRecord r tr false s.clk 0
      let ctxBytes := wordBytes (u.image r.pc)
      match s.placePieces t .wr (pagePieces 2 recAddr.toNat recBytes ++ pagePieces 2 save.toNat ctxBytes) with
      | none => none
      | some (ps, s1) =>
        some ((ps.foldl (fun s p => s.putAfter t.core p.1 p.2) s1).setT (u.enterHandler b.handler save recAddr))
  | _, _ => none

/-- Bytes written by the module itself in a context's address space, page by page; none if a piece faults or meets an
uncorrectable error. -/
def State.writeVirt (s : State) (ctx : Nat) : List (Nat × List Byte) → Option State
  | [] => some s
  | (va, bs) :: ps =>
    match s.walk ctx (BitVec.ofNat 64 va) .wr false with
    | .error _ => none
    | .ok e =>
      match s.reachPa (BitVec.ofNat 64 va) .wr (e.paOf va) with
      | .error _ => none
      | .ok a =>
        if s.badAt .mem a bs.length then none
        else match State.writeVirt s ctx ps with
          | none => none
          | some s1 => some (s1.put .mem a bs)

/-- A POISON token (R269): mask 0 and a zero payload. -/
def poisonToken : Token := { tag := 5, mask := 0, lanes := List.replicate 16 0 }

/-- Base and index of a slip's entry in its table (R265, R267). -/
def NodeCfg.slipAddr (n : NodeCfg) (idx : Nat) : Nat := ofLe ((n.body.drop 32).take 8) + 128 * idx

/-- The parked slips of one node that a thread was started for are answered with POISON at a CLK (R267, R269). -/
def NodeVar.poison (uid clk : Nat) (v : NodeVar) : NodeVar × List Nat :=
  match v with
  | .esc seq slips starts last =>
    let mine (x : Slip) : Bool := x.uid == some uid && x.state == 1
    (.esc seq (slips.map (fun x => if mine x then { x with state := 2, ord := clk, tok := poisonToken } else x)) starts last,
      (slips.filter mine).map Slip.idx)
  | v => (v, [])

/-- The slips of an escape thread that ends without answering them are answered with POISON (R269): in the node, and in
their entries. -/
def State.poisonSlips (s : State) (rinst uid : Nat) : State :=
  match s.regions.find? (fun r => r.rinst == rinst && r.phase != .idle) with
  | none => s
  | some r =>
    let hit := r.nodes.map (fun n => (n.nid, n.var.poison uid s.clk))
    let nodes := r.nodes.map (fun n => { n with var := (n.var.poison uid s.clk).1 })
    let s1 := { s with regions := s.regions.map (fun o => if o.rinst = rinst ∧ o.phase ≠ .idle then { o with nodes := nodes } else o) }
    let bytes : List Byte := List.replicate 66 0
    let tail : List Byte := [5, 2]
    let addrs := hit.flatMap (fun h => match r.img.nodes.find? (fun c => c.nid == h.1) with
      | some c => h.2.2.map c.slipAddr
      | none => [])
    addrs.foldl (fun s a =>
      (s.writeVirt r.ctx (pagePieces 2 a bytes ++ pagePieces 2 (a + 68) tail)).getD s) s1

/-- A thread's fault has a handler to go to (R153, R347). -/
def State.handled (s : State) (t : Thread) : Bool :=
  match s.grant t.core t.ctx t.slot, s.ctx? t.ctx with
  | some b, some c => decide (b.handler ≠ 0 ∧ c.hsave ≠ 0) && !t.inHandler
  | _, _ => false

/-- A fault of a thread ends it (R153, R349). -/
def Thread.fatalFor (t : Thread) (tr : Trap) : Bool := !tr.retry || t.inHandler

/-- The fault is the one that the thread's retry has met again (R349). -/
def Thread.again (t : Thread) (tr : Trap) : Bool :=
  match t.retry with
  | some r => r.trap.code == tr.code && r.trap.addr == tr.addr
  | none => false

/-- The registrar logs a thread's fault once (R347, R349). A callee's fatal fault has no record (R350). -/
def State.logFault (s : State) (t : Thread) (tr : Trap) (word : Word32) : State :=
  if tr.logged = true ∨ (if t.fatalFor tr then t.ticket.getLsbD 63 else t.again tr) = true then s
  else s.appendLog t.ctx (faultRecord (t.recordAt tr word) tr (t.fatalFor tr) s.clk)

/-- The fate of a fatal fault of a thread (R350): the caller of a callx callee takes the fault, the slips of an escape
thread are answered with POISON, and any other thread's launch is aborted. -/
def State.fatal (s : State) (t : Thread) (tr : Trap) (word : Word32) : State :=
  let remote : Trap :=
    { tr with remote := true, retry := false, word := some word, detail := t.pc.toNat / 4 % 2 ^ 32, unit := none, clk := none,
              logged := false }
  let s1 :=
    if t.ticket.getLsbD 63 then
      { s with answers := s.answers ++ [{ uid := t.ticket.toNat % 2 ^ 63, value := 0, fault := some remote }] }
    else if t.escape.isSome then s.poisonSlips (t.escape.getD (0, 0)).1 t.uid
    else { s with dying := if s.dying.contains t.origin then s.dying else s.dying ++ [t.origin] }
  s1.endThread t

/-- A thread is descheduled at its word with its context saved, and its slot is freed (R113, R349). A wait for a token of a
channel ends without one (R272). While the registrar's store has no room it stays in its slot (R338; log entry 47). -/
def State.deschedule (s : State) (t : Thread) : State :=
  let u := s.landAll t
  let s1 := { s with chans := s.chans.map (fun (c : Chan) => { c with getters := c.getters.filter (fun v => v != t.uid) }) }
  match s1.stow { u with mode := .descheduled } none with
  | some s2 => s2.serveQueue t.core
  | none => s1.setT { u with mode := .descheduled }

/-- The registrar path of R347: the fault is logged; a retryable one has the thread wait for a tick (R349), any other ends it (R350). -/
def State.toRegistrar (s : State) (t : Thread) (tr : Trap) (word : Word32) : State :=
  let s1 := s.logFault t tr word
  if t.fatalFor tr then s1.fatal t tr word
  else if t.again tr then s1.deschedule t
  else
    let kept : Trap := { tr with clk := some (tr.clk.getD s.clk), logged := false }
    s1.deschedule { t with retry := some { trap := kept, word := word, first := s.reg.ticks, last := s.reg.ticks } }

/-- Taking a fault at a word of a thread (R153, R347). While the thread has copies or engine commands in flight it
stalls with the fault, because they complete before its context is saved (R113, R350); a record for the registrar is appended at once,
and one for a handler keeps the CLK of the fault (R345, R348). -/
def State.takeFault (s : State) (t0 : Thread) (tr : Trap) (word : Word32) : State :=
  let t : Thread := match t0.wait with | .fault _ => { t0 with wait := .none } | _ => t0
  if s.hasCmds t0 then
    let later : Trap := { tr with clk := some (tr.clk.getD s.clk), logged := !s.handled t }
    (if s.handled t then s else (s.noteUe tr).logFault t tr word).setT { t0 with mode := .stalled, wait := .fault later, word := word }
  else
    match (s.noteUe tr).toHandler t tr word with
    | some s1 => s1
    | none => (s.noteUe tr).toRegistrar t tr word

/-- The bytes of a virtual range, read with the rights of a privileged thread (R154). -/
def State.readVirt (s : State) (t : Thread) (va : Word) (n : Nat) : Except Trap (List Byte × State) :=
  let rec go : List (Nat × List Byte) → State → Except Trap (List Byte × State)
    | [], s => .ok ([], s)
    | (a, bs) :: ps, s =>
      match s.translate t.core t.ctx (BitVec.ofNat 64 a) .rd true with
      | .error e => .error e
      | .ok (pa, s1) =>
        match s1.reachPa (BitVec.ofNat 64 a) .rd pa with
        | .error e => .error e
        | .ok p =>
          if s1.badAt .mem p bs.length then .error (eccTrap .mem p (BitVec.ofNat 64 a))
          else match go ps s1 with
            | .error e => .error e
            | .ok (r, s2) => .ok (s1.viewBytes t.core .mem p bs.length ++ r, s2)
  go (pagePieces 2 va.toNat (List.replicate n 0)) s

/-- The return from a handler (R154): the context at SAVEA is reloaded, in-handler is cleared, and the y pair does not
shift. A misaligned program counter restores nothing. The reserved bytes of the context are not looked at (log entry 44). -/
def State.returnFromHandler (s : State) (t : Thread) : Except Trap State :=
  match s.readVirt t t.savea 512 with
  | .error e => .error e
  | .ok (bs, s1) =>
    let w (i : Nat) : Word := BitVec.ofNat 64 (ofLe ((bs.drop (8 * i)).take 8))
    if (w 46).toNat % 4 ≠ 0 then .error { code := .align, addr := w 46 }
    else
      let u := (s1.landAll t).restore w
      .ok (s1.setT (Thread.transferred
        { u with prv := t.bornPrv, inHandler := false, mode := .ready, wait := .none,
                 inflight := u.inflight.map (fun f => { f with dst := none, dst2 := none }) } s1.fences))

/-! ### Issuing one scalar word (R81, R110, R133) -/

/-- What the body of a scalar word does once the checks of R81 before its own have passed. -/
inductive Ex where
  /-- the word completes: its result value, the value in flight that y0 names, and where it goes next -/
  | done (s : State) (res : Word) (late : Option Nat) (n : Next)
  /-- it raises a fault; the state is that of the fault (R11: with none of the word's effect) -/
  | trap (s : State) (t : Trap)
  /-- it waits: the program counter stays at the word, and an event completes it (R135) -/
  | wait (s : State)
  /-- it stalls: the word has not issued, and is tried again when the cause clears (R133) -/
  | stall (s : State)
  /-- the word has no completion of this kind: the thread ended, moved or returned from a handler -/
  | stop (s : State)

/-- Words that may take a pending pfx.fmt (R77). -/
def takesFmt : Instr → Bool
  | .fadd .. | .fsub .. | .fmul .. | .fdiv .. | .fsqrt .. | .fma .. | .fnma .. | .fmin .. | .fmax .. | .fsgn ..
  | .feq .. | .flt .. | .fle .. | .fclass .. | .fmv .. | .cvt .. | .cvtb .. => true
  | _ => false

/-- Words that may take a pending pfx.scl (R77). -/
def takesScl : Instr → Bool
  | .cvt .. | .cvtb .. => true
  | _ => false

/-- The selected thread waits at a word. -/
def State.waitAt (s : State) (i : Instr) (w : Wait) : State :=
  { s with th := { s.th with mode := .waiting, wait := w, word := encode i } }

/-- The selected thread stalls at its word (R133). -/
def State.stallAt (s : State) : State := { s with th := { s.th with mode := .stalled } }

/-- The selected thread takes a fault at a word. -/
def State.trapAt (s : State) (i : Instr) (tr : Trap) : State := s.takeFault s.th tr (encode i)

/-- One scalar word of the selected thread: the checks of R81 in their order, the wait for operands in flight (R110),
then the body. -/
def issueWord (i : Instr) (body : State → Ex) (s : State) : Host.Outcome State Fault Refusal :=
  if s.th.mode ≠ .ready then .fault .noReadyThread
  else if i.wf = false then .next (s.trapAt i { code := .illegal })
  else if (s.th.fv = true ∧ takesFmt i = false) ∨ (s.th.sv = true ∧ takesScl i = false) then
    .next (s.trapAt i { code := .pfx })
  else if i.uses.any s.th.busy then .next s.stallAt
  else match body s with
    | .done s1 res late n => .next (s1.completeWord s1.th res late n)
    | .trap s1 tr => .next (s1.trapAt i tr)
    | .wait s1 => .next s1
    | .stall s1 => .next s1.stallAt
    | .stop s1 => .next s1

/-- The body of a word that only computes a value for its destination from the thread (R110 rule 2). -/
def valueWord (d : Spec) (f : Thread → Word) (s : State) : Ex :=
  let v := f s.th
  .done { s with th := s.th.write d v } v none .seq

/-- A value in flight is named: a fresh name, a destination that the word writes late, and y0 (R110). -/
def State.launchLate (s : State) (dst dst2 : Option Spec) (late : Late) : Nat × State :=
  let t := s.th
  let clear (x : Option Spec) (t : Thread) : Thread :=
    match x with | some r => { t with inflight := t.inflight.map (InFlight.cancel r) } | none => t
  let keep (x : Option Spec) : Option Spec := x.bind (fun r => if r = 0 then none else some r)
  let t1 := clear dst2 (clear dst t)
  (s.nextId,
    { s with nextId := s.nextId + 1,
             th := { t1 with inflight := t1.inflight ++ [{ id := s.nextId, dst := keep dst, dst2 := keep dst2, late := late }] } })

/-- After a step that is no scalar word, stalled threads look again at their causes (R133). -/
def State.unstall (s : State) : State :=
  let f (t : Thread) : Thread := if t.mode = .stalled then { t with mode := .ready } else t
  { s with th := f s.th, others := s.others.map f }

/-- A step of the module's own: total, and stalled threads look again. -/
def event (f : State → State) (s : State) : Host.Outcome State Fault Refusal := .next (f s).unstall

end Sys2Proof.Machine
end

