-- ==== Sys2Proof/Machine/Alu.lean ====
section
/-! DEFINITION. Integer instructions, majors 0x01, 0x02 and 0x08 to 0x11 (R29, R121 to R123). Each function is written
once over a width; its 64-bit and 32-bit words differ in the width alone, and the result is sign-extended (R121). -/

namespace Sys2Proof.Machine

/-- sext(r[W-1:0], W) of a function of two operands cut to W bits (R121). -/
def bin (w : Nat) (f : BitVec w → BitVec w → BitVec w) (a b : Word) : Word :=
  (f (a.setWidth w) (b.setWidth w)).signExtend 64

/-- The same for a function of one operand. -/
def una (w : Nat) (f : BitVec w → BitVec w) (a : Word) : Word := (f (a.setWidth w)).signExtend 64

/-- The same for a function of three operands, d among them. -/
def tri (w : Nat) (f : BitVec w → BitVec w → BitVec w → BitVec w) (a b d : Word) : Word :=
  (f (a.setWidth w) (b.setWidth w) (d.setWidth w)).signExtend 64

/-- The shift amount, B modulo W (R121). -/
def shiftBy {w : Nat} (b : BitVec w) : Nat := b.toNat % w

/-- 1 or 0. -/
def flag {w : Nat} (c : Bool) : BitVec w := if c then 1 else 0

/-- The integer functions r of R121, in W bits. -/
def opAndn {w : Nat} (a b : BitVec w) : BitVec w := a &&& ~~~b
def opOrn {w : Nat} (a b : BitVec w) : BitVec w := a ||| ~~~b
def opShl {w : Nat} (a b : BitVec w) : BitVec w := a <<< shiftBy b
def opShr {w : Nat} (a b : BitVec w) : BitVec w := a >>> shiftBy b
def opSha {w : Nat} (a b : BitVec w) : BitVec w := a.sshiftRight (shiftBy b)
def opRotl {w : Nat} (a b : BitVec w) : BitVec w := a.rotateLeft (shiftBy b)
def opMin {w : Nat} (a b : BitVec w) : BitVec w := if a.slt b then a else b
def opMax {w : Nat} (a b : BitVec w) : BitVec w := if a.slt b then b else a
def opMinn {w : Nat} (a b : BitVec w) : BitVec w := if a.ult b then a else b
def opMaxn {w : Nat} (a b : BitVec w) : BitVec w := if a.ult b then b else a
def opSlt {w : Nat} (a b : BitVec w) : BitVec w := flag (a.slt b)
def opSltn {w : Nat} (a b : BitVec w) : BitVec w := flag (a.ult b)
def opSeq {w : Nat} (a b : BitVec w) : BitVec w := flag (a == b)
def opSne {w : Nat} (a b : BitVec w) : BitVec w := flag (a != b)
def opSel {w : Nat} (a b d : BitVec w) : BitVec w := if d = 0 then b else a
def opMulh {w : Nat} (a b : BitVec w) : BitVec w := BitVec.ofInt w (a.toInt * b.toInt / ((2 ^ w : Nat) : Int))
def opMulhn {w : Nat} (a b : BitVec w) : BitVec w := BitVec.ofNat w (a.toNat * b.toNat / 2 ^ w)

/-- Quotients and remainders with the corner cases of R29. -/
def opDiv {w : Nat} (a b : BitVec w) : BitVec w := if b = 0 then BitVec.allOnes w else BitVec.ofInt w (a.toInt.tdiv b.toInt)
def opDivn {w : Nat} (a b : BitVec w) : BitVec w := if b = 0 then BitVec.allOnes w else a.udiv b
def opRem {w : Nat} (a b : BitVec w) : BitVec w := if b = 0 then a else BitVec.ofInt w (a.toInt.tmod b.toInt)
def opRemn {w : Nat} (a b : BitVec w) : BitVec w := if b = 0 then a else a.umod b

def opClz {w : Nat} (a : BitVec w) : BitVec w := BitVec.ofNat w (clzBits w a.toNat)
def opCtz {w : Nat} (a : BitVec w) : BitVec w := BitVec.ofNat w (ctzBits w a.toNat)
def opPop {w : Nat} (a : BitVec w) : BitVec w := BitVec.ofNat w (popBits w a.toNat)
def opBrev {w : Nat} (a : BitVec w) : BitVec w := BitVec.ofNat w (revBits w a.toNat)
def opBswap {w : Nat} (a : BitVec w) : BitVec w := BitVec.ofNat w (ofLe (leBytes (w / 8) a.toNat).reverse)

/-- pos of a field description (R122). -/
def fieldPos {w : Nat} (b : BitVec w) : Nat := b.toNat % 64
/-- The length of a described field, cut to the width (R122). -/
def fieldLen {w : Nat} (b : BitVec w) : Nat :=
  if w ≤ fieldPos b then 0 else Nat.min (b.toNat / 2 ^ 8 % 128) (w - fieldPos b)
/-- bfx of R122. -/
def opBfx {w : Nat} (a b : BitVec w) : BitVec w :=
  let l := fieldLen b
  let f := a.toNat / 2 ^ fieldPos b % 2 ^ l
  if b.getLsbD 16 ∧ 0 < l then BitVec.ofInt w (toSigned l f) else BitVec.ofNat w f
/-- bfi of R122, into d. -/
def opBfi {w : Nat} (a b d : BitVec w) : BitVec w :=
  let l := fieldLen b
  let mask := BitVec.ofNat w ((2 ^ l - 1) * 2 ^ fieldPos b)
  (d &&& ~~~mask) ||| BitVec.ofNat w (a.toNat % 2 ^ l * 2 ^ fieldPos b)

/-- A division word: the value, and TS.DZ set when the divisor cut to W bits is 0 (R29). -/
def divWord (w : Nat) (d : Spec) (f : BitVec w → BitVec w → BitVec w) (a b : Spec) (s : State) : Ex :=
  let t := s.th
  let v := bin w f (t.read a) (t.read b)
  let z := (t.read b).setWidth w = 0
  .done { s with th := { t.write d v with dz := t.dz || decide z } } v none .seq

/-- I of R123: the sign-extended immediate. -/
def imm14 (i : BitVec 14) : Word := i.signExtend 64

/-- imm20 times 2^12, sign-extended from 32 bits (R123). -/
def imm20 (i : BitVec 20) : Word := (i.setWidth 32 <<< 12).signExtend 64

/-- add (R121). -/
def execAdd (d a b : Spec) (s : State) : Host.Outcome State Fault Refusal :=
  issueWord (.add d a b) (valueWord d (fun t => bin 64 (· + ·) (t.read a) (t.read b))) s

/-- sub (R121). -/
def execSub (d a b : Spec) (s : State) : Host.Outcome State Fault Refusal :=
  issueWord (.sub d a b) (valueWord d (fun t => bin 64 (· - ·) (t.read a) (t.read b))) s

/-- and (R121). -/
def execAnd (d a b : Spec) (s : State) : Host.Outcome State Fault Refusal :=
  issueWord (.and d a b) (valueWord d (fun t => bin 64 (· &&& ·) (t.read a) (t.read b))) s

/-- or (R121). -/
def execOr (d a b : Spec) (s : State) : Host.Outcome State Fault Refusal :=
  issueWord (.or d a b) (valueWord d (fun t => bin 64 (· ||| ·) (t.read a) (t.read b))) s

/-- xor (R121). -/
def execXor (d a b : Spec) (s : State) : Host.Outcome State Fault Refusal :=
  issueWord (.xor d a b) (valueWord d (fun t => bin 64 (· ^^^ ·) (t.read a) (t.read b))) s

/-- andn (R121). -/
def execAndn (d a b : Spec) (s : State) : Host.Outcome State Fault Refusal :=
  issueWord (.andn d a b) (valueWord d (fun t => bin 64 opAndn (t.read a) (t.read b))) s

/-- orn (R121). -/
def execOrn (d a b : Spec) (s : State) : Host.Outcome State Fault Refusal :=
  issueWord (.orn d a b) (valueWord d (fun t => bin 64 opOrn (t.read a) (t.read b))) s

/-- shl (R121). -/
def execShl (d a b : Spec) (s : State) : Host.Outcome State Fault Refusal :=
  issueWord (.shl d a b) (valueWord d (fun t => bin 64 opShl (t.read a) (t.read b))) s

/-- shr (R121). -/
def execShr (d a b : Spec) (s : State) : Host.Outcome State Fault Refusal :=
  issueWord (.shr d a b) (valueWord d (fun t => bin 64 opShr (t.read a) (t.read b))) s

/-- sha (R121). -/
def execSha (d a b : Spec) (s : State) : Host.Outcome State Fault Refusal :=
  issueWord (.sha d a b) (valueWord d (fun t => bin 64 opSha (t.read a) (t.read b))) s

/-- rotl (R121). -/
def execRotl (d a b : Spec) (s : State) : Host.Outcome State Fault Refusal :=
  issueWord (.rotl d a b) (valueWord d (fun t => bin 64 opRotl (t.read a) (t.read b))) s

/-- min (R121). -/
def execMin (d a b : Spec) (s : State) : Host.Outcome State Fault Refusal :=
  issueWord (.min d a b) (valueWord d (fun t => bin 64 opMin (t.read a) (t.read b))) s

/-- max (R121). -/
def execMax (d a b : Spec) (s : State) : Host.Outcome State Fault Refusal :=
  issueWord (.max d a b) (valueWord d (fun t => bin 64 opMax (t.read a) (t.read b))) s

/-- minn (R121). -/
def execMinn (d a b : Spec) (s : State) : Host.Outcome State Fault Refusal :=
  issueWord (.minn d a b) (valueWord d (fun t => bin 64 opMinn (t.read a) (t.read b))) s

/-- maxn (R121). -/
def execMaxn (d a b : Spec) (s : State) : Host.Outcome State Fault Refusal :=
  issueWord (.maxn d a b) (valueWord d (fun t => bin 64 opMaxn (t.read a) (t.read b))) s

/-- slt (R121). -/
def execSlt (d a b : Spec) (s : State) : Host.Outcome State Fault Refusal :=
  issueWord (.slt d a b) (valueWord d (fun t => bin 64 opSlt (t.read a) (t.read b))) s

/-- sltn (R121). -/
def execSltn (d a b : Spec) (s : State) : Host.Outcome State Fault Refusal :=
  issueWord (.sltn d a b) (valueWord d (fun t => bin 64 opSltn (t.read a) (t.read b))) s

/-- seq (R121). -/
def execSeq (d a b : Spec) (s : State) : Host.Outcome State Fault Refusal :=
  issueWord (.seq d a b) (valueWord d (fun t => bin 64 opSeq (t.read a) (t.read b))) s

/-- sne (R121). -/
def execSne (d a b : Spec) (s : State) : Host.Outcome State Fault Refusal :=
  issueWord (.sne d a b) (valueWord d (fun t => bin 64 opSne (t.read a) (t.read b))) s

/-- sel (R121). -/
def execSel (d a b : Spec) (s : State) : Host.Outcome State Fault Refusal :=
  issueWord (.sel d a b) (valueWord d (fun t => tri 64 opSel (t.read a) (t.read b) (t.read d))) s

/-- mul (R121). -/
def execMul (d a b : Spec) (s : State) : Host.Outcome State Fault Refusal :=
  issueWord (.mul d a b) (valueWord d (fun t => bin 64 (· * ·) (t.read a) (t.read b))) s

/-- mulh (R121). -/
def execMulh (d a b : Spec) (s : State) : Host.Outcome State Fault Refusal :=
  issueWord (.mulh d a b) (valueWord d (fun t => bin 64 opMulh (t.read a) (t.read b))) s

/-- mulhn (R121). -/
def execMulhn (d a b : Spec) (s : State) : Host.Outcome State Fault Refusal :=
  issueWord (.mulhn d a b) (valueWord d (fun t => bin 64 opMulhn (t.read a) (t.read b))) s

/-- div (R121, R29). -/
def execDiv (d a b : Spec) (s : State) : Host.Outcome State Fault Refusal :=
  issueWord (.div d a b) (divWord 64 d opDiv a b) s

/-- divn (R121, R29). -/
def execDivn (d a b : Spec) (s : State) : Host.Outcome State Fault Refusal :=
  issueWord (.divn d a b) (divWord 64 d opDivn a b) s

/-- rem (R121, R29). -/
def execRem (d a b : Spec) (s : State) : Host.Outcome State Fault Refusal :=
  issueWord (.rem d a b) (divWord 64 d opRem a b) s

/-- remn (R121, R29). -/
def execRemn (d a b : Spec) (s : State) : Host.Outcome State Fault Refusal :=
  issueWord (.remn d a b) (divWord 64 d opRemn a b) s

/-- clz (R121). -/
def execClz (d a : Spec) (s : State) : Host.Outcome State Fault Refusal :=
  issueWord (.clz d a) (valueWord d (fun t => una 64 opClz (t.read a))) s

/-- ctz (R121). -/
def execCtz (d a : Spec) (s : State) : Host.Outcome State Fault Refusal :=
  issueWord (.ctz d a) (valueWord d (fun t => una 64 opCtz (t.read a))) s

/-- pop (R121). -/
def execPop (d a : Spec) (s : State) : Host.Outcome State Fault Refusal :=
  issueWord (.pop d a) (valueWord d (fun t => una 64 opPop (t.read a))) s

/-- brev (R121). -/
def execBrev (d a : Spec) (s : State) : Host.Outcome State Fault Refusal :=
  issueWord (.brev d a) (valueWord d (fun t => una 64 opBrev (t.read a))) s

/-- bswap (R121). -/
def execBswap (d a : Spec) (s : State) : Host.Outcome State Fault Refusal :=
  issueWord (.bswap d a) (valueWord d (fun t => una 64 opBswap (t.read a))) s

/-- bfx (R121, R122). -/
def execBfx (d a b : Spec) (s : State) : Host.Outcome State Fault Refusal :=
  issueWord (.bfx d a b) (valueWord d (fun t => bin 64 opBfx (t.read a) (t.read b))) s

/-- bfi (R121, R122). -/
def execBfi (d a b : Spec) (s : State) : Host.Outcome State Fault Refusal :=
  issueWord (.bfi d a b) (valueWord d (fun t => tri 64 opBfi (t.read a) (t.read b) (t.read d))) s

/-- add.32 (R121). -/
def execAdd32 (d a b : Spec) (s : State) : Host.Outcome State Fault Refusal :=
  issueWord (.add32 d a b) (valueWord d (fun t => bin 32 (· + ·) (t.read a) (t.read b))) s

/-- sub.32 (R121). -/
def execSub32 (d a b : Spec) (s : State) : Host.Outcome State Fault Refusal :=
  issueWord (.sub32 d a b) (valueWord d (fun t => bin 32 (· - ·) (t.read a) (t.read b))) s

/-- and.32 (R121). -/
def execAnd32 (d a b : Spec) (s : State) : Host.Outcome State Fault Refusal :=
  issueWord (.and32 d a b) (valueWord d (fun t => bin 32 (· &&& ·) (t.read a) (t.read b))) s

/-- or.32 (R121). -/
def execOr32 (d a b : Spec) (s : State) : Host.Outcome State Fault Refusal :=
  issueWord (.or32 d a b) (valueWord d (fun t => bin 32 (· ||| ·) (t.read a) (t.read b))) s

/-- xor.32 (R121). -/
def execXor32 (d a b : Spec) (s : State) : Host.Outcome State Fault Refusal :=
  issueWord (.xor32 d a b) (valueWord d (fun t => bin 32 (· ^^^ ·) (t.read a) (t.read b))) s

/-- andn.32 (R121). -/
def execAndn32 (d a b : Spec) (s : State) : Host.Outcome State Fault Refusal :=
  issueWord (.andn32 d a b) (valueWord d (fun t => bin 32 opAndn (t.read a) (t.read b))) s

/-- orn.32 (R121). -/
def execOrn32 (d a b : Spec) (s : State) : Host.Outcome State Fault Refusal :=
  issueWord (.orn32 d a b) (valueWord d (fun t => bin 32 opOrn (t.read a) (t.read b))) s

/-- shl.32 (R121). -/
def execShl32 (d a b : Spec) (s : State) : Host.Outcome State Fault Refusal :=
  issueWord (.shl32 d a b) (valueWord d (fun t => bin 32 opShl (t.read a) (t.read b))) s

/-- shr.32 (R121). -/
def execShr32 (d a b : Spec) (s : State) : Host.Outcome State Fault Refusal :=
  issueWord (.shr32 d a b) (valueWord d (fun t => bin 32 opShr (t.read a) (t.read b))) s

/-- sha.32 (R121). -/
def execSha32 (d a b : Spec) (s : State) : Host.Outcome State Fault Refusal :=
  issueWord (.sha32 d a b) (valueWord d (fun t => bin 32 opSha (t.read a) (t.read b))) s

/-- rotl.32 (R121). -/
def execRotl32 (d a b : Spec) (s : State) : Host.Outcome State Fault Refusal :=
  issueWord (.rotl32 d a b) (valueWord d (fun t => bin 32 opRotl (t.read a) (t.read b))) s

/-- min.32 (R121). -/
def execMin32 (d a b : Spec) (s : State) : Host.Outcome State Fault Refusal :=
  issueWord (.min32 d a b) (valueWord d (fun t => bin 32 opMin (t.read a) (t.read b))) s

/-- max.32 (R121). -/
def execMax32 (d a b : Spec) (s : State) : Host.Outcome State Fault Refusal :=
  issueWord (.max32 d a b) (valueWord d (fun t => bin 32 opMax (t.read a) (t.read b))) s

/-- minn.32 (R121). -/
def execMinn32 (d a b : Spec) (s : State) : Host.Outcome State Fault Refusal :=
  issueWord (.minn32 d a b) (valueWord d (fun t => bin 32 opMinn (t.read a) (t.read b))) s

/-- maxn.32 (R121). -/
def execMaxn32 (d a b : Spec) (s : State) : Host.Outcome State Fault Refusal :=
  issueWord (.maxn32 d a b) (valueWord d (fun t => bin 32 opMaxn (t.read a) (t.read b))) s

/-- slt.32 (R121). -/
def execSlt32 (d a b : Spec) (s : State) : Host.Outcome State Fault Refusal :=
  issueWord (.slt32 d a b) (valueWord d (fun t => bin 32 opSlt (t.read a) (t.read b))) s

/-- sltn.32 (R121). -/
def execSltn32 (d a b : Spec) (s : State) : Host.Outcome State Fault Refusal :=
  issueWord (.sltn32 d a b) (valueWord d (fun t => bin 32 opSltn (t.read a) (t.read b))) s

/-- seq.32 (R121). -/
def execSeq32 (d a b : Spec) (s : State) : Host.Outcome State Fault Refusal :=
  issueWord (.seq32 d a b) (valueWord d (fun t => bin 32 opSeq (t.read a) (t.read b))) s

/-- sne.32 (R121). -/
def execSne32 (d a b : Spec) (s : State) : Host.Outcome State Fault Refusal :=
  issueWord (.sne32 d a b) (valueWord d (fun t => bin 32 opSne (t.read a) (t.read b))) s

/-- sel.32 (R121). -/
def execSel32 (d a b : Spec) (s : State) : Host.Outcome State Fault Refusal :=
  issueWord (.sel32 d a b) (valueWord d (fun t => tri 32 opSel (t.read a) (t.read b) (t.read d))) s

/-- mul.32 (R121). -/
def execMul32 (d a b : Spec) (s : State) : Host.Outcome State Fault Refusal :=
  issueWord (.mul32 d a b) (valueWord d (fun t => bin 32 (· * ·) (t.read a) (t.read b))) s

/-- mulh.32 (R121). -/
def execMulh32 (d a b : Spec) (s : State) : Host.Outcome State Fault Refusal :=
  issueWord (.mulh32 d a b) (valueWord d (fun t => bin 32 opMulh (t.read a) (t.read b))) s

/-- mulhn.32 (R121). -/
def execMulhn32 (d a b : Spec) (s : State) : Host.Outcome State Fault Refusal :=
  issueWord (.mulhn32 d a b) (valueWord d (fun t => bin 32 opMulhn (t.read a) (t.read b))) s

/-- div.32 (R121, R29). -/
def execDiv32 (d a b : Spec) (s : State) : Host.Outcome State Fault Refusal :=
  issueWord (.div32 d a b) (divWord 32 d opDiv a b) s

/-- divn.32 (R121, R29). -/
def execDivn32 (d a b : Spec) (s : State) : Host.Outcome State Fault Refusal :=
  issueWord (.divn32 d a b) (divWord 32 d opDivn a b) s

/-- rem.32 (R121, R29). -/
def execRem32 (d a b : Spec) (s : State) : Host.Outcome State Fault Refusal :=
  issueWord (.rem32 d a b) (divWord 32 d opRem a b) s

/-- remn.32 (R121, R29). -/
def execRemn32 (d a b : Spec) (s : State) : Host.Outcome State Fault Refusal :=
  issueWord (.remn32 d a b) (divWord 32 d opRemn a b) s

/-- clz.32 (R121). -/
def execClz32 (d a : Spec) (s : State) : Host.Outcome State Fault Refusal :=
  issueWord (.clz32 d a) (valueWord d (fun t => una 32 opClz (t.read a))) s

/-- ctz.32 (R121). -/
def execCtz32 (d a : Spec) (s : State) : Host.Outcome State Fault Refusal :=
  issueWord (.ctz32 d a) (valueWord d (fun t => una 32 opCtz (t.read a))) s

/-- pop.32 (R121). -/
def execPop32 (d a : Spec) (s : State) : Host.Outcome State Fault Refusal :=
  issueWord (.pop32 d a) (valueWord d (fun t => una 32 opPop (t.read a))) s

/-- brev.32 (R121). -/
def execBrev32 (d a : Spec) (s : State) : Host.Outcome State Fault Refusal :=
  issueWord (.brev32 d a) (valueWord d (fun t => una 32 opBrev (t.read a))) s

/-- bswap.32 (R121). -/
def execBswap32 (d a : Spec) (s : State) : Host.Outcome State Fault Refusal :=
  issueWord (.bswap32 d a) (valueWord d (fun t => una 32 opBswap (t.read a))) s

/-- bfx.32 (R121, R122). -/
def execBfx32 (d a b : Spec) (s : State) : Host.Outcome State Fault Refusal :=
  issueWord (.bfx32 d a b) (valueWord d (fun t => bin 32 opBfx (t.read a) (t.read b))) s

/-- bfi.32 (R121, R122). -/
def execBfi32 (d a b : Spec) (s : State) : Host.Outcome State Fault Refusal :=
  issueWord (.bfi32 d a b) (valueWord d (fun t => tri 32 opBfi (t.read a) (t.read b) (t.read d))) s

/-- addi (R123). -/
def execAddi (d a : Spec) (i : BitVec 14) (s : State) : Host.Outcome State Fault Refusal :=
  issueWord (.addi d a i) (valueWord d (fun t => t.read a + imm14 i)) s

/-- andi (R123). -/
def execAndi (d a : Spec) (i : BitVec 14) (s : State) : Host.Outcome State Fault Refusal :=
  issueWord (.andi d a i) (valueWord d (fun t => t.read a &&& imm14 i)) s

/-- ori (R123). -/
def execOri (d a : Spec) (i : BitVec 14) (s : State) : Host.Outcome State Fault Refusal :=
  issueWord (.ori d a i) (valueWord d (fun t => t.read a ||| imm14 i)) s

/-- xori (R123). -/
def execXori (d a : Spec) (i : BitVec 14) (s : State) : Host.Outcome State Fault Refusal :=
  issueWord (.xori d a i) (valueWord d (fun t => t.read a ^^^ imm14 i)) s

/-- slti (R123). -/
def execSlti (d a : Spec) (i : BitVec 14) (s : State) : Host.Outcome State Fault Refusal :=
  issueWord (.slti d a i) (valueWord d (fun t => opSlt (t.read a) (imm14 i))) s

/-- sltni (R123). -/
def execSltni (d a : Spec) (i : BitVec 14) (s : State) : Host.Outcome State Fault Refusal :=
  issueWord (.sltni d a i) (valueWord d (fun t => opSltn (t.read a) (imm14 i))) s

/-- muli (R123). -/
def execMuli (d a : Spec) (i : BitVec 14) (s : State) : Host.Outcome State Fault Refusal :=
  issueWord (.muli d a i) (valueWord d (fun t => t.read a * imm14 i)) s

/-- shli (R123). -/
def execShli (d a : Spec) (n : BitVec 6) (s : State) : Host.Outcome State Fault Refusal :=
  issueWord (.shli d a n) (valueWord d (fun t => t.read a <<< n.toNat)) s

/-- shri (R123). -/
def execShri (d a : Spec) (n : BitVec 6) (s : State) : Host.Outcome State Fault Refusal :=
  issueWord (.shri d a n) (valueWord d (fun t => t.read a >>> n.toNat)) s

/-- shai (R123). -/
def execShai (d a : Spec) (n : BitVec 6) (s : State) : Host.Outcome State Fault Refusal :=
  issueWord (.shai d a n) (valueWord d (fun t => (t.read a).sshiftRight n.toNat)) s

/-- lui (R123). -/
def execLui (d : Spec) (i : BitVec 20) (s : State) : Host.Outcome State Fault Refusal :=
  issueWord (.lui d i) (valueWord d (fun _ => imm20 i)) s

/-- addpc (R123). -/
def execAddpc (d : Spec) (i : BitVec 20) (s : State) : Host.Outcome State Fault Refusal :=
  issueWord (.addpc d i) (valueWord d (fun t => t.pc + imm20 i)) s

end Sys2Proof.Machine
end

