-- ==== Sys2Proof/Machine/Flags.lean ====
section
/-! DEFINITION. The flags of a clerk thread: FFL (R46), TS.DZ (R29), and the draws of the rounding generator (R42). -/

namespace Sys2Proof.Machine

/-- Flags are ORed into FFL (R46). -/
def Thread.orFlags (t : Thread) (f : FFlags) : Thread := { t with ffl := t.ffl ||| f }

/-- A zero divisor sets TS.DZ, which stays set (R29). -/
def Thread.orDz (t : Thread) (z : Bool) : Thread := { t with dz := t.dz || z }

/-- A draw of the thread's generator, taken when a value is rounded in mode SR (R42). -/
def Thread.drawIf (t : Thread) (c : Bool) : Thread := if c then { t with srnd := lfsrNext t.srnd } else t

/-- Whether storing a value into a format rounds it, and so draws in mode SR (R42): a finite value, and into e8m0 a
positive one (R45). -/
def rounds (code : Nat) (v : FV) : Bool :=
  match v with
  | .fin neg m _ => if code = 0xD then decide (m ≠ 0) && !neg else true
  | _ => false

end Sys2Proof.Machine
end

