-- ==== Sys2Proof/Machine/Csr.lean ====
section
/-! DEFINITION. Control registers (R115 to R120) and the deep-memory split (R161, R162). -/

namespace Sys2Proof.Machine

/-- THERM (R119). -/
def State.therm (s : State) : Word := ofBool s.tlf ||| (ofBool s.pwx <<< 1)

/-- TID (R119): context, the core's own logical name, slot. -/
def Thread.tid (t : Thread) : Word := BitVec.ofNat 64 (t.ctx * 2 ^ 32 + t.core * 2 ^ 16 + t.slot)

/-- The engine and index of a geometry register's number (R116). -/
def geomOf (n : Nat) : Option (Nat × Nat) :=
  if 0x040 ≤ n ∧ n ≤ 0x047 then some (0, n - 0x040)
  else if 0x050 ≤ n ∧ n ≤ 0x05F then some (1 + (n - 0x050) / 4, (n - 0x050) % 4)
  else none

/-- The RW bits of a geometry register (R120; its map stands with its engine: R298, R308, R315, R318, R320). -/
def geomMask (e i : Nat) : Word :=
  match e, i with
  | 0, _ => BitVec.allOnes 64
  | 1, 0 => BitVec.allOnes 64
  | 1, 1 => BitVec.allOnes 64
  | 1, 2 => 0xFFFFFFFF
  | 2, _ => BitVec.allOnes 64
  | 3, 0 => BitVec.allOnes 64
  | 3, 1 => 0x1FFFFFFFF
  | 4, 0 => 0xFFFFFFFFFFFF
  | _, _ => 0

/-- The split of a context on a die. -/
def State.split (s : State) (ctx die : Nat) : Split :=
  match s.ctx? ctx with
  | some c => c.splits.toList.getD die { grant := 0, scr := 0, cch := 0, rej := false }
  | none => { grant := 0, scr := 0, cch := 0, rej := false }

/-- SCSPLIT as a word (R161). -/
def Split.word (x : Split) : Word :=
  BitVec.ofNat 64 (x.scr % 64 + x.cch % 64 * 2 ^ 8 + x.grant % 64 * 2 ^ 16 + (if x.rej then 2 ^ 31 else 0))

/-- csr_read of R115: the whole register, without a side effect. -/
def State.csrRead (s : State) (t : Thread) (n : Nat) : Word :=
  match geomOf n with
  | some (e, i) => (s.engine e (engineUnit e t.core)).geom.getD i 0
  | none =>
    match n with
    | 0x000 => t.ts
    | 0x002 => t.ffl.setWidth 64
    | 0x003 => t.frm.setWidth 64
    | 0x004 => t.srnd.setWidth 64
    | 0x008 => t.lc.setWidth 64
    | 0x009 => t.ls
    | 0x00A => t.le
    | 0x010 => t.k[0].setWidth 64
    | 0x011 => t.k[1].setWidth 64
    | 0x012 => t.k[2].setWidth 64
    | 0x013 => t.k[3].setWidth 64
    | 0x020 => s.therm
    | 0x030 => t.tid
    | 0x031 => BitVec.ofNat 64 s.clk
    | 0x801 => t.pxs
    | 0x802 => (s.split t.ctx (coreDie t.core)).word
    | _ => 0

/-- csr_write of R115 for the registers that the thread holds, with their maps (R8, R117, R118, R79). -/
def Thread.csrWrite (t : Thread) (n : Nat) (v : Word) : Thread :=
  match n with
  | 0x000 => { t with dz := v.getLsbD 0 }
  | 0x002 => { t with ffl := v.setWidth 5 }
  | 0x003 => if (v.setWidth 3 : BitVec 3).toNat ≥ 6 then t else { t with frm := v.setWidth 3 }
  | 0x004 => { t with srnd := if v.setWidth 32 = (0 : BitVec 32) then 1 else v.setWidth 32 }
  | 0x008 => { t with lc := v.setWidth 32 }
  | 0x009 => { t with ls := maskLoopAddr v }
  | 0x00A => { t with le := maskLoopAddr v }
  | 0x010 => { t with k := t.k.set 0 (v.setWidth 40) }
  | 0x011 => { t with k := t.k.set 1 (v.setWidth 40) }
  | 0x012 => { t with k := t.k.set 2 (v.setWidth 40) }
  | 0x013 => { t with k := t.k.set 3 (v.setWidth 40) }
  | _ => t

/-- The state with the split of a context on a die replaced. -/
def State.setSplit (s : State) (ctx die : Nat) (x : Split) : State :=
  match s.ctx? ctx with
  | some c => s.setCtx { c with splits := Vector.ofFn (fun i => if i.val = die then x else c.splits[i]) }
  | none => s

/-- An enq SLICEMAP whose buffer lies in deep scratch (R304, R343). -/
def Enq.deep (e : Enq) : Bool := decide ((e.regs.getD 0 0).toNat % 256 = 8 ∧ (e.regs.getD 1 0).toNat / 2 ^ 62 = 2)

/-- A copy, an engine command or an enq of a context on deep scratch, with a name below one given, is outstanding (R162 step 2). -/
def State.deepCopies (s : State) (ctx upTo : Nat) : Bool :=
  s.engines.any (fun x => x.fifo.any (fun c => c.ctx == ctx && c.deep && decide (c.id < upTo))) ||
    s.reg.enqs.any (fun e => e.ctx == ctx && e.deep && decide (e.id < upTo))

/-- Deep scratch of a context on a die from a unit up is discarded (R162 step 4). -/
def State.discardDeep (s : State) (ctx die unit : Nat) : State :=
  let lo := ctx * 2 ^ 33 + die * 2 ^ 31 + unit * 2 ^ 26
  let hi := ctx * 2 ^ 33 + (die + 1) * 2 ^ 31
  { s with deep := s.deep.filter (fun p => decide (p.1 < lo ∨ hi ≤ p.1)),
           bad := s.bad.filter (fun p => match p.1 with
             | .deep c => !(c == ctx && decide (lo ≤ ctx * 2 ^ 33 + p.2 * 8 ∧ ctx * 2 ^ 33 + p.2 * 8 < hi))
             | _ => true) }

/-- The accesses of a context to deep scratch on a die that issued before a change of split complete (R162 step 2):
loads in flight are performed, posted stores are applied. -/
def State.finishDeep (s : State) (ctx die : Nat) : State :=
  let lo := die * 2 ^ 31
  let fin (s : State) (t : Thread) : State :=
    if t.ctx = ctx then s.setT (s.landOverlap t (.deep ctx) lo (2 ^ 31)) else s
  let s1 := s.threads.foldl fin s
  s1.drain ((s1.stores.filter (fun x => x.overlaps (.deep ctx) lo (2 ^ 31))).map Store.id)

/-- A change of split takes effect (R162 steps 2 to 5). -/
def State.changeSplit (s : State) (ctx die : Nat) (x : Split) : State :=
  let old := s.split ctx die
  ((s.finishDeep ctx die).discardDeep ctx die (Nat.min old.scr x.scr)).setSplit ctx die x

/-- The split that a write of a value asks for, or none when it exceeds GRANT (R161). -/
def Split.request (x : Split) (v : Word) : Option Split :=
  let scr := fieldOf v 0 6
  let cch := fieldOf v 8 6
  if scr + cch ≤ x.grant then some { x with scr := scr, cch := cch, rej := false } else none

/-- A control-register word (R115): the value to write is formed from the old one; none for csrr. -/
def csrBody (i : Instr) (n : Nat) (d : Spec) (form : Option (Word → Word)) (s : State) : Ex :=
  let t := s.th
  if 0x800 ≤ n ∧ t.prv = false then .trap s { code := .priv }
  else
    let old := s.csrRead t n
    match form with
    | none => .done { s with th := t.write d old } old none .seq
    | some f =>
      let v := f old
      match geomOf n with
      | some (e, j) =>
        let x := s.engine e (engineUnit e t.core)
        if x.holder ≠ some t.uid then .trap s { code := .priv }
        else .done (s.setEngine { x with geom := x.geom.set j (v &&& geomMask e j) }) old none .seq
      | none =>
        if n = 0x802 then
          let die := coreDie t.core
          let cur := s.split t.ctx die
          match cur.request v with
          | none => .done (s.setSplit t.ctx die { cur with rej := true }) old none .seq
          | some x =>
            if s.splitHeld t.ctx die then .stall s
            else if s.deepCopies t.ctx s.nextId then .wait (s.waitAt i (.split die v old s.nextId))
            else .done (s.changeSplit t.ctx die x) old none .seq
        else if n = 0x801 then
          -- the payloads are pending for the next instruction (R79)
          let s1 := s.completeWord t old none .seq
          .stop { s1 with th := s1.th.setPxs v }
        else .done { s with th := t.csrWrite n v } old none .seq

/-- csrr (R115). -/
def execCsrr (d : Spec) (n : BitVec 12) (s : State) : Host.Outcome State Fault Refusal :=
  issueWord (.csrr d n) (csrBody (.csrr d n) n.toNat d none) s

/-- csrw (R115). -/
def execCsrw (a : Spec) (n : BitVec 12) (s : State) : Host.Outcome State Fault Refusal :=
  issueWord (.csrw a n) (fun s => csrBody (.csrw a n) n.toNat 0 (some (fun _ => s.th.read a)) s) s

/-- csrs (R115). -/
def execCsrs (a : Spec) (n : BitVec 12) (s : State) : Host.Outcome State Fault Refusal :=
  issueWord (.csrs a n) (fun s => csrBody (.csrs a n) n.toNat 0 (some (fun old => old ||| s.th.read a)) s) s

/-- csrc (R115). -/
def execCsrc (a : Spec) (n : BitVec 12) (s : State) : Host.Outcome State Fault Refusal :=
  issueWord (.csrc a n) (fun s => csrBody (.csrc a n) n.toNat 0 (some (fun old => old &&& ~~~(s.th.read a))) s) s

/-- SPLIT_CHANGE_COMPLETE (R162): the waiting write of SCSPLIT takes effect once the copies of the context have ended. -/
def execSplitChangeComplete (u : Nat) (s : State) : Host.Outcome State Fault Refusal :=
  event (fun s =>
    match s.getT u with
    | some t =>
      match t.wait with
      | .split die v old n =>
        if s.deepCopies t.ctx n then s
        else match (s.split t.ctx die).request v with
          | none => s.completeWord t old none .seq
          | some x =>
            let s1 := s.changeSplit t.ctx die x
            match s1.getT u with
            | some t1 => s1.completeWord t1 old none .seq
            | none => s1
      | _ => s
    | none => s) s

end Sys2Proof.Machine
end

