-- ==== Sys2Proof/Machine/LoadStore.lean ====
section
/-! DEFINITION. Loads, stores, bit access, prefetch, ordering and atomics (R158, R164, R169 to R176, R200 to R206), and
the module's own steps that land or perform them. -/

namespace Sys2Proof.Machine

/-- Effective address: base plus a signed offset in access units (R172). -/
def effAddr {n : Nat} (base : Word) (off : BitVec n) (size : Nat) : Word := base + off.signExtend 64 * BitVec.ofNat 64 size

/-- Outstanding misses of a core (R163, R180): loads in flight, to memory and over links. -/
def State.misses (s : State) (core : Nat) : Nat :=
  s.threads.foldl (fun n t =>
    if t.core = core then
      n + (t.inflight.filter (fun f => match f.late with | .load _ => true | .status => false)).length +
        (s.links.filter (fun r => t.wait == .link r.id && (match r.op with | .load .. => true | .amo _ => false))).length
    else n) 0

/-- Every outstanding-miss entry of a core is in use: a load that needs one stalls (R163, R180). -/
def State.missesFull (s : State) (core : Nat) : Bool := decide (Config.missLimit ≤ s.misses core)

/-- An access to a store must wait: the range scoreboard (R169), or a change of split on its die (R162). -/
def State.mustWait (s : State) (t : Thread) (sp : Space) (a n : Nat) (isStore : Bool) : Bool :=
  match sp with
  | .win _ _ => rsBlocks (s.core t.core).sb sp a (a + n) isStore
  | .deep c => rsBlocks (s.core t.core).sb sp a (a + n) isStore || s.splitHeld c (a / 2 ^ 31)
  | _ => false

/-- A class .k access of a thread meets a change of split on the die of one of its bytes: it is held before it is looked at, and proceeds
under the new split (R162). -/
def State.splitWaits (s : State) (t : Thread) (cls : BitVec 2) (a n : Nat) : Bool :=
  cls == 2 && (s.splitHeld t.ctx (a / 2 ^ 31) || s.splitHeld t.ctx ((a + n - 1) / 2 ^ 31))

/-- No further request may leave on a link: 768 non-posted ones are outstanding at the host (R363). -/
def State.linkFull (s : State) (pa : Nat) : Bool :=
  let atHost (pa : Nat) : Bool := match target pa with | .host => true | _ => false
  let mine := s.links.filter (fun r => atHost (match r.op with | .load _ _ q _ => q.addr | .amo q => q.pa))
  let sluices := s.regions.flatMap (fun r => r.nodes.flatMap (fun n => match n.var with
    | .sluice _ _ _ reqs _ _ => reqs.filter (fun q => q.old.isNone && q.port.isNone)
    | _ => []))
  atHost pa && decide (Config.hostLimit ≤ mine.length + sluices.length)

/-- A request of the selected thread goes out on a link, and the thread waits for its completion (R178). -/
def State.sendLink (s : State) (i : Instr) (op : LinkOp) (va : Word) : State :=
  let id := s.nextId
  let port := s.peerPort (match op with | .load _ _ r _ => r.addr | .amo r => r.pa)
  State.waitAt { s with nextId := id + 1, links := s.links ++ [{ id := id, uid := s.th.uid, ctx := s.th.ctx, op := op, va := va, port := port }] } i (.link id)

/-- The load of R172 and R174 from a resolved place: core scratch is read at issue (R158), other stores are read when
the data return (R191). `acq` says that a link's completion is an acquire (R200). -/
def loadAt (i : Instr) (d : Spec) (d2 : Option Spec) (ea : Word) (loc : Loc) (req : Space → Nat → LoadReq) (s : State)
    (acq : Bool := false) : Ex :=
  let t := s.th
  match loc with
  | .link pa =>
    if s.missesFull t.core ∨ s.linkFull pa = true then .stall s
    else
    let s1 := s.drain ((s.stores.filter (fun x => x.core == t.core && x.overlaps .mem pa 16)).map Store.id)
    .wait (s1.sendLink i (.load d d2 (req .mem pa) acq) ea)
  | .at sp a =>
    let r := req sp a
    if s.mustWait t sp a r.size false then .stall s
    else if s.badFor t.core sp a r.size false false then .trap s (eccTrap sp a ea)
    else match sp with
      | .win _ _ =>
        let (v, v2) := loadValue r (s.readBytes sp a r.size)
        let t1 := t.write d v
        let t2 := match d2 with | some x => t1.write x v2 | none => t1
        .done { s with th := t2 } v none .seq
      | _ =>
        if s.missesFull t.core then .stall s
        else
          let (id, s1) := s.launchLate (some d) d2 (.load r)
          .done s1 0 (some id) .seq

/-- ld, ldn and ldp (R172). -/
def loadBody (i : Instr) (d : Spec) (d2 : Option Spec) (b : Spec) (cls : BitVec 2) (size : Nat) (sgn : Bool) (o : BitVec 9)
    (s : State) : Ex :=
  let ea := effAddr (s.th.read b) o size
  if ea.toNat % size ≠ 0 then .trap s { code := .align, addr := ea }
  else if s.splitWaits s.th cls ea.toNat size then .stall s
  else match s.resolve s.th cls ea size .rd with
    | .error e => .trap s e
    | .ok (loc, s1) => loadAt i d d2 ea loc (fun sp a => { space := sp, addr := a, size := size, sgn := sgn }) s1

/-- Bytes are stored at a resolved place (R172): at once in core scratch (R158), posted elsewhere (R180). The thread's
loads in flight from those bytes are performed first (R190). -/
def State.storeAt (s : State) (ea : Word) (loc : Loc) (bs : List (Byte × Byte)) : State :=
  let t := s.th
  let post (s : State) (sp : Space) (a : Nat) : State :=
    let s1 := { s with th := s.landOverlap t sp a bs.length }
    let x : Store := { id := s1.nextId, uid := t.uid, ctx := t.ctx, core := t.core, va := ea, space := sp, addr := a, bytes := bs,
                       port := if sp = .mem then s1.peerPort a else none }
    { s1 with nextId := s1.nextId + 1, stores := s1.stores ++ [x] }
  match loc with
  | .link pa => post s .mem pa
  | .at (.win c x) a => s.putBytes (.win c x) a bs
  | .at sp a => post s sp a

/-- The checks of a store at a resolved place (R169, R170): none when it may proceed. -/
def storeCheck (s : State) (ea : Word) (loc : Loc) (n : Nat) (whole : Bool) : Option Ex :=
  match loc with
  | .link _ => none
  | .at sp a =>
    if s.mustWait s.th sp a n true then some (.stall s)
    else if sp ≠ .mem ∧ s.badFor s.th.core sp a n true whole = true then some (.trap s (eccTrap sp a ea))
    else none

/-- st and stp (R172). -/
def storeBody (b : Spec) (cls : BitVec 2) (size : Nat) (o : BitVec 9) (val : Thread → Nat) (s : State) : Ex :=
  let ea := effAddr (s.th.read b) o size
  if ea.toNat % size ≠ 0 then .trap s { code := .align, addr := ea }
  else if s.splitWaits s.th cls ea.toNat size then .stall s
  else match s.resolve s.th cls ea size .wr with
    | .error e => .trap s e
    | .ok (loc, s1) =>
      match storeCheck s1 ea loc size true with
      | some x => x
      | none => .done (s1.storeAt ea loc (full (leBytes size (val s.th)))) 0 none .seq

/-- Bytes of an access size code (R64). -/
def sizeOf2 (z : BitVec 2) : Nat := 2 ^ z.toNat

/-- ld (R172). -/
def execLd (d b : Spec) (c z : BitVec 2) (o : BitVec 9) (s : State) : Host.Outcome State Fault Refusal :=
  issueWord (.ld d b c z o) (loadBody (.ld d b c z o) d none b c (sizeOf2 z) true o) s

/-- ldp (R172). -/
def execLdp (d b : Spec) (c : BitVec 2) (o : BitVec 9) (s : State) : Host.Outcome State Fault Refusal :=
  issueWord (.ldp d b c o) (loadBody (.ldp d b c o) d (some (d + 1)) b c 16 false o) s

/-- ldn (R172). -/
def execLdn (d b : Spec) (c z : BitVec 2) (o : BitVec 9) (s : State) : Host.Outcome State Fault Refusal :=
  issueWord (.ldn d b c z o) (loadBody (.ldn d b c z o) d none b c (sizeOf2 z) false o) s

/-- st (R172). -/
def execSt (v b : Spec) (c z : BitVec 2) (o : BitVec 9) (s : State) : Host.Outcome State Fault Refusal :=
  issueWord (.st v b c z o) (storeBody b c (sizeOf2 z) o (fun t => (t.read v).toNat)) s

/-- stp: the registers s and s + 1 (R172). -/
def execStp (v b : Spec) (c : BitVec 2) (o : BitVec 9) (s : State) : Host.Outcome State Fault Refusal :=
  issueWord (.stp v b c o) (fun s =>
    if s.th.busy (v + 1) then .stall s
    else storeBody b c 16 o (fun t => (t.read v).toNat + 2 ^ 64 * (t.read (v + 1)).toNat) s) s

/-- The bit address and the cursor after, or none for BITRANGE (R174). -/
def bitPlace (k : BitVec 40) (w : Nat) (v : BitVec 2) : Option (Nat × BitVec 40) :=
  if v = 2 then (if k.toNat < w then none else some (k.toNat - w, k - BitVec.ofNat 40 w))
  else if k.toNat + w > 2 ^ 40 then none
  else some (k.toNat, if v = 1 then k + BitVec.ofNat 40 w else k)

/-- The store that a bit access names: every byte must lie in it (R174, R175). -/
def State.bitSpace (s : State) (t : Thread) (cls : BitVec 2) (lo n : Nat) : Option Space :=
  if cls = 1 then (if lo + n ≤ s.windowLen t.core t.ctx then some (.win t.core t.ctx) else none)
  else if lo + n ≤ 2 ^ 33 ∧ s.deepOk t.ctx lo = true ∧ s.deepOk t.ctx (lo + n - 1) = true then some (.deep t.ctx)
  else none

/-- A cursor, by its number. -/
def Thread.cursor (t : Thread) (k : Spec) : BitVec 40 := t.k.toList.getD k.toNat 0

/-- A cursor written. -/
def Thread.setCursor (t : Thread) (k : Spec) (v : BitVec 40) : Thread :=
  { t with k := Vector.ofFn (fun i => if i.val = k.toNat then v else t.k[i]) }

/-- ldbit (R174). -/
def ldbitBody (i : Instr) (d k : Spec) (c : BitVec 2) (x : BitVec 1) (w : BitVec 6) (v : BitVec 2) (s : State) : Ex :=
  let t := s.th
  let n := w.toNat + 1
  match bitPlace (t.cursor k) n v with
  | none => .trap s { code := .bitrange, addr := (t.cursor k).setWidth 64 }
  | some (b, k1) =>
    let lo := b / 8
    let len := (b + n - 1) / 8 + 1 - lo
    if s.splitWaits t c lo len then .stall s
    else match s.bitSpace t c lo len with
    | none => .trap s { code := .bitrange, addr := (t.cursor k).setWidth 64 }
    | some sp =>
      match loadAt i d none (BitVec.ofNat 64 lo) (.at sp lo)
          (fun sp a => { space := sp, addr := a, size := len, sgn := x == 1, bits := some (b % 8, n) }) s with
      | .done s1 r l nx => .done { s1 with th := s1.th.setCursor k k1 } r l nx
      | e => e

/-- stbit (R174): only the w bits change. -/
def stbitBody (v k : Spec) (c : BitVec 2) (w : BitVec 6) (adv : BitVec 2) (s : State) : Ex :=
  let t := s.th
  let n := w.toNat + 1
  match bitPlace (t.cursor k) n adv with
  | none => .trap s { code := .bitrange, addr := (t.cursor k).setWidth 64 }
  | some (b, k1) =>
    let lo := b / 8
    let len := (b + n - 1) / 8 + 1 - lo
    if s.splitWaits t c lo len then .stall s
    else match s.bitSpace t c lo len with
    | none => .trap s { code := .bitrange, addr := (t.cursor k).setWidth 64 }
    | some sp =>
      match storeCheck s (BitVec.ofNat 64 lo) (.at sp lo) len (decide (b % 8 = 0 ∧ n % 8 = 0)) with
      | some e => e
      | none =>
        let bits := (t.read v).toNat % 2 ^ n * 2 ^ (b % 8)
        let mask := (2 ^ n - 1) * 2 ^ (b % 8)
        let s1 := s.storeAt (BitVec.ofNat 64 lo) (.at sp lo) ((leBytes len bits).zip (leBytes len mask))
        .done { s1 with th := s1.th.setCursor k k1 } 0 none .seq

/-- ldbit (R174). -/
def execLdbit (d k : Spec) (c : BitVec 2) (x : BitVec 1) (w : BitVec 6) (v : BitVec 2) (s : State) :
    Host.Outcome State Fault Refusal :=
  issueWord (.ldbit d k c x w v) (ldbitBody (.ldbit d k c x w v) d k c x w v) s

/-- stbit (R174). -/
def execStbit (v k : Spec) (c : BitVec 2) (w : BitVec 6) (adv : BitVec 2) (s : State) : Host.Outcome State Fault Refusal :=
  issueWord (.stbit v k c w adv) (stbitBody v k c w adv) s

/-- pref: no value that any access returns changes; its result value is 0 (R176). -/
def execPref (h b : Spec) (c : BitVec 2) (o : BitVec 9) (s : State) : Host.Outcome State Fault Refusal :=
  issueWord (.pref h b c o) (fun s => .done s 0 none .seq) s

/-- ld.acq: performed when it issues, so that no later access comes before it (R188, R200). -/
def ldAcqBody (i : Instr) (d b : Spec) (c z : BitVec 2) (p : BitVec 3) (o : BitVec 6) (s : State) : Ex :=
  let size := sizeOf2 z
  let ea := effAddr (s.th.read b) o size
  if ea.toNat % size ≠ 0 then .trap s { code := .align, addr := ea }
  else if s.splitWaits s.th c ea.toNat size then .stall s
  else match s.resolve s.th c ea size .rd with
    | .error e => .trap s e
    | .ok (.link pa, s1) => loadAt i d none ea (.link pa) (fun sp a => { space := sp, addr := a, size := size, sgn := true }) s1 (decide (p ≠ 0))
    | .ok (.at sp a, s1) =>
      if s1.mustWait s1.th sp a size false then .stall s1
      else if s1.badFor s1.th.core sp a size false false then .trap s1 (eccTrap sp a ea)
      else if (match sp with | .win _ _ => false | _ => s1.missesFull s1.th.core) then .stall s1
      else
        let t := s1.landOverlap s1.th sp a size
        let (v, _) := loadValue { space := sp, addr := a, size := size, sgn := true } (s1.viewBytes t.core sp a size)
        let u : Thread := { t.write d v with seen := t.seen ++ s1.seenStores t sp a size }
        .done { s1 with th := if p = 0 then u else s1.acquired u } v none .seq

/-- ld.acq (R200). -/
def execLdAcq (d b : Spec) (c z : BitVec 2) (p : BitVec 3) (o : BitVec 6) (s : State) : Host.Outcome State Fault Refusal :=
  issueWord (.ldAcq d b c z p o) (ldAcqBody (.ldAcq d b c z p o) d b c z p o) s

/-- st.rel: the release, then the store (R200). -/
def stRelBody (v b : Spec) (c z : BitVec 2) (p : BitVec 3) (o : BitVec 6) (s : State) : Ex :=
  let size := sizeOf2 z
  let ea := effAddr (s.th.read b) o size
  if ea.toNat % size ≠ 0 then .trap s { code := .align, addr := ea }
  else if s.splitWaits s.th c ea.toNat size then .stall s
  else match s.resolve s.th c ea size .wr with
    | .error e => .trap s e
    | .ok (loc, s1) =>
      match storeCheck s1 ea loc size true with
      | some x => x
      | none =>
        match s1.release s1.th p.toNat with
        | (s2, some tr) => .trap s2 tr
        | (s2, none) => .done (s2.storeAt ea loc (full (leBytes size (s.th.read v).toNat))) 0 none .seq

/-- st.rel (R200). -/
def execStRel (v b : Spec) (c z : BitVec 2) (p : BitVec 3) (o : BitVec 6) (s : State) : Host.Outcome State Fault Refusal :=
  issueWord (.stRel v b c z p o) (stRelBody v b c z p o) s

/-- A word of memory as the fetches of a core must see it after a fence: with the stores of the core that have been acknowledged
there (R53, R189). -/
def State.codeNow (s : State) (core pa : Nat) : Word32 :=
  BitVec.ofNat 32 (ofLe (({ s with stores := s.stores.filter Store.rel } : State).viewBytes core .mem pa 4))

/-- A fence is counted, and marks with its number the fetched words that memory no longer holds: on every core at module scope or
wider, on its own core at core scope or wider (R53, R201). -/
def State.markFetched (s : State) (core scope : Nat) : State :=
  if scope = 0 then s
  else
    let n := s.fences + 1
    let mark (c : Nat) (cs : CoreSt) : CoreSt :=
      { cs with icache := cs.icache.map (fun w =>
          if w.fenced = none ∧ s.codeNow c w.pa ≠ w.word then { w with fenced := some n } else w) }
    { s with fences := n,
             cores := s.cores.map (fun (p : Nat × CoreSt) => if 5 ≤ scope ∨ p.1 = core then (p.1, mark p.1 p.2) else p) }

/-- fence (R201). -/
def execFence (p : BitVec 3) (s : State) : Host.Outcome State Fault Refusal :=
  issueWord (.fence p) (fun s =>
    match s.release s.th p.toNat with
    | (s1, some tr) => .trap s1 tr
    | (s1, none) =>
      let s2 := s1.markFetched s1.th.core p.toNat
      .done (if p = 0 then s2 else { s2 with th := s2.acquired s2.th }) 0 none .seq) s

/-- A command that a publ of record x still waits for (R202): accepted before it, and not yet resolved to another. -/
def State.publWaits (s : State) (x : Nat) (cmds : List Nat) : Bool :=
  s.engines.any (fun e => e.fifo.any (fun c => cmds.contains c.id && (!c.resolved || c.pubRec == some x)))

/-- Translations that a test names are dropped from every cache: of cores, of walkers and of agn streams (R186, R202). -/
def State.dropTlb (s : State) (bad : Tlb → Bool) : State :=
  let keep (l : List Tlb) : List Tlb := l.filter (fun e => !bad e)
  let stream (x : Stream) : Stream := { x with tr := x.tr.filter (fun e => !bad e) }
  let node (n : NodeSt) : NodeSt :=
    match n.var with
    | .agn s0 s1 b => { n with var := .agn (stream s0) (stream s1) b }
    | _ => n
  { s with cores := s.cores.map (fun (p : Nat × CoreSt) => (p.1, { p.2 with tlb := keep p.2.tlb })),
           walkers := s.walkers.map (fun (p : Nat × List Tlb) => (p.1, keep p.2)),
           regions := s.regions.map (fun (r : Region) => { r with nodes := r.nodes.map node }) }

/-- Atomics and lock waits of a context's threads at addresses that a test names have not been performed and are no longer in flight:
their words run again, and translate again (R135, R186, R202). -/
def State.recall (s : State) (ctx : Nat) (hit : Nat → Nat → Bool) : State :=
  let back (t : Thread) : Thread :=
    let stale := match t.wait with
      | .amo r => hit r.va.toNat (if r.wide then 8 else 4)
      | .lock va _ _ => hit va.toNat 8
      | _ => false
    if t.ctx ≠ ctx ∨ stale = false then t
    else match t.place with
      | .slot => if t.mode = .waiting then { t with mode := .ready, wait := .none } else t
      | .queue => { t with wait := .arrival }
      | .saved => { t with wait := .none }
  { s with th := back s.th, others := s.others.map back }

/-- Accesses of a context's threads that translated through a range of virtual addresses are in flight no longer (R186): loads land,
stores are performed, atomics and lock waits run again. -/
def State.quiesce (s : State) (ctx lo len : Nat) : State :=
  let land (s : State) (u : Thread) : State := if u.ctx = ctx then s.setT (s.landAll u) else s
  let s1 := s.threads.foldl land s
  let s2 := s1.drain ((s1.stores.filter (fun y => y.space == .mem && y.ctx == ctx && decide (y.va.toNat < lo + len ∧ lo < y.va.toNat + y.bytes.length))).map Store.id)
  s2.recall ctx (fun va n => decide (va < lo + len ∧ lo < va + n))

/-- The flip of a publication record (R202): accesses through the old backing complete, GEN steps, and every cached
translation tagged with the record is dropped, in cores, walkers and agn streams. The release comes first, and as publ waits for the
acknowledgement at the homes at every scope, its deferred error is raised (R206). -/
def State.flip (s : State) (t : Thread) (d : Spec) (x scope : Nat) (word : Word32) : State :=
  match s.release t (Nat.max 2 scope) with
  | (s1, some tr) => (match s1.getT t.uid with | some u => s1.takeFault u tr word | none => s1)
  | (s1, none) =>
    match s1.ctx? t.ctx with
    | none => s1
    | some c =>
      let bad := s1.badAt .mem (c.pubAddr x) 64
      match (if bad then none else s1.pubRec c x) with
      | none => (match s1.getT t.uid with
          | some u => s1.takeFault u (if bad then eccTrap .mem (c.pubAddr x) 0 else { code := .xlate, retry := true }) word
          | none => s1)
      | some r =>
        let s2 := s1.quiesce t.ctx r.vbase r.len
        let s3 := s2.drain ((s2.stores.filter (fun y => y.overlaps .mem r.inView r.len)).map Store.id)
        let s4 := s3.put .mem (c.pubAddr x + 32) (leBytes 8 (r.gen + 1))
        let s5 := s4.dropTlb (fun e => e.ctx == t.ctx && e.pub == some x)
        match s5.getT t.uid with
        | none => s5
        | some u =>
          let v := BitVec.ofNat 64 (r.gen + 1)
          s5.completeWord (u.write d v) v none .seq

/-- publ (R202). -/
def publBody (i : Instr) (d a : Spec) (p : BitVec 3) (s : State) : Ex :=
  let t := s.th
  let x := (t.read a).toNat
  match s.ctx? t.ctx with
  | none => .trap s { code := .prot }
  | some c =>
    if 4096 ≤ x ∨ c.pubCnt ≤ x then .trap s { code := .prot }
    else if s.badAt .mem (c.pubAddr x) 64 then .trap s (eccTrap .mem (c.pubAddr x) 0)
    else if (s.pubRec c x).isNone then .trap s { code := .xlate, retry := true }
    else
      let cmds := (s.engines.flatMap (fun e => e.fifo.filter (fun k => k.ctx == t.ctx))).map Cmd.id
      if s.publWaits x cmds then .wait (s.waitAt i (.publ d x p.toNat cmds))
      else .stop (s.flip t d x p.toNat (encode i))

/-- publ (R202). -/
def execPubl (d a : Spec) (p : BitVec 3) (s : State) : Host.Outcome State Fault Refusal :=
  issueWord (.publ d a p) (publBody (.publ d a p) d a p) s

/-- PUBL_COMPLETE (R202): once the commands it waits for have completed or resolved elsewhere, the flip takes place. -/
def execPublComplete (u : Nat) (s : State) : Host.Outcome State Fault Refusal :=
  event (fun s =>
    match s.getT u with
    | some t =>
      match t.wait with
      | .publ d x p cmds => if s.publWaits x cmds then s else s.flip t d x p t.word
      | _ => s
    | none => s) s

/-! ### Atomics (R203 to R205) -/

/-- op_result of R203 over w bits. -/
def amoNew (w : Nat) (op : BitVec 4) (old v c : Nat) : Nat :=
  match op.toNat with
  | 0 => (old + v) % 2 ^ w
  | 1 => old &&& v
  | 2 => old ||| v
  | 3 => old ^^^ v
  | 4 => if toSigned w v < toSigned w old then v else old
  | 5 => if toSigned w old < toSigned w v then v else old
  | 6 => Nat.min old v
  | 7 => Nat.max old v
  | 8 => v
  | _ => if old = c then v else old

/-- A memory atomic at the home slice: the old value, and the state with the new one, which a failed cas does not write
(R203). -/
def State.amoMem (s : State) (op : BitVec 4) (n pa v c : Nat) : Nat × State :=
  let old := s.readNat .mem pa n
  if op = 9 ∧ old ≠ c % 2 ^ (8 * n) then (old, s)
  else (old, s.put .mem pa (leBytes n (amoNew (8 * n) op old (v % 2 ^ (8 * n)) (c % 2 ^ (8 * n)))))

/-- Bytes of an amo (R203). -/
def AmoReq.size (r : AmoReq) : Nat := if r.wide then 8 else 4

/-- The amo of a thread is performed at its home and its word completes (R203). -/
def State.amoPerform (s : State) (t : Thread) (r : AmoReq) (word : Word32) : State :=
  if s.badAt .mem r.pa r.size then s.takeFault t (eccTrap .mem r.pa r.va) word
  else
    let (old, s1) := s.amoMem r.op r.size r.pa r.v.toNat r.c.toNat
    let v := sextN (8 * r.size) old
    match s1.getT t.uid with
    | some u => s1.completeWord ((if r.ord.getLsbD 0 then s1.acquired u else u).write r.d v) v none .seq
    | none => s1

/-- The swarm stripe whose slice is the home of a physical address (R179). -/
def State.homeStripe (s : State) (pa : Nat) : Nat := s.sliceMap.getD (pa / 64 % 96) (pa / 64 % 96)

/-- The home core of R204. -/
def State.homeCore (s : State) (core pa : Nat) : Option Nat := s.liveCoreFrom (s.homeStripe pa) (coreIndex core)

/-- A core grants some slot to a context (R204). -/
def State.grantsAny (s : State) (core ctx : Nat) : Bool :=
  s.binds.any (fun b => !b.region && b.unit == core && b.ctx == ctx && b.slots % 2 ^ 16 != 0)

/-- A thread leaves its slot and enters a core's arrival queue with what it waits for (R148, R149). -/
def State.sendThread (s : State) (t : Thread) (core : Nat) (w : Wait) : State :=
  let from_ := t.core
  let s1 := s.setT { t with core := core, place := .queue, mode := .waiting, wait := w, since := s.clk, seen := [] }
  let cs := s1.core core
  (s1.setCore core { cs with queue := cs.queue ++ [t.uid] }).serveQueue from_

/-- An arrival queue has no room (R148). -/
def State.queueFull (s : State) (core : Nat) : Bool := decide (Config.arrivalLimit ≤ (s.core core).queue.length)

/-- A sender must wait: the target's queue is full, or another sender that was held back there comes before it, by coordinate and slot
(R148). -/
def State.sendHeld (s : State) (t : Thread) (core : Nat) : Bool :=
  s.queueFull core || (s.core core).senders.any (fun p => match s.getT p.1 with
    | some u => u.pc == p.2 && u.place == .slot && (u.mode == .stalled || u.mode == .ready) && decide (u.placeNo < t.placeNo)
    | none => false)

/-- A sender is held back at a target. -/
def State.holdBack (s : State) (t : Thread) (core : Nat) : State :=
  let cs := s.core core
  s.setCore core { cs with senders := cs.senders.filter (fun p => p.1 != t.uid) ++ [(t.uid, t.pc)] }

/-- A sender is held back at a target no longer. -/
def State.sentOff (s : State) (t : Thread) (core : Nat) : State :=
  let cs := s.core core
  s.setCore core { cs with senders := cs.senders.filter (fun p => p.1 != t.uid) }

/-- amo (R203 to R205). -/
def amoBody (i : Instr) (op : BitVec 4) (d a b : Spec) (wide : BitVec 1) (o : BitVec 2) (sc : BitVec 1) (s : State) : Ex :=
  let t := s.th
  let n := if wide = 1 then 8 else 4
  let ea := t.read a
  if ea.toNat % n ≠ 0 then .trap s { code := .align, addr := ea }
  else match s.resolve t 0 ea n .amo with
    | .error e => .trap s e
    | .ok (loc, s1) =>
      let mk (pa : Nat) : AmoReq :=
        { op := op, wide := wide == 1, ord := o, sys := sc == 1, d := d, va := ea, pa := pa, v := t.read b, c := t.read d }
      let rel (s : State) : State × Option Trap := if o.getLsbD 1 then s.release s.th (if sc = 1 then 6 else 5) else (s, none)
      match loc with
      | .link pa =>
        if target pa = .host ∧ op ≠ 0 ∧ op ≠ 8 ∧ op ≠ 9 then .trap s1 (rangeProt ea)
        else if s1.linkFull pa then .stall s1
        else match rel s1 with
          | (s2, some tr) => .trap s2 tr
          | (s2, none) =>
            let s3 := s2.drain ((s2.stores.filter (fun x => x.core == t.core && x.overlaps .mem pa n)).map Store.id)
            .wait (s3.sendLink i (.amo (mk pa)) ea)
      | .at _ pa =>
        let home := s1.homeCore t.core pa
        let stays : Bool := decide (t.peng ≠ 7) || home == some t.core ||
          (match home with | none => true | some h => !s1.grantsAny h t.ctx)
        if !stays && s1.hasCmds t then .stall s1
        else if !stays && (match home with | some h => s1.sendHeld t h | none => false) then .stall (s1.holdBack t (home.getD 0))
        else match (if stays then rel s1 else s1.release s1.th (if o.getLsbD 1 ∧ sc = 1 then 6 else 5)) with
          | (s2, some tr) => .trap s2 tr
          | (s2, none) =>
            let s3 := s2.drain ((s2.stores.filter (fun x => x.core == t.core && x.overlaps .mem pa n)).map Store.id)
            let s4 := { s3 with th := s3.landOverlap s3.th .mem pa n }
            if home = some t.core ∧ t.peng = 7 then .stop (s4.amoPerform s4.th (mk pa) (encode i))
            else if stays then .wait (s4.waitAt i (.amo (mk pa)))
            else match home with
              | some h =>
                let s5 := (s4.sentOff t h).waitAt i (.amo (mk pa))
                .stop (s5.sendThread s5.th h (.amo (mk pa)))
              | none => .wait (s4.waitAt i (.amo (mk pa)))

/-- AMO_AT_HOME (R204): the atomic of a message, or of a migrated thread in its new slot, is performed. -/
def execAmoAtHome (u : Nat) (s : State) : Host.Outcome State Fault Refusal :=
  event (fun s =>
    match s.getT u with
    | some t =>
      match t.wait with
      | .amo r => if t.place = .slot then s.amoPerform t r t.word else s
      | _ => s
    | none => s) s

/-! ### Steps that land or perform accesses -/

/-- LOAD_DATA_RETURN (R110, R190): a load in flight is performed, no earlier one of its thread that it overlaps being
outstanding, and its value lands. -/
def execLoadDataReturn (u i : Nat) (s : State) : Host.Outcome State Fault Refusal :=
  event (fun s =>
    match s.getT u with
    | none => s
    | some t =>
      match t.inflight.find? (fun f => f.id == i) with
      | none => s
      | some f =>
        match f.late with
        | .status => s
        | .load r =>
          let older := t.inflight.takeWhile (fun g => g.id != i)
          if older.any (fun g => match g.late with
              | .load q => q.space == r.space && decide (q.addr < r.addr + r.size ∧ r.addr < q.addr + q.size)
              | .status => false) then s
          else s.setT (s.landLoad t f)) s

/-- STORE_ACK (R180, R206): a posted store is performed at its home, after the older ones of its core that it overlaps. -/
def execStoreAck (i : Nat) (s : State) : Host.Outcome State Fault Refusal := event (fun s => s.drain [i]) s

/-- WALK_DONE (R183, R185): a walk for a core and context fills the caches of the walker and of the core; a failed walk leaves
nothing. -/
def execWalkDone (core ctx : Nat) (va : Word) (acc : BitVec 2) (s : State) : Host.Outcome State Fault Refusal :=
  event (fun s =>
    match s.walk ctx va (match acc with | 0#2 => .rd | 1#2 => .wr | 2#2 => .amo | _ => .ex) true with
    | .error _ => s
    | .ok e => (s.walkerFill (core / 16) e).tlbFillAt core e) s

/-- LINK_COMPLETION (R178, R205): a completion returns to the thread that waits for it, and an acquire takes effect (R193). st 0 is data, 1 Unsupported
Request or Completer Abort, which raises PROT, and 2 or 3 poisoned data, which raises ECC_UE. -/
def State.linkDone (s : State) (r : LinkReq) (st : BitVec 2) (data : BitVec 128) : State :=
  let s1 := { s with links := s.links.filter (fun x => x.id != r.id) }
  match s1.getT r.uid with
  | none => s1
  | some t =>
    if t.wait ≠ .link r.id then s1
    else if st = 1 then s1.takeFault t (rangeProt r.va) t.word
    else if st ≠ 0 then s1.takeFault t { code := .eccUe, addr := r.va, detail := rowId 0 r.va.toNat } t.word
    else match r.op with
      | .load d d2 q acq =>
        let (v, v2) := loadValue q (leBytes q.size data.toNat)
        let t1 := (if acq then s1.acquired t else t).write d v
        s1.completeWord (match d2 with | some x => t1.write x v2 | none => t1) v none .seq
      | .amo q =>
        let v := sextN (8 * q.size) (data.toNat % 2 ^ (8 * q.size))
        s1.completeWord ((if q.ord.getLsbD 0 then s1.acquired t else t).write q.d v) v none .seq

/-- LINK_COMPLETION (R178). -/
def execLinkCompletion (i : Nat) (st : BitVec 2) (data : BitVec 128) (s : State) : Host.Outcome State Fault Refusal :=
  event (fun s =>
    match s.links.find? (fun r => r.id == i) with
    | some r => s.linkDone r st data
    | none => s) s

/-- amo.add (R203). -/
def execAmoAdd (d a b : Spec) (w : BitVec 1) (o : BitVec 2) (c : BitVec 1) (s : State) : Host.Outcome State Fault Refusal :=
  issueWord (.amoAdd d a b w o c) (amoBody (.amoAdd d a b w o c) 0 d a b w o c) s

/-- amo.and (R203). -/
def execAmoAnd (d a b : Spec) (w : BitVec 1) (o : BitVec 2) (c : BitVec 1) (s : State) : Host.Outcome State Fault Refusal :=
  issueWord (.amoAnd d a b w o c) (amoBody (.amoAnd d a b w o c) 1 d a b w o c) s

/-- amo.or (R203). -/
def execAmoOr (d a b : Spec) (w : BitVec 1) (o : BitVec 2) (c : BitVec 1) (s : State) : Host.Outcome State Fault Refusal :=
  issueWord (.amoOr d a b w o c) (amoBody (.amoOr d a b w o c) 2 d a b w o c) s

/-- amo.xor (R203). -/
def execAmoXor (d a b : Spec) (w : BitVec 1) (o : BitVec 2) (c : BitVec 1) (s : State) : Host.Outcome State Fault Refusal :=
  issueWord (.amoXor d a b w o c) (amoBody (.amoXor d a b w o c) 3 d a b w o c) s

/-- amo.min (R203). -/
def execAmoMin (d a b : Spec) (w : BitVec 1) (o : BitVec 2) (c : BitVec 1) (s : State) : Host.Outcome State Fault Refusal :=
  issueWord (.amoMin d a b w o c) (amoBody (.amoMin d a b w o c) 4 d a b w o c) s

/-- amo.max (R203). -/
def execAmoMax (d a b : Spec) (w : BitVec 1) (o : BitVec 2) (c : BitVec 1) (s : State) : Host.Outcome State Fault Refusal :=
  issueWord (.amoMax d a b w o c) (amoBody (.amoMax d a b w o c) 5 d a b w o c) s

/-- amo.minn (R203). -/
def execAmoMinn (d a b : Spec) (w : BitVec 1) (o : BitVec 2) (c : BitVec 1) (s : State) : Host.Outcome State Fault Refusal :=
  issueWord (.amoMinn d a b w o c) (amoBody (.amoMinn d a b w o c) 6 d a b w o c) s

/-- amo.maxn (R203). -/
def execAmoMaxn (d a b : Spec) (w : BitVec 1) (o : BitVec 2) (c : BitVec 1) (s : State) : Host.Outcome State Fault Refusal :=
  issueWord (.amoMaxn d a b w o c) (amoBody (.amoMaxn d a b w o c) 7 d a b w o c) s

/-- amo.swap (R203). -/
def execAmoSwap (d a b : Spec) (w : BitVec 1) (o : BitVec 2) (c : BitVec 1) (s : State) : Host.Outcome State Fault Refusal :=
  issueWord (.amoSwap d a b w o c) (amoBody (.amoSwap d a b w o c) 8 d a b w o c) s

/-- amo.cas (R203). -/
def execAmoCas (d a b : Spec) (w : BitVec 1) (o : BitVec 2) (c : BitVec 1) (s : State) : Host.Outcome State Fault Refusal :=
  issueWord (.amoCas d a b w o c) (amoBody (.amoCas d a b w o c) 9 d a b w o c) s

end Sys2Proof.Machine
end

