-- ==== Sys2Proof/Machine/Control.lean ====
section
/-! DEFINITION. Control transfers, hardware loops, calls to other cores, prefixes, traps, and words that are no
instruction (R58, R74 to R81, R137 to R139, R150, R154). -/

namespace Sys2Proof.Machine

/-- A pc-relative target, counted in words (R52, R137). -/
def relTarget {n : Nat} (pc : Word) (d : BitVec n) : Word := pc + d.signExtend 64 * 4

/-- A branch (R137). -/
def branchBody (a b : Spec) (d : BitVec 10) (c : Word → Word → Bool) (s : State) : Ex :=
  let t := s.th
  .done s 0 none (if c (t.read a) (t.read b) then .jump (relTarget t.pc d) true else .seq)

/-- br.eq (R137). -/
def execBrEq (a b : Spec) (d : BitVec 10) (s : State) : Host.Outcome State Fault Refusal :=
  issueWord (.brEq a b d) (branchBody a b d (fun x y => x == y)) s

/-- br.ne (R137). -/
def execBrNe (a b : Spec) (d : BitVec 10) (s : State) : Host.Outcome State Fault Refusal :=
  issueWord (.brNe a b d) (branchBody a b d (fun x y => x != y)) s

/-- br.lt, signed (R137). -/
def execBrLt (a b : Spec) (d : BitVec 10) (s : State) : Host.Outcome State Fault Refusal :=
  issueWord (.brLt a b d) (branchBody a b d (fun x y => x.slt y)) s

/-- br.ge, signed (R137). -/
def execBrGe (a b : Spec) (d : BitVec 10) (s : State) : Host.Outcome State Fault Refusal :=
  issueWord (.brGe a b d) (branchBody a b d (fun x y => !x.slt y)) s

/-- br.ltn, natural (R137). -/
def execBrLtn (a b : Spec) (d : BitVec 10) (s : State) : Host.Outcome State Fault Refusal :=
  issueWord (.brLtn a b d) (branchBody a b d (fun x y => x.ult y)) s

/-- br.gen, natural (R137). -/
def execBrGen (a b : Spec) (d : BitVec 10) (s : State) : Host.Outcome State Fault Refusal :=
  issueWord (.brGen a b d) (branchBody a b d (fun x y => !x.ult y)) s

/-- jmp (R137). -/
def execJmp (d : BitVec 26) (s : State) : Host.Outcome State Fault Refusal :=
  issueWord (.jmp d) (fun s => .done s 0 none (.jump (relTarget s.th.pc d) true)) s

/-- call: the return address goes to g31 (R137). -/
def execCall (d : BitVec 26) (s : State) : Host.Outcome State Fault Refusal :=
  issueWord (.call d) (fun s =>
    let t := s.th
    .done { s with th := t.write 31 (t.pc + 4) } (t.pc + 4) none (.jump (relTarget t.pc d) false)) s

/-- jr and ret: a misaligned target raises ALIGN, and the transfer does not take place (R52, R137). -/
def jumpReg (a : Spec) (s : State) : Ex :=
  let x := s.th.read a
  if x.toNat % 4 ≠ 0 then .trap s { code := .align, addr := x } else .done s 0 none (.jump x true)

/-- jr (R137). -/
def execJr (a : Spec) (s : State) : Host.Outcome State Fault Refusal := issueWord (.jr a) (jumpReg a) s

/-- ret (R137). -/
def execRet (a : Spec) (s : State) : Host.Outcome State Fault Refusal := issueWord (.ret a) (jumpReg a) s

/-- callr: a is read before d is written (R137). -/
def execCallr (d a : Spec) (s : State) : Host.Outcome State Fault Refusal :=
  issueWord (.callr d a) (fun s =>
    let t := s.th
    let x := t.read a
    if x.toNat % 4 ≠ 0 then .trap s { code := .align, addr := x }
    else .done { s with th := t.write d (t.pc + 4) } (t.pc + 4) none (.jump x false)) s

/-- A loop word with its count (R138); a length of 0 raises ZERO_LOOP (R69). -/
def loopBody (n : BitVec 32) (l : BitVec 13) (s : State) : Ex :=
  let t := s.th
  if l = 0 then .trap s { code := .zeroLoop }
  else
    let ls := maskLoopAddr (t.pc + 4)
    let le := maskLoopAddr (t.pc + 4 + l.setWidth 64 * 4)
    .done { s with th := { t with ls := ls, le := le, lc := n, la := decide (n ≠ 0) } } 0 none
      (.to (if n = 0 then t.pc + 4 + l.setWidth 64 * 4 else t.pc + 4))

/-- loopi (R138). -/
def execLoopi (c : BitVec 12) (l : BitVec 13) (s : State) : Host.Outcome State Fault Refusal :=
  issueWord (.loopi c l) (loopBody (c.setWidth 32) l) s

/-- loop (R138). -/
def execLoop (a : Spec) (l : BitVec 13) (s : State) : Host.Outcome State Fault Refusal :=
  issueWord (.loop a l) (fun s => loopBody ((s.th.read a).setWidth 32) l s) s

/-! ### Names and calls (R150, R355, R356) -/

/-- A name cache with one more entry, the newest first: of the 64 entries the oldest goes (R22, R356; log entry 49). -/
def nameFill (l : List (Nat × Nat)) (name core : Nat) : List (Nat × Nat) :=
  ((name, core) :: l.filter (fun p => p.1 != name)).take Config.nameSize

/-- A logical name through a core's name cache, else through the catalogue, which fills the cache; none when unmapped
(R356). -/
def State.resolveName (s : State) (core name : Nat) : Option (Nat × State) :=
  let cs := s.core core
  match assoc cs.names name with
  | some c => some (c, s)
  | none =>
    match s.catalogue name with
    | some c => some (c, s.setCore core { cs with names := nameFill cs.names name c })
    | none => none

/-- The name cache of an interface that is no clerk core's (R356). -/
def State.cache (s : State) (i : Iface) : List (Nat × Nat) := ((s.caches.find? (fun p => p.1 == i)).map Prod.snd).getD []

/-- A logical name as an interface resolves it (R356). -/
def State.nameAt (s : State) (i : Iface) (name : Nat) : Option Nat :=
  match assoc (s.cache i) name with
  | some c => some c
  | none => s.catalogue name

/-- An interface has resolved a name: its cache holds it (R356). -/
def State.learnName (s : State) (i : Iface) (name : Nat) : State :=
  match assoc (s.cache i) name, s.catalogue name with
  | none, some c => { s with caches := (i, nameFill (s.cache i) name c) :: s.caches.filter (fun p => p.1 != i) }
  | _, _ => s

/-- The entry of a name is about to be rewritten: what names its core leaves every name cache (R356). -/
def State.dropNames (s : State) (core : Nat) : State :=
  let keep (l : List (Nat × Nat)) : List (Nat × Nat) := l.filter (fun p => p.2 != core)
  { s with cores := s.cores.map (fun c => (c.1, { c.2 with names := keep c.2.names })), caches := s.caches.map (fun p => (p.1, keep p.2)) }

/-- NAME_UNMAPPED, retryable (R344). -/
def nameTrap : Trap := { code := .nameUnmapped, retry := true }

/-- NAME_WALK_DONE (R356): a catalogue walk fills a core's name cache. -/
def execNameWalkDone (core : Nat) (name : BitVec 16) (s : State) : Host.Outcome State Fault Refusal :=
  event (fun s => match s.resolveName core name.toNat with | some (_, s1) => s1 | none => s) s

/-- callx (R150): the request goes to the target's arrival queue and the caller waits. A caller that was descheduled finds
its answer in WRES and sends nothing. -/
def callxBody (i : Instr) (d a b : Spec) (s : State) : Ex :=
  let t := s.th
  if t.wresValid then
    .done { s with th := { t.write d t.wres with wresValid := false, wres := 0 } } t.wres none .seq
  else
    let e := t.read a
    if e.toNat % 4 ≠ 0 then .trap s { code := .align, addr := e }
    else match s.resolveName t.core ((t.read d).toNat % 2 ^ 16) with
      | none => .trap s nameTrap
      | some (c, s1) =>
        if s1.sendHeld t c then .stall (s1.holdBack t c)
        else match s1.release s1.th 5 with
          | (s2, some tr) => .trap s2 tr
          | (s2, none) =>
            let callee : Thread :=
              { Thread.initial with
                  uid := s2.nextId, ctx := t.ctx, core := c, mode := .waiting, place := .queue,
                  wait := .arrival, pc := e, g := (Thread.initial).g.set 1 (t.read b), prv := t.prv, bornPrv := t.prv,
                  ticket := BitVec.ofNat 64 (2 ^ 63 + t.uid), origin := t.origin, since := s.clk }
            let s3 := (({ s2 with nextId := s2.nextId + 1 } : State).addT callee).sentOff t c
            let cs := s3.core c
            .wait ((s3.setCore c { cs with queue := cs.queue ++ [callee.uid] }).waitAt i (.callx d))

/-- callx (R150). -/
def execCallx (d a b : Spec) (s : State) : Host.Outcome State Fault Refusal :=
  issueWord (.callx d a b) (callxBody (.callx d a b) d a b) s

/-- An answer is sent to the caller of a ticket (R150). -/
def State.answer (s : State) (ticket : Word) (v : Word) : State :=
  { s with answers := s.answers ++ [{ uid := ticket.toNat % 2 ^ 63, value := v, fault := none }] }

/-- reply (R150): waits for the thread's copies in flight, releases, answers, and the slot is freed. -/
def execReply (a : Spec) (s : State) : Host.Outcome State Fault Refusal :=
  issueWord (.reply a) (fun s =>
    let t := s.th
    if t.ticket.getLsbD 63 = false then .trap s { code := .illegal }
    else if s.hasCmds t then .stall s
    else match s.release t 5 with
      | (s1, some tr) => .trap s1 tr
      | (s1, none) => .stop ((s1.answer t.ticket (t.read a)).endThread s1.th)) s

/-- CALLX_ANSWER (R150): the answer reaches the waiting caller: a value, or the callee's fault with REMOTE. A descheduled
caller keeps a value in WRES. -/
def execCallxAnswer (u : Nat) (s : State) : Host.Outcome State Fault Refusal :=
  event (fun s =>
    match s.answers.find? (fun a => a.uid == u), s.getT u with
    | some a, some t =>
      let s1 := { s with answers := s.answers.filter (fun x => x != a) }
      match t.wait with
      | .callx d =>
        if t.mode = .descheduled then
          (match a.fault with | none => s1.keepT { t with wres := a.value, wresValid := true } | some _ => s)
        else match a.fault with
          | some tr => s1.takeFault t tr t.word
          | none => s1.completeWord (t.write d a.value) a.value none .seq
      | _ => s1
    | some a, none => { s with answers := s.answers.filter (fun x => x != a) }
    | none, _ => s) s

/-! ### Prefixes, traps, returns, and words that are no instruction -/

/-- The condition 3 of R81 on a prefix word: its payload, one of its kind already pending, the last word of a loop body
(R75, R76, R78). -/
def pfxBad (t : Thread) (payloadOk pending : Bool) : Bool :=
  !payloadOk || pending || (t.la && t.pc + 4 == t.le)

/-- A prefix word: its payload becomes pending, and neither y0 nor y1 changes (R79). -/
def issuePfx (i : Instr) (payloadOk : Bool) (pending : Thread → Bool) (put : Thread → Thread) (s : State) :
    Host.Outcome State Fault Refusal :=
  if s.th.mode ≠ .ready then .fault .noReadyThread
  else if pfxBad s.th payloadOk (pending s.th) then .next (s.trapAt i { code := .pfx })
  else .next { s with th := { put s.th with pc := s.th.pc + 4, retry := none } }

/-- pfx.fmt (R75, R79). -/
def execPfxFmt (a b d : BitVec 4) (r : BitVec 3) (f : BitVec 6) (s : State) : Host.Outcome State Fault Refusal :=
  issuePfx (.pfxFmt a b d r f) (decide (a.toNat < 14 ∧ b.toNat < 14 ∧ d.toNat < 14 ∧ r.toNat ≠ 6)) Thread.fv
    (fun t => { t with fv := true, fmt := (encode (.pfxFmt a b d r f)).setWidth 24 }) s

/-- pfx.scl (R76, R79). -/
def execPfxScl (g : BitVec 2) (r : BitVec 6) (i : BitVec 1) (c : BitVec 8) (s : State) : Host.Outcome State Fault Refusal :=
  issuePfx (.pfxScl g r i c)
    (decide ((g = 1 ∨ g = 2) ∧ r.toNat < 42 ∧ (i = 1 → r = 0) ∧ (i = 0 → c = 0))) Thread.sv
    (fun t => { t with sv := true, scl := (encode (.pfxScl g r i c)).setWidth 24 }) s

/-- trap (R154). -/
def execTrap (n : BitVec 6) (s : State) : Host.Outcome State Fault Refusal :=
  issueWord (.trap n) (fun s => .trap s { code := .trapCode, trapn := n.toNat }) s

/-- eret (R154). -/
def execEret (s : State) : Host.Outcome State Fault Refusal :=
  issueWord .eret (fun s =>
    let t := s.th
    if t.prv = false then .trap s { code := .priv }
    else if t.inHandler = false then .trap s { code := .illegal }
    else match s.returnFromHandler t with
      | .error e => .trap s e
      | .ok s1 => .stop s1) s

/-- A word with an unassigned major raises ILLEGAL (R58, R81). -/
def execIllegalWord (w : Word32) (s : State) : Host.Outcome State Fault Refusal :=
  if s.th.mode ≠ .ready then .fault .noReadyThread else .next (s.trapAt (.illegalWord w) { code := .illegal })

/-- A word of an assigned major that is no instruction raises ILLEGAL, and PREFIX when its major is that of the prefixes
(R74, R81). -/
def execUnassignedFnWord (w : Word32) (s : State) : Host.Outcome State Fault Refusal :=
  if s.th.mode ≠ .ready then .fault .noReadyThread
  else .next (s.trapAt (.unassignedFnWord w) { code := if fld w 26 6 = 0x30#6 then .pfx else .illegal })

end Sys2Proof.Machine
end

