-- ==== Sys2Proof/Machine/Threads.lean ====
section
/-! DEFINITION. Thread operations: creation and end, yield, sleep and wake, semaphores, broadcast buses, migration,
engine pins and lock words (R140 to R152), and the module's own steps that end their waits. -/

namespace Sys2Proof.Machine

/-- The place of a join counter: translated with the rights of a store, at a home slice of the module (R140). -/
def State.joinPlace (s : State) (t : Thread) (j : Word) : Except Trap (Nat × State) :=
  match s.resolve t 0 j 8 .wr with
  | .error e => .error e
  | .ok (.at .mem pa, s1) => if s1.badAt .mem pa 8 then .error (eccTrap .mem pa j) else .ok (pa, s1)
  | .ok _ => .error (rangeProt j)

/-- join_add: a 64-bit wrapping addition at the counter's home (R140). The new value. -/
def State.joinAdd (s : State) (pa : Nat) (v : Word) : Word × State :=
  let n : Word := BitVec.ofNat 64 (s.readNat .mem pa 8) + v
  (n, s.put .mem pa (leBytes 8 n.toNat))

/-- The thread that spawn creates (R114, R140). -/
def spawned (t : Thread) (uid slot ticket clk : Nat) (e v j : Word) : Thread :=
  { Thread.initial with
      uid := uid, ctx := t.ctx, core := t.core, slot := slot, mode := .ready, pc := e,
      g := ((Thread.initial).g.set 1 v).set 2 j, join := j,
      parent := BitVec.ofNat 64 (2 ^ 63 + t.slot * 2 ^ 16 + t.core), prv := t.prv, bornPrv := t.prv,
      bindTicket := ticket, origin := t.origin, escape := t.escape, since := clk }

/-- spawn (R140). -/
def spawnBody (d a b : Spec) (s : State) : Ex :=
  let t := s.th
  let j := t.read d
  let e := t.read a
  let v := t.read b
  if e.toNat % 4 ≠ 0 then .trap s { code := .align, addr := e }
  else if j.toNat % 8 ≠ 0 then .trap s { code := .align, addr := j }
  else match (if j = 0 then .ok (0, s) else s.joinPlace t j) with
    | .error tr => .trap s tr
    | .ok (pa, s1) =>
      -- the slots that arrived contexts take go to them first
      let s1 := s1.serveQueue t.core
      match s1.freeSlot t.core t.ctx with
      | none => .done { s1 with th := s1.th.write d (BitVec.allOnes 64) } (BitVec.allOnes 64) none .seq
      | some slot =>
        match s1.release s1.th 5 with
        | (s2, some tr) => .trap s2 tr
        | (s2, none) =>
          let s3 := if j = 0 then s2 else (s2.joinAdd pa 1).2
          let ticket := match s3.grant t.core t.ctx slot with | some x => x.ticket | none => t.bindTicket
          let s4 := ({ s3 with nextId := s3.nextId + 1 } : State).addT (spawned t s3.nextId slot ticket s.clk e v j)
          let r := BitVec.ofNat 64 slot
          .done { s4 with th := s4.th.write d r } r none .seq

/-- spawn (R140). -/
def execSpawn (d a b : Spec) (s : State) : Host.Outcome State Fault Refusal :=
  issueWord (.spawn d a b) (spawnBody d a b) s

/-- A wake is sent to a slot of a named core (R143). -/
def State.sendWake (s : State) (ctx core slot : Nat) : State :=
  { s with nextId := s.nextId + 1, wakes := s.wakes ++ [{ id := s.nextId, ctx := ctx, core := core, slot := slot }] }

/-- A wake reaches its target: it ends a sleep of a thread of the context, also in the clk of its deadline, or sets its wake-pending
bit (R143, R144). -/
def State.wakeThread (s : State) (m : WakeMsg) : State :=
  let here (p : Place) : Option Thread :=
    s.threads.find? (fun t => t.ctx == m.ctx && t.core == m.core && t.slot == m.slot && t.place == p)
  match (match here .slot with | some t => some t | none => here .saved) with
  | none => s
  | some t =>
    if t.mode = .sleeping then
      if t.sleepTo ≠ 0 ∧ t.sleepTo < s.clk then s.completeWord { t with deadline := 0, sleepTo := 0, wakePending := true } 0 none .seq
      else s.completeWord { t with deadline := 0, sleepTo := 0 } 1 none .seq
    else s.keepT { t with wakePending := true }

/-- exit (R141). -/
def exitBody (a : Spec) (s : State) : Ex :=
  let t := s.th
  let x := t.read a
  if s.hasCmds t then .stall s
  else match s.release t 5 with
    | (s1, some tr) => .trap s1 tr
    | (s1, none) =>
      let t1 := s1.th
      if t1.ticket.getLsbD 63 then .stop ((s1.answer t1.ticket x).endThread t1)
      else
        let last (s : State) : Ex :=
          let s2 := match t1.byBind with
            | some rank => { s with exits := s.exits ++ [(t1.origin, rank, x.toNat % 2 ^ 32)] }
            | none => s
          let s3 := match t1.escape with
            | some e => s2.poisonSlips e.1 t1.uid
            | none => s2
          .stop (s3.endThread s3.th)
        if t1.join = 0 then last s1
        else match s1.joinPlace t1 t1.join with
          | .error tr => .trap s1 tr
          | .ok (pa, s2) =>
            let (n, s3) := s2.joinAdd pa (BitVec.allOnes 64)
            if n = 0 ∧ t1.parent.getLsbD 63 = true then
              match s3.resolveName t1.core (t1.parent.toNat % 2 ^ 16) with
              | some (c, s4) => last (s4.sendWake t1.ctx c (t1.parent.toNat / 2 ^ 16 % 16))
              | none => last s3
            else last s3

/-- yield: the other ready threads of the core issue once first, for at most 15 clk that are not gated (R142, R168). -/
def execYield (s : State) : Host.Outcome State Fault Refusal :=
  issueWord .yield (fun s =>
    let t := s.th
    let others := s.threads.filter (fun u => u.core == t.core && u.place == .slot && u.mode == .ready && u.uid != t.uid)
    .done { s with th := { t with skip := others.map Thread.slot, skipTo := s.clk + (if s.tlf then 30 else 15) } } 0 none .seq) s

/-- sleep (R144). A sleep that runs again after a pre-emption keeps its DEADLINE. CLK and T are added exactly, so that DEADLINE, the low
64 bits of the sum, is reached once T clk have passed. -/
def execSleep (a : Spec) (s : State) : Host.Outcome State Fault Refusal :=
  issueWord (.sleep a) (fun s =>
    let t := s.th
    if t.wakePending then .done { s with th := { t with wakePending := false, deadline := 0, sleepTo := 0 } } 1 none .seq
    else
      let x := (t.read a).toNat
      let wakeAt := if t.deadline ≠ 0 then (if t.sleepTo ≠ 0 then t.sleepTo else t.deadline.toNat) else if x = 0 then 0 else s.clk + x
      let s1 := s.waitAt (.sleep a) .sleep
      .wait { s1 with th := { s1.th with mode := .sleeping, deadline := BitVec.ofNat 64 wakeAt, sleepTo := wakeAt } }) s

/-- wake (R143). -/
def execWake (a : Spec) (s : State) : Host.Outcome State Fault Refusal :=
  issueWord (.wake a) (fun s =>
    let t := s.th
    let x := (t.read a).toNat
    match s.resolveName t.core (x % 2 ^ 16) with
    | none => .trap s nameTrap
    | some (c, s1) =>
      match s1.release s1.th 5 with
      | (s2, some tr) => .trap s2 tr
      | (s2, none) => .done (s2.sendWake t.ctx c (x / 2 ^ 16 % 16)) 0 none .seq) s

/-- WAKE_ARRIVAL (R143). -/
def execWakeArrival (i : Nat) (s : State) : Host.Outcome State Fault Refusal :=
  event (fun s =>
    match s.wakes.find? (fun m => m.id == i) with
    | some m => State.wakeThread { s with wakes := s.wakes.filter (fun x => x.id != i) } m
    | none => s) s

/-- SLEEP_DEADLINE (R144): the clk of a sleeping thread's deadline has passed without a wake. -/
def execSleepDeadline (u : Nat) (s : State) : Host.Outcome State Fault Refusal :=
  event (fun s =>
    match s.getT u with
    | some t =>
      if t.mode = .sleeping ∧ t.sleepTo ≠ 0 ∧ t.sleepTo < s.clk then
        s.completeWord { t with deadline := 0, sleepTo := 0 } 0 none .seq
      else s
    | none => s) s

/-! ### Semaphores (R145) -/

/-- A semv on a core's semaphore: the oldest waiter's semp completes, else the count rises (R145). -/
def State.semV (s : State) (core n : Nat) : State :=
  let cs := s.core core
  let x := cs.sems.toList.getD n Sem.initial
  let put (y : Sem) : State := s.setCore core { cs with sems := Vector.ofFn (fun i => if i.val = n then y else cs.sems[i]) }
  match x.waiters with
  | w :: ws =>
    let s1 := put { x with waiters := ws }
    match s1.getT w with
    | some t => s1.completeWord (s1.acquired t) 0 none .seq
    | none => s1
  | [] => if x.count < 2 ^ 32 - 1 then put { x with count := x.count + 1 } else s

/-- semv (R145). -/
def execSemv (n : BitVec 4) (s : State) : Host.Outcome State Fault Refusal :=
  issueWord (.semv n) (fun s =>
    let t := s.th
    if ((s.core t.core).sems.toList.getD n.toNat Sem.initial).grant ≠ some t.ctx then .trap s { code := .priv }
    else
      let (s1, _) := s.release t 1
      .done (s1.semV t.core n.toNat) 0 none .seq) s

/-- semp (R145). -/
def execSemp (n : BitVec 4) (s : State) : Host.Outcome State Fault Refusal :=
  issueWord (.semp n) (fun s =>
    let t := s.th
    let cs := s.core t.core
    let x := cs.sems.toList.getD n.toNat Sem.initial
    let put (y : Sem) : State :=
      s.setCore t.core { cs with sems := Vector.ofFn (fun i => if i.val = n.toNat then y else cs.sems[i]) }
    if x.grant ≠ some t.ctx then .trap s { code := .priv }
    else if 0 < x.count then
      let s1 := put { x with count := x.count - 1 }
      .done { s1 with th := s1.acquired s1.th } 0 none .seq
    else .wait ((put { x with waiters := x.waiters ++ [t.uid] }).waitAt (.semp n) (.sem n.toNat))) s

/-! ### Broadcast buses (R146, R147) -/

/-- The bus that a control word names: the row bus of the stripe, or the column bus of the field (R146). -/
def busOf (core : Nat) (col : Bool) : Nat := if col then 1 + 2 * (core / 64 * 16 + core % 16) else 2 * (core / 16)

/-- Releases of a key so far (R147). -/
def State.busCount (s : State) (bus bid ctx : Nat) : Nat :=
  match s.busCounts.find? (fun p => p.1 == bus && p.2.1 == bid && p.2.2.1 == ctx) with
  | some p => p.2.2.2
  | none => 0

/-- One more release of a key. -/
def State.busReleased (s : State) (bus bid ctx : Nat) : State :=
  let n := (s.busCount bus bid ctx + 1) % 2 ^ 32
  { s with busCounts := (s.busCounts.filter (fun p => !(p.1 == bus && p.2.1 == bid && p.2.2.1 == ctx))) ++ [(bus, bid, ctx, n)] }

/-- A participant of a released instance completes: at once, or on resumption through WRES when it is descheduled
(R146). `bval` is the value of the first root arrival. -/
def State.busComplete (s : State) (before : Nat) (bval : Word) (a : Arrival) : State :=
  match s.getT a.uid with
  | none => s
  | some t =>
    match t.wait with
    | .bus dst _ =>
      let res : Word := match dst with
        | some _ => bval
        | none => BitVec.ofNat 64 (before + (if a.mismatch then 2 ^ 63 else 0))
      if t.mode = .descheduled then s.keepT { t with wres := res, wresValid := true }
      else s.completeWord (match dst with | some d => t.write d res | none => t) res none .seq
    | _ => s

/-- A thread that waits at its bus word has arrived (R146, R147): when the arrivals reach the instance's count, every
participant is released. -/
def State.arrive (s : State) (t : Thread) (bus bid count : Nat) (root : Bool) (v : Word) : State :=
  let same (b : BusInst) : Bool := b.bus == bus && b.bid == bid && b.ctx == t.ctx
  let mine (n : Nat) : Arrival :=
    { uid := t.uid, coord := coreCoord t.core, slot := t.slot, root := root, value := v, mismatch := count != n }
  let inst : BusInst := match s.buses.find? same with
    | some b => { b with arrivals := b.arrivals ++ [mine b.count] }
    | none => { bus := bus, bid := bid, ctx := t.ctx, count := count, arrivals := [mine count] }
  let rest := s.buses.filter (fun b => !same b)
  if inst.arrivals.length < inst.count then { s with buses := rest ++ [inst] }
  else
    let before := s.busCount bus bid t.ctx
    let bval : Word := match inst.arrivals.find? Arrival.root with | some a => a.value | none => 0
    inst.arrivals.foldl (fun s a => s.busComplete before bval a) (State.busReleased { s with buses := rest } bus bid t.ctx)

/-- barr and bcast (R147). A participant that was descheduled finds its release in WRES and does not arrive again. -/
def busBody (i : Instr) (dst : Option Spec) (cw v : Word) (s : State) : Ex :=
  let t := s.th
  if t.wresValid then
    let t1 := match dst with | some d => t.write d t.wres | none => t
    .done { s with th := { t1 with wresValid := false, wres := 0 } } t.wres none .seq
  else
    let cnt := fieldOf cw 16 9
    let col := cw.getLsbD 4
    let bus := busOf t.core col
    let bid := fieldOf cw 0 4
    if 255 < cnt then .trap s { code := .illegal }
    else if !s.buses.any (fun b => b.bus == bus && b.bid == bid && b.ctx == t.ctx) &&
        decide (64 ≤ (s.buses.filter (fun b => b.bus == bus)).length) then .stall s
    else match s.release t (if col then 4 else 3) with
      | (s1, some tr) => .trap s1 tr
      | (s1, none) =>
        let s2 := s1.waitAt i (.bus dst (fieldOf cw 0 5))
        .wait (s2.arrive s2.th bus bid (cnt + 1) (dst.isSome && cw.getLsbD 8) v)

/-- barr (R147). -/
def execBarr (a : Spec) (s : State) : Host.Outcome State Fault Refusal :=
  issueWord (.barr a) (fun s => busBody (.barr a) none (s.th.read a) 0 s) s

/-- bcast: d is the control word, then receives the root's value (R147). -/
def execBcast (d a : Spec) (s : State) : Host.Outcome State Fault Refusal :=
  issueWord (.bcast d a) (fun s => busBody (.bcast d a) (some d) (s.th.read d) (s.th.read a) s) s

/-! ### Migration (R148, R149) -/

/-- migr (R149): the word completes, then the thread leaves for the target's arrival queue. -/
def execMigr (a : Spec) (s : State) : Host.Outcome State Fault Refusal :=
  issueWord (.migr a) (fun s =>
    let t := s.th
    match s.resolveName t.core ((t.read a).toNat % 2 ^ 16) with
    | none => .trap s nameTrap
    | some (c, s1) =>
      if c = t.core then .done s1 0 none .seq
      else if t.peng ≠ 7 then .trap s1 { code := .priv }
      else if s1.hasCmds t then .stall s1
      else if s1.sendHeld t c then .stall (s1.holdBack t c)
      else match s1.release s1.th 5 with
        | (s2, some tr) => .trap s2 tr
        | (s2, none) =>
          let s3 := (s2.sentOff t c).completeWord s2.th 0 none .seq
          .stop (s3.sendThread s3.th c .arrival)) s

/-- MIGRATION_ARRIVAL (R148): a core gives its empty slots to the contexts that have arrived. -/
def execMigrationArrival (s : State) : Host.Outcome State Fault Refusal := event (fun s => s.serveQueue s.unit) s

/-- ARRIVAL_SEND_RETRY (R148): a back-pressured sender tries its word again. -/
def execArrivalSendRetry (u : Nat) (s : State) : Host.Outcome State Fault Refusal :=
  event (fun s => s.modT u (fun t => if t.mode = .stalled then { t with mode := .ready } else t)) s

/-! ### Engine pins (R151) -/

/-- pin (R151). -/
def execPin (e : BitVec 3) (s : State) : Host.Outcome State Fault Refusal :=
  issueWord (.pin e) (fun s =>
    let t := s.th
    let x := s.engine e.toNat (engineUnit e.toNat t.core)
    if t.peng ≠ 7 then .trap s { code := .priv }
    else if x.holder = none ∧ x.waiters = [] then
      let s1 := s.setEngine { x with holder := some t.uid }
      .done { s1 with th := { s1.th with peng := e } } 0 none .seq
    else .wait ((s.setEngine { x with waiters := x.waiters ++ [t.uid] }).waitAt (.pin e) (.pin e.toNat))) s

/-- The holder's commands to an engine have completed (R151). -/
def Engine.idleFor (x : Engine) (uid : Nat) : Bool := !x.fifo.any (fun c => c.uid == uid)

/-- unpin (R151). -/
def execUnpin (e : BitVec 3) (s : State) : Host.Outcome State Fault Refusal :=
  issueWord (.unpin e) (fun s =>
    let t := s.th
    let u := s.heldUnit e.toNat t
    if t.peng ≠ e then .trap s { code := .priv }
    else if (s.engine e.toNat u).idleFor t.uid then
      .done (State.handoff { s with th := { t with peng := 7 } } e.toNat u) 0 none .seq
    else .wait (s.waitAt (.unpin e) (.unpin e.toNat))) s

/-- PIN_HANDOFF (R151): the holder's commands have completed; its unpin ends, the geometry clears, and the engine passes
to its oldest waiter. -/
def execPinHandoff (e : BitVec 3) (unit : Nat) (s : State) : Host.Outcome State Fault Refusal :=
  event (fun s =>
    let x := s.engine e.toNat unit
    match x.holder with
    | none => s.handoff e.toNat unit
    | some h =>
      match s.getT h with
      | none => s.handoff e.toNat unit
      | some t =>
        if t.wait = .unpin e.toNat ∧ x.idleFor h = true then
          (s.completeWord { t with peng := 7 } 0 none .seq).handoff e.toNat unit
        else s) s

/-! ### Lock words (R152) -/

/-- A read of a lock word with acquire at module scope: its value, and the thread after. -/
def State.readLock (s : State) (t0 : Thread) (pa : Nat) : Word × Thread :=
  let t := s.landOverlap t0 .mem pa 8
  (BitVec.ofNat 64 (ofLe (s.viewBytes t.core .mem pa 8)), s.acquired { t with seen := t.seen ++ s.seenStores t .mem pa 8 })

/-- waitl (R152). -/
def execWaitl (a : Spec) (s : State) : Host.Outcome State Fault Refusal :=
  issueWord (.waitl a) (fun s =>
    let t := s.th
    let l := t.read a
    if l.toNat % 8 ≠ 0 then .trap s { code := .align, addr := l }
    else match s.resolve t 0 l 8 .rd with
      | .error e => .trap s e
      | .ok (.at .mem pa, s1) =>
        if s1.badAt .mem pa 8 then .trap s1 (eccTrap .mem pa l)
        else
          let (v, t1) := s1.readLock s1.th pa
          let s2 := { s1 with th := t1 }
          if v = 0 then .done s2 0 none .seq else .wait (s2.waitAt (.waitl a) (.lock l pa false))
      | .ok (_, s1) => .trap s1 (rangeProt l)) s

end Sys2Proof.Machine
end

