-- ==== Sys2Proof/Machine/Direct.lean ====
section
/-! DEFINITION. Memory as the module's own agents meet it: engines, memory nodes, the mesh interface and the registrars
translate without a core's cache and write at the home at once (R197, R255, R276, R307, R326; log entries 7 and 9). -/

namespace Sys2Proof.Machine

/-- An agent: whose address space it uses, whose core's window .s names, its access class (0 .c, 1 .s, 2 .k) and
privilege. -/
structure Agent where
  ctx : Nat
  core : Nat
  cls : Nat
  prv : Bool
  deriving DecidableEq, Repr

/-- ECC_UE at an address of a store. -/
def eccAt (sp : Space) (a : Nat) (va : Nat) : Trap := eccTrap sp a (BitVec.ofNat 64 va)

/-- The physical address in the module's picture of memory that an agent's .c address reaches (R178). -/
def State.agentPa (s : State) (g : Agent) (va : Nat) (acc : Acc) : Except Trap Nat :=
  let w := BitVec.ofNat 64 va
  match s.walk g.ctx w acc g.prv with
  | .error e => .error e
  | .ok e => s.reachPa w acc (e.paOf va)

/-- The store and address that an agent's access of n bytes within one 4 KiB page reaches, before the check for errors
(R157, R160, R178). -/
def State.agentPlace (s : State) (g : Agent) (va n : Nat) (acc : Acc) : Except Trap (Space × Nat) :=
  match g.cls with
  | 1 =>
    if va + n ≤ s.windowLen g.core g.ctx then .ok (.win g.core g.ctx, va) else .error (rangeProt (BitVec.ofNat 64 va))
  | 2 =>
    if va + n ≤ 2 ^ 33 ∧ s.deepOk g.ctx va = true ∧ s.deepOk g.ctx (va + n - 1) = true then .ok (.deep g.ctx, va)
    else .error (rangeProt (BitVec.ofNat 64 va))
  | _ =>
    match s.agentPa g va acc with
    | .error e => .error e
    | .ok pa => .ok (.mem, pa)

/-- A piece of one page is read (R170, R206: an uncorrectable error raises ECC_UE). -/
def State.readPiece (s : State) (g : Agent) (va n : Nat) : Except Trap (List Byte) :=
  match s.agentPlace g va n .rd with
  | .error e => .error e
  | .ok (sp, a) => if s.badAt sp a n then .error (eccAt sp a va) else .ok (s.readBytes sp a n)

/-- A piece of one page is written: a partial write of a bad scratch word, or a write of a poisoned line, raises ECC_UE
(R170, R206). -/
def State.writePiece (s : State) (g : Agent) (va : Nat) (bs : List Byte) : Except Trap State :=
  match s.agentPlace g va bs.length .wr with
  | .error e => .error e
  | .ok (sp, a) =>
    if (if sp = .mem then s.badAt .mem a bs.length else s.badPartial sp a bs.length true) then .error (eccAt sp a va)
    else .ok (s.put sp a bs)

/-- Bytes of an agent's address space, page by page, ascending. -/
def State.agentRead (s : State) (g : Agent) (va n : Nat) : Except Trap (List Byte) :=
  let rec go : List (Nat × List Byte) → Except Trap (List Byte)
    | [] => .ok []
    | (a, bs) :: ps =>
      match s.readPiece g a bs.length with
      | .error e => .error e
      | .ok x => match go ps with | .error e => .error e | .ok y => .ok (x ++ y)
  go (pagePieces (n / 4096 + 2) va (List.replicate n 0))

/-- Bytes written in an agent's address space, page by page, ascending; the state at a fault holds what was written before
it. -/
def State.agentWrite (s : State) (g : Agent) (va : Nat) (bs : List Byte) : State × Option Trap :=
  let rec go : List (Nat × List Byte) → State → State × Option Trap
    | [], s => (s, none)
    | (a, b) :: ps, s =>
      match s.writePiece g a b with
      | .error e => (s, some e)
      | .ok s1 => go ps s1
  go (pagePieces (bs.length / 4096 + 2) va bs) s

/-- Bytes written by an agent all or not at all: a fault on any page leaves the state as it was. -/
def State.agentStore (s : State) (g : Agent) (va : Nat) (bs : List Byte) : Except Trap State :=
  match s.agentWrite g va bs with
  | (s1, none) => .ok s1
  | (_, some e) => .error e

/-- A little-endian number of n bytes in an agent's address space. -/
def State.agentNat (s : State) (g : Agent) (va n : Nat) : Except Trap Nat :=
  match s.agentRead g va n with
  | .error e => .error e
  | .ok bs => .ok (ofLe bs)

/-- The agent of a context that reads and writes shared memory without privilege. -/
def ctxAgent (ctx : Nat) : Agent := { ctx := ctx, core := 0, cls := 0, prv := false }

/-! ### Tokens and rings (R211, R212, R255) -/

/-- The 64 payload bytes of a token (R211). -/
def Token.payload (t : Token) : List Byte := ((t.lanes ++ List.replicate 16 0).take 16).flatMap (fun l => leBytes 4 l)

/-- The lanes that 64 payload bytes hold (R211). -/
def lanesOf (bs : List Byte) : List Nat := (upto 16).map (fun l => ofLe ((bs.drop (4 * l)).take 4))

/-- Lane l of a token. -/
def Token.lane (t : Token) (l : Nat) : Nat := t.lanes.getD l 0

/-- A lane is active. -/
def Token.active (t : Token) (l : Nat) : Bool := t.mask.testBit l

/-- A marker: an empty payload and mask 0 (R213). -/
def marker (tag : Nat) : Token := { tag := tag, mask := 0, lanes := List.replicate 16 0 }

/-- A DATA token with every lane valid. -/
def dataToken (lanes : List Nat) : Token := { tag := 0, mask := 0xFFFF, lanes := lanes }

/-- A token with mask 0 and tag DATA (R214). -/
def Token.isEmpty (t : Token) : Bool := t.tag == 0 && t.mask == 0

/-- A cistern entry (R255). -/
def Token.entry (t : Token) : List Byte :=
  t.payload ++ leBytes 2 t.mask ++ [BitVec.ofNat 8 t.tag] ++ List.replicate 5 0

/-- The tag that a byte of an entry stands for: above 6, POISON (R256). -/
def entryTag (b : Nat) : Nat := if 6 < b then 5 else b

/-- The token that the bytes of a cistern entry stand for (R255, R256). -/
def entryToken (bs : List Byte) : Token :=
  { tag := entryTag (ofLe ((bs.drop 66).take 1)), mask := ofLe ((bs.drop 64).take 2), lanes := lanesOf bs }

/-- Tokens that a ring's cistern can hold (R255). -/
def Ring.cap (r : Ring) : Nat := r.size / 72

/-- Virtual address of cistern entry i (R255). -/
def Ring.entryVa (r : Ring) (i : Nat) : Nat := r.vbase + 72 * (i % r.cap)

/-- A ring without slots and cistern: a token passes only from hand to hand (R251, R255). -/
def Ring.rendezvous (r : Ring) : Bool := decide (r.slots = 0 ∧ r.size = 0)

/-- A rendezvous whose consumer waits for a token, and has been handed none yet (R251). -/
def Ring.awaits (r : Ring) : Bool := r.rendezvous && r.want && r.q.isEmpty

/-- A ring takes one more token without stalling its producer (R251, R255). -/
def Ring.room (r : Ring) : Bool := decide ((r.ccount = 0 ∧ r.q.length < r.slots) ∨ r.ccount < r.cap) || r.awaits

/-- put of R255: into a slot, else into the cistern, or into the hands of a consumer that waits; none where the producer stalls. -/
def State.ringPut (s : State) (ctx : Nat) (r : Ring) (t : Token) : Except Trap (Option (State × Ring)) :=
  if r.ccount = 0 ∧ r.q.length < r.slots then .ok (some (s, { r with q := r.q ++ [t] }))
  else if r.ccount < r.cap then
    match s.agentStore (ctxAgent ctx) (r.entryVa (r.chead + r.ccount)) t.entry with
    | .error e => .error e
    | .ok s1 => .ok (some (s1, { r with ccount := r.ccount + 1 }))
  else if r.awaits then .ok (some (s, { r with q := [t], want := false }))
  else .ok none

/-- The head entry of a cistern leaves it (R255). -/
def Ring.advance (r : Ring) : Ring := { r with chead := (r.chead + 1) % r.cap, ccount := r.ccount - 1 }

/-- take of R255: the oldest slot token, or with no slots the head entry; none where the consumer waits. -/
def State.ringTake (s : State) (ctx : Nat) (r : Ring) : Except Trap (Option (Token × Ring)) :=
  match r.q with
  | t :: ts => .ok (some (t, { r with q := ts }))
  | [] =>
    if 0 < r.ccount ∧ r.slots = 0 then
      match s.agentRead (ctxAgent ctx) (r.entryVa r.chead) 72 with
      | .error e => .error e
      | .ok bs => .ok (some (entryToken bs, r.advance))
    else .ok none

/-- refill of R255: the head entry moves to a free slot. -/
def State.ringRefill (s : State) (ctx : Nat) (r : Ring) : Except Trap Ring :=
  if 0 < r.ccount ∧ r.q.length < r.slots then
    match s.agentRead (ctxAgent ctx) (r.entryVa r.chead) 72 with
    | .error e => .error e
    | .ok bs => .ok { r.advance with q := r.q ++ [entryToken bs] }
  else .ok r

end Sys2Proof.Machine
end

