-- ==== Sys2Proof/Machine/Channels.lean ====
section
/-! DEFINITION. Channels and call slips as clerk threads meet them: chput, chget, chwin, chsync, slipr, sliprep, and the
module's own steps that end their waits (R253 to R256, R270 to R275). -/

namespace Sys2Proof.Machine

/-- A region by its instance. -/
def State.region? (s : State) (rinst : Nat) : Option Region := s.regions.find? (fun r => r.rinst == rinst)

/-- The state with one region replaced. -/
def State.setRegion (s : State) (r : Region) : State :=
  { s with regions := s.regions.map (fun o => if o.rinst = r.rinst then r else o) }

/-! ### Faults of a region's units (R277, R345, R349) -/

/-- Packed coordinate of a position of a region (R16). -/
def Region.coord (r : Region) (pos : Nat) : Nat :=
  packCoord (r.stripe / 24) (r.stripe / 4 % 6) (2 * (r.stripe % 4)) (r.row + pos / 32) (r.col + pos % 32)

/-- Where the record of a node's or a tile's fault says that it arose (R345). -/
def Region.recordAt (r : Region) (kind pos nid : Nat) : RecordAt :=
  { kind := kind, coord := r.coord pos, slot := 0, ctx := r.ctx, pc := 0, word := 0, nid := nid, rinst := r.rinst, pxs := 0,
    ticket := r.ticket }

/-- A launch is to be aborted by its registrar (R350, R351). -/
def State.abortLaunch (s : State) (ticket : Nat) : State :=
  { s with dying := if s.dying.contains ticket then s.dying else s.dying ++ [ticket] }

/-- n bytes of a node's record as a number (R90). -/
def NodeCfg.field (c : NodeCfg) (off n : Nat) : Nat := ofLe ((c.body.drop off).take n)

/-- The node's streams without what they have read ahead (R281). -/
def NodeVar.discard : NodeVar → NodeVar
  | .agn s0 s1 b => .agn { s0 with ahead := [] } { s1 with ahead := [] } b
  | v => v

/-- An end at which no consumer waits in its hands for a token (R251). -/
def End.letGo (e : End) : End := { e with ring := { e.ring with want := false } }

/-- A fault stops a node, whose streams discard what they have read ahead (R281), and no rendezvous of its region takes a token until the
consumer there waits anew (R251): its record is appended; a retryable one is retried at the ticks, any other aborts the launch (R277, R347,
R349, R351). A retry that faults as before appends nothing. `part` names the step that faulted: 8 a refill of a
cistern, 9 the region's schedule, others as the node's own steps number them. -/
def State.nodeFault (s : State) (rinst nid : Nat) (tr : Trap) (part : Nat := 0) : State :=
  match s.region? rinst with
  | none => s
  | some r =>
    match r.nodes.find? (fun n => n.nid == nid), r.img.nodes.find? (fun c => c.nid == nid) with
    | some n, some c =>
      let same := match n.fault with | some f => f.code == tr.code && f.addr == tr.addr | none => false
      let clk := match (if same then n.fault else none) with | some f => f.clk.getD s.clk | none => s.clk
      let set : State := (s.noteUe tr).setRegion { r with ends := r.ends.map End.letGo, nodes := r.nodes.map (fun m =>
        if m.nid = nid then { m with var := m.var.discard, fault := some { tr with clk := some clk }, retry := false, part := part,
                                     first := if same then m.first else s.reg.ticks, last := if same then m.last else s.reg.ticks } else m) }
      if tr.retry then
        if same then set
        else set.appendLog r.ctx (faultRecord (r.recordAt 2 c.pos nid) tr false s.clk)
      else (set.appendLog r.ctx (faultRecord (r.recordAt 2 c.pos nid) tr true s.clk)).abortLaunch r.ticket
    | _, _ => s

/-- A step of a node may take place: the node is not paused, or the registrar lets the very step that faulted try again
(R277, R349). -/
def NodeSt.may (n : NodeSt) (part : Nat) : Bool := n.fault.isNone || (n.retry && n.part == part)

/-- After a step of a node: a fault that it met is marked as its own, and one that it has passed is resolved (R349). -/
def NodeSt.stepped (n : NodeSt) (part : Nat) : NodeSt :=
  if n.fault.isNone then n
  else if n.retry then (if n.part = part then { n with fault := none, retry := false, first := 0 } else n)
  else { n with part := part }

/-- One node of a region changed. -/
def Region.setNode (r : Region) (nid : Nat) (f : NodeSt → NodeSt) : Region :=
  { r with nodes := r.nodes.map (fun n => if n.nid = nid then f n else n) }

/-- One node of a bound region changed. -/
def State.setNode (s : State) (rinst nid : Nat) (f : NodeSt → NodeSt) : State :=
  match s.region? rinst with
  | none => s
  | some r => s.setRegion (r.setNode nid f)

/-! ### Channels (R253, R255) -/

/-- A channel of a context. -/
def State.chan? (s : State) (ctx n : Nat) : Option Chan := s.chans.find? (fun c => c.ctx == ctx && c.num == n)

/-- The state with a channel replaced. -/
def State.setChan (s : State) (c : Chan) : State :=
  { s with chans := s.chans.map (fun o => if o.ctx = c.ctx ∧ o.num = c.num then c else o) }

/-- A channel without slots and cistern: a token passes only from hand to hand (R255). -/
def Chan.rendezvous (c : Chan) : Bool := c.ring.rendezvous

/-- The bound snk node that writes a channel between regions, or the src node that reads it where no snk is bound (R253, R255): the
region and the node that a fault of its cistern pauses. -/
def State.chanOwner (s : State) (c : Chan) : Option (Region × NodeSt) :=
  let node (kind : Nat) : Option (Region × NodeSt) :=
    s.regions.findSome? (fun r =>
      if r.ctx ≠ c.ctx ∨ r.phase = .idle then none
      else (r.img.nodes.find? (fun x => x.kind == kind && x.field 16 1 == 1 && x.field 18 2 == c.num)).bind (fun x =>
        (r.nodes.find? (fun n => n.nid == x.nid)).map (fun n => (r, n))))
  if c.prod = 2 then none else (node 2).or (node 1)

/-- A fault of a channel's cistern as a token leaves it (R255): the next chput raises it where threads produce; between regions the
owning node pauses. -/
def State.chanFault (s : State) (c : Chan) (tr : Trap) : State :=
  match s.chanOwner c with
  | some (r, n) => s.nodeFault r.rinst n.nid tr 8
  | none => s.setChan { c with fault := some tr }

/-- The cistern of a channel may be read: its owning node is not paused (R255, R277). -/
def State.chanMay (s : State) (c : Chan) : Bool :=
  match s.chanOwner c with
  | some (_, n) => n.may 8
  | none => true

/-- A read of a channel's cistern has passed. -/
def State.chanPassed (s : State) (c : Chan) : State :=
  match s.chanOwner c with
  | some (r, n) => s.setNode r.rinst n.nid (fun m => m.stepped 8)
  | none => s

/-- The channel that an operand names, or none where its check fails (before R270: PROT). -/
def State.chanOf (s : State) (ctx : Nat) (w : Word) : Option Chan := if w.toNat < 4096 then s.chan? ctx w.toNat else none

/-- A token header: mask and tag (R270). -/
def Token.header (t : Token) : Word := BitVec.ofNat 64 (t.mask + t.tag * 2 ^ 16)

/-- The payload of a token as q0 to q7 (before R270). -/
def Thread.setPayload (t : Thread) (k : Token) : Thread :=
  { t with q := Vector.ofFn (fun i => BitVec.ofNat 64 (k.lane (2 * i.val) + k.lane (2 * i.val + 1) * 2 ^ 32)) }

/-- q0 to q7 as the 16 lanes of a payload. -/
def Thread.lanes (t : Thread) : List Nat := t.q.toList.flatMap (fun w => [w.toNat % 2 ^ 32, w.toNat / 2 ^ 32])

/-- The thread after a chget has received a token (R272): values in flight for q0 to q7 and d are cancelled. -/
def Thread.gotToken (t : Thread) (d : Spec) (k : Token) : Thread :=
  let clear := (upto 8).foldl (fun (l : List InFlight) i => l.map (InFlight.cancel (BitVec.ofNat 6 (32 + i)))) t.inflight
  ({ t with inflight := clear }.setPayload k).write d k.header

/-- One more token has left a channel (R273). -/
def Chan.took (c : Chan) : Chan := { c with taken := (c.taken + 1) % 2 ^ 32 }

/-- A waiting chget completes with a token (R272). -/
def State.chgetDone (s : State) (u : Nat) (k : Token) : State :=
  match s.getT u with
  | some t =>
    (match t.wait with
      | .chget d _ _ => s.completeWord (t.gotToken d k) k.header none .seq
      | _ => s)
  | none => s

/-- A thread whose chget at a channel may still take a token: its deadline has not passed (R272). -/
def State.mayGet (s : State) (u : Nat) : Bool :=
  match (s.getT u).map Thread.wait with
  | some (.chget _ _ dl) => decide (dl = 0 ∨ s.clk ≤ dl)
  | _ => true

/-- The threads that wait in chget at a channel and may still take a token, oldest first (R272). -/
def State.getters (s : State) (c : Chan) : List Nat := c.getters.filter s.mayGet

/-- A region steps while it runs, drains or checkpoints. -/
def RPhase.stepping : RPhase → Bool
  | .running => true
  | .draining => true
  | .checkpoint _ => true
  | _ => false

/-- The src or inj node that takes the tokens of a channel, and the region where it stands (R253, R257, R258). -/
def State.chanTaker (s : State) (c : Chan) : Option (Region × NodeCfg × NodeSt) :=
  s.regions.findSome? (fun r =>
    if r.ctx ≠ c.ctx ∨ r.phase.stepping = false then none
    else (r.img.nodes.find? (fun x => ((x.kind == 1 && x.field 16 1 == 1) || x.kind == 0x0A) && x.field 18 2 == c.num)).bind (fun x =>
      (r.nodes.find? (fun n => n.nid == x.nid)).map (fun n => (r, x, n))))

/-- The node that waits for a token of a channel still takes one: it is neither closed nor paused (R251, R260, R277). -/
def State.takerReady (s : State) (c : Chan) : Bool :=
  match s.chanTaker c with
  | some (r, _, n) => !n.closed && n.inject.isNone && n.fault.isNone && !s.dying.contains r.ticket
  | none => false

/-- A token is put on a channel, by a thread, a snk node or an engine (R255): handed to the oldest waiting chget of a
rendezvous channel, or to the node that waits there, else into its ring; none where the producer stalls. -/
def State.chanPut (s : State) (c : Chan) (k : Token) : Except Trap (Option State) :=
  match (if c.rendezvous then s.getters c else []) with
  | u :: _ => .ok (some ((s.setChan { c.took with getters := c.getters.filter (fun x => x != u) }).chgetDone u k))
  | [] =>
    if c.rendezvous = true ∧ s.takerReady c = false then .ok none
    else match s.ringPut c.ctx c.ring k with
    | .error e => .error e
    | .ok none => .ok none
    | .ok (some (s1, r)) => .ok (some (s1.setChan { c with ring := r }))

/-- Threads that wait in chput on a channel, in the order in which their tokens enter (R271): ascending coordinate, then slot. -/
def State.putters (s : State) (ctx n : Nat) : List Thread :=
  byPlace (s.threads.filter (fun t => t.ctx == ctx && t.mode == .waiting && (match t.wait with | .chput c _ => c == n | _ => false)))

/-- The oldest token of a channel is taken (R255): from its slots or cistern, or from a waiting chput of a rendezvous
channel, whose word then completes, unless an engine's stream runs there (R312). -/
def State.chanTake (s : State) (c : Chan) : Except Trap (Option (Token × State)) :=
  match (if c.ring.q = [] ∧ s.chanMay c = false then .ok none else s.ringTake c.ctx c.ring) with
  | .error e => .error e
  | .ok (some (k, r)) =>
    .ok (some (k, (if c.ring.q = [] then s.chanPassed c else s).setChan { c.took with ring := r, fault := if c.ring.q = [] then none else c.fault }))
  | .ok none =>
    if c.rendezvous ∧ c.run = none then
      match s.putters c.ctx c.num with
      | [] => .ok none
      | t :: _ =>
        match t.wait with
        | .chput _ k => .ok (some (k, (s.setChan c.took).completeWord t 0 none .seq))
        | _ => .ok none
    else .ok none

/-- chput (R271). Its token enters behind those of waiting threads of a lower coordinate and slot. -/
def chputBody (i : Instr) (a b : Spec) (s : State) : Ex :=
  let t := s.th
  let h := t.read b
  match s.chanOf t.ctx (t.read a) with
  | none => .trap s (rangeProt 0)
  | some c =>
    let tag := fieldOf h 16 3
    if c.prod ≠ 2 ∨ ¬ (tag = 0 ∨ tag = 1 ∨ tag = 2 ∨ tag = 6) then .trap s (rangeProt 0)
    else match s.release t 5 with
      | (s1, some tr) => .trap s1 tr
      | (s1, none) =>
        let k : Token := { tag := tag, mask := fieldOf h 0 16, lanes := t.lanes }
        match c.fault with
        | some e => .trap (s1.setChan { c with fault := none }) e
        | none =>
          if c.run.isSome ∨ (s1.putters c.ctx c.num).any (fun x => decide (x.placeNo < t.placeNo)) = true then
            .wait (s1.waitAt i (.chput c.num k))
          else match s1.chanPut c k with
            | .error e => .trap s1 e
            | .ok (some s2) => .done s2 0 none .seq
            | .ok none => .wait (s1.waitAt i (.chput c.num k))

/-- chput (R271). -/
def execChput (a b : Spec) (s : State) : Host.Outcome State Fault Refusal :=
  issueWord (.chput a b) (fun s =>
    if ((upto 8).any (fun i => s.th.busy (BitVec.ofNat 6 (32 + i)))) then .stall s else chputBody (.chput a b) a b s) s

/-- chget (R272). Waiting threads are served oldest first. -/
def chgetBody (i : Instr) (d a b : Spec) (s : State) : Ex :=
  let t := s.th
  let w := (t.read b).toNat
  match s.chanOf t.ctx (t.read a) with
  | none => .trap s (rangeProt 0)
  | some c =>
    let wait (s : State) (c : Chan) : Ex :=
      .wait ((s.setChan { c with getters := c.getters ++ [t.uid] }).waitAt i (.chget d c.num (if w = 0 then 0 else s.clk + w)))
    if c.cons ≠ 2 then .trap s (rangeProt 0)
    else if s.getters c ≠ [] then wait s c
    else match s.chanTake c with
      | .error e => (let s1 := s.chanFault c e; wait s1 ((s1.chan? c.ctx c.num).getD c))
      | .ok (some (k, s1)) => .done { s1 with th := s1.th.gotToken d k } k.header none .seq
      | .ok none => wait s c

/-- chget (R272). -/
def execChget (d a b : Spec) (s : State) : Host.Outcome State Fault Refusal :=
  issueWord (.chget d a b) (chgetBody (.chget d a b) d a b) s

/-- chwin (R273). -/
def execChwin (d a : Spec) (s : State) : Host.Outcome State Fault Refusal :=
  issueWord (.chwin d a) (fun s =>
    match s.chanOf s.th.ctx (s.th.read a) with
    | none => .trap s (rangeProt 0)
    | some c =>
      let v := BitVec.ofNat 64 (c.ring.q.length % 256 + c.ring.ccount % 2 ^ 32 * 2 ^ 8 + c.ring.slots % 256 * 2 ^ 40)
      .done { s with th := s.th.write d v } v none .seq) s

/-- A channel holds no token (R273). -/
def Chan.empty (c : Chan) : Bool := decide (c.ring.q = [] ∧ c.ring.ccount = 0)

/-- chsync (R273). -/
def execChsync (d a : Spec) (s : State) : Host.Outcome State Fault Refusal :=
  issueWord (.chsync d a) (fun s =>
    match s.chanOf s.th.ctx (s.th.read a) with
    | none => .trap s (rangeProt 0)
    | some c =>
      if c.empty then
        let v := BitVec.ofNat 64 c.taken
        .done { s with th := s.th.write d v } v none .seq
      else .wait (s.waitAt (.chsync d a) (.chsync d c.num))) s

/-- CHPUT_ENTER (R271): the waiting chput of the lowest coordinate and slot finds room; a cistern fault is raised at it. -/
def execChputEnter (u : Nat) (s : State) : Host.Outcome State Fault Refusal :=
  event (fun s =>
    match s.getT u with
    | none => s
    | some t =>
      match t.wait with
      | .chput n k =>
        if t.mode ≠ .waiting then s
        else match s.chan? t.ctx n with
          | none => s
          | some c =>
            if c.run.isSome ∨ (s.putters c.ctx c.num).head?.map Thread.uid ≠ some u then s
            else if c.fault.isSome then (s.setChan { c with fault := none }).takeFault t (c.fault.getD (rangeProt 0)) t.word
            else match s.chanPut c k with
              | .error e => s.takeFault t e t.word
              | .ok none => s
              | .ok (some s1) => (match s1.getT u with | some t1 => s1.completeWord t1 0 none .seq | none => s1)
      | _ => s) s

/-- CHGET_TAKE (R272): the oldest waiting chget of a channel whose deadline has not passed receives a token. -/
def execChgetTake (u : Nat) (s : State) : Host.Outcome State Fault Refusal :=
  event (fun s =>
    match s.getT u with
    | none => s
    | some t =>
      match t.wait with
      | .chget _ n _ =>
        if t.mode ≠ .waiting then s
        else match s.chan? t.ctx n with
          | none => s
          | some c =>
            if (s.getters c).head? ≠ some u then s
            else match s.chanTake c with
              | .error e => s.chanFault c e
              | .ok none => s
              | .ok (some (k, s1)) =>
                match s1.chan? t.ctx n with
                | some c1 => (s1.setChan { c1 with getters := c1.getters.filter (fun x => x != u) }).chgetDone u k
                | none => s1
      | _ => s) s

/-- A waiting chget receives a token in this clk: those before it leave one for it (R272). -/
def State.chgetNow (s : State) (c : Chan) (u : Nat) : Bool :=
  let n := c.ring.q.length + (if c.ring.slots = 0 then c.ring.ccount else 0) +
    (if c.rendezvous then (s.putters c.ctx c.num).length else 0)
  ((s.getters c).take n).contains u && (match s.chanTake c with | .ok (some _) => true | _ => false)

/-- CHGET_TIMEOUT (R272): the deadline has passed and the channel yields no token. -/
def execChgetTimeout (u : Nat) (s : State) : Host.Outcome State Fault Refusal :=
  event (fun s =>
    match s.getT u with
    | none => s
    | some t =>
      match t.wait with
      | .chget d n dl =>
        if t.mode ≠ .waiting ∨ dl = 0 ∨ s.clk < dl then s
        else match s.chan? t.ctx n with
          | none => s
          | some c =>
            if s.chgetNow c u = true then s
            else
              let v : Word := BitVec.ofNat 64 (2 ^ 63)
              (s.setChan { c with getters := c.getters.filter (fun x => x != u) }).completeWord (t.write d v) v none .seq
      | _ => s) s

/-- CHSYNC_DRAINED (R273): the channel has become empty. -/
def execChsyncDrained (u : Nat) (s : State) : Host.Outcome State Fault Refusal :=
  event (fun s =>
    match s.getT u with
    | none => s
    | some t =>
      match t.wait with
      | .chsync d n =>
        match s.chan? t.ctx n with
        | some c =>
          if t.mode = .waiting ∧ c.empty = true then
            let v := BitVec.ofNat 64 c.taken
            s.completeWord (t.write d v) v none .seq
          else s
        | none => s
      | _ => s) s

/-! ### Call slips (R266, R267, R274, R275) -/

/-- The region, node record and slip that a slip handle names, when that slip is parked (before R270). -/
def State.slipOf (s : State) (ctx : Nat) (h : Word) : Option (Region × NodeCfg × Slip) :=
  let idx := fieldOf h 0 12
  let nid := fieldOf h 12 12
  let rinst := fieldOf h 24 16
  if fieldOf h 40 24 ≠ 0 then none
  else match s.regions.find? (fun r => r.rinst == rinst && r.phase != .idle && r.ctx == ctx) with
    | none => none
    | some r =>
      match r.img.nodes.find? (fun c => c.nid == nid), r.nodes.find? (fun n => n.nid == nid) with
      | some c, some n =>
        (match n.var with
          | .esc _ slips _ _ =>
            (match slips.find? (fun x => x.idx == idx && x.state == 1) with
              | some x => some (r, c, x)
              | none => none)
          | _ => none)
      | _, _ => none

/-- slipr (R274). -/
def execSlipr (d a : Spec) (s : State) : Host.Outcome State Fault Refusal :=
  issueWord (.slipr d a) (fun s =>
    let t := s.th
    match s.slipOf t.ctx (t.read a) with
    | none => .trap s (rangeProt 0)
    | some (r, c, x) =>
      match s.agentRead (ctxAgent r.ctx) (c.slipAddr x.idx) 70 with
      | .error e => .trap s e
      | .ok bs =>
        let k : Token := { tag := 0, mask := 0, lanes := lanesOf bs }
        let h := BitVec.ofNat 64 (ofLe ((bs.drop 64).take 4) + entryTag (ofLe ((bs.drop 68).take 1)) * 2 ^ 32)
        let u := t.gotToken 0 k
        .done { s with th := u.write d h } h none .seq) s

/-- The slip of a region's node that has been answered is in state 2, at a CLK (R267, R275). -/
def NodeVar.answered (idx clk : Nat) : NodeVar → NodeVar
  | .esc seq slips starts last =>
    .esc seq (slips.map (fun x => if x.idx = idx ∧ x.state = 1 then { x with state := 2, ord := clk } else x)) starts last
  | v => v

/-- sliprep (R275). -/
def execSliprep (a b : Spec) (s : State) : Host.Outcome State Fault Refusal :=
  issueWord (.sliprep a b) (fun s =>
    let t := s.th
    let h := t.read b
    let tag := fieldOf h 16 3
    if ((upto 8).any (fun i => t.busy (BitVec.ofNat 6 (32 + i)))) then .stall s
    else match s.slipOf t.ctx (t.read a) with
      | none => .trap s (rangeProt 0)
      | some (r, c, x) =>
        if ¬ (tag = 0 ∨ tag = 5 ∨ tag = 6) then .trap s (rangeProt 0)
        else match s.release t 5 with
          | (s1, some tr) => .trap s1 tr
          | (s1, none) =>
            let k : Token := { tag := tag, mask := fieldOf h 0 16, lanes := t.lanes }
            match s1.agentStore (ctxAgent r.ctx) (c.slipAddr x.idx) (k.payload ++ leBytes 2 k.mask) with
            | .error e => .trap s1 e
            | .ok s2 =>
              match s2.agentStore (ctxAgent r.ctx) (c.slipAddr x.idx + 68) [BitVec.ofNat 8 tag, 2] with
              | .error e => .trap s1 e
              | .ok s3 =>
                .done (s3.setRegion { r with nodes := r.nodes.map (fun n =>
                  if n.nid = c.nid then { n with var := n.var.answered x.idx s3.clk } else n) }) 0 none .seq) s

end Sys2Proof.Machine
end

