-- ==== Sys2Proof/Machine/Copy.lean ====
section
/-! DEFINITION. How an engine accepts and retires a command, and the copy engine of a core (R169, R294 to R302, R305,
R307). A copy's effect takes place in one COPY_START, or in several that read some of its source lines each; its status lands in COPY_RETIRE (log entry 9). -/

namespace Sys2Proof.Machine

/-! ### Accepting a command -/

/-- The words of a register block (R295, R303, R343). -/
def Thread.block (t : Thread) (a : Spec) (n : Nat) : List Word := (regBlock a n).map t.read

/-- Word i of a block or a geometry. -/
def wordAt (ws : List Word) (i : Nat) : Word := ws.getD i 0

/-- A side of a command in a scratch store: class (1 .s, 2 .k) and bytes lo to hi - 1, those below `sure` in any case. Other classes are
no side. -/
structure Side where
  cls : Nat
  lo : Nat
  hi : Nat
  sure : Nat := hi
  deriving DecidableEq, Repr

/-- The scratch sides among given ones; an empty range is none. -/
def scratchSides (l : List Side) : List Side := l.filter (fun x => (x.cls == 1 || x.cls == 2) && decide (x.lo < x.hi))

/-- All scratch sides lie in one class, and for .k on one die (R307). -/
def sidesAgree (l : List Side) : Bool :=
  match scratchSides l with
  | [] => true
  | x :: xs => (x :: xs).all (fun y =>
      y.cls == x.cls && (x.cls != 2 || (y.lo / 2 ^ 31 == x.lo / 2 ^ 31 && (y.sure - 1) / 2 ^ 31 == x.lo / 2 ^ 31)))

/-- The hull of the scratch sides, rounded out to 64-byte granules (R169, R307). -/
def hull (core ctx : Nat) (l : List Side) : Option Range :=
  match scratchSides l with
  | [] => none
  | x :: xs =>
    let lo := xs.foldl (fun m y => Nat.min m y.lo) x.lo
    let hi := xs.foldl (fun m y => Nat.max m y.hi) x.hi
    some { space := if x.cls = 1 then .win core ctx else .deep ctx, lo := lo / 64 * 64, hi := (hi + 63) / 64 * 64 }

/-- The semaphore that a command signals is granted to its context (R145). -/
def State.semGranted (s : State) (t : Thread) (n : Nat) : Bool :=
  ((s.core t.core).sems.toList.getD n Sem.initial).grant == some t.ctx

/-- Bits 48 and 47:44 of a block's first word: SV and SEM, SEM 0 while SV is 0 (R296, R303, R343). -/
def semFields (w0 : Word) : Bool := w0.getLsbD 48 || fieldOf w0 44 4 == 0

/-- The bits of a first word that no entry uses are 0, SV and SEM apart. -/
def onlyBits (w mask : Word) : Bool := w &&& ~~~(mask ||| 0x0001F00000000000#64) == 0

/-- An engine accepts a command with its destination and source sides (R299, R305): it is queued with its geometry, it takes a
scoreboard entry, as every copy does and another command that has a scratch side (R299, R307), and its status word is in flight for
d (R110). -/
def State.accept (s : State) (e op : Nat) (d : Spec) (regs : List Word) (dst src : List Side) : Ex :=
  let t := s.th
  let scratch := scratchSides (dst ++ src)
  let entry := if e ≠ 0 ∧ scratch = [] then none else some (hull t.core t.ctx dst, hull t.core t.ctx src)
  let unit := engineUnit e t.core
  let x := s.engine e unit
  let cs := s.core t.core
  if (if e = 0 then Config.copyFifo else Config.engineFifo) ≤ x.fifo.length then .stall s
  else if entry.isSome ∧ Config.scoreboardSize ≤ cs.sb.length then .stall s
  else if t.busy d then .stall s
  else
    let (id, s1) := s.launchLate (some d) none .status
    let c : Cmd :=
      { id := id, uid := t.uid, ctx := t.ctx, core := t.core, op := op, regs := regs, geom := x.geom,
        deep := scratch.any (fun y => y.cls == 2), resolved := !dst.any (fun y => y.cls == 0 && decide (y.lo < y.hi)), pubRec := none, status := none, toks := [] }
    let s2 := match entry with
      | some (dst, src) =>
        let y : SbEntry := { cmd := id, dst := dst, src := src }
        s1.setCore t.core { cs with sb := cs.sb ++ [y] }
      | none => s1
    .done (s2.setEngine { x with fifo := x.fifo ++ [c] }) 0 (some id) .seq

/-- A command retires (R302, R305): its status lands, its semaphore is signalled, its scoreboard entry frees. Its writes
were performed when it executed, which is its release at module scope. -/
def State.retireCmd (s : State) (e u : Nat) : State :=
  let x := s.engine e u
  match x.fifo with
  | [] => s
  | c :: cs =>
    match (if c.toks = [] then c.status else none) with
    | none => s
    | some v =>
      let s1 := s.setEngine { x with fifo := cs }
      let s2 := s1.modT c.uid (fun t => match t.inflight.find? (fun f => f.id == c.id) with
        | some f => t.land f v 0
        | none => t)
      let w0 := wordAt c.regs 0
      let s3 := if w0.getLsbD 48 ∧ c.regs ≠ [] then s2.semV c.core (fieldOf w0 44 4) else s2
      let k := s3.core c.core
      s3.setCore c.core { k with sb := k.sb.filter (fun y => y.cmd != c.id) }

/-- The head command of an engine has ended with a status word. -/
def State.endCmd (s : State) (e u : Nat) (f : Cmd → Cmd) : State :=
  let x := s.engine e u
  match x.fifo with
  | [] => s
  | c :: cs => s.setEngine { x with fifo := f c :: cs }

/-- Before a command reads, the stores of its issuing thread are performed and those that have been released to it, and for the copy
engine those that a release of a thread of its core has had acknowledged there (R188, R189, R197). -/
def State.issuerStores (s : State) (e : Nat) (c : Cmd) : State :=
  let seen := match s.getT c.uid with | some t => t.seen | none => []
  s.drain ((s.stores.filter (fun x => x.uid == c.uid || seen.contains x.id || (e == 0 && x.core == c.core && x.rel))).map Store.id)

/-! ### Running a command -/

/-- A command as it runs: the state, the publication record of its .c destination once resolved (R300), bytes written,
indices out of range, flags, the index of the row under way, and the fault that ended it. -/
structure Run where
  s : State
  pub : Option Nat
  bytes : Nat
  oob : Nat
  flg : FFlags
  idx : Option Int := none
  err : Option Trap
  domain : Bool := false

/-- A step of a command, once no fault has ended it. -/
def Run.then (r : Run) (f : Run → Run) : Run := if r.err.isSome then r else f r

/-- The command ends with a fault. -/
def Run.fail (r : Run) (e : Trap) : Run := { r with err := some e, s := r.s.noteUe e }

/-- The agent that a command acts as; engines are unprivileged (R183). -/
def Cmd.agent (c : Cmd) (cls : Nat) : Agent := { ctx := c.ctx, core := c.core, cls := if cls = 3 then 0 else cls, prv := false }

/-- The scratch tile that a class 4 address names, and its offset; PROT when it names none (R297). -/
def State.classTile (s : State) (ctx : Nat) (a : Word) (disp n : Nat) : Except Trap (Space × Nat) :=
  let rinst := fieldOf a 40 16
  let row := fieldOf a 37 3
  let col := fieldOf a 32 5
  match s.regions.find? (fun r => r.rinst == rinst && r.phase != .idle && r.ctx == ctx) with
  | none => .error (rangeProt a)
  | some r =>
    if row < r.rows ∧ col < r.cols ∧ (row + col) % 2 = 1 ∧ fieldOf a 0 18 + disp + n ≤ 2 ^ 18
    then .ok (.tile (tileKey r.stripe (r.row + row) (r.col + col)), fieldOf a 0 18 + disp)
    else .error (rangeProt a)

/-- The window that a class 5 address names, and its offset (R297); the copy engine resolves the name (R356). -/
def State.classRemote (s : State) (c : Cmd) (a : Word) (disp n : Nat) : Except Trap (Space × Nat) :=
  match s.nameAt (.copy c.core) (fieldOf a 40 16) with
  | none => .error { code := .nameUnmapped, addr := a }
  | some core =>
    if fieldOf a 0 18 + disp + n ≤ s.windowLen core c.ctx then .ok (.win core c.ctx, fieldOf a 0 18 + disp)
    else .error (rangeProt a)

/-- n bytes at a displacement from an address of a copy class (R297). -/
def State.copyRead (s : State) (c : Cmd) (cls : Nat) (a : Word) (disp n : Nat) : Except Trap (List Byte) :=
  let direct (p : Except Trap (Space × Nat)) : Except Trap (List Byte) :=
    match p with
    | .error e => .error e
    | .ok (sp, x) => if s.badAt sp x n then .error (eccTrap sp x a) else .ok (s.readBytes sp x n)
  match cls with
  | 4 => direct (s.classTile c.ctx a disp n)
  | 5 => direct (s.classRemote c a disp n)
  | _ => s.agentRead (c.agent cls) (a.toNat + disp) n

/-- The shadow byte of a publication record that a .c destination reaches (R197, R199, R307): PROT outside a PUB page, and
outside the record that the run keeps to. -/
def State.shadowPlace (s : State) (c : Cmd) (pub : Option Nat) (va : Nat) : Except Trap (Nat × Nat) :=
  let w := BitVec.ofNat 64 va
  match s.walk c.ctx w .wr false, s.ctx? c.ctx with
  | .error e, _ => .error e
  | .ok e, some x =>
    (match e.pub with
      | none => .error (rangeProt w)
      | some i =>
        if pub ≠ none ∧ pub ≠ some i then .error (rangeProt w)
        else match s.pubRec x i with
          | none => .error { code := .xlate, addr := w, retry := true }
          | some r =>
            let pa := r.shadow + (va - r.vbase)
            if shut pa .wr then .error (rangeProt w) else .ok (i, pa))
  | .ok _, none => .error (rangeProt w)

/-- The publication record that a run keeps to and the one to be noted when a byte of a record is written: a copy's rows lie in the record of
the first one (R300), a domain engine's bytes in any PUB pages (R307); publ looks at the first record (R202). -/
def Run.keepsTo (r : Run) : Option Nat := if r.domain then none else r.pub

/-- Bytes are written at a destination of an engine command (R197, R297, R307): .c into the shadow of a publication
record, .s and .k directly, and for a copy tiles and remote windows. -/
def Run.write (r : Run) (c : Cmd) (cls : Nat) (a : Word) (disp : Nat) (bs : List Byte) : Run :=
  let direct (r : Run) (p : Except Trap (Space × Nat)) : Run :=
    match p with
    | .error e => r.fail e
    | .ok (sp, x) =>
      if r.s.badPartial sp x bs.length true then r.fail (eccTrap sp x a)
      else { r with s := r.s.put sp x bs, bytes := r.bytes + bs.length }
  match cls with
  | 4 => direct r (r.s.classTile c.ctx a disp bs.length)
  | 5 => direct r (r.s.classRemote c a disp bs.length)
  | 0 =>
    (pagePieces (bs.length / 4096 + 2) (a.toNat + disp) bs).foldl (fun r p => r.then (fun r =>
      match r.s.shadowPlace c r.keepsTo p.1 with
      | .error e => r.fail e
      | .ok (i, pa) =>
        if r.s.badAt .mem pa p.2.length then { r with pub := some (r.pub.getD i) }.fail (eccTrap .mem pa (BitVec.ofNat 64 p.1))
        else { r with s := r.s.put .mem pa p.2, pub := some (r.pub.getD i), bytes := r.bytes + p.2.length })) r
  | _ => direct r (r.s.agentPlace (c.agent cls) (a.toNat + disp) bs.length .wr)

/-- The status word of a copy or an engine command that a fault or nothing ended: ERR, ENGST, and the low 48 bits
(R301, R306). -/
def statusWord (err : Option Trap) (engst low : Nat) : Word :=
  match err with
  | some e => BitVec.ofNat 64 (e.code.num * 2 ^ 56 + low % 2 ^ 48)
  | none => BitVec.ofNat 64 (engst * 2 ^ 48 + low % 2 ^ 48)

/-- The run of the head command of an engine has ended. -/
def Run.finish (r : Run) (e u : Nat) (status : Word) : State :=
  r.s.endCmd e u (fun c => { c with resolved := true, pubRec := r.pub, status := some status })

/-- A publ in progress holds a command that was accepted after it and whose destination is its record (R202). -/
def State.publHolds (s : State) (c : Cmd) : Bool :=
  s.threads.any (fun t => t.ctx == c.ctx && (match t.wait with
    | .publ _ x _ cmds => c.pubRec == some x && !cmds.contains c.id
    | _ => false))

/-- The head command of an engine runs, when it is one of a given operation that has not ended and may begin. -/
def State.runHead (s : State) (e u op : Nat) (f : Cmd → Run → State) : State :=
  match (s.engine e u).fifo with
  | [] => s
  | c :: _ =>
    if c.status.isSome ∨ c.op ≠ op ∨ c.toks ≠ [] ∨ s.cmdHeld e c = true then s
    else
      let s1 := f c { s := s.issuerStores e c, pub := c.pubRec, bytes := c.bytes, oob := c.oob, flg := 0, idx := c.idx, err := none, domain := e != 0 }
      match (s1.engine e u).fifo with
      | c1 :: _ => if s.publHolds c1 then s else s1
      | [] => s1

/-! ### The copy request (R295 to R299) -/

/-- The fields of a request word w0 (R296) and of the geometry set that it names (R298). -/
structure CopyReq where
  scls : Nat
  dcls : Nat
  icls : Nat
  op : Nat
  cg : Nat
  sv : Bool
  sem : Nat
  zf : Bool
  drow : Nat
  nrows : Nat
  nrow : Nat
  swz : Nat
  iw : Nat
  rsz : Nat
  dp : Nat
  w1 : Word
  w2 : Word
  w3 : Word
  deriving DecidableEq, Repr

/-- A request read from its words and the geometry of its core. -/
def copyReq (ws geom : List Word) : CopyReq :=
  let w0 := wordAt ws 0
  let g := wordAt geom (fieldOf w0 49 3)
  { scls := fieldOf w0 61 3, dcls := fieldOf w0 58 3, icls := fieldOf w0 56 2, op := fieldOf w0 52 4, cg := fieldOf w0 49 3,
    sv := w0.getLsbD 48, sem := fieldOf w0 44 4, zf := w0.getLsbD 43, drow := fieldOf w0 16 16, nrows := fieldOf w0 0 16,
    nrow := fieldOf g 32 32, swz := fieldOf g 30 2, iw := fieldOf g 28 2, rsz := fieldOf g 16 12, dp := fieldOf g 0 16,
    w1 := wordAt ws 1, w2 := wordAt ws 2, w3 := wordAt ws 3 }

/-- The bits that R297 requires to be 0 in an address of a class. -/
def classZero (cls : Nat) (a : Word) : Bool :=
  match cls with
  | 4 => fieldOf a 56 8 == 0 && fieldOf a 18 14 == 0
  | 5 => fieldOf a 56 8 == 0 && fieldOf a 18 22 == 0
  | _ => true

/-- The checks of R299 that raise ILLEGAL. -/
def CopyReq.legal (q : CopyReq) (w0 : Word) : Bool :=
  decide (fieldOf w0 32 11 = 0 ∧ q.op ≤ 2 ∧ q.scls < 6 ∧ q.dcls < 6 ∧ q.dcls ≠ 3 ∧ ¬ (q.icls = 3 ∧ q.op ≠ 0) ∧
    ¬ (q.op = 0 ∧ (q.icls ≠ 0 ∨ q.cg ≠ 0 ∨ q.nrows ≠ 0)) ∧ ¬ (q.op ≠ 0 ∧ q.nrows = 0) ∧ (q.sv = true ∨ q.sem = 0) ∧
    ¬ (q.op = 0 ∧ fieldOf q.w3 32 32 ≠ 0)) && classZero q.scls q.w1 && classZero q.dcls q.w2 &&
  (q.op == 0 || decide (q.rsz ≠ 0 ∧ q.swz ≠ 3 ∧ q.iw ≠ 3 ∧ ¬ (q.swz = 1 ∧ q.rsz % 16 ≠ 0) ∧ ¬ (q.swz = 2 ∧ q.rsz % 8 ≠ 0) ∧
    q.w1.toNat % 16 = 0 ∧ q.w2.toNat % 16 = 0 ∧
    ¬ ((q.scls = 1 ∨ q.scls = 2) ∧ (q.icls = 1 ∨ q.icls = 2) ∧ q.scls ≠ q.icls)))

/-- Row size in bytes (R300). -/
def CopyReq.row (q : CopyReq) : Nat := 16 * q.rsz

/-- The pitch (R300). -/
def CopyReq.pitch (q : CopyReq) : Nat := 16 * (if q.dp = 0 then q.rsz else q.dp)

/-- Bytes of one index (R298). -/
def CopyReq.iwidth (q : CopyReq) : Nat := if q.iw = 2 then 8 else 4

/-- The scoreboard ranges of a request (R302). -/
def CopyReq.sides (q : CopyReq) : List Side × List Side :=
  let at' (cls : Nat) (a : Word) (n : Nat) : Side := { cls := cls, lo := a.toNat, hi := a.toNat + n }
  let strided := (q.nrows - 1) * q.pitch + q.row
  match q.op with
  | 0 => ([at' q.dcls q.w2 q.w3.toNat], [at' q.scls q.w1 q.w3.toNat])
  | 1 => ([at' q.dcls q.w2 strided], [at' q.scls q.w1 (q.nrow * q.row), at' q.icls q.w3 (q.nrows * q.iwidth)])
  | _ => ([at' q.dcls q.w2 (q.nrow * q.row)], [at' q.scls q.w1 strided, at' q.icls q.w3 (q.nrows * q.iwidth)])

/-- cqpush (R299). -/
def execCqpush (d a : Spec) (s : State) : Host.Outcome State Fault Refusal :=
  issueWord (.cqpush d a) (fun s =>
    let t := s.th
    if t.peng ≠ 0 ∨ (s.engine 0 t.core).holder ≠ some t.uid then .trap s { code := .priv }
    else if (regBlock a 4).any t.busy then .stall s
    else
      let ws := t.block a 4
      let q := copyReq ws (s.engine 0 t.core).geom
      if q.legal (wordAt ws 0) = false then .trap s { code := .illegal }
      else if q.sv = true ∧ s.semGranted t q.sem = false then .trap s { code := .priv }
      else s.accept 0 0 d ws q.sides.1 q.sides.2) s

/-! ### The copy itself (R300) -/

/-- swz of R300. -/
def CopyReq.swizzle (q : CopyReq) (c r : Nat) : Nat :=
  let m := if q.swz = 1 then 15 else 7
  if q.swz = 0 then c else (c - c % (m + 1)) + ((c ^^^ r) % (m + 1))

/-- Bytes move from a source displacement to a destination displacement. -/
def Run.move (r : Run) (c : Cmd) (q : CopyReq) (src dst n : Nat) : Run :=
  r.then (fun r => match r.s.copyRead c q.scls q.w1 src n with
    | .error e => r.fail e
    | .ok bs => r.write c q.dcls q.w2 dst bs)

/-- Where a source byte of a request stands, and a destination byte that a run writes. -/
def Run.places (r : Run) (c : Cmd) (q : CopyReq) (pos : Nat) : Except Trap (Space × Nat) × Except Trap (Space × Nat) :=
  let named (cls : Nat) (a : Word) (other : Except Trap (Space × Nat)) : Except Trap (Space × Nat) :=
    match cls with
    | 4 => r.s.classTile c.ctx a pos 1
    | 5 => r.s.classRemote c a pos 1
    | _ => other
  (named q.scls q.w1 (r.s.agentPlace (c.agent q.scls) (q.w1.toNat + pos) 1 .rd),
   named q.dcls q.w2 (if q.dcls = 0 then
       (match r.s.shadowPlace c r.keepsTo (q.w2.toNat + pos) with | .error e => .error e | .ok x => .ok (.mem, x.2))
     else r.s.agentPlace (c.agent q.dcls) (q.w2.toNat + pos) 1 .wr))

/-- How far the destination of a linear copy stands above its source at a position, where they lie in one store (R300): from there on
the copy reads bytes that it has written. -/
def Run.lead (r : Run) (c : Cmd) (q : CopyReq) (pos : Nat) : Option Nat :=
  match r.places c q pos with
  | (.ok (x, a), .ok (y, b)) => if x = y ∧ a < b then some (b - a) else none
  | _ => none

/-- A linear copy from one position up to another, in pieces that end where the destination reaches a multiple of w bytes or the source
a page. -/
def CopyReq.sweep (q : CopyReq) (w : Nat) (f : Run → Nat → Nat → Run) : Nat → Run → Nat → Nat → Run
  | 0, r, _, _ => r
  | k + 1, r, pos, stop =>
    if stop ≤ pos ∨ r.err.isSome then r
    else
      let n := Nat.min (Nat.min (w - (q.w2.toNat + pos) % w) (4096 - (q.w1.toNat + pos) % 4096)) (stop - pos)
      CopyReq.sweep q w f k (f r pos n) (pos + n) stop

/-- One piece of a linear copy. Where it faults, the bytes before the first failing access stay written (R300). -/
def Run.piece (r : Run) (c : Cmd) (q : CopyReq) (pos n : Nat) : Run :=
  let r1 := r.move c q pos pos n
  if r1.err.isNone then r1
  else
    let m := ((upto n).reverse.find? (fun m => m != 0 && (r.move c q pos pos m).err.isNone)).getD 0
    let kept := if m = 0 then r else r.move c q pos pos m
    match (r.move c q pos pos (m + 1)).err with
    | some e => kept.fail e
    | none => r1

/-- A linear copy of some bytes, ascending (R300): in pieces of 64 bytes, of 8 or of 1 where it reads bytes of the same piece that it has
written. -/
def Run.linear (r : Run) (c : Cmd) (q : CopyReq) (pos stop : Nat) : Run :=
  q.sweep 64 (fun r pos n =>
    match r.lead c q pos with
    | some k => if n ≤ k then r.piece c q pos n
      else q.sweep (if 8 ≤ k then 8 else 1) (fun r pos n => r.piece c q pos n) n r pos (pos + n)
    | none => r.piece c q pos n) (stop - pos) r pos stop

/-- Index i of the list (R298, R300), as an integer. -/
def State.copyIndex (s : State) (c : Cmd) (q : CopyReq) (i : Nat) : Except Trap Int :=
  match s.agentRead (c.agent q.icls) (q.w3.toNat + i * q.iwidth) q.iwidth with
  | .error e => .error e
  | .ok bs => .ok (if q.iw = 1 then (ofLe bs : Int) else toSigned (8 * q.iwidth) (ofLe bs))

/-- The index of row i has been read, when the row begins at its grain j (R300). -/
def Run.index (r : Run) (c : Cmd) (q : CopyReq) (i j : Nat) : Run :=
  if j ≠ 0 then r
  else match r.s.copyIndex c q i with
    | .error e => r.fail e
    | .ok x => { r with idx := some x }

/-- The grains of 16 bytes from grain j on of a row that the copy reads from one line; a row that a scatter swizzles is read whole
(R197, R300; log entry 9). -/
def CopyReq.grains (q : CopyReq) (i j x : Nat) : Nat :=
  let a := q.w1.toNat / 16 + (if q.op = 1 then x * q.rsz else i * (q.pitch / 16))
  if q.op = 1 ∨ q.swz = 0 then Nat.min (q.rsz - j) (4 - (a + j) % 4) else q.rsz - j

/-- The grains of row i of a gather or a scatter from grain j on that come from one line (R300), and the grain after them. -/
def Run.row (r0 : Run) (c : Cmd) (q : CopyReq) (i j : Nat) : Run × Nat :=
  let r := r0.index c q i j
  let k := q.drow + i
  match r.idx with
  | none => (r, q.rsz)
  | some x =>
    if r.err.isSome then (r, q.rsz)
    else if x < 0 ∨ (q.nrow : Int) ≤ x then
      let r1 := { r with oob := r.oob + 1 }
      (if q.op = 1 ∧ q.zf = true then
        (upto q.rsz).foldl (fun r j => r.then (fun r => r.write c q.dcls q.w2 (i * q.pitch + 16 * j) (List.replicate 16 0))) r1
      else r1, q.rsz)
    else
      let n := q.grains i j x.toNat
      ((upto n).foldl (fun r h =>
        if q.op = 1 then r.move c q (x.toNat * q.row + 16 * (j + h)) (i * q.pitch + 16 * q.swizzle (j + h) k) 16
        else r.move c q (i * q.pitch + 16 * q.swizzle (j + h) k) (x.toNat * q.row + 16 * (j + h)) 16) r, j + n)

/-- The positions of a copy: its bytes, or the grains of its rows. -/
def CopyReq.total (q : CopyReq) : Nat := if q.op = 0 then q.w3.toNat else q.nrows * q.rsz

/-- A copy reads one source line from a position on, and writes what it has read (R197, R300); and the position after. -/
def Run.stretch (r : Run) (c : Cmd) (q : CopyReq) (pos : Nat) : Run × Nat :=
  if q.op = 0 then
    let stop := Nat.min q.total (pos + (64 - (q.w1.toNat + pos) % 64))
    (r.linear c q pos stop, stop)
  else
    let p := r.row c q (pos / q.rsz) (pos % q.rsz)
    (p.1, pos / q.rsz * q.rsz + p.2)

/-- A copy reads at most so many source lines from a position on (R300). -/
def Run.copyFrom (c : Cmd) (q : CopyReq) : Nat → Run → Nat → Run × Nat
  | 0, r, pos => (r, pos)
  | n + 1, r, pos =>
    if q.total ≤ pos ∨ r.err.isSome = true then (r, pos)
    else
      let p := r.stretch c q pos
      Run.copyFrom c q n p.1 p.2

/-- The copy that a request asks for, from its beginning to its end (R300). -/
def Run.copy (r : Run) (c : Cmd) (q : CopyReq) : Run := (Run.copyFrom c q q.total r 0).1

/-- The status word of a copy (R301). -/
def Run.copyStatus (r : Run) : Word :=
  BitVec.ofNat 64 ((match r.err with | some e => e.code.num | none => 0) * 2 ^ 56 + Nat.min r.oob 0xFFFF * 2 ^ 40 +
    r.bytes % 2 ^ 40)

/-- The names that a copy's addresses hold are in its engine's name cache (R356). -/
def State.copyNames (s : State) (core : Nat) (q : CopyReq) : State :=
  let one (s : State) (cls : Nat) (a : Word) : State := if cls = 5 then s.learnName (.copy core) (fieldOf a 40 16) else s
  one (one s q.scls q.w1) q.dcls q.w2

/-- COPY_START (R300): the next accepted copy of the core that steps is performed, or goes on by some of its source lines; the unit of the
step says which (log entry 9). -/
def execCopyStart (s : State) : Host.Outcome State Fault Refusal :=
  event (fun s =>
    let core := s.unit % 2048
    let lines := s.unit / 2048
    s.runHead 0 core 0 (fun c r =>
      let q := copyReq c.regs c.geom
      let p := Run.copyFrom c q (if lines = 0 then q.total else lines) { r with s := r.s.copyNames core q } c.pos
      if q.total ≤ p.2 ∨ p.1.err.isSome = true then p.1.finish 0 core p.1.copyStatus
      else p.1.s.endCmd 0 core (fun k =>
        { k with pos := p.2, bytes := p.1.bytes, oob := p.1.oob, idx := p.1.idx, pubRec := p.1.pub, resolved := k.resolved || p.1.pub.isSome }))) s

/-- COPY_RETIRE (R302). -/
def execCopyRetire (s : State) : Host.Outcome State Fault Refusal := event (fun s => s.retireCmd 0 s.unit) s

/-- ENGINE_RETIRE (R305). -/
def execEngineRetire (e : BitVec 3) (unit : Nat) (s : State) : Host.Outcome State Fault Refusal :=
  event (fun s => s.retireCmd e.toNat unit) s

end Sys2Proof.Machine
end

