-- ==== Sys2Proof/Machine/Engines.lean ====
section
/-! DEFINITION. The domain engines: neighbour lists, page selection, sparse-feature pooling and work distribution
(12_engines.md, R303 to R322). -/

namespace Sys2Proof.Machine

/-! ### Addresses and acceptance (R303 to R307) -/

/-- Class of an engine address (R304). -/
def eCls (w : Word) : Nat := fieldOf w 62 2

/-- The address within its class (R304). -/
def eAddr (w : Word) : Word := w &&& 0x00FFFFFFFFFFFFFF#64

/-- An engine address of one of the given classes, aligned, with its reserved bits 0 (R304). -/
def eOk (classes : List Nat) (align : Nat) (w : Word) : Bool :=
  classes.contains (eCls w) && fieldOf w 56 6 == 0 && (eAddr w).toNat % align == 0

/-- n bytes at a displacement from an engine address, as a side (R307). -/
def eSide (w : Word) (disp n : Nat) : Side := { cls := eCls w, lo := (eAddr w).toNat + disp, hi := (eAddr w).toNat + disp + n }

/-- The command of an engine: the checks of R305 in their order, then acceptance. The thread holds the engine of the unit where it
stands (R72). -/
def domainBody (e op n : Nat) (d a : Spec) (legal : List Word → List Word → Bool)
    (sides : List Word → Engine → List Side × List Side) (issue : State → List Word → Option Trap) (s : State) : Ex :=
  let t := s.th
  let x := s.engine e (engineUnit e t.core)
  if t.peng.toNat ≠ e ∨ x.holder ≠ some t.uid then .trap s { code := .priv }
  else if n ≠ 0 ∧ blockOk n a = false then .trap s { code := .illegal }
  else if (regBlock a n).any t.busy then .stall s
  else
    let ws := t.block a n
    let sd := sides ws x
    if (n ≠ 0 ∧ semFields (wordAt ws 0) = false) ∨ legal ws x.geom = false ∨ sidesAgree sd.1 = false ∨ sidesAgree sd.2 = false
    then .trap s { code := .illegal }
    else if n ≠ 0 ∧ (wordAt ws 0).getLsbD 48 = true ∧ s.semGranted t (fieldOf (wordAt ws 0) 44 4) = false then
      .trap s { code := .priv }
    else match issue s ws with
      | some tr => .trap s tr
      | none => s.accept e op d ws sd.1 sd.2

/-- A command without issue checks of its own. -/
def noIssue (_ : State) (_ : List Word) : Option Trap := none

/-- Bytes at a displacement from an engine address. -/
def Run.eRead (r : Run) (c : Cmd) (w : Word) (disp n : Nat) : Except Trap Nat :=
  match r.s.copyRead c (eCls w) (eAddr w) disp n with
  | .error e => .error e
  | .ok bs => .ok (ofLe bs)

/-- A number of n bytes is written at a displacement from an engine address. -/
def Run.eWrite (r : Run) (c : Cmd) (w : Word) (disp n v : Nat) : Run :=
  r.then (fun r => r.write c (eCls w) (eAddr w) disp (leBytes n v))

/-- A number is read, and the run goes on with it. -/
def Run.get (r : Run) (c : Cmd) (w : Word) (disp n : Nat) (k : Nat → Run → Run) : Run :=
  r.then (fun r => match r.eRead c w disp n with
    | .error e => r.fail e
    | .ok v => k v r)

/-- Flags are collected (R46). -/
def Run.flag (r : Run) (f : FFlags) : Run := { r with flg := r.flg ||| f }

/-! ### Arithmetic in f32 and f64, rounded to nearest even -/

/-- A value rounded to f64. -/
def rnd64 (v : FV) : FV := f64.decode (storeFloat f64 0 0 v).1

/-- A value rounded to f32: its code and flags. -/
def toF32 (v : FV) : Nat × FFlags := storeFloat f32 0 0 v

/-- acc + v rounded once to f32, with its flags. -/
def accF32 (acc : Nat) (v : FV) : Nat × FFlags :=
  let (x, f) := FV.add 0 (f32.decode acc) v
  let (y, g) := toF32 x
  (y, f ||| g)

/-- acc + x * y, one rounding to f32, with its flags. -/
def fmaF32 (acc : Nat) (x y : FV) : Nat × FFlags :=
  let (v, f) := FV.fma 0 x y (f32.decode acc)
  let (z, g) := toF32 v
  (z, f ||| g)

/-- The floor of a finite value. -/
def FV.floor (v : FV) : Int :=
  let (m, e) := v.signedM
  if 0 ≤ e then m * (2 ^ e.toNat : Nat) else m / ((2 ^ (-e).toNat : Nat) : Int)

/-- A finite value rounded to an integer, ties to even. -/
def FV.rne (v : FV) : Int :=
  match v with
  | .fin n m e => (let (k, _) := roundUnits 0 0 n m e 0; if n then -(k : Int) else k)
  | _ => 0

/-- A finite value above zero. -/
def FV.positive (v : FV) : Bool := v.isFin && FV.lt (.fin false 0 0) v

/-- The floor of a quotient of two finite values above zero. -/
def FV.floorDiv (x y : FV) : Nat :=
  match x, y with
  | .fin _ m e, .fin _ n k =>
    let lo := min e k
    m * 2 ^ (e - lo).toNat / (n * 2 ^ (k - lo).toNat)
  | _, _ => 0

/-! ### Neighbour lists (R308 to R314) -/

/-- The box and grid of a bin area: extents, cut-off, skin and cells by axis, and the periodic axes (R309, R310). -/
structure Box where
  len : List FV
  rc : FV
  skin : FV
  n : List Nat
  per : Nat
  deriving DecidableEq, Repr

/-- The numbers of a box fail the tests of nbl.box (R309). -/
def boxBad (len : List FV) (rc skin : FV) (per : Nat) : Bool :=
  let h := (FV.add 0 rc skin).1
  !(len.all FV.positive) || !rc.positive || !skin.isFin || FV.lt skin (.fin false 0 0) ||
    (upto 3).any (fun a => per.testBit a && FV.lt (len.getD a rc) (FV.scale 1 h))

/-- An axis of a periodic box. -/
def Box.periodic (b : Box) (a : Nat) : Bool := b.per.testBit a

/-- Extent along an axis. -/
def Box.l (b : Box) (a : Nat) : FV := b.len.getD a (.fin false 0 0)

/-- Cells along an axis. -/
def Box.cells (b : Box) (a : Nat) : Nat := b.n.getD a 1

/-- The cell count C. -/
def Box.count (b : Box) : Nat := b.cells 0 * b.cells 1 * b.cells 2

/-- cell(x) by axis (R311): every step is rounded to f64. -/
def Box.cellAxis (b : Box) (a : Nat) (x : FV) : Nat :=
  let l := b.l a
  let n := b.cells a
  let e := rnd64 (FV.div l (FV.ofInt n 0)).1
  let u := if b.periodic a then
      let q := rnd64 (FV.div x l).1
      rnd64 (FV.add 0 x (rnd64 (FV.mul l (FV.ofInt q.floor 0)).1).negate).1
    else x
  let k := (rnd64 (FV.div u e).1).floor
  if k < 0 then 0 else Nat.min k.toNat (n - 1)

/-- The cell of a position, by axis (R311). -/
def Box.cell (b : Box) (x : List FV) : List Nat := (upto 3).map (fun a => b.cellAxis a (x.getD a (.fin false 0 0)))

/-- The index of a cell (R309). -/
def Box.index (b : Box) (c : List Nat) : Nat := c.getD 0 0 + b.cells 0 * (c.getD 1 0 + b.cells 1 * c.getD 2 0)

/-- The neighbours of a cell along an axis (R312): wrapped on a periodic axis, dropped outside on the others. -/
def Box.near (b : Box) (a k : Nat) : List Nat :=
  let n := b.cells a
  if b.periodic a then [(k + n - 1) % n, k, (k + 1) % n].eraseDups
  else (if 0 < k then [k - 1] else []) ++ [k] ++ (if k + 1 < n then [k + 1] else [])

/-- stencil(c) of R312, as cell indices. -/
def Box.stencil (b : Box) (c : List Nat) : List Nat :=
  ((b.near 0 (c.getD 0 0)).flatMap (fun x => (b.near 1 (c.getD 1 0)).flatMap (fun y =>
    (b.near 2 (c.getD 2 0)).map (fun z => b.index [x, y, z])))).eraseDups

/-- disp(a, b) of R312. The rounded quotient keeps the sign of t (a zero too). -/
def Box.disp (b : Box) (p q : List FV) : List FV :=
  (upto 3).map (fun a =>
    let t := rnd64 (FV.add 0 (q.getD a (.fin false 0 0)) (p.getD a (.fin false 0 0)).negate).1
    if b.periodic a then
      let k : Nat := (rnd64 (FV.div t (b.l a)).1).rne.natAbs
      let down : Bool := match t with | .fin neg _ _ => neg | _ => false
      rnd64 (FV.add 0 t (rnd64 (FV.mul (b.l a) (.fin down k 0)).1).negate).1
    else t)

/-- The squared length of a displacement (R312). -/
def dsq (d : List FV) : FV :=
  let sq (a : Nat) : FV := rnd64 (FV.mul (d.getD a (.fin false 0 0)) (d.getD a (.fin false 0 0))).1
  rnd64 (FV.add 0 (rnd64 (FV.add 0 (sq 0) (sq 1)).1) (sq 2)).1

/-- POS, BINS and register 2 of the geometry (R308). -/
def nblPart (g : List Word) : Nat := fieldOf (wordAt g 2) 8 24
/-- CAP as the register holds it. -/
def nblCapReg (g : List Word) : Nat := fieldOf (wordAt g 2) 0 8
/-- The capacity in use: 32 when CAP is 0. -/
def nblCap (g : List Word) : Nat := if nblCapReg g = 0 then 32 else nblCapReg g
/-- NPART or CAP that ends nbl.bin and nbl.pairs with BADARG (R308). -/
def nblBadArg (g : List Word) : Bool := nblPart g == 0 || !(nblCapReg g == 0 || decide (8 ≤ nblCapReg g ∧ nblCapReg g ≤ 128))

/-- BINS is legal. -/
def nblBinsOk (g : List Word) : Bool := eOk [2] 64 (wordAt g 1)
/-- POS is legal. -/
def nblPosOk (g : List Word) : Bool := eOk [0, 2] 16 (wordAt g 0)

/-- The bytes of a bin area of so many cells (R310). -/
def nblArea (g : List Word) (cells : Nat) : Nat :=
  64 + ceilDiv (4 * cells) 64 * 64 + ceilDiv (4 * nblCap g * cells) 64 * 64 + 32768 + 16 * nblPart g

/-- The bin area as a side: the greatest for its geometry, whatever the cell count, and for a command that does not end with BADARG the
least of it in any case (R307, R310; log entry 9). -/
def nblSide (g : List Word) : Side :=
  { eSide (wordAt g 1) 0 (nblArea g (2 ^ 20)) with
    sure := (eAddr (wordAt g 1)).toNat + (if nblBadArg g then 64 else nblArea g 1) }

/-- nbl.box (R309). -/
def execNblBox (d a : Spec) (s : State) : Host.Outcome State Fault Refusal :=
  issueWord (.nblBox d a) (domainBody 1 0 3 d a
    (fun w g => onlyBits (wordAt w 0) 0x7FFFFFFFF#64 && nblBinsOk g) (fun _ x => ([eSide (wordAt x.geom 1) 0 64], [])) noIssue) s

/-- nbl.bin (R311). -/
def execNblBin (d a : Spec) (s : State) : Host.Outcome State Fault Refusal :=
  issueWord (.nblBin d a) (domainBody 1 1 1 d a (fun w g => onlyBits (wordAt w 0) 0 && nblBinsOk g && nblPosOk g)
    (fun _ x => ([nblSide x.geom], [eSide (wordAt x.geom 0) 0 (16 * nblPart x.geom)])) noIssue) s

/-- nbl.pairs (R312): the channel is checked at the instruction. -/
def execNblPairs (d a : Spec) (s : State) : Host.Outcome State Fault Refusal :=
  issueWord (.nblPairs d a) (domainBody 1 2 1 d a
    (fun w g => onlyBits (wordAt w 0) 0x70FFF#64 && decide (fieldOf (wordAt w 0) 16 3 ≤ 2) && nblBinsOk g && nblPosOk g)
    (fun _ x => ([], [eSide (wordAt x.geom 0) 0 (16 * nblPart x.geom), nblSide x.geom]))
    (fun s w => match s.chan? s.th.ctx (fieldOf (wordAt w 0) 0 12) with
      | some c => if c.prod = 2 then none else some (rangeProt 0)
      | none => some (rangeProt 0))) s

/-- nbl.stat (R314). -/
def execNblStat (d : Spec) (s : State) : Host.Outcome State Fault Refusal :=
  issueWord (.nblStat d) (domainBody 1 3 0 d 0 (fun _ _ => true) (fun _ _ => ([], [])) noIssue) s

/-- The statistics of the engine that a run works for. -/
def Run.stat (r : Run) (u : Nat) (f : NblStat → NblStat) : Run :=
  { r with s := r.s.setEngine { r.s.engine 1 u with stat := f (r.s.engine 1 u).stat } }

/-- A run of the NBL ends with a code and low bits; a fault takes the code's place (R306). -/
def Run.nblEnd (r : Run) (u engst low : Nat) : State :=
  let code := if r.err.isSome then 0 else engst
  (r.stat u (fun x => { x with engst := code })).finish 1 u (statusWord r.err engst low)

/-- NBL_BOX_EXEC (R309). -/
def execNblBoxExec (s : State) : Host.Outcome State Fault Refusal :=
  event (fun s => s.runHead 1 s.unit 0 (fun c r =>
    let w0 := wordAt c.regs 0
    let w1 := wordAt c.regs 1
    let w2 := wordAt c.regs 2
    let codes := [fieldOf w1 0 32, fieldOf w1 32 32, fieldOf w2 0 32]
    let len := codes.map f32.decode
    let rc := f32.decode (fieldOf w2 32 32)
    let skin := f32.decode (fieldOf w0 0 32)
    let per := fieldOf w0 32 3
    let bad : State := r.finish 1 s.unit (statusWord none 5 0)
    if boxBad len rc skin per then bad
    else
      let h := (FV.add 0 rc skin).1
      let n := len.map (fun l => Nat.max 1 (FV.floorDiv l h))
      let count := n.getD 0 1 * n.getD 1 1 * n.getD 2 1
      if n.any (fun k => 1024 < k) || decide (2 ^ 20 < count) then bad
      else
        let g := wordAt c.geom 1
        let head := codes.flatMap (leBytes 4) ++ leBytes 4 (fieldOf w2 32 32) ++ leBytes 4 (fieldOf w0 0 32) ++
          n.flatMap (leBytes 2) ++ leBytes 1 per
        let r1 := r.then (fun r => r.write c (eCls g) (eAddr g) 0 head)
        let r2 := r1.then (fun r => r.write c (eCls g) (eAddr g) 34 (List.replicate 30 0))
        r2.finish 1 s.unit (statusWord r2.err 0 count))) s

/-- A bin-area header as its bytes stand (R310). -/
structure NblHeader where
  box : Box
  cap : Nat
  npart : Nat
  ovn : Nat
  valid : Nat
  deriving DecidableEq, Repr

/-- The header that 64 bytes hold. -/
def nblHeader (bs : List Byte) : NblHeader :=
  let n (o k : Nat) : Nat := ofLe ((bs.drop o).take k)
  { box := { len := [f32.decode (n 0 4), f32.decode (n 4 4), f32.decode (n 8 4)], rc := f32.decode (n 12 4),
             skin := f32.decode (n 16 4), n := [n 20 2, n 22 2, n 24 2], per := n 26 1 },
    cap := n 27 1, npart := n 28 4, ovn := n 32 2, valid := n 34 1 }

/-- A header out of range (R310). -/
def NblHeader.bad (h : NblHeader) : Bool :=
  decide (1 < h.valid) || h.box.n.any (fun k => k == 0 || decide (1024 < k)) || decide (2 ^ 20 < h.box.count) ||
    boxBad h.box.len h.box.rc h.box.skin h.box.per

/-- The header is read, and the run goes on with it. -/
def Run.header (r : Run) (c : Cmd) (k : NblHeader → Run → State) (fault : Run → State) : State :=
  let g := wordAt c.geom 1
  match r.s.copyRead c (eCls g) (eAddr g) 0 64 with
  | .error e => fault (r.fail e)
  | .ok bs => k (nblHeader bs) r

/-- Positions 0 to n - 1 of an array of 16-byte records (R308), or the fault. -/
def State.positions (s : State) (c : Cmd) (w : Word) (disp : Nat) : Nat → Nat → Except Trap (List (List Nat))
  | 0, _ => .ok []
  | n + 1, i =>
    match s.copyRead c (eCls w) (eAddr w) (disp + 16 * i) 12 with
    | .error e => .error e
    | .ok bs =>
      match State.positions s c w disp n (i + 1) with
      | .error e => .error e
      | .ok l => .ok ([ofLe (bs.take 4), ofLe ((bs.drop 4).take 4), ofLe ((bs.drop 8).take 4)] :: l)

/-- Offsets of the slots, the overflow list and the reference positions of a bin area (R310). -/
def slotsAt (count : Nat) : Nat := 64 + (4 * count + 63) / 64 * 64
/-- Offset of the overflow list. -/
def overAt (count cap : Nat) : Nat := slotsAt count + (4 * cap * count + 63) / 64 * 64
/-- Offset of the reference positions. -/
def refsAt (count cap : Nat) : Nat := overAt count cap + 32768

/-- What nbl.bin keeps as it goes: the run, cell counts, overflow entries, the largest count, and whether the overflow
list filled. -/
structure Binning where
  r : Run
  counts : List (Nat × Nat)
  ovn : Nat
  maxocc : Nat
  full : Bool

/-- One particle is binned (R311). -/
def Binning.add (b : Binning) (c : Cmd) (box : Box) (cap i : Nat) (x : List Nat) : Binning :=
  if b.full || b.r.err.isSome then b
  else
    let g := wordAt c.geom 1
    let cell := box.index (box.cell (x.map f32.decode))
    let n := (assoc b.counts cell).getD 0 + 1
    let r1 := b.r.eWrite c g (64 + 4 * cell) 4 n
    let b1 := { b with counts := assocSet b.counts cell n, maxocc := Nat.max b.maxocc n }
    let ref (r : Run) : Run :=
      r.then (fun r => r.write c (eCls g) (eAddr g) (refsAt box.count cap + 16 * i) (x.flatMap (leBytes 4)))
    if n ≤ cap then { b1 with r := ref (r1.eWrite c g (slotsAt box.count + 4 * (cap * cell + (n - 1))) 4 i) }
    else if b.ovn = 4096 then { b1 with r := r1.eWrite c g 34 1 0, full := true }
    else { b1 with r := ref ((r1.eWrite c g (overAt box.count cap + 8 * b.ovn) 4 i).eWrite c g
                     (overAt box.count cap + 8 * b.ovn + 4) 4 cell), ovn := b.ovn + 1 }

/-- Every coordinate of every position is finite. -/
def allFinite (xs : List (List Nat)) : Bool := xs.all (fun p => p.all (fun k => (f32.decode k).isFin))

/-- NBL_BIN_EXEC (R311). -/
def execNblBinExec (s : State) : Host.Outcome State Fault Refusal :=
  event (fun s => s.runHead 1 s.unit 1 (fun c r =>
    let u := s.unit
    let g := wordAt c.geom 1
    if nblBadArg c.geom then r.nblEnd u 5 0
    else r.header c (fun h r =>
      if h.bad then r.nblEnd u 3 0
      else match r.s.positions c (wordAt c.geom 0) 0 (nblPart c.geom) 0 with
        | .error e => (r.fail e).nblEnd u 0 0
        | .ok xs =>
          if allFinite xs = false then (r.eWrite c g 34 1 0).nblEnd u 5 0
          else
            let cap := nblCap c.geom
            let r1 := (upto h.box.count).foldl (fun r k => r.eWrite c g (64 + 4 * k) 4 0) r
            let b0 : Binning := { r := r1, counts := [], ovn := 0, maxocc := 0, full := false }
            let b := xs.zipIdx.foldl (fun (b : Binning) p => b.add c h.box cap p.2 p.1) b0
            let done (r : Run) : Run := r.stat u (fun x => { x with ovn := b.ovn, maxocc := Nat.min b.maxocc 255 })
            if b.full then (done b.r).nblEnd u 4 b.ovn
            else
              let r2 := (((b.r.eWrite c g 27 1 cap).eWrite c g 28 4 (nblPart c.geom)).eWrite c g 32 2 b.ovn).eWrite c g 34 1 1
              (done r2).nblEnd u (if 0 < b.ovn then 1 else 0) b.ovn)
      (fun r => r.nblEnd u 0 0))) s

/-- The binned particles of an area as (cell, particle) pairs, as its bytes stand (R310). -/
def State.binned (s : State) (c : Cmd) (h : NblHeader) (cap n : Nat) : Except Trap (List (Nat × Nat)) :=
  let g := wordAt c.geom 1
  let rd (off k : Nat) : Except Trap Nat :=
    match s.copyRead c (eCls g) (eAddr g) off k with
    | .error e => .error e
    | .ok bs => .ok (ofLe bs)
  let cellPairs (acc : Except Trap (List (Nat × Nat))) (cell : Nat) : Except Trap (List (Nat × Nat)) :=
    match acc, rd (64 + 4 * cell) 4 with
    | .error e, _ => .error e
    | _, .error e => .error e
    | .ok l, .ok k =>
      (upto (Nat.min (k % 2 ^ 16) cap)).foldl (fun acc j =>
        match acc, rd (slotsAt h.box.count + 4 * (cap * cell + j)) 4 with
        | .error e, _ => .error e
        | _, .error e => .error e
        | .ok l, .ok i => .ok (if i < n then l ++ [(cell, i)] else l)) (.ok l)
  let slots := (upto h.box.count).foldl cellPairs (.ok [])
  (upto (Nat.min h.ovn 4096)).foldl (fun acc k =>
    match acc, rd (overAt h.box.count cap + 8 * k) 4, rd (overAt h.box.count cap + 8 * k + 4) 4 with
    | .error e, _, _ => .error e
    | _, .error e, _ => .error e
    | _, _, .error e => .error e
    | .ok l, .ok i, .ok cell => .ok (if i < n then l ++ [(cell, i)] else l)) slots

/-- The lanes of one pair of a pair token (R313). -/
def pairLanes (b : Box) (i j : Nat) (p q : List FV) : List Nat :=
  let d := b.disp p q
  [i, j] ++ d.map (fun x => (toF32 x).1) ++ [(toF32 (dsq d)).1, 0, 0]

/-- Pairs as tokens, two to a token (R313). -/
def pairTokens : Nat → List (List Nat) → List Token
  | 0, _ => []
  | _ + 1, [] => []
  | _ + 1, [a] => [{ tag := 0, mask := 0x3F, lanes := a ++ List.replicate 8 0 }]
  | f + 1, a :: b :: l => { tag := 0, mask := 0x3F3F, lanes := a ++ b } :: pairTokens f l

/-- The pairs P of R312 in ascending (i, j). -/
def neighbourPairs (h : NblHeader) (bin : List (Nat × Nat)) (ps refs : List (List FV)) : List (List Nat) :=
  let rc2 := (FV.mul h.box.rc h.box.rc).1
  let n := ps.length
  (upto n).flatMap (fun i =>
    let p := ps.getD i []
    let cells := h.box.stencil (h.box.cell (refs.getD i []))
    let near := (bin.filter (fun x => cells.contains x.1)).map Prod.snd
    (upto n).filterMap (fun j =>
      let q := ps.getD j []
      if i < j ∧ near.contains j = true ∧ FV.lt (dsq (h.box.disp p q)) rc2 = true then some (pairLanes h.box i j p q)
      else none))

/-- Tokens of an nbl.pairs enter its channel as far as it has room, as chput puts them; the run of the stream is unbroken (R271, R312). A
fault, be it one that a refill of the channel's cistern has left (R255), leaves those before it in. -/
def State.putPairs (s : State) (ctx ch id : Nat) : List Token → State × List Token × Option Trap
  | [] => (s, [], none)
  | k :: ks =>
    match s.chan? ctx ch with
    | none => (s, k :: ks, some (rangeProt 0))
    | some c =>
      if c.fault.isSome then (s.setChan { c with fault := none }, k :: ks, c.fault)
      else match s.chanPut { c with run := some id } k with
      | .error e => (s, k :: ks, some e)
      | .ok none => (s.setChan { c with run := some id }, k :: ks, none)
      | .ok (some s1) => State.putPairs s1 ctx ch id ks

/-- The stream of the head nbl.pairs goes on; when its last token is in, the channel is free for others (R312). A fault ends the command;
bits 47:0 of its status still hold the number of the pairs. -/
def State.streamPairs (s : State) (u : Nat) : State :=
  match (s.engine 1 u).fifo with
  | [] => s
  | c :: _ =>
    let ch := fieldOf (wordAt c.regs 0) 0 12
    let free (s : State) : State :=
      match s.chan? c.ctx ch with
      | some x => if x.run = some c.id then s.setChan { x with run := none } else s
      | none => s
    if c.toks = [] ∨ (match s.chan? c.ctx ch with | some x => x.run.isSome && x.run != some c.id | none => false) = true then s
    else match s.putPairs c.ctx ch c.id c.toks with
      | (s1, _, some e) =>
        let x := s1.engine 1 u
        let s2 := (s1.noteUe e).setEngine { x with stat := { x.stat with engst := 0 } }
        free (s2.endCmd 1 u (fun c =>
          { c with toks := [], status := some (statusWord (some e) 0 ((c.status.getD 0).toNat % 2 ^ 48)) }))
      | (s1, rest, none) =>
        let s2 := s1.endCmd 1 u (fun c => { c with toks := rest })
        if rest = [] then free s2 else s2

/-- NBL_PAIRS_EXEC (R312): the pairs are found, and tokens enter the channel as it has room. -/
def execNblPairsExec (s : State) : Host.Outcome State Fault Refusal :=
  event (fun s =>
    let s1 := s.runHead 1 s.unit 2 (fun c r =>
      let u := s.unit
      let w0 := wordAt c.regs 0
      let fresh (r : Run) (k : Nat) : Run := r.stat u (fun x => { x with stalen := Nat.min k (2 ^ 27 - 1) })
      if nblBadArg c.geom then (fresh r 0).nblEnd u 5 0
      else r.header c (fun h r =>
        let cap := nblCap c.geom
        let n := nblPart c.geom
        if h.bad || h.valid != 1 || h.npart != n || h.cap != cap then (fresh r 0).nblEnd u 3 0
        else match r.s.positions c (wordAt c.geom 0) 0 n 0,
              r.s.positions c (wordAt c.geom 1) (refsAt h.box.count cap) n 0, r.s.binned c h cap n with
          | .error e, _, _ => (fresh (r.fail e) 0).nblEnd u 0 0
          | _, .error e, _ => (fresh (r.fail e) 0).nblEnd u 0 0
          | _, _, .error e => (fresh (r.fail e) 0).nblEnd u 0 0
          | .ok ps, .ok refs, .ok bin =>
            if allFinite ps = false ∨ allFinite refs = false then (fresh r 0).nblEnd u 5 0
            else
              let pv := ps.map (fun p => p.map f32.decode)
              let rv := refs.map (fun p => p.map f32.decode)
              let half := FV.scale (-1) h.box.skin
              let lim := (FV.mul half half).1
              let stale := ((pv.zip rv).filter (fun x => FV.lt lim (dsq (h.box.disp x.2 x.1)))).length
              if 0 < stale then (fresh r stale).nblEnd u 2 0
              else
                let pairs := neighbourPairs h bin pv rv
                let etag := fieldOf w0 16 3
                let toks := pairTokens pairs.length pairs ++ (if etag = 0 then [] else [marker etag])
                ((fresh r 0).nblEnd u (if 0 < h.ovn then 1 else 0) pairs.length).endCmd 1 u
                  (fun c => { c with toks := toks }))
        (fun r => (fresh r 0).nblEnd u 0 0))
    s1.streamPairs s.unit) s

/-- NBL_STAT_EXEC (R314). -/
def execNblStatExec (s : State) : Host.Outcome State Fault Refusal :=
  event (fun s => s.runHead 1 s.unit 3 (fun _ r =>
    let x := (s.engine 1 s.unit).stat
    r.finish 1 s.unit (BitVec.ofNat 64 (x.engst * 2 ^ 48 + x.ovn % 2 ^ 13 * 2 ^ 35 + x.maxocc % 2 ^ 8 * 2 ^ 27 + x.stalen % 2 ^ 27)))) s

/-! ### Page selection (R315 to R317) -/

/-- D of a block's first word: 16 times DM16 + 1. -/
def pgsDim (w0 : Word) : Nat := 16 * (fieldOf w0 40 4 + 1)

/-- pgs.sum (R316). -/
def execPgsSum (d a : Spec) (s : State) : Host.Outcome State Fault Refusal :=
  issueWord (.pgsSum d a) (domainBody 2 0 2 d a
    (fun w g => onlyBits (wordAt w 0) 0x00000F00FFFFFFFF#64 && fieldOf (wordAt w 1) 32 32 == 0 &&
      eOk [0, 2] 64 (wordAt g 0) && eOk [0, 1, 2] 64 (wordAt g 2))
    (fun w x =>
      let g := x.geom
      let dim := pgsDim (wordAt w 0)
      let first := fieldOf (wordAt w 0) 0 32
      let n := fieldOf (wordAt w 1) 0 32
      ([eSide (wordAt g 2) (2 * dim * first) (2 * dim * n)], [eSide (wordAt g 0) (32 * dim * first) (32 * dim * n)]))
    noIssue) s

/-- pgs.sel (R317). -/
def execPgsSel (d a : Spec) (s : State) : Host.Outcome State Fault Refusal :=
  issueWord (.pgsSel d a) (domainBody 2 1 5 d a
    (fun w g =>
      let fetch := (wordAt w 0).getLsbD 39
      onlyBits (wordAt w 0) 0x00000F800000007F#64 && eOk [0, 1, 2] 64 (wordAt w 1) && eOk [0, 1, 2] 4 (wordAt w 2) &&
      (if fetch then eOk [0, 1, 2] 64 (wordAt w 3) && eOk [0, 2] 64 (wordAt g 0) && eOk [0, 2] 64 (wordAt g 1)
        else wordAt w 3 == 0) && eOk [0, 1, 2] 64 (wordAt g 2) && eOk [0, 2] 1 (wordAt g 3))
    (fun w x =>
      let g := x.geom
      let dim := pgsDim (wordAt w 0)
      let k := fieldOf (wordAt w 0) 0 7
      let fetch := (wordAt w 0).getLsbD 39
      let first := fieldOf (wordAt w 4) 0 32
      let n := fieldOf (wordAt w 4) 32 32
      ([eSide (wordAt w 2) 0 (4 * k)] ++ (if fetch then [eSide (wordAt w 3) 0 (64 * dim * k)] else []),
        [eSide (wordAt w 1) 0 (2 * dim), eSide (wordAt g 2) (2 * dim * first) (2 * dim * n)] ++
        (if wordAt g 3 = 0 ∨ n = 0 then [] else [eSide (wordAt g 3) (first / 8) ((first + n - 1) / 8 - first / 8 + 1)]) ++
        (if fetch then [eSide (wordAt g 0) (32 * dim * first) (32 * dim * n), eSide (wordAt g 1) (32 * dim * first) (32 * dim * n)]
          else [])))
    noIssue) s

/-- The low 48 status bits of a command with flags: flags from bit 43, a count below (R316, R317). -/
def flaggedLow (f : FFlags) (n : Nat) : Nat := f.toNat * 2 ^ 43 + n % 2 ^ 43

/-- One summary element (R316). -/
def Run.summary (r : Run) (c : Cmd) (dim p e : Nat) : Run :=
  let keys := wordAt c.geom 0
  let go := (upto 16).foldl (fun (x : Run × Nat) t =>
    if x.1.err.isSome then x
    else match x.1.eRead c keys (32 * dim * p + 2 * dim * t + 2 * e) 2 with
      | .error err => (x.1.fail err, x.2)
      | .ok k => (let (y, f) := accF32 x.2 (bf16.decode k); (x.1.flag f, y))) (r, 0)
  go.1.then (fun r =>
    let (v, f) := storeFloat bf16 0 0 (FV.scale (-4) (f32.decode go.2))
    (r.flag f).eWrite c (wordAt c.geom 2) (2 * dim * p + 2 * e) 2 v)

/-- PGS_SUM_EXEC (R316). -/
def execPgsSumExec (s : State) : Host.Outcome State Fault Refusal :=
  event (fun s => s.runHead 2 s.unit 0 (fun c r =>
    let w0 := wordAt c.regs 0
    let dim := pgsDim w0
    let first := fieldOf w0 0 32
    let n := fieldOf (wordAt c.regs 1) 0 32
    if 0xFFFFFFFF < first + n then r.finish 2 s.unit (statusWord none 5 0)
    else
      let go := (upto n).foldl (fun (x : Run × Nat) i =>
        if x.1.err.isSome then x
        else
          let y := (upto dim).foldl (fun r e => r.then (fun r => r.summary c dim (first + i) e)) x.1
          (y, if y.err.isSome then x.2 else x.2 + 1)) (r, 0)
      go.1.finish 2 s.unit (statusWord go.1.err 0 (flaggedLow go.1.flg go.2)))) s

/-- The score of a page (R317). -/
def Run.score (r : Run) (c : Cmd) (dim p : Nat) : Run × Nat :=
  (upto dim).foldl (fun (x : Run × Nat) e =>
    if x.1.err.isSome then x
    else match x.1.eRead c (wordAt c.regs 1) (2 * e) 2, x.1.eRead c (wordAt c.geom 2) (2 * dim * p + 2 * e) 2 with
      | .error err, _ => (x.1.fail err, x.2)
      | _, .error err => (x.1.fail err, x.2)
      | .ok q, .ok v => (let (y, f) := fmaF32 x.2 (bf16.decode q) (bf16.decode v); (x.1.flag f, y))) (r, 0)

/-- The mask bit of a page; 0 without a mask (R315). -/
def Run.masked (r : Run) (c : Cmd) (p : Nat) : Except Trap Bool :=
  let w := wordAt c.geom 3
  if w = 0 then .ok false
  else match r.eRead c w (p / 8) 1 with
    | .error e => .error e
    | .ok b => .ok (b.testBit (p % 8))

/-- A page enters a list ordered by descending score; it stands behind pages of equal score (R317). -/
def insertPage (p : Nat) (v : FV) : List (Nat × FV) → List (Nat × FV)
  | [] => [(p, v)]
  | x :: xs => if FV.lt x.2 v then (p, v) :: x :: xs else x :: insertPage p v xs

/-- PGS_SEL_EXEC (R317). -/
def execPgsSelExec (s : State) : Host.Outcome State Fault Refusal :=
  event (fun s => s.runHead 2 s.unit 1 (fun c r =>
    let w0 := wordAt c.regs 0
    let dim := pgsDim w0
    let k := fieldOf w0 0 7
    let first := fieldOf (wordAt c.regs 4) 0 32
    let n := fieldOf (wordAt c.regs 4) 32 32
    if k = 0 ∨ 64 < k ∨ 0xFFFFFFFF < first + n then r.finish 2 s.unit (statusWord none 5 0)
    else
      let go := (upto n).foldl (fun (x : Run × List (Nat × FV)) i =>
        if x.1.err.isSome then x
        else
          let p := first + i
          let (r1, code) := x.1.score c dim p
          if r1.err.isSome then (r1, x.2)
          else match r1.masked c p with
            | .error e => (r1.fail e, x.2)
            | .ok m =>
              let v := f32.decode code
              (r1, if m || v.isNan || v == .inf true then x.2 else insertPage p v x.2)) (r, [])
      let chosen := (go.2.take k).map Prod.fst
      let cnt := chosen.length
      let r1 := (upto k).foldl (fun r m => r.eWrite c (wordAt c.regs 2) (4 * m) 4 (chosen.getD m 0xFFFFFFFF)) go.1
      let copy (r : Run) (src : Word) (p off : Nat) : Run :=
        (upto (dim / 2)).foldl (fun r j => r.get c src (32 * dim * p + 64 * j) 64 (fun v r =>
          r.eWrite c (wordAt c.regs 3) (off + 64 * j) 64 v)) r
      let r2 := if w0.getLsbD 39 then
          chosen.zipIdx.foldl (fun r x => copy (copy r (wordAt c.geom 0) x.1 (64 * dim * x.2)) (wordAt c.geom 1) x.1
            (64 * dim * x.2 + 32 * dim)) r1
        else r1
      r2.finish 2 s.unit (statusWord r2.err 0 (flaggedLow r2.flg cnt)))) s

/-! ### Sparse-feature pooling (R318, R319) -/

/-- sfl.tab (R318). -/
def execSflTab (d a : Spec) (s : State) : Host.Outcome State Fault Refusal :=
  issueWord (.sflTab d a) (domainBody 3 0 3 d a
    (fun w _ => onlyBits (wordAt w 0) 0x00000FF0000007FF#64 && eOk [0] 64 (wordAt w 1) && fieldOf (wordAt w 2) 32 32 == 0)
    (fun _ _ => ([], [])) noIssue) s

/-- Bytes of a table element, 0 for a format that no table has (R318). -/
def sflSize (fmt : Nat) : Nat := match fmt with | 2 => 4 | 3 => 2 | 5 => 1 | _ => 0

/-- Bytes of an output element (R318). -/
def sflOut (g : List Word) : Nat := if (wordAt g 1).getLsbD 32 then 2 else 4

/-- The pitch of pooled vectors of E elements (R318). -/
def sflPitch (g : List Word) (e : Nat) : Nat :=
  if fieldOf (wordAt g 1) 0 32 = 0 then (e * sflOut g + 63) / 64 * 64 else fieldOf (wordAt g 1) 0 32

/-- The table descriptors after an sfl.tab with a block's words; none where it ends with BADARG (R318). -/
def sflRegister (l : List SflTab) (ws : List Word) : Option (List SflTab) :=
  let w0 := wordAt ws 0
  let fmt := fieldOf w0 36 4
  let elems := fieldOf w0 0 11 + 1
  let nrow := fieldOf (wordAt ws 2) 0 32
  let rest := l.filter (fun t => t.tid != fieldOf w0 40 4)
  if sflSize fmt = 0 ∨ 1024 < elems * sflSize fmt then none
  else some (if nrow = 0 then rest
    else rest ++ [{ tid := fieldOf w0 40 4, base := eAddr (wordAt ws 1), nrow := nrow, fmt := fmt, elems := elems }])

/-- Elements of a table as its descriptor will stand when the commands that the engine holds have run; 0 while it is clear. -/
def Engine.sflElems (x : Engine) (tid : Nat) : Nat :=
  let tabs := (x.fifo.filter (fun c => c.op == 0 && c.status.isNone)).foldl (fun l c => (sflRegister l c.regs).getD l) x.tabs
  match tabs.find? (fun t => t.tid == tid) with
  | some t => t.elems
  | none => 0

/-- sfl.bag (R319). -/
def execSflBag (d a : Spec) (s : State) : Host.Outcome State Fault Refusal :=
  issueWord (.sflBag d a) (domainBody 3 1 4 d a
    (fun w g =>
      onlyBits (wordAt w 0) 0x00000F80FFFFFFFF#64 && eOk [0, 1, 2] 4 (wordAt w 1) &&
      (if (wordAt w 0).getLsbD 39 then eOk [0, 1, 2] 4 (wordAt w 2) else wordAt w 2 == 0) && eOk [0, 1, 2] 4 (wordAt w 3) &&
      eOk [0, 1, 2] 64 (wordAt g 0) && fieldOf (wordAt g 1) 0 32 % 64 == 0)
    (fun w x =>
      let g := x.geom
      let n := fieldOf (wordAt w 0) 0 32
      let k := x.sflElems (fieldOf (wordAt w 0) 40 4)
      let whole (x : Word) : List Side := if eCls x = 0 then [] else [eSide x 0 (if eCls x = 1 then 2 ^ 18 else 2 ^ 31 - (eAddr x).toNat % 2 ^ 31)]
      ([eSide (wordAt g 0) 0 (if n = 0 ∨ k = 0 then 0 else (n - 1) * sflPitch g k + k * sflOut g)],
        if n = 0 then [] else
          whole (wordAt w 1) ++ (if (wordAt w 0).getLsbD 39 then whole (wordAt w 2) else []) ++ [eSide (wordAt w 3) 0 (4 * (n + 1))]))
    noIssue) s

/-- SFL_TAB_EXEC (R318). -/
def execSflTabExec (s : State) : Host.Outcome State Fault Refusal :=
  event (fun s => s.runHead 3 s.unit 0 (fun c r =>
    let x := r.s.engine 3 s.unit
    match sflRegister x.tabs c.regs with
    | none => r.finish 3 s.unit (statusWord none 5 0)
    | some l => { r with s := r.s.setEngine { x with tabs := l } }.finish 3 s.unit (statusWord none 0 (fieldOf (wordAt c.regs 2) 0 32)))) s

/-- The bytes of a table row; its translation must reach the capacity tier (R318). -/
def State.sflRow (s : State) (c : Cmd) (t : SflTab) (x : Nat) : Except Trap (List Byte) :=
  let n := t.elems * sflSize t.fmt
  let rs := (n + 63) / 64 * 64
  let va := t.base.toNat + rs * x
  let capacity (pa : Nat) : Bool := decide (0x40000000000 ≤ pa ∧ pa < 0x80000000000)
  let far := (pagePieces 2 va (List.replicate n 0)).find? (fun p =>
    match s.walk c.ctx (BitVec.ofNat 64 p.1) .rd false with
    | .ok e =>
      (match target (e.paOf p.1) with
        | .home => !capacity (e.paOf p.1)
        | .peer idx off => !(s.out.myV && idx == s.out.myIdx && capacity off)
        | _ => true)
    | .error _ => false)
  match far with
  | some p => .error (rangeProt (BitVec.ofNat 64 p.1))
  | none => s.agentRead (c.agent 0) va n

/-- The partial sums of the buffer chips: chip and its elements as f32 codes (R319). -/
abbrev Chips := List (Nat × List Nat)

/-- One position of a bag (R319). -/
def Run.position (r : Run) (c : Cmd) (t : SflTab) (weighted : Bool) (acc : Chips) (pos : Nat) : Run × Chips :=
  if r.err.isSome then (r, acc)
  else match r.eRead c (wordAt c.regs 1) (4 * pos) 4, (if weighted then r.eRead c (wordAt c.regs 2) (4 * pos) 4 else .ok 0x3F800000) with
    | .error e, _ => (r.fail e, acc)
    | _, .error e => (r.fail e, acc)
    | .ok x, .ok w =>
      if t.nrow ≤ x then ({ r with oob := r.oob + 1 }, acc)
      else match r.s.sflRow c t x with
        | .error e => (r.fail e, acc)
        | .ok bs =>
          let k := sflSize t.fmt
          let old := (assoc acc (x % 32)).getD (List.replicate t.elems 0)
          let f := (ffmt t.fmt).getD f32
          let out := old.zipIdx.map (fun p => fmaF32 p.1 (f32.decode w) (f.decode (ofLe ((bs.drop (k * p.2)).take k))))
          (out.foldl (fun r o => r.flag o.2) r, assocSet acc (x % 32) (out.map Prod.fst))

/-- One pooled vector: element by element, the chips merged in ascending order, and written (R319). -/
def Run.pool (r : Run) (c : Cmd) (t : SflTab) (acc : Chips) (b : Nat) : Run :=
  let chip (k : Nat) : List Nat := (assoc acc k).getD (List.replicate t.elems 0)
  let merged := (upto 31).foldl (fun (x : List (Nat × FFlags)) k =>
    (x.zip (chip (k + 1))).map (fun p => let (v, f) := accF32 p.1.1 (f32.decode p.2); (v, f ||| p.1.2)))
    ((chip 0).map (fun v => (v, (0 : FFlags))))
  let size := sflOut c.geom
  let out := merged.map (fun p => if size = 2 then (let (v, f) := storeFloat bf16 0 0 (f32.decode p.1); (v, f ||| p.2)) else p)
  out.zipIdx.foldl (fun r o => r.then (fun r =>
    (r.flag o.1.2).eWrite c (wordAt c.geom 0) (b * sflPitch c.geom t.elems + size * o.2) size o.1.1)) r

/-- SFL_BAG_EXEC (R319). -/
def execSflBagExec (s : State) : Host.Outcome State Fault Refusal :=
  event (fun s => s.runHead 3 s.unit 1 (fun c r =>
    let w0 := wordAt c.regs 0
    match (s.engine 3 s.unit).tabs.find? (fun t => t.tid == fieldOf w0 40 4) with
    | none => r.finish 3 s.unit (statusWord none 5 0)
    | some t =>
      let go := (upto (fieldOf w0 0 32)).foldl (fun (x : Run × Nat) b =>
        if x.1.err.isSome then x
        else match x.1.eRead c (wordAt c.regs 3) (4 * b) 4, x.1.eRead c (wordAt c.regs 3) (4 * b + 4) 4 with
          | .error e, _ => (x.1.fail e, x.2)
          | _, .error e => (x.1.fail e, x.2)
          | .ok lo, .ok hi =>
            let p := (upto (hi - lo)).foldl (fun (y : Run × Chips) i => y.1.position c t (w0.getLsbD 39) y.2 (lo + i)) (x.1, [])
            let r2 := p.1.then (fun r => r.pool c t p.2 b)
            (r2, if r2.err.isSome then x.2 else x.2 + 1)) (r, 0)
      let low := go.1.flg.toNat * 2 ^ 43 + Nat.min go.1.oob 0xFFFF * 2 ^ 27 + go.2 % 2 ^ 27
      go.1.finish 3 s.unit (statusWord go.1.err 0 low))) s

/-! ### Work distribution (R320, R321) -/

/-- wdq.grid (R320). -/
def execWdqGrid (d a : Spec) (s : State) : Host.Outcome State Fault Refusal :=
  issueWord (.wdqGrid d a) (domainBody 4 0 1 d a (fun w _ => onlyBits (wordAt w 0) 0x3F#64) (fun _ _ => ([], [])) noIssue) s

/-- wdq.ask (R321). -/
def execWdqAsk (d a : Spec) (s : State) : Host.Outcome State Fault Refusal :=
  issueWord (.wdqAsk d a) (domainBody 4 1 2 d a (fun w _ => onlyBits (wordAt w 0) 0xF#64 && eOk [1, 2] 8 (wordAt w 1))
    (fun w _ => ([eSide (wordAt w 1) 0 8], [])) noIssue) s

/-- WDQ_GRID_EXEC (R320). -/
def execWdqGridExec (s : State) : Host.Outcome State Fault Refusal :=
  event (fun s => s.runHead 4 s.unit 0 (fun c r =>
    let w0 := wordAt c.regs 0
    let gid := fieldOf w0 0 4
    let x := r.s.engine 4 s.unit
    let mine (l : List Grid) : List Grid := l.filter (fun g => g.gid != gid)
    let put (l : List Grid) : Run := { r with s := r.s.setEngine { x with grids := l } }
    if x.grids.any (fun g => g.gid == gid && g.owner != c.ctx) then r.finish 4 s.unit (statusWord none 5 0)
    else if w0.getLsbD 5 then (put (mine x.grids)).finish 4 s.unit (statusWord none 0 0)
    else
      let g := wordAt c.geom 0
      let n : Grid :=
        { gid := gid, owner := c.ctx, x := fieldOf g 0 16 + 1, y := fieldOf g 16 16 + 1, z := fieldOf g 32 16 + 1,
          morton := w0.getLsbD 4, next := 0 }
      (put (mine x.grids ++ [n])).finish 4 s.unit (statusWord none 0 (n.x * n.y * n.z)))) s

/-- Points of an axis of extent n that lie in the 2^b cells from an origin. -/
def spanIn (n o b : Nat) : Nat := Nat.min (n - o) (2 ^ b)

/-- The point whose Morton code is the m-th smallest inside the extents (R320): one bit of each axis at a time, from the
highest, counting the points of each octant. -/
def mortonPoint (x y z : Nat) : Nat → Nat → Nat × Nat × Nat → Nat × Nat × Nat
  | 0, _, p => p
  | b + 1, m, (px, py, pz) =>
    let oct (k : Nat) : Nat × Nat × Nat := (px + k % 2 * 2 ^ b, py + k / 2 % 2 * 2 ^ b, pz + k / 4 * 2 ^ b)
    let size (k : Nat) : Nat := let (a, c, d) := oct k; spanIn x a b * spanIn y c b * spanIn z d b
    let pick := (upto 8).foldl (fun (s : Option Nat × Nat) k =>
      match s.1 with
      | some _ => s
      | none => if s.2 < size k then (some k, s.2) else (none, s.2 - size k)) (none, m)
    mortonPoint x y z b pick.2 (oct (pick.1.getD 0))

/-- Item m of a grid (R320). -/
def Grid.item (g : Grid) (m : Nat) : Nat × Nat × Nat :=
  if g.morton then mortonPoint g.x g.y g.z 17 m (0, 0, 0) else (m % g.x, m / g.x % g.y, m / (g.x * g.y))

/-- WDQ_ASK_EXEC (R321). -/
def execWdqAskExec (s : State) : Host.Outcome State Fault Refusal :=
  event (fun s => s.runHead 4 s.unit 1 (fun c r =>
    let gid := fieldOf (wordAt c.regs 0) 0 4
    let w := wordAt c.regs 1
    let x := r.s.engine 4 s.unit
    match x.grids.find? (fun g => g.gid == gid && g.owner == c.ctx) with
    | none => r.finish 4 s.unit (statusWord none 5 0)
    | some g =>
      let more := g.next < g.x * g.y * g.z
      let (a, b, d) := g.item g.next
      let ans := if more then a + b * 2 ^ 16 + d * 2 ^ 32 else 2 ^ 63
      let r1 := r.eWrite c w 0 8 ans
      if r1.err.isSome then r1.finish 4 s.unit (statusWord r1.err 0 0)
      else
        let y := r1.s.engine 4 s.unit
        let s2 := if more then
            r1.s.setEngine { y with grids := y.grids.map (fun k => if k.gid = gid then { k with next := g.next + 1 } else k) }
          else r1.s
        { r1 with s := s2 }.finish 4 s.unit (statusWord none 0 (if more then g.next else 2 ^ 48 - 1)))) s

end Sys2Proof.Machine
end

