-- ==== Sys2Proof/Machine/Operands.lean ====
section
/-! DEFINITION. Operand and result forms of the float and conversion words: formats, prefixes, rounding mode, and the
packing of results (R60, R124, R125, R129, R132). -/

namespace Sys2Proof.Machine

/-- Format code of fn 7:6 (R60). -/
def fnFormat (f : BitVec 2) : Nat := match f with | 0#2 => 1 | 1#2 => 2 | 2#2 => 4 | _ => 3

/-- The fields of a pending pfx.fmt; 0, 0, 0, 7 and 0 when none is pending (R75). -/
structure FmtPfx where
  fa : Nat
  fb : Nat
  fd : Nat
  rnd : Nat
  frac : Nat
  deriving DecidableEq, Repr

/-- The pending pfx.fmt of a thread (R75, R79). -/
def Thread.fmtPfx (t : Thread) : FmtPfx :=
  if t.fv then { fa := fieldOf t.fmt 20 4, fb := fieldOf t.fmt 16 4, fd := fieldOf t.fmt 12 4, rnd := fieldOf t.fmt 9 3,
                 frac := fieldOf t.fmt 3 6 }
  else { fa := 0, fb := 0, fd := 0, rnd := 7, frac := 0 }

/-- The fields of a pending pfx.scl (R76). -/
structure SclPfx where
  g : Nat
  sr : Spec
  imm : Bool
  sc : Nat
  deriving DecidableEq, Repr

/-- The pending pfx.scl of a thread (R76, R79). -/
def Thread.sclPfx (t : Thread) : Option SclPfx :=
  if t.sv then some { g := fieldOf t.scl 22 2, sr := t.scl.extractLsb' 16 6, imm := t.scl.getLsbD 15, sc := fieldOf t.scl 7 8 }
  else none

/-- An override of a prefix, or the word's own format (R125). -/
def overrideFmt (o f : Nat) : Nat := if o = 0 then f else o

/-- The rounding mode in force: the prefix's, else FRM.MODE (R125). -/
def Thread.modeOf (t : Thread) : Nat := if t.fmtPfx.rnd = 7 then t.frm.toNat else t.fmtPfx.rnd

/-- value(bits, f) of R125. A pending code 0xE or 0xF, which no prefix word can make pending, is read as a natural (log entry
44). -/
def operandValue (code frac : Nat) (w : Word) : FV :=
  match ffmt code with
  | some f => f.decode w.toNat
  | none => if code = 0xD then decodeE8m0 w.toNat else intValue (code == 0xB) 64 frac w.toNat

/-- store(v, f, rm) of R125, as the 64-bit register value (R124), with its flags. -/
def storeValue (code frac rm r : Nat) (v : FV) : Word × FFlags :=
  match ffmt code with
  | some f => let (c, fl) := storeFloat f rm r v; (BitVec.ofNat 64 c, fl)
  | none =>
    if code = 0xD then (let (c, fl) := storeE8m0 rm r v; (BitVec.ofNat 64 c, fl))
    else (let (z, fl) := storeInt (code == 0xB) 64 frac rm r v; (BitVec.ofInt 64 z, fl))

/-- A float word whose result is rounded: the exact value, its flags, the format and the mode give the register value,
FFL and the draw (R125, R42, R46). -/
def roundedWord (d : Spec) (code frac rm : Nat) (v : FV) (fl : FFlags) (s : State) : Ex :=
  let t := s.th
  let (w, fl2) := storeValue code frac rm t.srnd.toNat v
  .done { s with th := ((t.write d w).orFlags (fl ||| fl2)).drawIf (decide (rm = 5) && rounds code v) } w none .seq

/-- A float word of two operands with a rounded result (R125). The prefix checks of R128 and R132 come first. -/
def floatBin (f : BitVec 2) (d a b : Spec) (op : Nat → FV → FV → FV × FFlags) (s : State) : Ex :=
  let t := s.th
  let p := t.fmtPfx
  if p.fa = 0xA ∨ p.fb = 0xA ∨ p.fd = 0xA then .trap s { code := .pfx }
  else
    let x := operandValue (overrideFmt p.fa (fnFormat f)) p.frac (t.read a)
    let y := operandValue (overrideFmt p.fb (fnFormat f)) p.frac (t.read b)
    let (v, fl) := op t.modeOf x y
    roundedWord d (overrideFmt p.fd (fnFormat f)) p.frac t.modeOf v fl s

/-- fma and fnma: the third operand is d in the result's format (R125). -/
def floatTri (f : BitVec 2) (d a b : Spec) (op : Nat → FV → FV → FV → FV × FFlags) (s : State) : Ex :=
  let t := s.th
  let p := t.fmtPfx
  if p.fa = 0xA ∨ p.fb = 0xA ∨ p.fd = 0xA then .trap s { code := .pfx }
  else
    let x := operandValue (overrideFmt p.fa (fnFormat f)) p.frac (t.read a)
    let y := operandValue (overrideFmt p.fb (fnFormat f)) p.frac (t.read b)
    let z := operandValue (overrideFmt p.fd (fnFormat f)) p.frac (t.read d)
    let (v, fl) := op t.modeOf x y z
    roundedWord d (overrideFmt p.fd (fnFormat f)) p.frac t.modeOf v fl s

/-- A comparison or a classification: an integer result and flags (R126). -/
def floatTest (d : Spec) (ok : FmtPfx → Bool) (op : Thread → Word × FFlags) (s : State) : Ex :=
  let t := s.th
  if ok t.fmtPfx = false then .trap s { code := .pfx }
  else
    let (w, fl) := op t
    .done { s with th := (t.write d w).orFlags fl } w none .seq

/-- The prefix condition of feq, flt, fle and fclass (R126, R128, R132). -/
def testPfxOk (p : FmtPfx) : Bool := decide (p.fd = 0 ∧ p.fa ≠ 0xA ∧ p.fb ≠ 0xA)

/-- The prefix condition of fsgn and fmv (R127). -/
def movePfxOk (f : BitVec 2) (p : FmtPfx) : Bool :=
  let ok (x : Nat) : Bool := decide (x = 0 ∨ x = fnFormat f)
  ok p.fa && ok p.fb && ok p.fd

/-- The operands of a comparison (R126). -/
def Thread.pair (t : Thread) (f : BitVec 2) (a b : Spec) : FV × FV :=
  let p := t.fmtPfx
  (operandValue (overrideFmt p.fa (fnFormat f)) p.frac (t.read a),
    operandValue (overrideFmt p.fb (fnFormat f)) p.frac (t.read b))

/-- The fclass mask of R126, for a value of a format with mw stored significand bits. -/
def classMask (mw : Nat) (v : FV) : Nat :=
  match v with
  | .inf true => 1
  | .fin true m _ => if m = 0 then 8 else if m < 2 ^ mw then 4 else 2
  | .fin false m _ => if m = 0 then 16 else if m < 2 ^ mw then 32 else 64
  | .inf false => 128
  | .nan _ true => 256
  | .nan _ false => 512

/-- Stored significand bits of a format; 0 for e8m0, integers and naturals, whose finite values count as normal. -/
def sigBits (code : Nat) : Nat := match ffmt code with | some f => f.mw | none => 0

end Sys2Proof.Machine
end

