-- ==== Sys2Proof/Machine/Float.lean ====
section
/-! DEFINITION. Float words and conversions, majors 0x03 and 0x04 (R125 to R131). -/

namespace Sys2Proof.Machine

/-- The body of cvt (R129, R130). -/
def cvtBody (d a : Spec) (r : BitVec 3) (w : BitVec 2) (tf sf : BitVec 4) (s : State) : Ex :=
  let t := s.th
  let p := t.fmtPfx
  let tc := tf.toNat
  let sc := sf.toNat
  let ok (x : Nat) : Bool := decide (x = 0 ∨ x = tc ∨ x = sc)
  let narrow (c : Nat) : Bool := decide (5 ≤ c ∧ c ≤ 9)
  let isInt (c : Nat) : Bool := decide (c = 0xB ∨ c = 0xC)
  let scaled := narrow sc || narrow tc
  if (ok p.fa && ok p.fb && ok p.fd) = false ∨ (t.sv = true ∧ scaled = false) then .trap s { code := .pfx }
  else if t.sclPfx.any (fun q => !q.imm && t.busy q.sr) then .stall s
  else
    let rm := if r.toNat ≠ 7 then r.toNat else t.modeOf
    let iw := 8 * 2 ^ w.toNat
    let c : Option Nat := t.sclPfx.map (fun q => if q.imm then q.sc else (t.read q.sr).toNat % 256)
    let raw := t.read a
    let src : FV :=
      match ffmt sc with
      | some f =>
        (match c with
         | some k => if narrow sc then decodeScaled f raw.toNat k else f.decode raw.toNat
         | none => f.decode raw.toNat)
      | none =>
        if sc = 0xD then decodeE8m0 raw.toNat
        else intValue (sc == 0xB) (if isInt tc then 64 else iw) p.frac raw.toNat
    let sig := src.sigFlag
    if (narrow tc && !narrow sc && c == some 0xFF) = true then
      .done { s with th := (t.write d 0).orFlags (fINV ||| sig) } 0 none .seq
    else
      let v := match c with
        | some k => if narrow tc && !narrow sc then src.scale (127 - (k : Int)) else src
        | none => src
      let (x, fl) :=
        if isInt tc then
          (let (z, fl) := storeInt (tc == 0xB) iw (if isInt sc then 0 else p.frac) rm t.srnd.toNat v
           (BitVec.ofInt 64 z, fl))
        else storeValue tc 0 rm t.srnd.toNat v
      .done { s with th := ((t.write d x).orFlags (fl ||| sig)).drawIf (decide (rm = 5) && rounds tc v) } x none .seq

/-- The elements of one block of a wide format, from bytes (R131). -/
def wideElems (f : FFmt) (bs : List Byte) (g : Nat) : List FV :=
  (unpackElems f.width g (ofLe bs)).map f.decode

/-- An unpack: each element decoded under the scale and rounded to the wide format, finite ones drawing in mode SR
(R37, R131). -/
def unpackBlock (nf wf : FFmt) (rm c : Nat) : BitVec 32 → List Nat → List Nat × FFlags × BitVec 32
  | g, [] => ([], 0, g)
  | g, x :: xs =>
    let v := decodeScaled nf x c
    let (code, fl) := storeFloat wf rm g.toNat v
    let sig := v.sigFlag
    let g' := if rm = 5 ∧ v.isFin = true then lfsrNext g else g
    let (cs, fls, gz) := unpackBlock nf wf rm c g' xs
    (code :: cs, fl ||| sig ||| fls, gz)

/-- The body of cvtb (R131): checks, then all source bytes are read before any destination byte is written. -/
def cvtbBody (d a : Spec) (r : BitVec 3) (tf sf : BitVec 4) (s : State) : Ex :=
  let t := s.th
  let p := t.fmtPfx
  let ok (x : Nat) : Bool := decide (x = 0 ∨ x = tf.toNat ∨ x = sf.toNat)
  let pack : Bool := decide (5 ≤ tf.toNat ∧ tf.toNat ≤ 9)
  match t.sclPfx, ffmt tf.toNat, ffmt sf.toNat with
  | some q, some ft, some fs =>
    if (ok p.fa && ok p.fb && ok p.fd) = false ∨ (pack = true ∧ (q.imm = true ∨ q.sr = 40 ∨ q.sr = 41)) then
      .trap s { code := .pfx }
    else if pack = false ∧ q.imm = false ∧ t.busy q.sr = true then .stall s
    else
      let g := if q.g = 1 then 32 else 128
      let rm := if r.toNat ≠ 7 then r.toNat else t.modeOf
      let A := t.read a
      let D := t.read d
      let nf := if pack then ft else fs
      let wf := if pack then fs else ft
      let nb := g * nf.width / 8
      let wb := g * (wf.width / 8)
      let srcN := if pack then wb else nb
      let dstN := if pack then nb else wb
      let wide := if pack then A else D
      let sp := Space.win t.core t.ctx
      let len := s.windowLen t.core t.ctx
      if wide.toNat % (wf.width / 8) ≠ 0 then .trap s { code := .align, addr := wide }
      else if A.toNat + srcN > len then .trap s (rangeProt (BitVec.ofNat 64 (max A.toNat len)))
      else if D.toNat + dstN > len then .trap s (rangeProt (BitVec.ofNat 64 (max D.toNat len)))
      else if rsBlocks (s.core t.core).sb sp A.toNat (A.toNat + srcN) false ∨
          rsBlocks (s.core t.core).sb sp D.toNat (D.toNat + dstN) true then .stall s
      else if s.badAt sp A.toNat srcN then .trap s { code := .eccUe, addr := A, detail := rowId 1 A.toNat, unit := some (1, s.th.core) }
      else if s.badPartial sp D.toNat dstN true then .trap s { code := .eccUe, addr := D, detail := rowId 1 D.toNat, unit := some (1, s.th.core) }
      else
        let bs := s.readBytes sp A.toNat srcN
        let D' := D + BitVec.ofNat 64 dstN
        if pack then
          let (c, codes, fl, gz) := encodeBlock ft rm t.srnd (wideElems fs bs g)
          let s1 := s.put sp D.toNat (leBytes dstN (packElems ft.width codes))
          let t1 := (((s1.th.write q.sr (BitVec.ofNat 64 c)).write d D').orFlags fl)
          .done { s1 with th := { t1 with srnd := gz } } D' none .seq
        else
          let c := if q.imm then q.sc else (t.read q.sr).toNat % 256
          let (codes, fl, gz) := unpackBlock fs ft rm c t.srnd (unpackElems fs.width g (ofLe bs))
          let s1 := s.put sp D.toNat (leBytes dstN (packElems ft.width codes))
          .done { s1 with th := { ((s1.th.write d D').orFlags fl) with srnd := gz } } D' none .seq
  | _, _, _ => .trap s { code := .pfx }

/-- fadd (R125). -/
def execFadd (d a b : Spec) (f : BitVec 2) (s : State) : Host.Outcome State Fault Refusal :=
  issueWord (.fadd d a b f) (floatBin f d a b (FV.add)) s

/-- fsub (R125). -/
def execFsub (d a b : Spec) (f : BitVec 2) (s : State) : Host.Outcome State Fault Refusal :=
  issueWord (.fsub d a b f) (floatBin f d a b (fun rm x y => FV.add rm x y.negate)) s

/-- fmul (R125). -/
def execFmul (d a b : Spec) (f : BitVec 2) (s : State) : Host.Outcome State Fault Refusal :=
  issueWord (.fmul d a b f) (floatBin f d a b (fun _ x y => FV.mul x y)) s

/-- fdiv (R125). -/
def execFdiv (d a b : Spec) (f : BitVec 2) (s : State) : Host.Outcome State Fault Refusal :=
  issueWord (.fdiv d a b f) (floatBin f d a b (fun _ x y => FV.div x y)) s

/-- fmin (R125). -/
def execFmin (d a b : Spec) (f : BitVec 2) (s : State) : Host.Outcome State Fault Refusal :=
  issueWord (.fmin d a b f) (floatBin f d a b (fun _ x y => FV.minV x y)) s

/-- fmax (R125). -/
def execFmax (d a b : Spec) (f : BitVec 2) (s : State) : Host.Outcome State Fault Refusal :=
  issueWord (.fmax d a b f) (floatBin f d a b (fun _ x y => FV.maxV x y)) s

/-- fsqrt: FB must be 0 (R125, R128). -/
def execFsqrt (d a : Spec) (f : BitVec 2) (s : State) : Host.Outcome State Fault Refusal :=
  issueWord (.fsqrt d a f) (fun s =>
    if s.th.fmtPfx.fb ≠ 0 then .trap s { code := .pfx } else floatBin f d a 0 (fun _ x _ => FV.sqrt x) s) s

/-- fma (R125). -/
def execFma (d a b : Spec) (f : BitVec 2) (s : State) : Host.Outcome State Fault Refusal :=
  issueWord (.fma d a b f) (floatTri f d a b (fun rm x y z => FV.fma rm x y z)) s

/-- fnma (R125). -/
def execFnma (d a b : Spec) (f : BitVec 2) (s : State) : Host.Outcome State Fault Refusal :=
  issueWord (.fnma d a b f) (floatTri f d a b (fun rm x y z => FV.fma rm x.negate y z)) s

/-- fsgn: the low bits of a with the sign bit of b (R127). -/
def execFsgn (d a b : Spec) (f : BitVec 2) (s : State) : Host.Outcome State Fault Refusal :=
  issueWord (.fsgn d a b f) (floatTest d (movePfxOk f) (fun t =>
    match ffmt (fnFormat f) with
    | none => (0, 0)
    | some x =>
      let top := x.ew + x.mw
      (BitVec.ofNat 64 ((t.read a).toNat % 2 ^ top + (if (t.read b).toNat.testBit top then 2 ^ top else 0)), 0))) s

/-- fmv: the low bits of a (R127). -/
def execFmv (d a : Spec) (f : BitVec 2) (s : State) : Host.Outcome State Fault Refusal :=
  issueWord (.fmv d a f) (floatTest d (movePfxOk f) (fun t =>
    match ffmt (fnFormat f) with
    | none => (0, 0)
    | some x => (BitVec.ofNat 64 ((t.read a).toNat % 2 ^ x.width), 0))) s

/-- feq (R126). -/
def execFeq (d a b : Spec) (f : BitVec 2) (s : State) : Host.Outcome State Fault Refusal :=
  issueWord (.feq d a b f) (floatTest d testPfxOk (fun t =>
    let (x, y) := t.pair f a b
    (ofBool (FV.eq x y), x.sigFlag ||| y.sigFlag))) s

/-- flt (R126). -/
def execFlt (d a b : Spec) (f : BitVec 2) (s : State) : Host.Outcome State Fault Refusal :=
  issueWord (.flt d a b f) (floatTest d testPfxOk (fun t =>
    let (x, y) := t.pair f a b
    if x.isNan || y.isNan then (0, fINV) else (ofBool (FV.lt x y), 0))) s

/-- fle (R126). -/
def execFle (d a b : Spec) (f : BitVec 2) (s : State) : Host.Outcome State Fault Refusal :=
  issueWord (.fle d a b f) (floatTest d testPfxOk (fun t =>
    let (x, y) := t.pair f a b
    if x.isNan || y.isNan then (0, fINV) else (ofBool (FV.lt x y || FV.eq x y), 0))) s

/-- fclass (R126). -/
def execFclass (d a : Spec) (f : BitVec 2) (s : State) : Host.Outcome State Fault Refusal :=
  issueWord (.fclass d a f) (floatTest d testPfxOk (fun t =>
    let code := overrideFmt t.fmtPfx.fa (fnFormat f)
    (BitVec.ofNat 64 (classMask (sigBits code) (operandValue code t.fmtPfx.frac (t.read a))), 0))) s

/-- cvt (R129, R130). -/
def execCvt (d a : Spec) (r : BitVec 3) (w : BitVec 2) (t c : BitVec 4) (s : State) : Host.Outcome State Fault Refusal :=
  issueWord (.cvt d a r w t c) (cvtBody d a r w t c) s

/-- cvtb (R131). -/
def execCvtb (d a : Spec) (r : BitVec 3) (w : BitVec 2) (t c : BitVec 4) (s : State) : Host.Outcome State Fault Refusal :=
  issueWord (.cvtb d a r w t c) (cvtbBody d a r t c) s

end Sys2Proof.Machine
end

