-- ==== Sys2Proof/Machine/Lanes.lean ====
section
/-! DEFINITION. The lane ops of a compute tile: integer, float, data and token ops on 16 lanes, and their draws
(09_fabric_tiles.md, R208 to R242). -/

namespace Sys2Proof.Machine

/-! ### PREC (R208) -/

/-- Bits of PREC. -/
def TileSt.pf (t : TileSt) (lo len : Nat) : Nat := fieldOf t.prec lo len
/-- RND. -/
def TileSt.rnd (t : TileSt) : Nat := t.pf 61 3
/-- GRP. -/
def TileSt.grp (t : TileSt) : Nat := t.pf 59 2
/-- AMODE. -/
def TileSt.amode (t : TileSt) : Bool := t.prec.getLsbD 58
/-- FA. -/
def TileSt.fa (t : TileSt) : Nat := t.pf 34 5
/-- FRAC. -/
def TileSt.frac (t : TileSt) : Nat := t.pf 50 6

/-- A PREC value's width, signedness and fraction count of operand A, or of operand B. -/
def precWidth (v : BitVec 64) (b : Bool) : Nat := fieldOf v (if b then 29 else 24) 5 + 1
/-- SA or SB. -/
def precSigned (v : BitVec 64) (b : Bool) : Bool := v.getLsbD (if b then 57 else 56)
/-- FA or FB. -/
def precFrac (v : BitVec 64) (b : Bool) : Nat := fieldOf v (if b then 39 else 34) 5

/-! ### Formats in a tile (R26, R211, R219) -/

/-- A narrow float (R27). -/
def narrowFmt (c : Nat) : Bool := decide (5 ≤ c ∧ c ≤ 9)
/-- 0xB or 0xC. -/
def intFmt (c : Nat) : Bool := decide (c = 0xB ∨ c = 0xC)
/-- F of R85: a float code, e8m0 among them. -/
def floatFmt (c : Nat) : Bool := decide ((1 ≤ c ∧ c ≤ 9) ∨ c = 0xD)

/-- Width of a value of a format in its lane, or lane pair (R211). -/
def fmtWidth (c : Nat) : Nat :=
  match ffmt c with
  | some f => f.width
  | none => if c = 0xD then 8 else if c = 0xA then 4 else 32

/-- The value of a code of a float format (R30, R32). -/
def fmtValue (c code : Nat) : FV :=
  match ffmt c with
  | some f => f.decode (code % 2 ^ f.width)
  | none => decodeE8m0 code

/-- store(v, f, rm) into a float format (R125, R45). -/
def fmtStore (c rm r : Nat) (v : FV) : Nat × FFlags :=
  match ffmt c with
  | some f => storeFloat f rm r v
  | none => storeE8m0 rm r v

/-- The lanes at which the values of a format begin: every lane, or every even lane for f64 (R211). -/
def unitLanes (c : Nat) : List Nat := if c = 1 then (upto 8).map (fun i => 2 * i) else upto 16

/-- The value that begins at a lane is active. -/
def unitOn (c mask l : Nat) : Bool := if c = 1 then mask.testBit l && mask.testBit (l + 1) else mask.testBit l

/-- The value that begins at a lane. -/
def Token.unit (k : Token) (c l : Nat) : Nat :=
  if c = 1 then k.lane l % 2 ^ 32 + k.lane (l + 1) % 2 ^ 32 * 2 ^ 32 else k.lane l % 2 ^ 32

/-- The value that begins at a lane, without the bits above its format's width (R211). -/
def Token.value (k : Token) (c l : Nat) : Nat := k.unit c l % 2 ^ fmtWidth c

/-- Lanes with the value that begins at a lane set. -/
def putUnit (c : Nat) (lanes : List Nat) (l v : Nat) : List Nat :=
  if c = 1 then (lanes.set l (v % 2 ^ 32)).set (l + 1) (v / 2 ^ 32 % 2 ^ 32) else lanes.set l (v % 2 ^ 32)

/-- Mask bits of a set of lanes. -/
def laneMask (ls : List Nat) : Nat := ls.foldl (fun m l => m ||| 2 ^ l) 0

/-- Mask bits of the values that begin at lanes. -/
def unitMask (c : Nat) (ls : List Nat) : Nat := laneMask (if c = 1 then ls.flatMap (fun l => [l, l + 1]) else ls)

/-- A DATA token with lanes and a mask; inactive lanes are 0 (R213). -/
def maskedToken (lanes : List Nat) (mask : Nat) : Token :=
  { tag := 0, mask := mask, lanes := (upto 16).map (fun l => if mask.testBit l then lanes.getD l 0 else 0) }

/-- An empty token (R214). -/
def emptyToken : Token := { tag := 0, mask := 0, lanes := List.replicate 16 0 }

/-! ### Flags and draws (R42, R46, R210, R213) -/

/-- Flags join FLG. -/
def TileSt.flag (t : TileSt) (f : FFlags) : TileSt := { t with flg := t.flg ||| f }

/-- The state of a lane's generator. -/
def TileSt.gen (t : TileSt) (l : Nat) : Nat := (t.gens.getD l 1).toNat

/-- One lane draws. -/
def TileSt.draw (t : TileSt) (l : Nat) : TileSt := { t with gens := t.gens.set l (lfsrNext (t.gens.getD l 1)) }

/-- Each lane of a mask draws once. -/
def TileSt.drawMask (t : TileSt) (mask : Nat) : TileSt :=
  (upto 16).foldl (fun t l => if mask.testBit l then t.draw l else t) t

/-- A result of a firing: its lanes draw (R213 step 3). -/
def TileSt.result (t : TileSt) (k : Token) : TileSt × Token := (t.drawMask k.mask, k)

/-- An op that computes each active value on its own: the function gives a lane's value and flags. -/
def TileSt.eachUnit (t : TileSt) (c mask : Nat) (f : Nat → Nat × FFlags) : TileSt × Token :=
  let on := (unitLanes c).filter (unitOn c mask)
  let (lanes, fl) := on.foldl (fun (acc : List Nat × FFlags) l =>
    let (v, g) := f l
    (putUnit c acc.1 l v, acc.2 ||| g)) (List.replicate 16 0, 0)
  (t.flag fl).result (maskedToken lanes (unitMask c on))

/-! ### Integer lane ops (R231, R232) -/

/-- A sum clamped in saturating mode, else reduced to w bits (R231, R232 fit32, R49 fit64): its code and flags. -/
def fitInt (sat sgn : Bool) (w : Nat) (x : Int) : Nat × FFlags :=
  if sat then
    let (lo, hi) := intBounds sgn w
    let y := max lo (min hi x)
    (ofSigned w y, if y = x then 0 else fOVF)
  else (ofSigned w x, 0)

/-- The result of an integer lane op (R231), op by its code. -/
def intLane (op fmt imm : Nat) (sat : Bool) (a b : Nat) : Nat × FFlags :=
  let sgn := fmt == 0xB
  let sa := toSigned 32 a
  let sb := toSigned 32 b
  let va : Int := if sgn then sa else (a : Int)
  let vb : Int := if sgn then sb else (b : Int)
  let n := b % 32
  let pick (p : Bool) : Nat := if p then a else b
  match op with
  | 0x08 => fitInt sat sgn 32 (va + vb)
  | 0x09 => fitInt sat sgn 32 (va - vb)
  | 0x19 => fitInt sat sgn 32 (if va < 0 then -va else va)
  | 0x0C => (Nat.land a b, 0)
  | 0x0D => (Nat.lor a b, 0)
  | 0x0E => (Nat.xor a b, 0)
  | 0x0F => (Nat.land a (2 ^ 32 - 1 - b), 0)
  | 0x10 => (a * 2 ^ n % 2 ^ 32, 0)
  | 0x11 => (a / 2 ^ n, 0)
  | 0x12 => (ofSigned 32 (sa / ((2 ^ n : Nat) : Int)), 0)
  | 0x13 => (pick (decide (sa ≤ sb)), 0)
  | 0x14 => (pick (decide (sb ≤ sa)), 0)
  | 0x15 => (pick (decide (a ≤ b)), 0)
  | 0x16 => (pick (decide (b ≤ a)), 0)
  | 0x17 =>
    let r : Bool := (match imm % 8 with
      | 0 => decide (a = b)
      | 1 => decide (a ≠ b)
      | 2 => decide (sa < sb)
      | 3 => decide (sb ≤ sa)
      | 4 => decide (a < b)
      | _ => decide (b ≤ a))
    (r.toNat, 0)
  | 0x1A => (clzBits 32 a, 0)
  | _ => (popBits 32 a, 0)

/-- An operand of vmul, vmac or an integer pln.mma at its PREC width (R208, R232). -/
def precOperand (v : BitVec 64) (b : Bool) (x : Nat) : Int :=
  if precSigned v b then toSigned (precWidth v b) x else ((x % 2 ^ precWidth v b : Nat) : Int)

/-- p over 2^k, rounded to nearest even (R49). -/
def rneShift (p : Int) (k : Nat) : Int :=
  let q := p / ((2 ^ k : Nat) : Int)
  let r := p % ((2 ^ k : Nat) : Int)
  if k = 0 then p
  else if 2 * r > (2 ^ k : Nat) ∨ (2 * r = (2 ^ k : Nat) ∧ q % 2 ≠ 0) then q + 1 else q

/-- A product with FA + FB fraction bits, aligned to FRAC (R49, R232). -/
def TileSt.align (t : TileSt) (p : Int) : Int :=
  let f := t.fa + t.pf 39 5
  if f ≤ t.frac then p * ((2 ^ (t.frac - f) : Nat) : Int) else rneShift p (f - t.frac)

/-- The aligned product of two lanes (R232). -/
def TileSt.intProduct (t : TileSt) (a b : Nat) : Int := t.align (precOperand t.prec false a * precOperand t.prec true b)

/-! ### Function unit (R235) -/

/-- 1/sqrt(x), with a sticky bit far below its leading bit. -/
def FV.rsqrt (x : FV) : FV × FFlags :=
  match x with
  | .nan _ s => (FV.qnan, if s then fINV else 0)
  | .inf false => (.fin false 0 0, 0)
  | .inf true => (FV.qnan, fINV)
  | .fin a m e =>
    if m = 0 then (.inf a, fDVZ)
    else if a then (FV.qnan, fINV)
    else
      let odd : Nat := if e % 2 = 0 then 0 else 1
      let n := m * 2 ^ odd
      let s := 260 + n.log2
      let t := 2 ^ (2 * s) / n
      let q := FV.isqrt (t.log2 / 2 + 1) t 0
      (.fin false (2 * q + (if q * q * n = 2 ^ (2 * s) then 0 else 1)) (-(((e - odd) / 2 : Int)) - s - 1), 0)

/-- 2^(p / 2^k) * 2^512, rounded down at each of k square roots; p has its k bits below the point, least significant first
(log entry 23). -/
def exp2Frac : Nat → Nat → Nat → Nat
  | 0, _, v => v
  | k + 1, p, v =>
    let w := if p % 2 = 1 then 2 * v else v
    exp2Frac k (p / 2) (FV.isqrt 515 (w * 2 ^ 512) 0)

/-- 2^x (R235). The result of an x that is no integer is irrational: its truncated bits are followed by a sticky bit. -/
def FV.exp2 (x : FV) : FV × FFlags :=
  match x with
  | .nan _ s => (FV.qnan, if s then fINV else 0)
  | .inf true => (.fin false 0 0, 0)
  | .inf false => (.inf false, 0)
  | .fin a m e =>
    let lim : Nat := 2 ^ 20
    if m = 0 then (.fin false 1 0, 0)
    else if 20 ≤ topExp m e then (.fin false 1 (if a then -(lim : Int) else lim), 0)
    else if 0 ≤ e then
      let n : Int := (m * 2 ^ e.toNat : Nat)
      (.fin false 1 (if a then -n else n), 0)
    else
      let z := ctzBits (m.log2 + 1) m
      let m1 := m / 2 ^ z
      let e1 := e + z
      if 0 ≤ e1 then
        let n : Int := (m1 * 2 ^ e1.toNat : Nat)
        (.fin false 1 (if a then -n else n), 0)
      else
        let k := (-e1).toNat
        let v : Int := if a then -(m1 : Int) else m1
        let i := v / ((2 ^ k : Nat) : Int)
        let p := (v % ((2 ^ k : Nat) : Int)).toNat
        let f := exp2Frac k p (2 ^ 512)
        (.fin false (2 * (f / 2 ^ 352) + 1) (i - 161), 0)

/-- The first n bits after the point of log2 y, for y / 2^600 from 1 below 2, each squaring rounded down (log entry 23). -/
def log2Frac : Nat → Nat → Nat → Nat
  | 0, _, acc => acc
  | n + 1, y, acc =>
    let s := y * y / 2 ^ 600
    if 2 ^ 601 ≤ s then log2Frac n (s / 2) (2 * acc + 1) else log2Frac n s (2 * acc)

/-- log2 x (R235). The result of an x that is no power of two is irrational. -/
def FV.log2 (x : FV) : FV × FFlags :=
  match x with
  | .nan _ s => (FV.qnan, if s then fINV else 0)
  | .inf true => (FV.qnan, fINV)
  | .inf false => (.inf false, 0)
  | .fin a m e =>
    if m = 0 then (.inf true, fDVZ)
    else if a then (FV.qnan, fINV)
    else
      let i := topExp m e
      if m = 2 ^ m.log2 then (FV.ofInt i 0, 0)
      else
        let f := log2Frac 200 (m * 2 ^ 600 / 2 ^ m.log2) 0
        -- the magnitude ends in a sticky bit: above f for i from 0 up, below the next unit for a negative sum
        let z := i * ((2 ^ 200 : Nat) : Int) + f
        if 0 ≤ z then (.fin false (2 * z.toNat + 1) (-201), 0) else (.fin true (2 * (-z).toNat - 1) (-201), 0)

/-! ### Float lane ops (R233 to R235) -/

/-- The exact result and flags of a float lane op on values (R233, R235), op by its code. -/
def floatLane (op rm : Nat) (x y z : FV) : FV × FFlags :=
  match op with
  | 0x20 => FV.add rm x y
  | 0x21 => FV.add rm x (if y.isNan then y else y.negate)
  | 0x22 => FV.mul x y
  | 0x23 => FV.fma rm x y z
  | 0x24 => FV.minV x y
  | 0x25 => FV.maxV x y
  | 0x28 => FV.div (.fin false 1 0) x
  | 0x29 => FV.rsqrt x
  | 0x2A => FV.exp2 x
  | _ => FV.log2 x

/-- vfcmp (R126, R233): 1 or 0, with INV for a signalling NaN, or for any NaN in lt and le. -/
def floatCompare (imm : Nat) (x y : FV) : Nat × FFlags :=
  let anyNan := x.isNan || y.isNan
  let r := match imm % 4 with
    | 0 => FV.eq x y
    | 1 => FV.lt x y
    | _ => !anyNan && !(FV.lt y x)
  (if r then 1 else 0, x.sigFlag ||| y.sigFlag ||| (if anyNan ∧ imm % 4 ≠ 0 then fINV else 0))

/-- One value of vfcvt (R234), from a format to a target. -/
def vfcvtOne (sf tf fa rm r code : Nat) : Nat × FFlags :=
  let v := if intFmt sf then intValue (sf == 0xB) 32 fa code else fmtValue sf code
  if intFmt tf then
    let (z, fl) := storeInt (tf == 0xB) 32 fa rm r v
    (ofSigned 32 z, fl ||| v.sigFlag)
  else
    let (c, fl) := fmtStore tf rm r v
    (c, fl ||| v.sigFlag)

/-- vfcvt (R234). -/
def TileSt.vfcvt (t : TileSt) (fmt imm : Nat) (a : Token) (mask : Nat) : TileSt × Token :=
  let tf := imm % 16
  let s64 := fmt == 1
  let t64 := tf == 1
  let units := if s64 || t64 then (upto 8).map (fun i => 2 * i) else upto 16
  let on := units.filter (fun l => if s64 then unitOn 1 mask l else mask.testBit l)
  let (lanes, fl) := on.foldl (fun (acc : List Nat × FFlags) l =>
    let (v, g) := vfcvtOne fmt tf t.fa t.rnd (t.gen l) (a.unit fmt l)
    (putUnit tf acc.1 l v, acc.2 ||| g)) (List.replicate 16 0, 0)
  (t.flag fl).result (maskedToken lanes (unitMask tf on))

/-! ### vred and vscan (R237) -/

/-- One combination of two values: its code, its flags, and whether it rounded. -/
def combine (t : TileSt) (fmt kind r : Nat) (x y : Nat) : Nat × FFlags × Bool :=
  if intFmt fmt then
    let sgn := fmt == 0xB
    let vx : Int := if sgn then toSigned 32 x else (x : Int)
    let vy : Int := if sgn then toSigned 32 y else (y : Int)
    match kind with
    | 0 => (let (c, f) := fitInt t.amode sgn 32 (vx + vy); (c, f, false))
    | 1 => (if vx ≤ vy then x else y, 0, false)
    | _ => (if vy ≤ vx then x else y, 0, false)
  else
    let a := fmtValue fmt x
    let b := fmtValue fmt y
    match kind with
    | 0 =>
      let (v, f) := FV.add t.rnd a b
      let (c, g) := fmtStore fmt t.rnd r v
      (c, f ||| g, true)
    | 1 => (let (v, f) := FV.minV a b; let (c, g) := fmtStore fmt 1 0 v; (c, f ||| g, false))
    | _ => (let (v, f) := FV.maxV a b; let (c, g) := fmtStore fmt 1 0 v; (c, f ||| g, false))

/-- A combination in a tile: flags join FLG, and a rounding draws from a lane. -/
def TileSt.combine (t : TileSt) (fmt kind l x y : Nat) : TileSt × Nat :=
  let (c, f, rounds) := Machine.combine t fmt kind (t.gen l) x y
  let t1 := t.flag f
  (if rounds then t1.draw l else t1, c)

/-- One level of the tree of vred: neighbours combine; a side without a value passes the other on. -/
def TileSt.redLevel (t : TileSt) (fmt kind : Nat) : List (Nat × Option Nat) → TileSt × List (Nat × Option Nat)
  | (l, x) :: (m, y) :: rest =>
    let (t1, z) : TileSt × Option Nat :=
      match x, y with
      | some a, some b => (let (u, c) := t.combine fmt kind (Nat.min l m) a b; (u, some c))
      | some a, none => (t, some a)
      | none, b => (t, b)
    let (t2, zs) := TileSt.redLevel t1 fmt kind rest
    (t2, (l, z) :: zs)
  | l => (t, l)

/-- vred (R237). -/
def TileSt.vred (t : TileSt) (fmt imm : Nat) (a : Token) (mask : Nat) : TileSt × Token :=
  let leaves := (unitLanes fmt).map (fun l => (l, if unitOn fmt mask l then some (a.value fmt l) else none))
  let (t1, l) := (upto 4).foldl (fun (acc : TileSt × List (Nat × Option Nat)) _ =>
    acc.1.redLevel fmt (imm % 4) acc.2) (t, leaves)
  match l.head? with
  | some (_, some v) => (t1, maskedToken (putUnit fmt (List.replicate 16 0) 0 v) (unitMask fmt [0]))
  | _ => (t1, emptyToken)

/-- vscan (R237). -/
def TileSt.vscan (t : TileSt) (fmt imm : Nat) (a : Token) (mask : Nat) : TileSt × Token :=
  let on := (unitLanes fmt).filter (unitOn fmt mask)
  let (t1, lanes, _) := on.foldl (fun (acc : TileSt × List Nat × Option Nat) l =>
    let x := a.value fmt l
    match acc.2.2 with
    | none => (acc.1, putUnit fmt acc.2.1 l x, some x)
    | some p =>
      let (u, c) := acc.1.combine fmt (imm % 4) l p x
      (u, putUnit fmt acc.2.1 l c, some c)) (t, List.replicate 16 0, none)
  (t1, maskedToken lanes (unitMask fmt on))

/-! ### vpack and vunpack (R238) -/

/-- Elements rounded in rising order; element e draws from lane e mod 16 when it is finite. With a scale exponent they are
the elements of a block (R39 steps 4, 5). -/
def TileSt.packDraw (t : TileSt) (fmt : Nat) (scale : Option Int) : Nat → List FV → TileSt × List Nat
  | _, [] => (t, [])
  | e, v :: vs =>
    let l := e % 16
    let (c, f) := match scale, ffmt fmt with
      | some s, some ff => encodeElem ff t.rnd (t.gen l) s v
      | _, _ => fmtStore fmt t.rnd (t.gen l) v
    let t1 := t.flag (f ||| v.sigFlag)
    let t2 := if v.isFin then t1.draw l else t1
    let (t3, cs) := TileSt.packDraw t2 fmt scale (e + 1) vs
    (t3, c :: cs)

/-- A DATA token that holds bytes from byte 0; its active lanes cover them. -/
def bytesToken (bs : List Byte) : Token :=
  { tag := 0, mask := 2 ^ ceilDiv bs.length 4 - 1, lanes := lanesOf (bs ++ List.replicate (64 - bs.length) 0) }

/-- vpack (R238). -/
def TileSt.vpack (t : TileSt) (fmt imm : Nat) (a b : Token) : TileSt × Token :=
  let sf := imm % 16
  let val (k : Token) : List FV := (upto 16).map (fun l => if k.active l then fmtValue sf (k.unit sf l) else .fin false 0 0)
  let xs := val a ++ val b
  let w := fmtWidth fmt
  if narrowFmt fmt ∧ t.grp = 1 then
    let bytes (c : Nat) (cs : List Nat) : List Byte := BitVec.ofNat 8 c :: leBytes (4 * w) (packElems w cs)
    if xs.any FV.isNan then
      (t.flag (xs.foldl (fun f v => f ||| v.sigFlag) fINV), bytesToken (bytes 0xFF (List.replicate 32 0)))
    else
      let s : Int := match amaxExp xs, ffmt fmt with
        | some k, some f => max (-127) (min 127 (k - emaxOf f))
        | _, _ => 0
      let (t1, cs) := t.packDraw fmt (some s) 0 xs
      (t1, bytesToken (bytes (s + 127).toNat cs))
  else
    let (t1, cs) := t.packDraw fmt none 0 xs
    (t1, bytesToken (leBytes (4 * w) (packElems w cs)))

/-- vunpack (R238). -/
def TileSt.vunpack (t : TileSt) (fmt imm : Nat) (a : Token) : TileSt × Token :=
  let tf := imm % 16
  let h := imm / 16 % 2
  let w := fmtWidth fmt
  let raw := ofLe a.payload
  let scaled := narrowFmt fmt && t.grp == 1
  let (c, bits) := if scaled then (raw % 256, raw / 256) else (0x7F, raw)
  let val (l : Nat) : FV := match ffmt fmt with
    | some f => decodeScaled f (bits / 2 ^ (w * (16 * h + l)) % 2 ^ w) c
    | none => .fin false 0 0
  t.eachUnit tf 0xFFFF (fun l =>
    let v := val l
    let (x, f) := fmtStore tf t.rnd (t.gen l) v
    (x, f ||| v.sigFlag))

/-! ### Lane data ops and token ops (R236, R240, R241) -/

/-- A constant-pool entry (R211). -/
def TileCfg.cp (c : TileCfg) (i : Nat) : Nat := c.pool.getD (i % 64) 0

/-- Constant-pool entries from an index up, as a token (R83, R236). -/
def TileCfg.cpToken (c : TileCfg) (i : Nat) : Token := dataToken ((upto 16).map (fun l => c.cp (i + l)))

/-- Lanes taken one by one from a token: the source of each result lane. -/
def pickLanes (src : Nat → Token × Nat) : Token :=
  maskedToken ((upto 16).map (fun l => (src l).1.lane (src l).2))
    (laneMask ((upto 16).filter (fun l => (src l).1.active (src l).2)))

/-- vlut (R236). -/
def vlut (c : TileCfg) (t : TileSt) (fmt imm : Nat) (a : Token) : Token :=
  maskedToken ((upto 16).map (fun l =>
    if fmt = 0xA then t.book.getD (a.lane l % 16) 0 else c.cp (a.lane l % 64 + imm % 64))) a.mask

/-- vshuf (R236). -/
def vshuf (c : TileCfg) (imm : Nat) (a : Token) : Token :=
  pickLanes (fun l => (a, nfield (c.cp (imm + l / 8)) (4 * (l % 8)) 4))

/-- vbcast (R236). -/
def vbcast (fmt imm : Nat) (a : Token) : Token :=
  if fmt = 1 then
    if unitOn 1 a.mask (imm % 16) then pickLanes (fun l => (a, imm % 16 + l % 2)) else emptyToken
  else pickLanes (fun _ => (a, imm % 16))

/-- vtrn (R236). -/
def vtrn (imm : Nat) (a b : Token) : Token :=
  pickLanes (fun l => (if l % 2 = 0 then a else b, l / 2 + 8 * (imm % 2)))

/-- vsel (R241). -/
def vsel (a b c : Token) : Token :=
  let src (l : Nat) : Token := if c.lane l ≠ 0 then a else b
  maskedToken ((upto 16).map (fun l => (src l).lane l))
    (laneMask ((upto 16).filter (fun l => c.active l && (src l).active l)))

/-- Active lanes of a guard that are not zero (R240, R266). -/
def Token.guards (k : Token) : Nat := laneMask ((upto 16).filter (fun l => k.active l && k.lane l != 0))

/-- tagsel (R240). -/
def tagsel (imm : Nat) (a b : Token) : Token := if imm.testBit a.tag then a else b

end Sys2Proof.Machine
end

