-- ==== Sys2Proof/Machine/Tiles.lean ====
section
/-! DEFINITION. One firing of a tile: sources, tags and markers, scratch streams, the accumulator and its drain, pln.mma and
vprec (09_fabric_tiles.md, R47 to R50, R207 to R245). -/

namespace Sys2Proof.Machine

/-! ### Stage words (R82 to R86) -/

/-- The used sources of an op, in the order A, B, C (R85). -/
def opSources (op : Nat) : Nat :=
  if op = 0x00 ∨ op = 0x3A ∨ op = 0x42 then 0
  else if op = 0x0B ∨ op = 0x18 ∨ op = 0x23 then 3
  else if op = 0x02 ∨ op = 0x04 ∨ (0x08 ≤ op ∧ op ≤ 0x17) ∨ (0x20 ≤ op ∧ op ≤ 0x26) ∨ op = 0x35 ∨ op = 0x37 ∨ op = 0x39 ∨
    op = 0x40 then 2
  else 1

/-- The selectors of the used sources. -/
def StageWord.sels (w : StageWord) : List Nat := [w.sa, w.sb, w.sc].take (opSources w.op)

/-- Stage i of a tile. -/
def TileCfg.stage (c : TileCfg) (i : Nat) : StageWord :=
  c.stages.getD i { op := 0, sa := 0, sb := 0, sc := 0, dst := 0, fmt := 0, imm := 0 }

/-- The enabled stages, ascending (R87). -/
def TileCfg.enabled (c : TileCfg) : List Nat := (upto 6).filter (fun i => c.sen.testBit i)

/-- off of R215 for a list of stages after an offset. -/
def TileCfg.offsFrom (c : TileCfg) : Nat → List Nat → List (Nat × Nat)
  | _, [] => []
  | prev, i :: is =>
    let t := prev + 1 + (c.phases.getD i 0 + c.ii - (prev + 1) % c.ii) % c.ii
    (i, t) :: TileCfg.offsFrom c t is

/-- Enabled stages with their offsets (R215). -/
def TileCfg.offs (c : TileCfg) : List (Nat × Nat) :=
  match c.enabled with
  | [] => []
  | i :: is => (i, c.phases.getD i 0) :: c.offsFrom (c.phases.getD i 0) is

/-- Offset of a stage. -/
def TileCfg.off (c : TileCfg) (i : Nat) : Nat := (assoc c.offs i).getD 0

/-- The depth of a tile (R215). -/
def TileCfg.depth (c : TileCfg) : Nat :=
  match c.offs.getLast? with
  | some p => p.2 + 1
  | none => 0

/-- The nearest lower enabled stage (R213, R214). -/
def TileCfg.lower (c : TileCfg) (i : Nat) : Option Nat := (c.enabled.filter (fun j => decide (j < i))).getLast?

/-- The accumulating stage (R226). -/
def TileCfg.accStage (c : TileCfg) : Option Nat := c.enabled.find? (fun i => (c.stage i).dst == 7)

/-- The stage that drains (R226). -/
def TileCfg.drainStage (c : TileCfg) : Option Nat := c.enabled.find? (fun i => (c.stage i).op == 0x41)

/-- The accumulator's kind (R226): a float format, 1 or 2, or 0xB for a 64-bit integer. -/
def TileCfg.accKind (c : TileCfg) : Nat :=
  match c.accStage with
  | none => 2
  | some i =>
    let w := c.stage i
    if intFmt w.fmt then 0xB else if w.fmt = 1 ∨ (w.op = 0x40 ∧ w.imm % 16 = 1) then 1 else 2

/-- A lane op accumulates (R226). -/
def TileCfg.laneMode (c : TileCfg) : Bool :=
  match c.accStage with
  | some i => (c.stage i).op != 0x40
  | none => false

/-- pln.mma is on the narrow path (R47). -/
def TileCfg.narrowPath (c : TileCfg) : Bool :=
  match c.accStage with
  | some i => let w := c.stage i; w.op == 0x40 && narrowFmt w.fmt && narrowFmt (w.imm % 16)
  | none => false

/-- The group length (R228). -/
def groupLen (c : TileCfg) (t : TileSt) : Nat :=
  if c.narrowPath ∧ t.grp = 1 then 32 else if c.narrowPath ∧ t.grp = 2 then 128 else 16

/-- The circuit that a port sends on. -/
def TileCfg.outCirc (c : TileCfg) (p : Nat) : Option Nat := (c.sw.find? (fun e => e.out && e.port == p)).map SwEntry.circ

/-! ### Scratch neighbours (R165, R166, R223 to R227) -/

/-- The scratch tile next to a position of a region: direction 0 north, 1 east, 2 south, 3 west. Neighbourhood wraps within
the stripe (R14). -/
def Region.scratchKey (r : Region) (pos d : Nat) : Nat :=
  let row := r.row + pos / 32
  let col := r.col + pos % 32
  match d with
  | 0 => tileKey r.stripe ((row + 7) % 8) col
  | 1 => tileKey r.stripe row ((col + 1) % 32)
  | 2 => tileKey r.stripe ((row + 1) % 8) col
  | _ => tileKey r.stripe row ((col + 31) % 32)

/-- The place in R166's port order of the port by which a scratch tile serves the tile that names it by a direction: the
port is named from the scratch tile. -/
def portPhase (d : Nat) : Nat := (d + 2) % 4

/-- What a firing sees besides its tile: the state with the writes made so far in the clk, the states in which each port
of the order of R166 is served, the counter of free values, and an uncorrectable error met. -/
structure FireEnv where
  s : State
  snaps : List State
  r : Region
  bad : Option (Space × Nat)

/-- A block of 64 bytes of the tile at a direction, in a state. -/
def FireEnv.block (v : FireEnv) (s : State) (pos d blk : Nat) : List Byte × FireEnv :=
  let sp := Space.tile (v.r.scratchKey pos d)
  (s.readBytes sp (64 * blk) 64, if s.badAt sp (64 * blk) 64 then { v with bad := some (sp, 64 * blk) } else v)

/-- The fields of a scratch-stream descriptor: neighbours in R227's order, BASE and length (R225). -/
def TileCfg.stream (c : TileCfg) (i : Nat) : List Nat × Nat × Nat :=
  let d := c.cp i
  let m := nfield d 28 4
  (if m = 0 then [c.psn] else (upto 4).filter (fun k => m.testBit (3 - k)), nfield d 16 12, nfield d 4 12 + 1)

/-- Blocks taken so far from a stream. -/
def TileSt.ptr (t : TileSt) (key : Nat) : Nat := (assoc t.ptrs key).getD 0

/-- The next b blocks of a stream of pln.mma (R227): each neighbour is read in the state in which its port is served. -/
def TileSt.streamBlocks (c : TileCfg) (entry : Nat) : Nat → TileSt → FireEnv → List Byte × TileSt × FireEnv
  | 0, t, v => ([], t, v)
  | b + 1, t, v =>
    let (dirs, base, len) := c.stream entry
    let n := t.ptr entry
    let d := dirs.getD (n % dirs.length) 0
    let (bs, v1) := v.block (v.snaps.getD (portPhase d) v.s) c.pos d (base + n / dirs.length % len)
    let (rest, t1, v2) := TileSt.streamBlocks c entry b { t with ptrs := assocSet t.ptrs entry (n + 1) } v1
    (bs ++ rest, t1, v2)

/-- The block of the PSN neighbour at the pointer of a stage's stream (R223, R227). -/
def TileCfg.psnBlock (c : TileCfg) (t : TileSt) (i : Nat) : Nat :=
  let (_, base, len) := c.stream (c.stage i).imm
  base + t.ptr i % len

/-- The stage reads or writes a stream of the PSN neighbour (R223). -/
def StageWord.streams (w : StageWord) : Bool :=
  w.op != 0x40 && w.op != 0x38 && w.op != 0x39 && (w.sels.contains 5 || w.dst == 5)

/-- The pointer of a stage's stream advances. -/
def TileSt.stepPtr (t : TileSt) (w : StageWord) (i : Nat) : TileSt :=
  if w.streams then { t with ptrs := assocSet t.ptrs i (t.ptr i + 1) } else t

/-- Bytes are written to a scratch tile; a partial write of a word that holds an uncorrectable error is met as one (R170). -/
def FireEnv.store (v : FireEnv) (sp : Space) (a : Nat) (bs : List Byte) : FireEnv :=
  if v.s.badPartial sp a bs.length true then { v with bad := some (sp, a) } else { v with s := v.s.put sp a bs }

/-- The active lanes of a result go to a block of the PSN neighbour (R227), each 8-byte word of it in one write (R170). -/
def FireEnv.storeBlock (v : FireEnv) (c : TileCfg) (blk : Nat) (k : Token) : FireEnv :=
  if k.tag ≠ 0 then v
  else
    let sp := Space.tile (v.r.scratchKey c.pos c.psn)
    let four (l : Nat) : List Byte := leBytes 4 (k.lane l)
    (upto 8).foldl (fun v i =>
      let a := 64 * blk + 8 * i
      match k.active (2 * i), k.active (2 * i + 1) with
      | true, true => v.store sp a (four (2 * i) ++ four (2 * i + 1))
      | true, false => v.store sp a (four (2 * i))
      | false, true => v.store sp (a + 4) (four (2 * i + 1))
      | false, false => v) v

/-! ### Pending writes (R50, R242) -/

/-- Pending PREC and codebook take effect. -/
def TileSt.applyPending (t : TileSt) : TileSt :=
  { t with prec := t.pendPrec.getD t.prec, pendPrec := none, book := t.pendBook.getD t.book, pendBook := none }

/-- Widths in bits of the elements of a pln.mma operand (R219): the stored width, and the significand's. -/
def storedWidth (v : BitVec 64) (b : Bool) (fmt : Nat) : Nat := if intFmt fmt then precWidth v b else fmtWidth fmt

/-- Significand width that a multiply is costed at (R219). -/
def costWidth (v : BitVec 64) (b : Bool) (fmt : Nat) : Nat :=
  match fmt with
  | 1 => 53 | 2 => 24 | 3 => 8 | 4 => 11 | 5 => 4 | 6 => 3 | 7 => 3 | 8 => 4 | 9 => 2 | 0xA => 8 | 0xD => 1
  | _ => precWidth v b

/-- Cell-clocks of an iteration (R220). -/
def tileCells (c : TileCfg) (v : BitVec 64) : Nat :=
  (c.enabled.map (fun i =>
    let w := c.stage i
    if w.op = 0x0A ∨ w.op = 0x0B ∨ w.op = 0x22 ∨ w.op = 0x23 then 16 * costWidth v false w.fmt * costWidth v true w.fmt
    else if w.op = 0x40 then 256 * costWidth v false w.fmt * costWidth v true (w.imm % 16) * (w.imm / 16 + 1)
    else 0)).sum

/-- Blocks of a scratch operand of pln.mma that one neighbour serves at most in a firing (R220). -/
def streamCost (c : TileCfg) (v : BitVec 64) (w : StageWord) (b : Bool) : List Nat × Nat :=
  let fmt := if b then w.imm % 16 else w.fmt
  let (dirs, _, _) := c.stream (if b then 63 else 62)
  (dirs, ceilDiv (ceilDiv (16 * (w.imm / 16 + 1) * storedWidth v b fmt) 512) dirs.length)

/-- Bytes through the scratch neighbour of a direction in an iteration (R220). -/
def tileBytes (c : TileCfg) (v : BitVec 64) (d : Nat) : Nat :=
  (c.enabled.map (fun i =>
    let w := c.stage i
    let ports := (w.sels.filter (fun x => x == d + 1)).length + (if w.dst = d + 1 then 1 else 0)
    let psn := if d = c.psn then
        (if w.op = 0x38 ∨ w.op = 0x39 then 1
         else if w.op = 0x40 then 0
         else (if w.sels.contains 5 then 1 else 0) + (if w.dst = 5 then 1 else 0))
      else 0
    let mma (b : Bool) : Nat :=
      if w.op = 0x40 ∧ (if b then w.sb else w.sa) = 5 then
        let (dirs, n) := streamCost c v w b
        if dirs.contains d then n else 0
      else 0
    64 * (ports + psn + mma false + mma true))).sum

/-- The cost test of R220 for a PREC value. -/
def costOk (c : TileCfg) (v : BitVec 64) : Bool :=
  decide (tileCells c v ≤ 65536 * c.ii) && (upto 4).all (fun d => decide (tileBytes c v d ≤ 64 * c.ii))

/-- A PREC value with legal fields of its own (R209). -/
def precFields (v : BitVec 64) : Bool := decide (fieldOf v 0 24 = 0 ∧ fieldOf v 59 2 ≠ 3 ∧ fieldOf v 61 3 ≤ 5)

/-- A PREC value is valid for a tile (R209). -/
def precValid (c : TileCfg) (v : BitVec 64) : Bool :=
  let grp := fieldOf v 59 2
  let ws := c.enabled.map c.stage
  precFields v &&
  (grp == 0 || ws.all (fun w => w.op != 0x40 || (narrowFmt w.fmt && narrowFmt (w.imm % 16)))) &&
  (grp != 2 || ws.all (fun w => !(w.op == 0x35 || w.op == 0x36) || !narrowFmt w.fmt)) &&
  (grp == 0 || ws.all (fun w => !(w.fmt == 0xA || (w.op == 0x40 && w.imm % 16 == 0xA))))

/-- vprec on a DATA firing (R242). -/
def TileSt.vprec (c : TileCfg) (t : TileSt) (imm : Nat) (a : Token) : TileSt :=
  let t1 :=
    if imm.testBit 0 then
      let v := BitVec.ofNat 64 (a.lane 0 % 2 ^ 32 + a.lane 1 % 2 ^ 32 * 2 ^ 32)
      if !(a.active 0 && a.active 1) || !precValid c v || !costOk c v then t.flag fINV else { t with pendPrec := some v }
    else t
  if imm.testBit 1 then
    if (upto 8).all (fun i => a.active (2 + i)) then
      { t1 with pendBook := some ((upto 16).map (fun i => nfield (a.lane (2 + i / 2)) (16 * (i % 2)) 16)) }
    else t1.flag fINV
  else t1

/-! ### The accumulator (R47 to R49, R226 to R233) -/

/-- An accumulator entry as a value. -/
def accValue (kind frac code : Nat) : FV :=
  if kind = 0xB then FV.ofInt (toSigned 64 code) (-(frac : Int)) else fmtValue kind code

/-- A sum of an entry and a value rounded once into the accumulator, with its flags and the lane's draw. -/
def TileSt.accAdd (t : TileSt) (kind entry lane : Nat) (v : FV) : TileSt :=
  let (x, f) := FV.add t.rnd (fmtValue kind (t.acc.getD entry 0)) v
  let (c, g) := fmtStore kind t.rnd (t.gen lane) x
  { t.flag (f ||| g) with acc := t.acc.set entry c }

/-- fit64(entry + q) (R49, R232). -/
def TileSt.accInt (t : TileSt) (entry : Nat) (q : Int) : TileSt :=
  let (c, f) := fitInt t.amode true 64 (toSigned 64 (t.acc.getD entry 0) + q)
  { t.flag f with acc := t.acc.set entry c }

/-- An accumulating lane op on a DATA firing: one k-step into row 0 (R226, R228, R231 to R233). -/
def TileSt.laneAccumulate (c : TileCfg) (t : TileSt) (w : StageWord) (mask : Nat) (a b : Token) : TileSt :=
  let t0 := if t.k % groupLen c t = 0 then t.applyPending else t
  let on := (unitLanes w.fmt).filter (unitOn w.fmt mask)
  let t1 := on.foldl (fun (t : TileSt) l =>
    let e := if w.fmt = 1 then l / 2 else l
    let x := a.unit w.fmt l
    let y := b.unit w.fmt l
    match w.op with
    | 0x08 =>
      let v (z : Nat) : Int := if w.fmt = 0xB then toSigned 32 z else (z : Int)
      t.accInt e (v x + v y)
    | 0x0B => t.accInt e (t.intProduct x y)
    | op =>
      let (v, f) := if op = 0x20 then FV.add t.rnd (fmtValue w.fmt x) (fmtValue w.fmt y)
        else FV.mul (fmtValue w.fmt x) (fmtValue w.fmt y)
      (t.flag f).accAdd c.accKind e l v) t0
  { t1.drawMask (unitMask w.fmt on) with k := t.k + 1 }

/-- An empty window (R47). -/
def Win.empty : Win := { any := false, sum := 0, allNeg := true, allPos := true, nan := false, inv := false, pinf := false, ninf := false }

/-- A product joins a window (R47). -/
def Win.add (w : Win) (p : FV) : Win :=
  match p with
  | .nan _ _ => { w with any := true, nan := true, allNeg := false, allPos := false }
  | .inf n => { w with any := true, pinf := w.pinf || !n, ninf := w.ninf || n, allNeg := false, allPos := false }
  | .fin n m e =>
    let v : Int := (m * 2 ^ (e + 40).toNat : Nat)
    { w with any := true, sum := w.sum + (if n then -v else v), allNeg := w.allNeg && m == 0 && n,
             allPos := w.allPos && m == 0 && !n }

/-- The value of a closed group under scale codes, and its flags (R47). -/
def Win.value (w : Win) (rm sa sb : Nat) : FV × FFlags :=
  if sa = 0xFF ∨ sb = 0xFF then (FV.qnan, fINV)
  else if w.pinf ∧ w.ninf then (FV.qnan, fINV)
  else if w.nan then (FV.qnan, 0)
  else if w.pinf then (.inf false, 0)
  else if w.ninf then (.inf true, 0)
  else if w.sum = 0 then (.fin (w.allNeg || (!w.allPos && rm == 2)) 0 0, 0)
  else (FV.ofInt w.sum ((sa : Int) + sb - 254 - 40), 0)

/-- The scale code of a row or column in the group of the last k-step: byte 16·g + i of a scale stream, of which the block
with that byte is held; without groups every code counts as 0x7F (R37, R243). -/
def TileSt.scaleCode (c : TileCfg) (t : TileSt) (held : List Nat) (i : Nat) : Nat :=
  if t.grp = 0 then 0x7F else held.getD (16 * ((t.k - 1) / groupLen c t % 4) + i) 0x7F

/-- The window of every entry is rounded into the accumulator at the end of a group (R47, R228); an entry without a product
keeps its value and draws nothing. -/
def TileSt.closeGroup (c : TileCfg) (t : TileSt) : TileSt :=
  let t1 := (upto 256).foldl (fun (t : TileSt) e =>
    let w := t.win.getD e Win.empty
    if w.any then
      let (v, f) := w.value t.rnd (t.scaleCode c t.scaleA (e / 16)) (t.scaleCode c t.scaleB (e % 16))
      ((t.flag f).accAdd 2 e (e % 16) v).draw (e % 16)
    else t) t
  { t1 with win := List.replicate 256 Win.empty }

/-- An operand of pln.mma in a firing: its bits, and the lanes that are active; none for a scratch operand (R243). -/
structure MmaOp where
  fmt : Nat
  b : Bool
  bits : Nat
  mask : Option Nat

/-- Element n of an operand as raw bits. -/
def MmaOp.raw (o : MmaOp) (t : TileSt) (n : Nat) : Nat :=
  let w := storedWidth t.prec o.b o.fmt
  o.bits / 2 ^ (w * n) % 2 ^ w

/-- Element n of an operand as a value (R30, R33). -/
def MmaOp.value (o : MmaOp) (t : TileSt) (n : Nat) : FV :=
  if o.fmt = 0xA then bookValue t.book (o.raw t n) else fmtValue o.fmt (o.raw t n)

/-- Element n is present (R243). -/
def MmaOp.present (o : MmaOp) (t : TileSt) (n : Nat) : Bool :=
  match o.mask with
  | none => true
  | some m =>
    let w := storedWidth t.prec o.b o.fmt
    let lo := w * n / 32
    let hi := (w * (n + 1) - 1) / 32
    (upto (hi - lo + 1)).all (fun i => decide (lo + i < 16) && m.testBit (lo + i))

/-- One product of pln.mma (R47 to R49, R243). -/
def TileSt.product (c : TileCfg) (a b : MmaOp) (j i col : Nat) (t : TileSt) : TileSt :=
  let na := 16 * j + i
  let nb := 16 * j + col
  let e := 16 * i + col
  if !(a.present t na && b.present t nb) then t
  else if intFmt a.fmt then
    t.accInt e (t.align (precOperand t.prec false (a.raw t na) * precOperand t.prec true (b.raw t nb)))
  else if c.narrowPath then
    let (p, f) := FV.mul (a.value t na) (b.value t nb)
    { t.flag f with win := t.win.set e ((t.win.getD e Win.empty).add p) }
  else
    let (p, f) := FV.mul (a.value t na) (b.value t nb)
    ((t.flag f).accAdd c.accKind e col p).draw col

/-- One k-step: products in ascending row, then column (R243). -/
def TileSt.kStep (c : TileCfg) (a b : MmaOp) (j : Nat) (t : TileSt) : TileSt :=
  let t1 := (upto 256).foldl (fun (t : TileSt) n => t.product c a b j (n / 16) (n % 16)) t
  let t2 : TileSt := { t1 with k := t1.k + 1 }
  if c.narrowPath ∧ t2.k % groupLen c t2 = 0 then t2.closeGroup c else t2

/-- An operand of a firing of pln.mma: the token's bytes, or the next blocks of its stream (R227, R243). -/
def mmaOperand (c : TileCfg) (w : StageWord) (b : Bool) (k : Option Token) (t : TileSt) (v : FireEnv) :
    MmaOp × TileSt × FireEnv :=
  let fmt := if b then w.imm % 16 else w.fmt
  match k with
  | some k => ({ fmt := fmt, b := b, bits := ofLe k.payload, mask := some k.mask }, t, v)
  | none =>
    let n := ceilDiv (16 * (w.imm / 16 + 1) * storedWidth t.prec b fmt) 512
    let (bs, t1, v1) := TileSt.streamBlocks c (if b then 63 else 62) n t v
    ({ fmt := fmt, b := b, bits := ofLe bs, mask := none }, t1, v1)

/-- Block n of a scale stream, unless it is the one that the tile holds (R227, R243): its bytes. -/
def TileSt.scaleBlock (c : TileCfg) (t : TileSt) (entry n : Nat) (v : FireEnv) : Option (List Nat) × TileSt × FireEnv :=
  if t.ptr entry = n + 1 then (none, t, v)
  else
    let (bs, u, x) := TileSt.streamBlocks c entry 1 { t with ptrs := assocSet t.ptrs entry n } v
    (some (bs.map BitVec.toNat), u, x)

/-- The block of each scale stream that holds the codes of the group of the next k-step (R243): group g := k div G has bytes
16·g to 16·g + 15, and a block those of four groups. -/
def TileSt.readScales (c : TileCfg) (t : TileSt) (v : FireEnv) : TileSt × FireEnv :=
  if c.narrowPath ∧ t.grp ≠ 0 then
    let n := t.k / groupLen c t / 4
    let (a, t1, v1) := t.scaleBlock c 60 n v
    let (b, t2, v2) := t1.scaleBlock c 61 n v1
    ({ t2 with scaleA := a.getD t2.scaleA, scaleB := b.getD t2.scaleB }, v2)
  else (t, v)

/-- pln.mma on a DATA firing (R243). -/
def mmaFire (c : TileCfg) (w : StageWord) (ka kb : Option Token) (t : TileSt) (v : FireEnv) : TileSt × FireEnv :=
  let t0 := if t.k % groupLen c t = 0 then t.applyPending else t
  let (t1, v1) := t0.readScales c v
  let (a, t2, v2) := mmaOperand c w false ka t1 v1
  let (b, t3, v3) := mmaOperand c w true kb t2 v2
  ((upto (w.imm / 16 + 1)).foldl (fun (t : TileSt) j => t.kStep c a b j) t3, v3)

/-- Rows that a drain takes (R222). -/
def TileCfg.drainRows (c : TileCfg) : Nat :=
  match c.drainStage with
  | none => 0
  | some i => if c.laneMode then 1 else if (c.stage i).fmt = 1 then 32 else 16

/-- The end of a reduction (R229 steps 2 to 5), and whether a latched CKPT takes the place of the EOR (R230). A closing EOR of
the drain before stays pending. -/
def TileSt.endReduction (c : TileCfg) (t : TileSt) : TileSt × Option Token :=
  let t0 := if c.narrowPath ∧ t.k % groupLen c t ≠ 0 then t.closeGroup c else t
  let out := if c.drainStage = none then t0.latch else none
  ({ t0 with
      bank := t0.acc, acc := List.replicate 256 0, drainAt := 0, drainLen := c.drainRows, k := 0,
      ptrs := [], scaleA := [], scaleB := [], latch := if c.drainStage = none then none else t0.latch,
      latchAt := if t0.latchAt = 0 then (if t0.closing then 3 else 1) else t0.latchAt }.applyPending, out)

/-- A drained entry converted (R244). -/
def TileSt.drainOne (t : TileSt) (kind fmt lane code : Nat) : Nat × FFlags :=
  let dsh := t.pf 44 6
  if kind = 0xB ∧ intFmt fmt then
    let (lo, hi) := intBounds (fmt == 0xB) 32
    let x := rneShift (toSigned 64 code) dsh
    let y := max lo (min hi x)
    (ofSigned 32 y, if y = x then 0 else fINV)
  else
    let v := accValue kind t.frac code
    if intFmt fmt then (let (z, f) := storeInt (fmt == 0xB) 32 dsh t.rnd (t.gen lane) v; (ofSigned 32 z, f))
    else fmtStore fmt t.rnd (t.gen lane) v

/-- The next row of the drain bank (R244). -/
def TileSt.drainRow (c : TileCfg) (t : TileSt) (fmt : Nat) : TileSt × Token :=
  let n := t.drainAt
  let base := if fmt = 1 ∧ c.laneMode = false then 16 * (n / 2) + 8 * (n % 2) else 16 * n
  let (t1, k) := t.eachUnit fmt 0xFFFF (fun l =>
    t.drainOne c.accKind fmt l (t.bank.getD (base + (if fmt = 1 then l / 2 else l)) 0))
  ({ t1 with drainAt := n + 1, closing := t1.closing || decide (n + 1 = t.drainLen) }, k)

/-- acc.drain (R230, R244): the pacing token, then the order of preference. -/
def TileSt.drain (c : TileCfg) (t : TileSt) (fmt : Nat) (pace : Token) : TileSt × Token :=
  let busy := t.closing || decide (t.drainAt < t.drainLen)
  let due := t.latch.isSome && t.latchAt == 2
  let mark := pace.tag ≠ 0 ∧ pace.tag ≠ 2
  if due then
    ({ t with latch := if mark then some pace else none, latchAt := if mark then (if busy then 1 else 2) else 0 },
      t.latch.getD emptyToken)
  else if mark ∧ busy = false then (t, pace)
  else
    let t1 : TileSt := if mark then { t with latch := some pace, latchAt := 1 } else t
    if t1.closing then ({ t1 with closing := false, latchAt := if t1.latchAt = 1 then 2 else if t1.latchAt = 3 then 1 else t1.latchAt }, marker 2)
    else if t1.drainAt < t1.drainLen then t1.drainRow c fmt
    else (t1, emptyToken)

/-! ### One firing (R213, R214) -/

/-- Rank of a tag (R212). -/
def tagRank (tag : Nat) : Nat :=
  match tag with
  | 0 => 7 | 1 => 3 | 2 => 5 | 3 => 1 | 4 => 2 | 5 => 0 | _ => 4

/-- The highest-ranked of tokens, the first among equals (R213). -/
def bestToken : List Token → Token → Token
  | [], k => k
  | x :: xs, k => bestToken xs (if tagRank x.tag < tagRank k.tag then x else k)

/-- The token of the lower stage that paces an op without token sources (R213). -/
def TileSt.pacing (c : TileCfg) (t : TileSt) (i : Nat) : Token :=
  match c.lower i with
  | none => dataToken (List.replicate 16 0)
  | some j => (assoc t.res j).getD emptyToken

/-- The size in bytes of an element of lds and sts (R239). -/
def ldsBytes (t : TileSt) (fmt : Nat) : Nat :=
  if intFmt fmt then precWidth t.prec false / 8
  else match fmt with
    | 0 => 4 | 1 => 8 | 2 => 4 | 3 => 2 | 4 => 2 | _ => 1

/-- The address of a lane of lds or sts (R239). -/
def ldsAddr (n lane : Nat) : Nat := lane % 2 ^ 18 / n * n

/-- lds (R239). -/
def FireEnv.lds (v : FireEnv) (c : TileCfg) (t : TileSt) (fmt mask : Nat) (a : Token) : FireEnv × TileSt × Token :=
  let n := ldsBytes t fmt
  let sp := Space.tile (v.r.scratchKey c.pos c.psn)
  let on := (unitLanes fmt).filter (unitOn fmt mask)
  let v1 := match on.find? (fun l => v.s.badAt sp (ldsAddr n (a.lane l)) n) with
    | some l => { v with bad := some (sp, ldsAddr n (a.lane l)) }
    | none => v
  let (t1, k) := t.eachUnit fmt mask (fun l =>
    let x := v.s.readNat sp (ldsAddr n (a.lane l)) n
    (if fmt = 0xB then ofSigned 32 (toSigned (8 * n) x) else x, 0))
  (v1, t1, k)

/-- sts (R239): the lanes are written in ascending order. -/
def FireEnv.sts (v : FireEnv) (c : TileCfg) (t : TileSt) (fmt mask : Nat) (a b : Token) : FireEnv :=
  let n := ldsBytes t fmt
  let sp := Space.tile (v.r.scratchKey c.pos c.psn)
  ((unitLanes fmt).filter (unitOn fmt mask)).foldl (fun v l =>
    let x := ldsAddr n (a.lane l)
    if v.s.badPartial sp x n true then { v with bad := some (sp, x) }
    else { v with s := v.s.put sp x (leBytes n (b.unit fmt l)) }) v

/-- emit on a DATA firing (R240). -/
def TileSt.emit (t : TileSt) (i imm : Nat) (a : Token) : TileSt × Token :=
  let n := t.emits.getD i 0 + 1
  if n = imm / 8 + 1 then ({ t with emits := t.emits.set i 0 }, { a with tag := imm % 8 })
  else ({ t with emits := t.emits.set i n }, a)

/-- The accumulator entry of a value, as source C of vmac or vfma reads it (R232, R233; log entry 22 for another kind). -/
def TileSt.accEntry (t : TileSt) (fmt l : Nat) : Nat := t.acc.getD (if fmt = 1 then l / 2 else l) 0

/-- A DATA firing of an op that reads and writes the tile alone (R213 step 3). -/
def laneOp (c : TileCfg) (t : TileSt) (w : StageWord) (i mask : Nat) (a b x : Token) : TileSt × Token :=
  let fmt := w.fmt
  match w.op with
  | 0x01 => t.result a
  | 0x02 => t.result (maskedToken a.lanes (a.mask &&& b.guards))
  | 0x03 => (let (t1, k) := t.emit i w.imm a; t1.result k)
  | 0x04 => t.result (tagsel w.imm a b)
  | 0x0A => t.eachUnit fmt mask (fun l => fitInt t.amode (fmt == 0xB) 32 (t.intProduct (a.lane l) (b.lane l)))
  | 0x0B => t.eachUnit fmt mask (fun l =>
      let e := t.acc.getD l 0
      let z : Int :=
        if w.sc = 7 then
          (if c.accKind = 0xB then toSigned 64 e else toSigned 64 (Config.mixedAcc (BitVec.ofNat 64 e)).toNat)
        else (if fmt = 0xB then toSigned 32 (x.lane l) else (x.lane l : Int)) * ((2 ^ t.frac : Nat) : Int)
      fitInt t.amode (fmt == 0xB) 32 (t.intProduct (a.lane l) (b.lane l) + z))
  | 0x18 => t.result (vsel a b x)
  | 0x26 => t.eachUnit fmt mask (fun l => floatCompare w.imm (fmtValue fmt (a.unit fmt l)) (fmtValue fmt (b.unit fmt l)))
  | 0x27 => t.vfcvt fmt w.imm a mask
  | 0x30 => t.result (vlut c t fmt w.imm a)
  | 0x31 => t.result (vshuf c w.imm a)
  | 0x32 => t.result (vbcast fmt w.imm a)
  | 0x33 => t.vred fmt w.imm a mask
  | 0x34 => t.vscan fmt w.imm a mask
  | 0x35 => t.vpack fmt w.imm a b
  | 0x36 => t.vunpack fmt w.imm a
  | 0x37 => t.result (vtrn w.imm a b)
  | 0x3A => t.result (c.cpToken w.imm)
  | 0x3B => (t.vprec c w.imm a).result a
  | 0x42 => ({ t with acc := List.replicate 256 0, k := 0, win := List.replicate 256 Win.empty }, emptyToken)
  | op =>
    if op = 0 then (t, emptyToken)
    else if (0x08 ≤ op ∧ op ≤ 0x17) ∨ (0x19 ≤ op ∧ op ≤ 0x1B) then
      t.eachUnit fmt mask (fun l => intLane op fmt w.imm t.amode (a.lane l % 2 ^ 32) (b.lane l % 2 ^ 32))
    else
      t.eachUnit fmt mask (fun l =>
        let z : FV :=
          if w.sc = 7 ∧ op = 0x23 then
            (if c.accKind = 0xB then f32.decode (Config.mixedAcc (BitVec.ofNat 64 (t.accEntry fmt l))).toNat
             else fmtValue c.accKind (t.accEntry fmt l))
          else fmtValue fmt (x.unit fmt l)
        let (v, f) := floatLane op t.rnd (fmtValue fmt (a.unit fmt l)) (fmtValue fmt (b.unit fmt l)) z
        let (y, g) := fmtStore fmt t.rnd (t.gen l) v
        (y, f ||| g))

/-- One firing of a stage, from the tokens of its sources (none for a source that is no token source): the tile after it,
the environment, and the result (R213, R214, R226 to R245). -/
def fireStage (c : TileCfg) (t0 : TileSt) (i : Nat) (toks : List (Option Token)) (v : FireEnv) :
    TileSt × FireEnv × Token :=
  let w := c.stage i
  let t := if c.accStage = none ∧ c.enabled.head? = some i then t0.applyPending else t0
  let src := toks.filterMap id
  let pace := t.pacing c i
  let best := match src with | [] => pace | k :: ks => bestToken ks k
  let own (n : Nat) : Option Token := (toks.getD n none)
  let data (n : Nat) : Token × FireEnv :=
    match own n with
    | some k => (k, v)
    | none =>
      match w.sels.getD n 7 with
      | 5 => (let (bs, v1) := v.block v.s c.pos c.psn (c.psnBlock t i); (dataToken (lanesOf bs), v1))
      | 6 => (c.cpToken w.imm, v)
      | _ => (dataToken (List.replicate 16 0), v)
  if w.op = 0x41 then
    let (t1, k) := t.drain c w.fmt best
    if w.dst = 5 ∧ (best.tag = 0 ∨ (k.tag = 0 ∧ k.mask ≠ 0)) then
      (t1.stepPtr w i, v.storeBlock c (c.psnBlock t i) k, k)
    else (t1, v, k)
  else if c.accStage = some i then
    if best.tag = 2 then
      let (t1, k) := t.endReduction c
      (t1, v, k.getD (marker 2))
    else if best.tag = 4 ∧ t.k ≠ 0 then ({ t with latch := some best, latchAt := 0 }, v, emptyToken)
    else if best.tag ≠ 0 then (t, v, best)
    else if w.op = 0x40 then
      let (t1, v1) := mmaFire c w (own 0) (own 1) t v
      (t1, v1, emptyToken)
    else
      let mask := src.foldl (fun m k => m &&& k.mask) 0xFFFF
      let (a, v1) := data 0
      let (b, _) := data 1
      ((t.laneAccumulate c w mask a b).stepPtr w i, { v with bad := if v1.bad.isSome then v1.bad else (data 1).2.bad }, emptyToken)
  else if best.tag ≠ 0 then
    match w.op with
    | 0x01 => (t, v, (own 0).getD best)
    | 0x04 => (t, v, tagsel w.imm (data 0).1 (data 1).1)
    | _ => (t, v, best)
  else
    let mask := src.foldl (fun m k => m &&& k.mask) 0xFFFF
    let (a, va) := data 0
    let (b, vb) := data 1
    let (x, vx) := data 2
    let v1 := if va.bad.isSome then va else if vb.bad.isSome then vb else if vx.bad.isSome then vx else v
    if w.op = 0x38 then
      let (v2, t1, k) := v1.lds c t w.fmt mask a
      (t1, v2, k)
    else if w.op = 0x39 then
      let k := maskedToken ((upto 16).map (fun l => (Config.openLane [v.r.img.seed.toNat, c.pos, i, t.fired.getD i 0, l]).toNat)) mask
      (t.drawMask mask, v1.sts c t w.fmt mask a b, k)
    else
      let (t1, k) := laneOp c t w i mask a b x
      (t1.stepPtr w i, if w.dst = 5 then v1.storeBlock c (c.psnBlock t i) k else v1, k)

/-- An accumulator or marker-latch wait (R229 step 1, R230): the firing cannot take place. The flag says that it waits for what acc.drain
has to give up: rows, their closing EOR or the latched marker. -/
def fireHeld (c : TileCfg) (t : TileSt) (i : Nat) (toks : List (Option Token)) : Bool × Bool :=
  let src := toks.filterMap id
  let best := match src with | [] => t.pacing c i | k :: ks => bestToken ks k
  let rows := decide (t.drainAt < t.drainLen)
  let gives := rows || t.closing || (t.latch.isSome && t.latchAt == 2)
  let held :=
    if c.accStage = some i then (best.tag == 2 && rows) || (best.tag == 4 && t.k != 0 && t.latch.isSome)
    else (c.stage i).op == 0x41 && best.tag != 0 && best.tag != 2 && (rows || t.closing) && t.latch.isSome && t.latchAt != 2
  (held, held && gives)

end Sys2Proof.Machine
end

