-- ==== Sys2Proof/Machine/Regions.lean ====
section
/-! DEFINITION. A region's schedule: its circuits, the firings of a schedule clk, the region-wide stall, and REGION_STEP
(R214 to R217, R229, R248 to R251, R255). -/

namespace Sys2Proof.Machine

/-! ### Circuits (R248 to R251, R255) -/

/-- The in-bound end at a tile's port, or at a node's input, by its index. -/
def Region.endAt (r : Region) (node : Bool) (pos port : Nat) : Option Nat :=
  r.ends.findIdx? (fun e => e.node == node && e.pos == pos && e.port == port)

/-- A circuit's every end lies on a tile. -/
def Region.isTimed (r : Region) (circ : Nat) : Bool := r.ends.any (fun e => e.circ == circ && e.timed)

/-- A node circuit has room at every in-bound end (R251). -/
def Region.hasRoom (r : Region) (circ : Nat) : Bool := r.ends.all (fun e => e.circ != circ || e.ring.room)

/-- A token is placed at every in-bound end of a circuit (R251, R255); a timed circuit's end takes it as it comes. In a gated clk no tile
takes one from a rendezvous (R168, R251). -/
def State.endsPut (s : State) (ctx circ : Nat) (k : Token) : List End → Except Trap (Option (State × List End))
  | [] => .ok (some (s, []))
  | e :: es =>
    let rest (s : State) (e1 : End) : Except Trap (Option (State × List End)) :=
      match State.endsPut s ctx circ k es with
      | .error x => .error x
      | .ok none => .ok none
      | .ok (some (s1, l)) => .ok (some (s1, e1 :: l))
    if e.circ ≠ circ then rest s e
    else if e.timed then rest s { e with ring := { e.ring with q := e.ring.q ++ [k] } }
    else if s.gated = true ∧ e.node = false ∧ e.ring.rendezvous = true then .ok none
    else match s.ringPut ctx e.ring k with
      | .error x => .error x
      | .ok none => .ok none
      | .ok (some (s1, ring)) => rest s1 { e with ring := ring }

/-- A token is sent on a circuit of a region; none where an end has no room. -/
def State.sendOn (s : State) (r : Region) (circ : Nat) (k : Token) : Except Trap (Option (State × Region)) :=
  match s.endsPut r.ctx circ k r.ends with
  | .error x => .error x
  | .ok none => .ok none
  | .ok (some (s1, es)) => .ok (some (s1, { r with ends := es }))

/-- The oldest token of an end is taken (R255). -/
def State.takeEnd (s : State) (r : Region) (i : Nat) : Except Trap (Option (Token × Region)) :=
  match r.ends[i]? with
  | none => .ok none
  | some e =>
    match s.ringTake r.ctx e.ring with
    | .error x => .error x
    | .ok none => .ok none
    | .ok (some (k, ring)) => .ok (some (k, { r with ends := r.ends.set i { e with ring := ring } }))

/-- Tokens that an end can deliver in one clk. -/
def End.avail (e : End) : Nat := e.ring.q.length + (if e.ring.slots = 0 then e.ring.ccount else 0)

/-! ### The firings of a schedule clk (R215, R216) -/

/-- A firing: tile by its index, stage, and the schedule clk at which its iteration began. -/
structure Firing where
  tile : Nat
  stage : Nat
  start : Nat
  deriving DecidableEq, Repr

/-- A tile that holds nothing. -/
def TileCfg.idle : TileCfg :=
  { pos := 0, ii := 1, sen := 0, psn := 0, phases := [], stages := [], sw := [], prec := 0, book := [], pool := [] }

/-- A lane generator's state at a load (R42). -/
def seedLane (seed : BitVec 32) (l : Nat) : BitVec 32 :=
  let g := seed ^^^ (BitVec.ofNat 32 l * 0x9E3779B9#32)
  if g = 0 then 1 else g

/-- A tile as a configuration load leaves it (R42, R207). -/
def TileCfg.load (c : TileCfg) (seed : BitVec 32) : TileSt :=
  { prec := c.prec, pendPrec := none, book := c.book, pendBook := none, flg := 0, gens := (upto 16).map (seedLane seed),
    acc := List.replicate 256 0, bank := List.replicate 256 0, k := 0, drainAt := 0, drainLen := 0, closing := false,
    ptrs := [], scaleA := [], scaleB := [], emits := List.replicate 6 0, latch := none, latchAt := 0,
    win := List.replicate 256 Win.empty, fired := List.replicate 6 0, dead := [], res := [] }

/-- The record of a tile. -/
def Region.cfg (r : Region) (i : Nat) : TileCfg := r.img.tiles.getD i TileCfg.idle

/-- The state of a tile. -/
def Region.tile (r : Region) (i : Nat) : TileSt := r.tiles.getD i (TileCfg.idle.load 0)

/-- The firings that fall in a schedule clk and have not taken place: tiles in the order in which their scratch port is
served (R166), then ascending; in a tile the highest stage first, so that it reads the lower result before that changes. -/
def Region.due (r : Region) (sclk : Nat) : List Firing :=
  (upto 4).flatMap (fun ph => (upto r.img.tiles.length).flatMap (fun i =>
    let c := r.cfg i
    let t := r.tile i
    if portPhase c.psn ≠ ph then []
    else (c.offs.reverse.filter (fun p => decide (p.2 ≤ sclk ∧ (sclk - p.2) % c.ii = 0 ∧
        t.fired.getD p.1 0 = (sclk - p.2) / c.ii))).map (fun p => { tile := i, stage := p.1, start := sclk - p.2 })))

/-- A clk as it is tried: the state and region after the firings so far, the region before them, the tokens taken of each
end, the states at the start of each port's turn, the circuits of nodes that are not ready, the iterations that cannot go on, the tiles where
a marker waits for the drain, and what stopped it: an uncorrectable error in a tile, or a fault of a cistern with its circuit. -/
structure Try where
  s : State
  r : Region
  r0 : Region
  took : List Nat
  snaps : List State
  stuck : List Nat
  late : List Nat
  wait : List Nat
  bad : Option (Nat × Space × Nat)
  err : Option (Nat × Trap)

/-- The token of a port source of a stage (R213, R216 condition 1, R250): of a timed circuit the token of its iteration,
of a node circuit the oldest one that was there when the clk began. -/
def Try.port (x : Try) (f : Firing) (p : Nat) : Try × Option Token :=
  let c := x.r.cfg f.tile
  match x.r.endAt false c.pos p with
  | none => (x, none)
  | some i =>
    match x.r.ends[i]?, x.r0.ends[i]? with
    | some e, some e0 =>
      if e.timed then
        (x, some (e.ring.q.getD ((x.r.tile f.tile).fired.getD f.stage 0 - e.ring.chead) emptyToken))
      else if e0.avail ≤ x.took.count i then ({ x with late := f.start :: x.late }, none)
      else match x.s.takeEnd x.r i with
        | .error y => ({ x with err := some (e.circ, y) }, none)
        | .ok none => ({ x with late := f.start :: x.late }, none)
        | .ok (some (k, r)) => ({ x with r := r, took := i :: x.took }, some k)
    | _, _ => (x, none)

/-- The tokens of a stage's used sources (R213): none for scratch, constants and the accumulator. -/
def Try.gather (x : Try) (f : Firing) (dead : Bool) : List Nat → Try × List (Option Token)
  | [] => (x, [])
  | sel :: sels =>
    let c := x.r.cfg f.tile
    let (x1, k) : Try × Option Token :=
      if dead then (x, none)
      else if sel = 0 then
        (x, some (match c.lower f.stage with
          | some j => (assoc (x.r.tile f.tile).res j).getD emptyToken
          | none => emptyToken))
      else if 1 ≤ sel ∧ sel ≤ 4 then x.port f sel
      else (x, none)
    let (x2, ks) := Try.gather x1 f dead sels
    (x2, k :: ks)

/-- A result leaves through a port (R214, R216 condition 2): an empty token is sent only on a timed circuit. -/
def Try.send (x : Try) (f : Firing) (p : Nat) (k : Token) : Try :=
  match (x.r.cfg f.tile).outCirc p with
  | none => x
  | some circ =>
    if k.isEmpty ∧ x.r.isTimed circ = false then x
    else if x.r.isTimed circ = false ∧ x.r0.hasRoom circ = false then { x with late := f.start :: x.late }
    else match x.s.sendOn x.r circ k with
      | .error y => { x with err := some (circ, y) }
      | .ok none => { x with late := f.start :: x.late }
      | .ok (some (s, r)) => { x with s := s, r := r }

/-- A clk before anything has fired. -/
def Try.start (s : State) (r : Region) (stuck : List Nat) : Try :=
  { s := s, r := r, r0 := r, took := [], snaps := [], stuck := stuck, late := [], wait := [], bad := none, err := none }

/-- A firing reads from or sends to a node that is not ready (R216 condition 3). -/
def Try.meets (x : Try) (f : Firing) : Bool :=
  let c := x.r.cfg f.tile
  let w := c.stage f.stage
  let circOf (p : Nat) : Option Nat := (x.r.endAt false c.pos p).bind (fun i => x.r.ends[i]?.map End.circ)
  x.stuck != [] && (w.sels.any (fun p => decide (1 ≤ p ∧ p ≤ 4) && (match circOf p with | some k => x.stuck.contains k | none => false)) ||
    (decide (1 ≤ w.dst ∧ w.dst ≤ 4) && (match c.outCirc w.dst with | some k => x.stuck.contains k | none => false)))

/-- One firing is tried. A stage that has passed DRAIN takes nothing, and sends only what a timed circuit must carry
(R250, R260 step 3). -/
def Try.fire (snaps : List State) (x : Try) (f : Firing) : Try :=
  let c := x.r.cfg f.tile
  let w := c.stage f.stage
  let t := x.r.tile f.tile
  let dead := t.dead.contains f.stage
  let n := x.late.length
  let (x1, toks) := if x.meets f then ({ x with late := f.start :: x.late }, []) else x.gather f dead w.sels
  if n < x1.late.length ∨ x1.err.isSome then x1
  else
    let t1 := x1.r.tile f.tile
    let (held, rows) := if dead then (false, false) else fireHeld c t1 f.stage toks
    if held then
      { x1 with late := f.start :: x1.late, wait := if rows then f.tile :: x1.wait else x1.wait }
    else
      let v : FireEnv := { s := x1.s, snaps := snaps, r := x1.r, bad := none }
      let (t2, v2, k) : TileSt × FireEnv × Token := if dead then (t1, v, emptyToken) else fireStage c t1 f.stage toks v
      let t3 : TileSt :=
        { t2 with
          fired := t2.fired.set f.stage (t2.fired.getD f.stage 0 + 1),
          dead := if k.tag = 3 ∧ ¬ t2.dead.contains f.stage then f.stage :: t2.dead else t2.dead,
          res := assocSet t2.res f.stage (if w.dst = 7 then marker k.tag else k) }
      let x2 : Try := { x1 with s := v2.s, r := { x1.r with tiles := x1.r.tiles.set f.tile t3 },
                                bad := match x1.bad, v2.bad with
                                  | some b, _ => some b
                                  | none, some (sp, a) => some (f.tile, sp, a)
                                  | none, none => none }
      if 1 ≤ w.dst ∧ w.dst ≤ 4 then x2.send f w.dst k else x2

/-- Firings are tried in their order; the states in which each port of R166 is served are kept. -/
def tryAll (s : State) (r : Region) (stuck : List Nat) (snaps : List State) (fs : List Firing) : Try :=
  (upto 4).foldl (fun (x : Try) ph =>
    (fs.filter (fun f => portPhase (r.cfg f.tile).psn == ph)).foldl (Try.fire snaps) { x with snaps := x.snaps ++ [x.s] }) (Try.start s r stuck)

/-- A clk is tried. Where a tile holds a pln.mma, a first pass gives the states in which the ports of R166 are served, and
a second one reads its streams there. -/
def tryClk (s : State) (r : Region) (stuck : List Nat) (fs : List Firing) : Try :=
  let x := tryAll s r stuck [s, s, s, s] fs
  if x.late = [] ∧ fs.any (fun f => ((r.cfg f.tile).stage f.stage).op == 0x40) then tryAll s r stuck x.snaps fs else x

/-! ### The region-wide stall (R216) -/

/-- A stage at whose firing a pending PREC or codebook takes effect (R50, R242). -/
def TileCfg.applies (c : TileCfg) (i : Nat) : Bool :=
  (c.stage i).dst == 7 || (c.accStage == none && c.enabled.head? == some i)

/-- A firing may not take place before one that is held and that the schedule has before it: they share state that the order between them
decides, a port of one tile, its accumulator, its PREC or codebook where one pends or a held vprec writes one, its stream pointers, its draws
in mode SR, or a scratch tile. -/
def Region.shares (r : Region) (held : List Firing) (f g : Firing) : Bool :=
  let c := r.cfg f.tile
  let d := r.cfg g.tile
  let t := r.tile f.tile
  let w := c.stage f.stage
  let u := d.stage g.stage
  let ports (w : StageWord) : List Nat := w.sels.filter (fun x => decide (1 ≤ x ∧ x ≤ 4))
  let acc (w : StageWord) : Bool := w.dst == 7 || w.op == 0x41 || w.op == 0x42 || w.sels.contains 7
  let scr (w : StageWord) : Bool := w.dst == 5 || w.sels.contains 5 || w.op == 0x38 || w.op == 0x39
  -- a vprec, or a firing at which a pending write takes effect (R50)
  let sets (i : Nat) : Bool := (c.stage i).op == 0x3B || c.applies i
  let changing := t.pendPrec.isSome || t.pendBook.isSome || held.any (fun h => h.tile == f.tile && (c.stage h.stage).op == 0x3B)
  let draws (w : StageWord) : Bool := w.op != 0 && w.op != 0x3B && w.op != 0x42
  -- the end of a reduction returns the stream pointers to 0 (R229)
  let points (w : StageWord) : Bool := w.streams || w.op == 0x40
  (f.tile == g.tile && ((ports w).any (ports u).contains || (w.dst == u.dst && decide (1 ≤ w.dst ∧ w.dst ≤ 4)) ||
    (acc w && acc u) || (sets f.stage && sets g.stage) || (changing && c.applies g.stage) || (w.dst == 7 && points u) ||
    (points w && u.dst == 7) || (t.rnd == 5 && draws w && draws u))) ||
  (scr w && scr u)

/-- The firings of a schedule clk whose iterations are older than those that cannot go on take place, where no held firing
shares their state (log entry 24). The first argument bounds the retries. -/
def olderTry (s : State) (r : Region) (stuck : List Nat) (held : List Firing) : Nat → List Firing → Nat → Option Try × Nat
  | 0, _, limit => (none, limit)
  | n + 1, fs, limit =>
    let go := fs.filter (fun f => decide (f.start < limit))
    let stop := (go.filter (fun f => held.any (r.shares held f))).map Firing.start
    if go = [] then (none, limit)
    else if stop ≠ [] then olderTry s r stuck held n fs (stop.foldl Nat.min limit)
    else
      let x := tryClk s r stuck go
      if x.err.isSome ∨ x.bad.isSome then (some x, limit)
      else if x.late = [] then (some x, limit)
      else olderTry s r stuck held n fs (x.late.foldl Nat.min limit)

/-- The schedule clk from one on are searched for firings of older iterations. -/
def olderFrom (s : State) (r : Region) (stuck : List Nat) : Nat → List Firing → Nat → Nat → Option Try
  | 0, _, _, _ => none
  | n + 1, held, limit, sclk =>
    let fs := r.due sclk
    match olderTry s r stuck held (fs.length + 1) fs limit with
    | (some x, _) => some x
    | (none, limit1) => olderFrom s r stuck n (held ++ fs) limit1 (sclk + 1)

/-- The depth of the deepest tile. -/
def Region.depth (r : Region) : Nat := (r.img.tiles.map TileCfg.depth).foldl Nat.max 0

/-- A stage that takes a row beside the schedule: tile, stage, the port by which the row comes, 0 for the lower stage, and the row. -/
structure Ripple where
  tile : Nat
  stage : Nat
  port : Nat
  tok : Token

/-- The tokens of a stage that takes a row: the row where it comes, of another node circuit the oldest token, and of another timed circuit,
which has no iteration for it, the empty token (R250; log entry 24). -/
def Try.rowTokens (x : Try) (q : Ripple) : List Nat → Try × List (Option Token)
  | [] => (x, [])
  | sel :: sels =>
    let c := x.r.cfg q.tile
    let (x1, k) : Try × Option Token :=
      if sel = 0 then (x, some (if q.port = 0 then q.tok else emptyToken))
      else if 5 ≤ sel then (x, none)
      else if sel = q.port then (x, some q.tok)
      else match x.r.endAt false c.pos sel with
        | none => (x, none)
        | some i =>
          if (match x.r.ends[i]? with | some e => e.timed | none => true) then (x, some emptyToken)
          else match x.s.takeEnd x.r i with
            | .ok (some (k, r)) => ({ x with r := r }, some k)
            | _ => ({ x with late := 0 :: x.late }, none)
    let (x2, ks) := Try.rowTokens x1 q sels
    (x2, k :: ks)

/-- The stages that take what a stage makes of a row: the next stage of the tile, if it reads that, and the stages that read its timed
circuit. -/
def Region.rowNext (r : Region) (i j : Nat) (k : Token) : List Ripple :=
  let c := r.cfg i
  let w := c.stage j
  let above := (c.enabled.filter (fun h => decide (j < h))).take 1
  let own := above.filter (fun h => let u := (c.stage h).sels; u.contains 0 || !u.any (fun x => decide (x ≤ 4)))
  let far := match (if 1 ≤ w.dst ∧ w.dst ≤ 4 then c.outCirc w.dst else none) with
    | none => []
    | some circ => (r.ends.filter (fun e => e.circ == circ && e.timed)).flatMap (fun e =>
        (upto r.img.tiles.length).flatMap (fun n =>
          if (r.cfg n).pos ≠ e.pos then []
          else ((r.cfg n).enabled.filter (fun h => ((r.cfg n).stage h).sels.contains e.port)).map (fun h =>
            { tile := n, stage := h, port := e.port, tok := k })))
  own.map (fun h => { tile := i, stage := h, port := 0, tok := k }) ++ far

/-- A row passes the stages that take it, each once (log entry 24): each fires for it beside the schedule, which keeps its own results and
counts. The first argument bounds the stages. -/
def Try.ripple : Nat → List (Nat × Nat) → List Ripple → Try → Try
  | 0, _, _, x => x
  | _, _, [], x => x
  | n + 1, seen, q :: qs, x =>
    let c := x.r.cfg q.tile
    let w := c.stage q.stage
    let t0 := x.r.tile q.tile
    if x.late ≠ [] ∨ x.err.isSome = true then x
    else if seen.contains (q.tile, q.stage) ∨ t0.dead.contains q.stage = true then Try.ripple n seen qs x
    else
      let (x1, toks) := x.rowTokens q w.sels
      let t := x1.r.tile q.tile
      let t1 : TileSt := match (if q.port = 0 then c.lower q.stage else none) with
        | some j => { t with res := assocSet t.res j q.tok }
        | none => t
      if x1.late ≠ [] then x1
      else if (fireHeld c t1 q.stage toks).1 then { x1 with late := 0 :: x1.late }
      else
        let v : FireEnv := { s := x1.s, snaps := [x1.s, x1.s, x1.s, x1.s], r := x1.r, bad := none }
        let (t2, v2, k) := fireStage c t1 q.stage toks v
        let t3 : TileSt := { t2 with res := t.res, dead := if k.tag = 3 then q.stage :: t2.dead else t2.dead }
        let x2 : Try := { x1 with s := v2.s, r := { x1.r with tiles := x1.r.tiles.set q.tile t3 },
                                  bad := match x1.bad, v2.bad with
                                    | some b, _ => some b
                                    | none, some (sp, a) => some (q.tile, sp, a)
                                    | none, none => none }
        let timed := match c.outCirc w.dst with | some circ => x2.r.isTimed circ | none => false
        let x3 := if 1 ≤ w.dst ∧ w.dst ≤ 4 ∧ timed = false then x2.send { tile := q.tile, stage := q.stage, start := 0 } w.dst k else x2
        Try.ripple n ((q.tile, q.stage) :: seen) (qs ++ x3.r.rowNext q.tile q.stage (if w.dst = 7 then marker k.tag else k)) x3

/-- A row of a tile, the closing EOR behind its rows, or the marker in its latch leaves, while a marker waits there for it (R229 step 1,
R230; log entry 24); none where it cannot. -/
def takeRow (s : State) (r : Region) (stuck : List Nat) (i : Nat) : Option Try :=
  let t := r.tile i
  match (r.cfg i).drainStage with
  | none => none
  | some d =>
    if decide (t.drainAt < t.drainLen) || t.closing || (t.latch.isSome && t.latchAt == 2) then
      let x := Try.ripple (6 * r.img.tiles.length + 1) [] [{ tile := i, stage := d, port := 0, tok := emptyToken }] (Try.start s r stuck)
      if x.late = [] then some x else none
    else none

/-- Tokens of timed circuits that every consuming stage has read leave their slots (R250). -/
def Region.trim (r : Region) : Region :=
  let ends := r.ends.map (fun e =>
    if !e.timed then e
    else match (upto r.img.tiles.length).find? (fun i => (r.cfg i).pos == e.pos) with
      | none => e
      | some i =>
        let c := r.cfg i
        match (c.enabled.filter (fun j => (c.stage j).sels.contains e.port)).map (fun j => (r.tile i).fired.getD j 0) with
        | [] => e
        | n :: ns =>
          let m := ns.foldl Nat.min n
          { e with ring := { e.ring with q := e.ring.q.drop (m - e.ring.chead), chead := Nat.max m e.ring.chead } })
  { r with ends := ends }

/-! ### Faults of a region's units (R255, R277, R351) -/

/-- The node that stands for a circuit's cistern: one that the circuit touches (R255). -/
def Region.circNode (r : Region) (circ : Nat) : Nat :=
  match r.img.nodes.find? (fun c => c.in0 == some circ || c.in1 == some circ || c.out0 == some circ || c.out1 == some circ) with
  | some c => c.nid
  | none => 0

/-- An uncorrectable error in a tile ends the launch (R351). -/
def State.tileAbort (s : State) (r : Region) (pos : Nat) (tr : Trap) : State :=
  ((s.noteUe tr).appendLog r.ctx (faultRecord (r.recordAt 3 pos 0) tr true s.clk)).abortLaunch r.ticket

/-- An uncorrectable error in a fabric scratch tile ends the launch (R351). -/
def State.tileFault (s : State) (r : Region) (pos : Nat) (sp : Space) (a : Nat) : State :=
  s.tileAbort r pos { code := .eccUe, addr := BitVec.ofNat 64 a, detail := rowId sp.rowCode a, unit := sp.rowUnit a }

/-- The outcome of a tried clk. -/
def Try.commit (x : Try) (s : State) (advance : Bool) : State :=
  match x.err, x.bad with
  | some (circ, tr), _ => s.nodeFault x.r0.rinst (x.r0.circNode circ) tr 9
  | none, some (i, sp, a) => s.tileFault x.r0 (x.r0.cfg i).pos sp a
  | none, none =>
    x.s.setRegion { x.r.trim with
      sclk := if advance then x.r.sclk + 1 else x.r.sclk,
      nodes := x.r.nodes.map (fun n => if n.may 9 then n.stepped 9 else n) }

/-- An address lies in a ring's cistern (R255). -/
def Ring.holds (r : Ring) (a : Nat) : Bool := r.vbase != 0 && decide (r.vbase ≤ a ∧ a < r.vbase + r.size)

/-- A fault of a cistern of a region, or of a channel that one of its snk, src or inj nodes names, pauses the region until the registrar
retries (R255). -/
def State.cisternHeld (s : State) (r : Region) : Bool :=
  r.nodes.any (fun n => !n.retry && match n.fault with
    | none => false
    | some f => n.part == 8 || n.part == 9 || r.ends.any (fun e => e.ring.holds f.addr.toNat) ||
      ((match n.var with | .plain => true | .snk .. => true | _ => false) &&
        s.chans.any (fun c => c.ctx == r.ctx && c.ring.holds f.addr.toNat)))

/-- Slips of an esc node. -/
def NodeCfg.slips (c : NodeCfg) : Nat := c.field 40 2 + 1

/-- The oldest token in the slots of a node's input. -/
def Region.peek (r : Region) (c : NodeCfg) (port : Nat) : Option Token :=
  ((r.endAt true c.pos port).bind (fun i => r.ends[i]?)).bind (fun e => e.ring.q.head?)

/-- An esc node is not ready: the token that it takes next needs a slip whose previous use has not left (R267). -/
def Region.escStuck (r : Region) (c : NodeCfg) (n : NodeSt) : Bool :=
  match n.var with
  | .esc seq slips _ _ =>
    slips.any (fun y => y.idx == seq % c.slips) &&
      (match r.peek c 0 with
        | none => false
        | some k => k.tag != 0 || !c.g ||
          (match r.peek c 1 with | some g => g.tag == 0 && (g.guards != 0 || c.kfl.testBit 1) | none => false))
  | _ => false

/-- The circuits of esc nodes that are not ready (R216 condition 3, R267). -/
def Region.stuckCircs (r : Region) : List Nat :=
  r.img.nodes.flatMap (fun c =>
    match r.nodes.find? (fun n => n.nid == c.nid) with
    | some n => if r.escStuck c n then [c.in0, c.in1, c.out0, c.out1].filterMap id else []
    | none => [])

/-- What takes place in one clk of a region's schedule (R216), and whether the schedule clk passes: every firing of it; or in a
region-wide stall the firings of older iterations (log entry 24), or what acc.drain gives up for a marker that waits; none where nothing
can. -/
def State.regionMove (s : State) (r : Region) : Option (Try × Bool) :=
  let fs := r.due r.sclk
  let stuck := r.stuckCircs
  let x := tryClk s r stuck fs
  if x.err.isSome then some (x, false)
  else if x.late = [] then some (x, true)
  else
    let limit := x.late.foldl Nat.min r.sclk
    match olderFrom s r stuck r.depth [] limit r.sclk with
    | some y => some (y, false)
    | none => (x.wait.findSome? (takeRow s r stuck)).map (fun y => (y, false))

/-! ### Rendezvous (R251; log entry 21) -/

/-- The in-bound ends of a tile, or of the node at a position, where a rendezvous has no token and the consumer does not wait yet. -/
def Region.openEnds (r : Region) (at' : End → Bool) : List Nat :=
  (upto r.ends.length).filter (fun i => match r.ends[i]? with
    | some e => !e.timed && at' e && e.ring.rendezvous && !e.ring.want && e.ring.q.isEmpty
    | none => false)

/-- The region with a DATA token at some of its ends. -/
def Region.offered (r : Region) (on : List Nat) : Region :=
  on.foldl (fun r i => match r.ends[i]? with
    | some e => { r with ends := r.ends.set i { e with ring := { e.ring with q := [dataToken (List.replicate 16 0)] } } }
    | none => r) r

/-- The region with the consumer waiting at some of its ends. -/
def Region.waiting (r : Region) (on : List Nat) : Region :=
  on.foldl (fun r i => match r.ends[i]? with
    | some e => { r with ends := r.ends.set i { e with ring := { e.ring with want := true } } }
    | none => r) r

/-- A consumer that can do nothing waits at each open end where a token would let it go on; where only several together would, at
all of them. -/
def Region.awaits (r : Region) (open' : List Nat) (goes : Region → Bool) : Region :=
  match open'.filter (fun i => goes (r.offered [i])) with
  | [] => if 1 < open'.length ∧ goes (r.offered open') = true then r.waiting open' else r
  | on => r.waiting on

/-- One clk of a region's schedule (R216). -/
def State.regionClk (s : State) (r : Region) : State :=
  match s.regionMove r with
  | some (x, advance) => x.commit s advance
  | none =>
    match r.openEnds (fun e => !e.node) with
    | [] => s
    | l => s.setRegion (r.awaits l (fun r1 => (s.regionMove r1).isSome))

/-- REGION_STEP (R216, R217). In a gated clk no stage fires (R168). -/
def execRegionStep (rinst : Nat) (s : State) : Host.Outcome State Fault Refusal :=
  event (fun s =>
    match s.region? rinst with
    | none => s
    | some r =>
      if r.phase.stepping = false ∨ s.cisternHeld r = true ∨ s.dying.contains r.ticket = true ∨ s.gated = true then s
      else { s.regionClk r with free := s.free + 1 }) s

end Sys2Proof.Machine
end

