-- ==== Sys2Proof/Machine/Nodes.lean ====
section
/-! DEFINITION. The nodes of a region but for their memory: src, inj and snk, esc, accn, and the refill of a cistern (R246,
R255 to R260, R265 to R269). -/

namespace Sys2Proof.Machine

/-! ### One step of a node -/

/-- A step of one node of a bound region, numbered among the node's steps, unless it is paused (R277), its region is (R255), or its
launch is being aborted; none where the node has nothing that it can do. It then waits at its rendezvous (R251). -/
def State.nodeStep (s : State) (rinst nid : Nat) (kinds : List Nat) (part : Nat)
    (f : State → Region → NodeCfg → NodeSt → Option State) : State :=
  match s.region? rinst with
  | none => s
  | some r =>
    if r.phase.stepping = false ∨ s.dying.contains r.ticket = true then s
    else match r.img.nodes.find? (fun c => c.nid == nid), r.nodes.find? (fun n => n.nid == nid) with
      | some c, some n =>
        if kinds.contains c.kind = false ∨ n.may part = false ∨ (s.cisternHeld r = true ∧ n.fault.isNone = true) then s
        else match f s r c n with
          | some s1 => s1.setNode rinst nid (fun m => m.stepped part)
          | none =>
            match r.openEnds (fun e => e.node && e.pos == c.pos) with
            | [] => s
            | l => s.setRegion (r.awaits l (fun r1 => (f s r1 c n).isSome))
      | _, _ => s

/-- What became of a token that a node sends: no room, a fault of the cistern, or sent. -/
inductive Sent where
  | full
  | fault (s : State)
  | ok (s : State) (r : Region)

/-- A node sends a token on a binding, DATA with mask 0 like any other; on none it goes nowhere. -/
def State.nodeSend (s : State) (r : Region) (nid : Nat) (out : Option Nat) (k : Token) : Sent :=
  match out with
  | none => .ok s r
  | some circ =>
    match s.sendOn r circ k with
      | .error e => .fault ((s.setRegion r).nodeFault r.rinst nid e)
      | .ok none => .full
      | .ok (some (s1, r1)) => .ok s1 r1

/-- A node passes a token on that it has taken, from a region to one without the token: where the cistern of its output faults, it keeps
the token (R277). -/
def State.nodePass (s : State) (r0 r : Region) (nid : Nat) (out : Option Nat) (k : Token) : Sent :=
  match s.nodeSend r nid out k with
  | .fault _ => s.nodeSend r0 nid out k
  | x => x

/-- A binding has room for a token. -/
def Region.roomFor (r : Region) (out : Option Nat) : Bool :=
  match out with
  | none => true
  | some circ => r.hasRoom circ

/-- What a node finds at an input: nothing, a fault of the cistern, or a token. -/
inductive Got where
  | nothing
  | fault (s : State)
  | ok (k : Token) (r : Region)

/-- A node takes the oldest token of an input. -/
def State.nodeTake (s : State) (r : Region) (c : NodeCfg) (port : Nat) : Got :=
  match r.endAt true c.pos port with
  | none => .nothing
  | some i =>
    match s.takeEnd r i with
    | .error e => .fault (s.nodeFault r.rinst c.nid e)
    | .ok none => .nothing
    | .ok (some (k, r1)) => .ok k r1

/-- A marker at a node's second input is consumed and discarded, whatever the node waits for (R283, R284, R268). -/
def State.stray (s : State) (r : Region) (c : NodeCfg) : Option Region :=
  match s.nodeTake r c 1 with
  | .ok k r1 => if k.tag = 0 then none else some r1
  | _ => none

/-- A marker has passed a node: after DRAIN it takes no further token (R260 step 3), and where it ends there it is noted. -/
def NodeSt.pass (n : NodeSt) (ends : Bool) (tag : Nat) : NodeSt :=
  { n with closed := n.closed || tag == 3, ended := if ends ∧ (tag = 3 ∨ tag = 4) then some tag else n.ended }

/-! ### src, inj and snk (R257 to R260) -/

/-- The next token of a launch in its queue's ingress port (R325): the first one there that belongs to the launch. -/
def Queue.takeFor (q : Queue) (ticket : Nat) : Option (Token × Queue) :=
  match q.port.find? (fun p => assoc q.opened p.1 == some ticket) with
  | none => none
  | some p => some (p.2, { q with port := q.port.erase p })

/-- The state with a queue replaced. -/
def State.setQueue (s : State) (q : Queue) : State :=
  { s with reg := { s.reg with queues := s.reg.queues.map (fun o => if o.idx = q.idx then q else o) } }

/-- A queue that has been bound at some time. -/
def State.queue? (s : State) (i : Nat) : Option Queue := s.reg.queues.find? (fun q => q.idx == i)

/-- The launch record that a launch token names (R325). -/
def Token.recordVa (k : Token) : Word := BitVec.ofNat 64 (k.lane 0 + k.lane 1 * 2 ^ 32)

/-- The head of a port's cistern moves into the port while that has room (R325). The tokens stay where a read of the cistern
faults. -/
def Queue.refill (s : State) : Nat → Queue → Queue
  | 0, q => q
  | n + 1, q =>
    match q.cist with
    | [] => q
    | e :: es =>
      if 64 ≤ q.port.length + q.waiting.length then q
      else match s.agentRead (ctxAgent e.ctx) e.va 72 with
        | .error _ => q
        | .ok bs =>
          let k := entryToken bs
          Queue.refill s n (if e.launch then { q with cist := es, waiting := q.waiting ++ [(e.epoch, k.recordVa)] }
            else { q with cist := es, port := q.port ++ [(e.epoch, k)] })

/-- The queue with its port refilled from its cistern as far as it goes. -/
def State.refilled (s : State) (q : Queue) : Queue := Queue.refill s (q.cist.length + 1) q

/-- A node that feeds its region sends its pending marker, or the next token of its source (R257, R258, R260 step 2). Where the
source has none, or its cistern faults, `idle` and `bad` say what becomes of the state. -/
def State.feed (s : State) (r : Region) (c : NodeCfg) (n : NodeSt) (next : Except Trap (Option (Token × State)))
    (idle : Option State) (bad : Trap → State) : Option State :=
  match n.inject with
  | some tag =>
    (match s.nodeSend r c.nid c.out0 (marker tag) with
      | .full => none
      | .fault s1 => some s1
      | .ok s1 r1 => some (s1.setRegion (r1.setNode c.nid (fun n => { n with inject := none }))))
  | none =>
    if n.closed ∨ r.roomFor c.out0 = false then none
    else match next with
      | .error e => some (bad e)
      | .ok none => idle
      | .ok (some (k, s1)) =>
        match s1.nodeSend r c.nid c.out0 k with
        | .full => none
        | .fault _ => (match s.nodeSend r c.nid c.out0 k with | .fault s2 => some s2 | _ => none)
        | .ok s2 r2 => some (s2.setRegion r2)

/-- A node that feeds its region takes the next token of a channel; at a rendezvous it waits for one (R251, R257, R258). -/
def State.feedChan (s : State) (r : Region) (c : NodeCfg) (n : NodeSt) (ch : Nat) : Option State :=
  match s.chan? r.ctx ch with
  | none => s.feed r c n (.ok none) none (fun _ => s)
  | some x =>
    s.feed r c n (s.chanTake x)
      (if x.rendezvous ∧ x.ring.want = false ∧ x.ring.q = [] then some (s.setChan { x with ring := { x.ring with want := true } }) else none)
      (s.chanFault x)

/-- SRC_SEND (R257). -/
def execSrcSend (r n : Nat) (s : State) : Host.Outcome State Fault Refusal :=
  event (fun s => s.nodeStep r n [1] 1 (fun s g c x =>
    if c.field 16 1 = 1 then s.feedChan g c x (c.field 18 2)
    else s.feed g c x (match s.queue? (g.ticket % 2 ^ 14) with
      | none => .ok none
      | some q => (match (s.refilled q).takeFor g.ticket with
        | none => .ok none
        | some (k, q1) => .ok (some (k, s.setQueue q1)))) none (fun _ => s))) s

/-- INJ_SEND (R258). -/
def execInjSend (r n : Nat) (s : State) : Host.Outcome State Fault Refusal :=
  event (fun s => s.nodeStep r n [0x0A] 1 (fun s g c x => s.feedChan g c x (c.field 18 2))) s

/-- A marker is to be injected at every src and inj node, which take no further tokens (R260 step 2, R262). -/
def Region.injectAll (r : Region) (tag : Nat) : Region :=
  { r with nodes := r.nodes.map (fun n =>
      match r.img.nodes.find? (fun c => c.nid == n.nid) with
      | some c => if c.kind = 1 ∨ c.kind = 0x0A then { n with closed := true, inject := some tag } else n
      | none => n) }

/-- A sink has reported. -/
def NodeVar.reported : NodeVar → Bool
  | .snk _ _ _ rep => rep
  | _ => true

/-- The tokens of a port and its cistern that a test on their numbers names are orphans (R325). -/
def Queue.lose (q : Queue) (mine : Nat → Bool) : Queue :=
  let hit (e : Spilled) : Bool := !e.launch && mine e.epoch
  let count := (q.port.filter (fun p => mine p.1)).length + (q.cist.filter hit).length
  { q with port := q.port.filter (fun p => !mine p.1), cist := q.cist.filter (fun e => !hit e),
           orphan := Nat.min (q.orphan + count) 0xFFFF }

/-- A queue's launch takes no more tokens: those that its src nodes have not taken are orphans (R325). -/
def Queue.orphans (q : Queue) (ticket : Nat) : Queue :=
  { q.lose (fun n => assoc q.opened n == some ticket) with opened := q.opened.filter (fun p => p.2 != ticket) }

/-- The sinks have all reported: DRAIN is injected at every src and inj node, behind what they have sent (R260 steps 1, 2). -/
def State.sinksDone (s : State) (rinst : Nat) : State :=
  match s.region? rinst with
  | none => s
  | some r =>
    if r.nodes.all (fun n => n.var.reported) then
      let s1 := s.setRegion { r.injectAll 3 with phase := .draining }
      match s1.queue? (r.ticket % 2 ^ 14) with
      | some q =>
        if s1.regions.any (fun o => o.ticket == r.ticket && o.phase != .idle && o.phase != .draining) then s1
        else s1.setQueue (q.orphans r.ticket)
      | none => s1
    else s

/-- SNK_TAKE (R259): a token is taken, counted, and until the report forwarded. -/
def execSnkTake (r n : Nat) (s : State) : Host.Outcome State Fault Refusal :=
  event (fun s => s.nodeStep r n [2] 1 (fun s g c x =>
    match x.var with
    | .snk eos npois late rep =>
      if x.closed then none
      else match s.nodeTake g c 0 with
        | .nothing => none
        | .fault s1 => some s1
        | .ok k g1 =>
          let eos1 := if k.tag = 1 then eos + 1 else eos
          let now := !rep && decide (c.field 20 2 ≤ eos1)
          let var : NodeVar := .snk eos1 (if k.tag = 5 then npois + 1 else npois) (if rep ∧ k.tag = 0 then late + 1 else late)
            (rep || now)
          let done (s : State) : State :=
            let s1 := s.setRegion (g1.setNode n (fun m => { m with var := var }.pass true k.tag))
            if now then s1.sinksDone r else s1
          if c.field 16 1 = 0 ∨ rep = true ∨ k.tag = 3 ∨ k.tag = 4 then some (done s)
          else match s.chan? g.ctx (c.field 18 2) with
            | none => some (done s)
            | some ch =>
              match s.chanPut ch k with
              | .error e => some (s.nodeFault r n e)
              | .ok none => none
              | .ok (some s1) => some (done s1)
    | _ => none)) s

/-! ### Cisterns (R255, R256) -/

/-- CISTERN_REFILL (R255): the head entry of a cistern moves to a free slot, of channel b of context a or of end b of region
instance a. -/
def execCisternRefill (isChan : Bool) (a b : Nat) (s : State) : Host.Outcome State Fault Refusal :=
  event (fun s =>
    if isChan then
      match s.chan? a b with
      | none => s
      | some c =>
        if ¬ (0 < c.ring.ccount ∧ c.ring.q.length < c.ring.slots) ∨ s.chanMay c = false then s
        else match s.ringRefill c.ctx c.ring with
          | .error e => s.chanFault c e
          | .ok ring => (s.chanPassed c).setChan { c with ring := ring, fault := none }
    else
      match s.region? a with
      | none => s
      | some r =>
        match r.ends[b]? with
        | none => s
        | some e =>
          let nid := r.circNode e.circ
          if e.timed ∨ ¬ (0 < e.ring.ccount ∧ e.ring.q.length < e.ring.slots) ∨ r.nodes.any (fun n => n.nid == nid && !n.may 8) = true ∨
              (s.cisternHeld r = true ∧ r.nodes.any (fun n => n.nid == nid && n.fault.isNone) = true) then s
          else match s.ringRefill r.ctx e.ring with
            | .error t => s.nodeFault a nid t 8
            | .ok ring => (s.setRegion { r with ends := r.ends.set b { e with ring := ring } }).setNode a nid (fun m => m.stepped 8)) s

/-! ### accn (R246) -/

/-- The format in which an accn node holds its sums (R246): f64, f32 or 0xB for 64 bits. -/
def accnKind (ifmt : Nat) : Nat := if ifmt = 0xB then 0xB else if ifmt = 1 then 1 else 2

/-- One token's active lanes are added to the sums. The draws of mode SR are free values (log entry 22). -/
def accnAdd (draw : Nat → BitVec 32) (ifmt rnd : Nat) (sat : Bool) (sums : List Nat) (got : Nat) (k : Token) : List Nat × Nat × FFlags :=
  let kind := accnKind ifmt
  let on := (unitLanes ifmt).filter (unitOn ifmt k.mask)
  on.foldl (fun (acc : List Nat × Nat × FFlags) l =>
    let (v, f) : Nat × FFlags :=
      if kind = 0xB then fitInt sat true 64 (toSigned 64 (acc.1.getD l 0) + toSigned 32 (k.lane l))
      else
        let (x, f) := FV.add rnd (fmtValue kind (acc.1.getD l 0)) (fmtValue ifmt (k.unit ifmt l))
        let (c, g) := fmtStore kind rnd (draw l).toNat x
        (c, f ||| g)
    (acc.1.set l v, acc.2.1 ||| unitMask ifmt [l], acc.2.2 ||| f)) (sums, got, 0)

/-- The sums converted to the result format as a DATA token (R43, R44, R246): lanes that received no active value are
inactive. -/
def accnResult (draw : Nat → BitVec 32) (ifmt ofmt rnd : Nat) (sums : List Nat) (got : Nat) : Token × FFlags :=
  let kind := accnKind ifmt
  let (lanes, mask, fl) := ((unitLanes ifmt).filter (unitOn ifmt got)).foldl (fun (acc : List Nat × Nat × FFlags) l =>
    let (v, f) : Nat × FFlags :=
      if kind = 0xB then
        let x := toSigned 64 (sums.getD l 0)
        let (lo, hi) := intBounds true 32
        let y := max lo (min hi x)
        (ofSigned 32 y, if y = x then 0 else fINV)
      else fmtStore ofmt rnd (draw (16 + l)).toNat (fmtValue kind (sums.getD l 0))
    (putUnit ofmt acc.1 l v, acc.2.1 ||| unitMask ofmt [l], acc.2.2 ||| f)) (List.replicate 16 0, 0, 0)
  (maskedToken lanes mask, fl)

/-- The draws of an accn for the token of a number: they depend on the image's seed, the node and that number (R51, R246; log entry
22). -/
def Region.accnDraw (g : Region) (nid num l : Nat) : BitVec 32 := Config.openLane [g.img.seed.toNat, nid, num, l]

/-- ACCN_SUM (R246): one token leaves, or one token is taken from IN0 or IN1. A second CKPT waits at its input (R230). -/
def execAccnSum (r n : Nat) (s : State) : Host.Outcome State Fault Refusal :=
  event (fun s => s.nodeStep r n [6] 1 (fun s g c x =>
    match x.var with
    | .accn sums got count turn e0 e1 out flg latch draws =>
      (match out with
        | k :: ks =>
          (match s.nodeSend g n c.out0 k with
            | .full => none
            | .fault s1 => some s1
            | .ok s1 g1 =>
              some (s1.setRegion (g1.setNode n (fun m =>
                { m with var := .accn sums got count turn e0 e1 ks flg latch draws }.pass false k.tag))))
        | [] =>
          let two := c.kfl.testBit 0
          let ifmt := c.field 16 1 % 16
          let ofmt := c.field 16 1 / 16
          let rnd := c.field 17 1 % 8
          let sat := (c.field 17 1).testBit 3
          let every := c.field 18 2
          let port := if turn || (two && e0 && !e1) then 1 else 0
          if x.closed then none
          else match s.nodeTake g c port with
            | .nothing => none
            | .fault s1 => some s1
            | .ok k g1 =>
              let put (v : NodeVar) : Option State :=
                some (s.setRegion (g1.setNode n (fun m => { m with var := v })))
              let draw := g.accnDraw n draws
              let none' := got = 0 ∧ count = 0
              -- the end of a sum: what leaves, and the sums afresh
              let finish (tail : List Token) : NodeVar :=
                let (res, f) := accnResult draw ifmt ofmt rnd sums got
                .accn (List.replicate 16 0) 0 0 false false false ((if got = 0 then [] else [res]) ++ tail ++ latch.toList)
                  (flg ||| f) none (draws + 1)
              match k.tag with
              | 0 =>
                let (sums1, got1, f) := accnAdd draw ifmt rnd sat sums got k
                -- with two inputs a token of IN0 counts once its partner, if it has one, has been added
                let whole := !two || (port == 1 && turn) || (port == 0 && e1)
                let count1 := if port = 0 then count + 1 else count
                let due := every ≠ 0 ∧ whole = true ∧ count1 % every = 0
                let (res, f1) := accnResult draw ifmt ofmt rnd sums1 got1
                put (.accn sums1 got1 count1 (two && port == 0 && !e1) e0 e1 (if due then [res] else [])
                  (flg ||| f ||| (if due then f1 else 0)) latch (draws + 1))
              | 2 =>
                let e0' := e0 || port == 0
                let e1' := e1 || port == 1
                if two ∧ ¬ (e0' ∧ e1') then put (.accn sums got count false e0' e1' [] flg latch draws)
                else
                  let (res, f) := accnResult draw ifmt ofmt rnd sums got
                  put (.accn (List.replicate 16 0) 0 0 false false false ([res, marker 2] ++ latch.toList) (flg ||| f) none (draws + 1))
              | 4 =>
                if none' ∧ e0 = false ∧ e1 = false then put (.accn sums got count turn e0 e1 [k] flg latch draws)
                else if latch.isSome then none
                else put (.accn sums got count turn e0 e1 [] flg (some k) draws)
              | 1 => put (finish [k])
              | 3 => put (finish [k])
              | _ => put (.accn sums got count turn e0 e1 [k] flg latch draws))
    | _ => none)) s

/-! ### esc (R265 to R269) -/

/-- The swarm stripe of the escape threads (R265), as 24·die + 4·field + its half. -/
def Region.escStripe (r : Region) (side : Bool) : Nat :=
  if side then r.stripe / 4 * 4 + (r.stripe % 4 + 3) % 4 else r.stripe

/-- The core for the next escape thread (R266): the next one after the last, ascending and wrapping, that holds slots of the
context. -/
def State.escCore (s : State) (r : Region) (side : Bool) (last : Nat) : Option Nat :=
  (upto 16).map (fun i => r.escStripe side * 16 + (last + 1 + i) % 16) |>.find? (fun c => s.grantsAny c r.ctx)

/-- The slip handle of R266. -/
def slipHandle (rinst nid idx : Nat) : Word := BitVec.ofNat 64 (rinst * 2 ^ 24 + nid * 2 ^ 12 + idx)

/-- An escape thread is started for a slip (R266): it enters the arrival queue of the chosen core, whose name the node resolves (R356),
unless that is full or no core holds slots of the context. -/
def State.startEscape (s : State) (r : Region) (c : NodeCfg) (idx last : Nat) : Option (State × Nat × Nat) :=
  match (s.escCore r (c.kfl.testBit 2) last).bind (fun name => (s.nameAt (.esc r.rinst c.nid) name).map (fun core => (name, core))) with
  | none => none
  | some (name, core) =>
    if s.queueFull core then none
    else
      let t : Thread :=
        { Thread.initial with
            uid := s.nextId, ctx := r.ctx, core := core, mode := .waiting, place := .queue, wait := .arrival,
            pc := BitVec.ofNat 64 (c.field 16 8),
            g := ((Thread.initial).g.set 1 (slipHandle r.rinst c.nid idx)).set 2 (BitVec.ofNat 64 (c.field 24 8)),
            escape := some (r.rinst, r.escStripe (c.kfl.testBit 2)), origin := r.ticket, since := s.clk }
      let s1 := (({ s with nextId := s.nextId + 1 } : State).addT t).learnName (.esc r.rinst c.nid) name
      let cs := s1.core core
      some ((s1.setCore core { cs with queue := cs.queue ++ [t.uid] }).serveQueue core, t.uid, core % 16)

/-- The bytes of a slip entry (R267). -/
def slipEntry (k : Token) (gmask state : Nat) : List Byte :=
  k.payload ++ leBytes 2 k.mask ++ leBytes 2 gmask ++ [0, BitVec.ofNat 8 state] ++ List.replicate 58 0

/-- ESC_TAKE (R266 to R268): a waiting start request goes out, or a guard that is not DATA is discarded, else a token is taken from
IN0, with its guard, and takes a slip. -/
def execEscTake (r n : Nat) (s : State) : Host.Outcome State Fault Refusal :=
  event (fun s => s.nodeStep r n [7] 1 (fun s g c x =>
    match x.var with
    | .esc seq slips starts last =>
      let put (s : State) (g : Region) (v : NodeVar) : State := s.setRegion (g.setNode n (fun m => { m with var := v }))
      let begun (s : State) (g : Region) (slips : List Slip) (seq : Nat) (idx : Nat) (rest : List Nat) : Option State :=
        match s.startEscape g c idx last with
        | none => none
        | some (s1, u, core) =>
          some (put s1 g (.esc seq (slips.map (fun y => if y.idx = idx then { y with uid := some u } else y)) rest core))
      (match starts, (if c.g then s.stray g c else none) with
        | _, some g1 => some (s.setRegion g1)
        | i :: is, none => begun s g slips seq i is
        | [], none =>
          let idx := seq % c.slips
          let busy := slips.any (fun y => y.idx == idx)
          if x.closed then none
          else match s.nodeTake g c 0 with
            | .nothing => none
            | .fault s1 => some s1
            | .ok k g1 =>
              let take (s : State) (g : Region) (state gmask : Nat) : Option State :=
                if busy then none
                else match s.agentStore (ctxAgent g.ctx) (c.slipAddr idx) (slipEntry k gmask state) with
                  | .error e => some (s.nodeFault r n e)
                  | .ok s1 =>
                    let y : Slip := { idx := idx, uid := none, state := state, ord := s.clk, tok := k }
                    if state = 1 then
                      match begun s1 g (slips ++ [y]) (seq + 1) idx [] with
                      | some s2 => some s2
                      | none => some (put s1 g (.esc (seq + 1) (slips ++ [y]) [idx] last))
                    else some (put s1 g (.esc (seq + 1) (slips ++ [y]) [] last))
              if k.tag ≠ 0 then take s g1 4 0xFFFF
              else if c.g = false then take s g1 1 0xFFFF
              else match s.nodeTake g1 c 1 with
                | .nothing => none
                | .fault s1 => some s1
                | .ok gk g2 =>
                  if gk.guards ≠ 0 then take s g2 1 gk.guards
                  else if c.kfl.testBit 1 then take s g2 3 0
                  else some (s.setRegion g2))
    | _ => none)) s

/-- The slip that leaves next (R267, R268). Without the order of arrival one leaves after the clk in which it has reached its state. -/
def nextSlip (ordered : Bool) (clk : Nat) (slips : List Slip) : Option Slip :=
  match slips with
  | [] => none
  | y :: ys =>
    if ordered then (if 2 ≤ y.state then some y else none)
    else if y.state = 4 then some y
    else ((y :: ys).takeWhile (fun z => z.state != 4)).foldl (fun (acc : Option Slip) z =>
      if (z.state ≠ 2 ∧ z.state ≠ 3) ∨ clk ≤ z.ord then acc
      else match acc with
        | none => some z
        | some b => if z.ord < b.ord ∨ (z.ord = b.ord ∧ z.idx < b.idx) then some z else some b) none

/-- The token with which a slip leaves (R267 to R269). -/
def State.slipToken (s : State) (r : Region) (c : NodeCfg) (y : Slip) : Except Trap Token :=
  if y.state = 4 then .ok y.tok
  else if y.state = 3 ∨ y.tok.tag = 5 then .ok y.tok
  else match s.agentRead (ctxAgent r.ctx) (c.slipAddr y.idx) 69 with
    | .error e => .error e
    | .ok bs =>
      .ok { tag := entryTag (ofLe ((bs.drop 68).take 1)), mask := ofLe ((bs.drop 64).take 2), lanes := lanesOf bs }

/-- ESC_EMIT (R267 to R269): a slip leaves on OUT0, and its entry is free. -/
def execEscEmit (r n : Nat) (s : State) : Host.Outcome State Fault Refusal :=
  event (fun s => s.nodeStep r n [7] 2 (fun s g c x =>
    match x.var with
    | .esc seq slips starts last =>
      (match nextSlip (c.kfl.testBit 0) s.clk slips with
        | none => none
        | some y =>
          match s.slipToken g c y with
          | .error e => some (s.nodeFault r n e)
          | .ok k =>
            match s.nodeSend g n c.out0 k with
            | .full => none
            | .fault s1 => some s1
            | .ok s0 g1 =>
              match s0.agentStore (ctxAgent g.ctx) (c.slipAddr y.idx + 69) [0] with
              | .error e => some (s.nodeFault r n e)
              | .ok s1 => some (s1.setRegion (g1.setNode n (fun m =>
                { m with var := .esc seq (slips.filter (fun z => z.idx != y.idx)) starts last }.pass false
                  (if y.state = 4 then k.tag else 0)))))
    | _ => none)) s

end Sys2Proof.Machine
end

