-- ==== Sys2Proof/Machine/MemNodes.lean ====
section
/-! DEFINITION. The memory-facing nodes: agn streams, memg and mems with their chains, slh, and sluice (R276 to R292). -/

namespace Sys2Proof.Machine

/-- The agent as which a memory node reads and writes: class .c, or .k where its CLS says so. -/
def Region.memAgent (r : Region) (k : Bool) : Agent := { ctx := r.ctx, core := 0, cls := if k then 2 else 0, prv := false }

/-! ### agn (R278 to R281) -/

/-- The fields of a stream of an agn record (R278). -/
structure AgnStream where
  blk : Nat
  cls : Bool
  eop : Bool
  eor : Bool
  used : Bool
  n0 : Nat
  n1 : Nat
  n2 : Nat
  s1 : Int
  s2 : Int

/-- Stream st of an agn record. -/
def NodeCfg.agn (c : NodeCfg) (st : Nat) : AgnStream :=
  let o := 16 + 20 * st
  let f := c.field (o + 7) 1
  { blk := c.field o 7 % 2 ^ 50, cls := f.testBit 3, eop := f.testBit 2, eor := f.testBit 1, used := f.testBit 0,
    n0 := c.field (o + 8) 2, n1 := c.field (o + 10) 2, n2 := c.field (o + 12) 2,
    s1 := toSigned 24 (c.field (o + 14) 3), s2 := toSigned 24 (c.field (o + 17) 3) }

/-- A stream with nothing to emit. -/
def Stream.idle : Stream := { active := false, base := 0, i2 := 0, i1 := 0, i0 := 0, eor := false, mark := none }

/-- Nothing is left to emit. -/
def Stream.done (s : Stream) : Bool := !s.active && !s.eor && s.mark.isNone

/-- A run begins at a base (R279). -/
def Stream.run (base : Nat) (mark : Option Token) : Stream :=
  { active := true, base := base, i2 := 0, i1 := 0, i0 := 0, eor := false, mark := mark }

/-- The block address that a stream reads next (R279). -/
def AgnStream.block (a : AgnStream) (s : Stream) : Nat :=
  ((((s.base : Int) + s.i2 * a.s2 + s.i1 * a.s1 + s.i0) % ((2 ^ 50 : Nat) : Int)).toNat)

/-- The counters after a block, with the EOR that follows it (R279). -/
def AgnStream.next (a : AgnStream) (s : Stream) : Stream :=
  if s.i0 < a.n0 then { s with i0 := s.i0 + 1 }
  else if s.i1 < a.n1 then { s with i0 := 0, i1 := s.i1 + 1, eor := a.eor }
  else if s.i2 < a.n2 then { s with i0 := 0, i1 := 0, i2 := s.i2 + 1, eor := a.eor || a.eop }
  else { s with active := false, eor := a.eor || a.eop }

/-- The counters after a number of further blocks, and whether there are that many (R279, R280). -/
def AgnStream.after (a : AgnStream) : Nat → Stream → Option Stream
  | 0, s => if s.active then some s else none
  | n + 1, s => if s.active then AgnStream.after a n (a.next s) else none

/-- A block of a stream is read: class .c through the stream's translation entry, which its stripe's walker refills at a page crossing
(R185, R280), class .k at its address. -/
def State.readBlock (s : State) (g : Region) (a : AgnStream) (cur : Stream) (blk : Nat) : Except Trap (List Nat × Option Tlb × State) :=
  let va := 64 * blk
  if a.cls then
    match s.agentRead (g.memAgent true) va 64 with
    | .error e => .error e
    | .ok bs => .ok (lanesOf bs, cur.tr, s)
  else
    let w := BitVec.ofNat 64 va
    let hit : Except Trap (Tlb × State) :=
      match cur.tr.filter (fun e => e.covers g.ctx va && e.allows .rd false) with
      | some e => .ok (e, s)
      | none => s.walkBy g.stripe g.ctx w .rd false
    match hit with
    | .error e => .error e
    | .ok (e, s1) =>
      match s1.reachPa w .rd (e.paOf va) with
      | .error t => .error t
      | .ok pa => if s1.badAt .mem pa 64 then .error (eccAt .mem pa va) else .ok (lanesOf (s1.readBytes .mem pa 64), some e, s1)

/-- AGN_RUN_START (R279): the runs of dispatch, or those that a token on IN0 starts; a marker waits for the runs to end. -/
def execAgnRunStart (r n : Nat) (s : State) : Host.Outcome State Fault Refusal :=
  event (fun s => s.nodeStep r n [3] 3 (fun s g c x =>
    match x.var with
    | .agn s0 s1 started =>
      let put (g : Region) (a b : Stream) : Option State :=
        some (s.setRegion (g.setNode n (fun m => { m with var := .agn a b true })))
      let begin' (st : Nat) (off : Int) (mark : Option Token) : Stream :=
        let a := c.agn st
        let old := (if st = 0 then s0 else s1).tr
        if a.used then { Stream.run (((a.blk : Int) + off) % ((2 ^ 50 : Nat) : Int)).toNat mark with tr := old } else Stream.idle
      let mark (st : Nat) (k : Token) : Stream :=
        if (c.agn st).used then { Stream.idle with mark := some k, tr := (if st = 0 then s0 else s1).tr } else Stream.idle
      if c.in0 = none then
        (if started then none else put g (begin' 0 0 (some (marker 1))) (begin' 1 0 (some (marker 1))))
      else if x.closed ∨ s0.done = false ∨ s1.done = false then none
      else match s.nodeTake g c 0 with
        | .nothing => none
        | .fault s' => some s'
        | .ok k g1 =>
          if k.tag = 0 then
            let off (st : Nat) : Int := toSigned 64 (k.lane (2 * st) % 2 ^ 32 + k.lane (2 * st + 1) % 2 ^ 32 * 2 ^ 32)
            put g1 (begin' 0 (off 0) none) (begin' 1 (off 1) none)
          else put g1 (mark 0 k) (mark 1 k)
    | _ => none)) s

/-- AGN_EMIT (R279 to R281): a stream emits its next block, the EOR that follows one, or the marker behind its runs; where its output
has no room it reads a block ahead, up to eight beyond the next one. A fault on the block to be emitted pauses the node, and what the
streams have read ahead is discarded; one on a block that is only read ahead pauses nothing. -/
def execAgnEmit (r n st : Nat) (s : State) : Host.Outcome State Fault Refusal :=
  event (fun s => s.nodeStep r n [3] (1 + st) (fun s g c x =>
    match x.var with
    | .agn s0 s1 started =>
      let cur := if st = 0 then s0 else s1
      let a := c.agn st
      let out := if st = 0 then c.out0 else c.out1
      let var (y : Stream) : NodeVar := if st = 0 then .agn y s1 started else .agn s0 y started
      let send (s : State) (k : Token) (y : Stream) (tag : Nat) : Option State :=
        match s.nodeSend g n out k with
        | .full => none
        | .fault s' => some s'
        | .ok s' g1 => some (s'.setRegion (g1.setNode n (fun m => { m with var := var y }.pass false tag)))
      if a.used = false ∨ (a.cls = true ∧ s.deepHeld g.ctx = true) then none
      else if g.roomFor out = false then
        (if Config.aheadLimit ≤ cur.ahead.length then none
        else match a.after cur.ahead.length cur with
          | none => none
          | some y =>
            match s.readBlock g a cur (a.block y) with
            | .error _ => none
            | .ok (l, tr, s') => some (s'.setNode r n (fun m => { m with var := var { cur with ahead := cur.ahead ++ [l], tr := tr } })))
      else if cur.eor then send s (marker 2) { cur with eor := false } 2
      else if cur.active then
        match cur.ahead with
        | l :: ls => send s (dataToken l) { a.next cur with ahead := ls } 0
        | [] =>
          match s.readBlock g a cur (a.block cur) with
          | .error e => some (s.nodeFault r n e)
          | .ok (l, tr, s') => send s' (dataToken l) { a.next cur with tr := tr } 0
      else match cur.mark with
        | some k => send s k { cur with mark := none } k.tag
        | none => none
    | _ => none)) s

/-! ### memg and mems (R282 to R286) -/

/-- The fields of a memg or mems record (R282). -/
structure MemCfg where
  vbase : Nat
  nmax : Nat
  esz : Nat
  sx : Bool
  cls : Bool
  idxs : Bool

/-- A memg or mems record read (R282). -/
def NodeCfg.mem (c : NodeCfg) : MemCfg :=
  let f := c.field 28 1
  { vbase := c.field 16 8, nmax := c.field 24 4, esz := 2 ^ (f / 64), sx := f.testBit 5, cls := f.testBit 4,
    idxs := f.testBit 3 }

/-- The order fields of a memg, mems or sluice record: the predecessor and LAG (R282, R289). -/
def NodeCfg.chain (c : NodeCfg) : Option (Nat × Nat) :=
  let o := if c.kind = 8 then 32 else 30
  let w := c.field o 2
  if w.testBit 15 then some (w % 2 ^ 12, c.field (o + 2) 1 % 16) else none

/-- Index tokens that a node has taken, and whether it still holds the last one (R285). -/
def NodeVar.taken : NodeVar → Nat × Bool
  | .mem idx _ _ _ _ _ seen => (seen, idx.isSome)
  | .sluice tok _ _ _ _ seen => (seen, tok.isSome)
  | _ => (0, false)

/-- A node whose accesses others are chained after (R285). -/
def Region.leads (r : Region) (nid : Nat) : Bool := r.img.nodes.any (fun c => match c.chain with | some (p, _) => p == nid | none => false)

/-- A node's token of a number stands in the compare queue. -/
def Region.entered (r : Region) (nid num : Nat) : Bool := r.compares.any (fun e => e.nid == nid && e.num == num)

/-- The place that a node's .c address names, whatever an access there would be answered. -/
def State.nodePlace (s : State) (g : Region) (va : Nat) : Except Trap Nat :=
  match s.walk g.ctx (BitVec.ofNat 64 va) .rd false with
  | .error t => .error t
  | .ok e => s.reachPa (BitVec.ofNat 64 va) .amo (e.paOf va)

/-- Two bytes that accesses name are one: the same address of one class, or two virtual addresses of one place. -/
def State.sameByte (s : State) (g : Region) (x y : Bool × Nat) : Bool :=
  x == y || (!x.1 && !y.1 && x.2 % 4096 == y.2 % 4096 &&
    (match s.nodePlace g x.2, s.nodePlace g y.2 with
      | .ok a, .ok b => a == b
      | _, _ => false))

/-- Byte ranges of two tokens meet. -/
def State.rangesMeet (s : State) (g : Region) (l m : List (Bool × Nat × Nat)) : Bool :=
  l.any (fun x => m.any (fun y => (upto x.2.2).any (fun i => (upto y.2.2).any (fun j =>
    s.sameByte g (x.1, x.2.1 + i) (y.1, y.2.1 + j)))))

/-- The chain lets a node's token of a number, with the byte ranges of its accesses, be performed (R285, R286): the predecessor has
taken every token that orders it, unless it takes no more; the ranges of those are known; and of those whose accesses are not all
performed none meets it. -/
def State.chainOk (s : State) (g : Region) (c : NodeCfg) (num : Nat) (ranges : List (Bool × Nat × Nat)) : Bool :=
  match c.chain with
  | none => true
  | some (p, lag) =>
    if num < lag then true
    else match g.nodes.find? (fun n => n.nid == p) with
      | none => true
      | some m =>
        let (taken, holds) := m.var.taken
        let known := decide (num - lag < taken) && !(decide (num - lag + 1 = taken) && holds && !g.entered p (num - lag))
        (m.closed || known) &&
          !(g.compares.filter (fun e => e.nid == p && decide (e.num ≤ num - lag))).any (fun e => s.rangesMeet g e.ranges ranges)

/-- A leading node's token is to enter the compare queue, with the ranges of its accesses, before the first of them (R286): the
region with it, or none where the queue is full. -/
def Region.enter (r : Region) (nid num : Nat) (ranges : List (Bool × Nat × Nat)) : Option Region :=
  if r.compares.length < Config.compareSize then some { r with compares := r.compares ++ [{ nid := nid, num := num, ranges := ranges }] }
  else none

/-- A node's token must enter the compare queue before it is performed (R286). -/
def Region.mustEnter (r : Region) (nid num : Nat) : Bool := r.leads nid && !r.entered nid num

/-- All accesses of a node's token have been performed: it leaves the queue (R286). -/
def Region.leave (r : Region) (nid num : Nat) : Region :=
  { r with compares := r.compares.filter (fun e => !(e.nid == nid && e.num == num)) }

/-- The lanes at which indices stand (R282). -/
def MemCfg.lanes (m : MemCfg) : List Nat := if m.esz = 8 then (upto 8).map (fun i => 2 * i) else upto 16

/-- The index at a lane, if it is in range (R282). -/
def MemCfg.index (m : MemCfg) (k : Token) (l : Nat) : Option Nat :=
  let v := k.lane l % 2 ^ 32
  if m.nmax ≤ v ∨ (m.idxs = true ∧ v.testBit 31 = true) then none else some v

/-- The address of an element; bits 63:56 that are not zero raise XLATE, as the walk finds (R282). -/
def MemCfg.addr (m : MemCfg) (i : Nat) : Nat := m.vbase + i * m.esz

/-- A lane that the guard leaves active (R283, R284). -/
def guarded (g : Bool) (k : Option Token) (l : Nat) : Bool :=
  !g || (match k with | some t => t.active l && t.lane l != 0 | none => false)

/-- An element as it stands in its lanes (R283). -/
def MemCfg.lanesOf (m : MemCfg) (out : List Nat) (l v : Nat) : List Nat :=
  if m.esz = 8 then (out.set l (v % 2 ^ 32)).set (l + 1) (v / 2 ^ 32)
  else out.set l (if m.sx then ofSigned 32 (toSigned (8 * m.esz) v) else v)

/-- The byte ranges of an index token's accesses (R282, R286): class, address and length of each lane that acts. -/
def NodeCfg.ranges (c : NodeCfg) (idx : Token) (data guard : Option Token) : List (Bool × Nat × Nat) :=
  let m := c.mem
  m.lanes.filterMap (fun l =>
    let on := idx.active l && guarded c.g guard l &&
      (match data with
        | some d => d.active l && (m.esz != 8 || d.active (l + 1))
        | none => true)
    if on then (m.index idx l).map (fun i => (m.cls, m.addr i, m.esz)) else none)

/-- A gather as it stands: lanes performed, results, mask, and the fault that stopped it. -/
structure Gather where
  lane : Nat
  out : List Nat
  mask : Nat
  err : Option Trap

/-- The lanes of an index token from one on are gathered, until a fault (R277, R283). -/
def State.gather (s : State) (g : Region) (c : NodeCfg) (idx : Token) (guard : Option Token) (x : Gather) : Gather :=
  let m := c.mem
  (m.lanes.filter (fun l => decide (x.lane ≤ l))).foldl (fun (y : Gather) l =>
    if y.err.isSome then y
    else if !(idx.active l && guarded c.g guard l) then { y with lane := l + 1 }
    else match m.index idx l with
      | none => { y with lane := l + 1 }
      | some i =>
        match s.agentNat (g.memAgent m.cls) (m.addr i) m.esz with
        | .error e => { y with lane := l, err := some e }
        | .ok v => { y with lane := l + 1, out := m.lanesOf y.out l v, mask := y.mask ||| (if m.esz = 8 then laneMask [l, l + 1] else laneMask [l]) }) x

/-- MEMG_GATHER (R283): an index token is taken, then its guard; its lanes are gathered and the result leaves. A marker
passes in order. -/
def execMemgGather (r n : Nat) (s : State) : Host.Outcome State Fault Refusal :=
  event (fun s => s.nodeStep r n [4] 1 (fun s g c x =>
    match x.var with
    | .mem idx data guard lane out mask seen =>
      if g.roomFor c.out0 = false ∨ (c.mem.cls = true ∧ s.deepHeld g.ctx = true) then none
      else match idx, (if c.g ∧ x.closed = false ∧ guard = none then s.stray g c else none) with
        | _, some g1 => some (s.setRegion g1)
        | none, none =>
          if x.closed then none
          else (match s.nodeTake g c 0 with
            | .nothing => none
            | .fault s1 => some s1
            | .ok k g1 =>
              if k.tag = 0 then
                some (s.setRegion (g1.setNode n (fun m =>
                  { m with var := .mem (some k) data guard 0 (List.replicate 16 0) 0 (seen + 1) })))
              else match s.nodePass g g1 n c.out0 k with
                | .full => none
                | .fault s1 => some s1
                | .ok s1 g2 => some (s1.setRegion (g2.setNode n (fun m => m.pass false k.tag))))
        | some k, none =>
          if c.g ∧ guard = none then
            (match s.nodeTake g c 1 with
              | .nothing => none
              | .fault s1 => some s1
              | .ok gk g1 =>
                some (s.setRegion (g1.setNode n (fun m =>
                  { m with var := .mem idx data (if gk.tag = 0 then some gk else none) lane out mask seen }))))
          else if g.mustEnter n (seen - 1) then (g.enter n (seen - 1) (c.ranges k none guard)).map s.setRegion
          else if s.chainOk g c (seen - 1) (c.ranges k none guard) = false then none
          else
            let y := s.gather g c k guard { lane := lane, out := out, mask := mask, err := none }
            let kept := g.setNode n (fun m => { m with var := .mem idx data guard y.lane y.out y.mask seen })
            match y.err with
            | some e => some ((s.setRegion kept).nodeFault r n e)
            | none =>
              match s.nodeSend kept n c.out0 { tag := 0, mask := y.mask, lanes := y.out } with
              | .full => none
              | .fault s1 => some s1
              | .ok s1 g1 =>
                some (s1.setRegion ((g1.setNode n (fun m => { m with var := .mem none none none 0 [] 0 seen })).leave n (seen - 1)))
    | _ => none)) s

/-- A scatter as it stands: the state, the lanes performed, and the fault that stopped it. -/
structure Scatter where
  s : State
  lane : Nat
  err : Option Trap

/-- The lanes of an index token from one on are written, until a fault (R277, R284). -/
def State.scatter (s : State) (g : Region) (c : NodeCfg) (idx data : Token) (guard : Option Token) (lane : Nat) : Scatter :=
  let m := c.mem
  (m.lanes.filter (fun l => decide (lane ≤ l))).foldl (fun (y : Scatter) l =>
    let on := idx.active l && guarded c.g guard l &&
      (if m.esz = 8 then data.active l && data.active (l + 1) else data.active l)
    if y.err.isSome then y
    else if !on then { y with lane := l + 1 }
    else match m.index idx l with
      | none => { y with lane := l + 1 }
      | some i =>
        let v := data.lane l % 2 ^ 32 + (if m.esz = 8 then data.lane (l + 1) % 2 ^ 32 * 2 ^ 32 else 0)
        match y.s.agentStore (g.memAgent m.cls) (m.addr i) (leBytes m.esz v) with
        | .error e => { y with lane := l, err := some e }
        | .ok s1 => { y with s := s1, lane := l + 1 }) { s := s, lane := lane, err := none }

/-- MEMS_WRITE (R284): a marker on IN1 is discarded, or index, data and guard tokens are taken, then the lanes are written. A marker that
ends here is noted. -/
def execMemsWrite (r n : Nat) (s : State) : Host.Outcome State Fault Refusal :=
  event (fun s => s.nodeStep r n [5] 1 (fun s g c x =>
    match x.var with
    | .mem idx data guard lane out mask seen =>
      if c.mem.cls = true ∧ s.deepHeld g.ctx = true then none
      else
      let put (s : State) (g : Region) (v : NodeVar) (tag : Nat) : Option State :=
        some (s.setRegion (g.setNode n (fun m => { m with var := v }.pass true tag)))
      let take (port : Nat) (f : Token → Region → Option State) : Option State :=
        match s.nodeTake g c port with
        | .nothing => none
        | .fault s1 => some s1
        | .ok k g1 => f k g1
      (match idx, (if x.closed = false ∧ (if c.g then guard else data) = none then s.stray g c else none) with
        | _, some g1 => some (s.setRegion g1)
        | none, none =>
          if x.closed then none
          else take 0 (fun k g1 =>
            if k.tag = 0 then put s g1 (.mem (some k) none none 0 [] 0 (seen + 1)) 0
            else put s g1 x.var k.tag)
        | some k, none =>
          match data with
          | none =>
            -- the data follows the index on IN0 with a guard, and stands on IN1 without one
            take (if c.g then 0 else 1) (fun d g1 =>
              if d.tag = 0 then put s g1 (.mem idx (some d) guard lane out mask seen) 0
              else put s g1 x.var (if c.g then d.tag else 0))
          | some d =>
            if c.g ∧ guard = none then
              take 1 (fun gk g1 => put s g1 (.mem idx data (if gk.tag = 0 then some gk else none) lane out mask seen) 0)
            else if g.mustEnter n (seen - 1) then (g.enter n (seen - 1) (c.ranges k data guard)).map s.setRegion
            else if s.chainOk g c (seen - 1) (c.ranges k data guard) = false then none
            else
              let y := s.scatter g c k d guard lane
              match y.err with
              | some e =>
                some ((y.s.setRegion (g.setNode n (fun m => { m with var := .mem idx data guard y.lane out mask seen }))).nodeFault
                  r n e)
              | none => put y.s (g.leave n (seen - 1)) (.mem none none none 0 [] 0 seen) 0)
    | _ => none)) s

/-! ### slh (R287, R288) -/

/-- Set bits of a 64-bit word from one bit to below another, as positions from a base up. -/
def wordBits (base lo hi v : Nat) : List Nat :=
  ((upto 64).filter (fun b => decide (lo ≤ base + b ∧ base + b < hi) && v.testBit b)).map (fun b => base + b)

/-- What a search of slh holds: a word of which some set bits are left and the last summary word, by number; neither is read again. -/
structure SlhHeld where
  word : Option (Nat × Nat)
  sum : Option (Nat × Nat)
  deriving DecidableEq, Repr

/-- The value that is held of a word of a number. -/
def heldAt (h : Option (Nat × Nat)) (n : Nat) : Option Nat := match h with | some (k, v) => if k = n then some v else none | none => none

/-- Words of the bit-vector are read from a position on until 16 set bits are found or the pass ends (R288): the positions
found, where the search stands, and what it holds. The first argument bounds the words. -/
def State.scanBits (s : State) (g : Agent) (vbase vsum : Nat) (tree : Bool) (hi : Nat) :
    Nat → SlhHeld → Nat → List Nat → Except Trap (List Nat × Nat × SlhHeld)
  | 0, h, pos, acc => .ok (acc, pos, { h with word := none })
  | fuel + 1, h, pos, acc =>
    if hi ≤ pos ∨ 16 ≤ acc.length then .ok (acc, pos, { h with word := none })
    else
      let w := pos / 64
      let old := heldAt h.word w
      let sum : Except Trap (Bool × SlhHeld) :=
        if tree = false ∨ old.isSome = true then .ok (false, h)
        else match (match heldAt h.sum (w / 64) with | some v => Except.ok v | none => s.agentNat g (vsum + 8 * (w / 64)) 8) with
          | .error e => .error e
          | .ok v => .ok (!v.testBit (w % 64), { h with sum := some (w / 64, v) })
      match sum with
      | .error e => .error e
      | .ok (true, h1) => State.scanBits s g vbase vsum tree hi fuel h1 (64 * (w + 1)) acc
      | .ok (false, h1) =>
        match (match old with | some v => Except.ok v | none => s.agentNat g (vbase + 8 * w) 8) with
        | .error e => .error e
        | .ok v =>
          let found := wordBits (64 * w) pos hi v
          let room := 16 - acc.length
          if room < found.length then .ok (acc ++ found.take room, (found.getD (room - 1) 0) + 1, { h1 with word := some (w, v) })
          else State.scanBits s g vbase vsum tree hi fuel h1 (64 * (w + 1)) (acc ++ found)

/-- SLH_EMIT (R288): a pass begins, its next positions leave, or the markers that follow it. -/
def execSlhEmit (r n : Nat) (s : State) : Host.Outcome State Fault Refusal :=
  event (fun s => s.nodeStep r n [9] 1 (fun s g c x =>
    match x.var with
    | .slh pos started eor eos word sum =>
      let put (s : State) (g : Region) (v : NodeVar) (tag : Nat) : Option State :=
        some (s.setRegion (g.setNode n (fun m => { m with var := v }.pass false tag)))
      let send (g1 : Region) (k : Token) (v : NodeVar) (tag : Nat) : Option State :=
        match s.nodePass g g1 n c.out0 k with
        | .full => none
        | .fault s1 => some s1
        | .ok s1 g1 => put s1 g1 v tag
      let f := c.field 36 1
      let nbits := c.field 32 4
      let pass (lo len : Nat) : NodeVar := .slh (some (lo, Nat.min (lo + len) (2 ^ 32))) true false (c.in0 == none) none none
      if g.roomFor c.out0 = false ∨ (f.testBit 1 = true ∧ s.deepHeld g.ctx = true) then none
      else match pos with
        | some (p, hi) =>
          (match s.scanBits (g.memAgent (f.testBit 1)) (c.field 16 8) (c.field 24 8) (f.testBit 0) hi (hi / 64 + 2) { word := word, sum := sum } p [] with
            | .error e => some (s.nodeFault r n e)
            | .ok (found, p1, left) =>
              let v : NodeVar := if hi ≤ p1 then .slh none started (f.testBit 2) eos none none else .slh (some (p1, hi)) started eor eos left.word left.sum
              if found = [] then put s g v 0
              else send g (maskedToken found (2 ^ found.length - 1)) v 0)
        | none =>
          if eor then send g (marker 2) (.slh none started false eos none none) 2
          else if eos then send g (marker 1) (.slh none started false false none none) 1
          else if c.in0 = none then (if started then none else put s g (pass 0 nbits) 0)
          else if x.closed then none
          else match s.nodeTake g c 0 with
            | .nothing => none
            | .fault s1 => some s1
            | .ok k g1 =>
              if k.tag = 0 then
                put s g1 (pass (k.lane 0 % 2 ^ 32) (if k.lane 1 % 2 ^ 32 = 0 then nbits else k.lane 1 % 2 ^ 32)) 0
              else send g1 k x.var k.tag
    | _ => none)) s

/-! ### sluice (R289 to R292) -/

/-- The fields of a sluice record (R289). -/
structure SluiceCfg where
  vbase : Nat
  tgt : Nat
  ret : Bool
  wide : Bool
  op : Nat
  tags : Nat
  nmax : Nat

/-- A sluice record read (R289). -/
def NodeCfg.sluice (c : NodeCfg) : SluiceCfg :=
  let f := c.field 24 1
  { vbase := c.field 16 8, tgt := f / 64, ret := f.testBit 5, wide := f.testBit 4, op := f % 16, tags := c.field 26 2,
    nmax := c.field 28 4 }

/-- Lanes of one update: the stride, and the first lanes of its comparand and operand (R290). -/
def SluiceCfg.layout (q : SluiceCfg) : Nat × Nat × Nat :=
  match q.wide, q.op == 9 with
  | false, false => (2, 1, 1)
  | false, true => (4, 1, 2)
  | true, false => (4, 2, 2)
  | true, true => (8, 2, 4)

/-- Operand bytes. -/
def SluiceCfg.size (q : SluiceCfg) : Nat := if q.wide then 8 else 4

/-- The operand at a lane, or lane pair. -/
def SluiceCfg.value (q : SluiceCfg) (k : Token) (l : Nat) : Nat := k.unit (if q.wide then 1 else 2) l

/-- The lanes of an update's operand or comparand. -/
def SluiceCfg.span (q : SluiceCfg) (l : Nat) : List Nat := if q.wide then [l, l + 1] else [l]

/-- Update u of a token is performed: its listed lanes are active, its index is in range and the guard allows it (R290). -/
def SluiceCfg.acts (q : SluiceCfg) (g : Bool) (k : Token) (guard : Option Token) (u : Nat) : Option Nat :=
  let (st, cl, ol) := q.layout
  let l := st * u
  let lanes := [l] ++ (if q.op = 9 then q.span (l + cl) else []) ++ q.span (l + ol)
  if lanes.all k.active ∧ guarded g guard l = true ∧ k.lane l % 2 ^ 32 < q.nmax then some (k.lane l % 2 ^ 32) else none

/-- SLUICE_OP at run time (R292). -/
def sluiceTrap (va : Nat) : Trap := { code := .sluiceOp, addr := BitVec.ofNat 64 va }

/-- The place of an update, when its translation reaches the target that the record names (R289, R292). -/
def State.sluicePlace (s : State) (g : Region) (q : SluiceCfg) (va : Nat) : Except Trap Nat :=
  match s.agentPa (g.memAgent false) va .amo with
  | .error e => .error e
  | .ok pa =>
    let hit := match target pa with
      | .home => q.tgt == 2
      | .host => q.tgt == 0
      | .peer _ _ => q.tgt == 1
      | .none => false
    if hit then (if q.tgt = 2 ∧ s.badAt .mem pa q.size = true then .error (eccAt .mem pa va) else .ok pa)
    else .error (sluiceTrap va)

/-- The lowest tag that no request holds. -/
def freeTag (q : SluiceCfg) (reqs : List SluiceReq) : Option Nat := (upto q.tags).find? (fun t => !reqs.any (fun x => x.tag == t))

/-- The old value of an update stands in its reply (R291). -/
def SluiceCfg.reply (q : SluiceCfg) (k : Token) (u old : Nat) : Token :=
  let (st, cl, ol) := q.layout
  let l := st * u + (if q.op = 9 then cl else ol)
  { k with lanes := putUnit (if q.wide then 1 else 2) k.lanes l old }

/-- The lanes of update u are active in its reply. -/
def SluiceCfg.replyMask (q : SluiceCfg) (u : Nat) : Nat :=
  let (st, cl, ol) := q.layout
  laneMask ([st * u] ++ (if q.op = 9 then q.span (st * u + cl) else []) ++ q.span (st * u + ol))

/-- The byte ranges of an update token's accesses (R286, R290). -/
def NodeCfg.updates (c : NodeCfg) (k : Token) (guard : Option Token) : List (Bool × Nat × Nat) :=
  let q := c.sluice
  (upto (16 / q.layout.1)).filterMap (fun u => (q.acts c.g k guard u).map (fun i => (false, q.vbase + i * q.size, q.size)))

/-- A sluice's tokens leave the compare queue once it does not hold them and none of their requests is in flight (R286). -/
def Region.sweep (r : Region) (nid : Nat) (v : NodeVar) : Region :=
  match v with
  | .sluice tok _ _ reqs _ seen =>
    { r with compares := r.compares.filter (fun e =>
        e.nid != nid || (tok.isSome && e.num + 1 == seen) || reqs.any (fun y => y.reply == e.num)) }
  | _ => r

/-- SLUICE_SEND (R290, R291): with a tag free, for with every tag held the node is not ready, the reply at the head leaves when it is complete, a marker when its turn comes, a token and its
guard are taken, or the next update is sent. -/
def execSluiceSend (r n : Nat) (s : State) : Host.Outcome State Fault Refusal :=
  event (fun s => s.nodeStep r n [8] 1 (fun s g c x =>
    match x.var with
    | .sluice tok guard u reqs replies seen =>
      let q := c.sluice
      if freeTag q reqs = none then none
      else
      let put (s : State) (g : Region) (v : NodeVar) (tag : Nat) : Option State :=
        some (s.setRegion ((g.setNode n (fun m => { m with var := v }.pass (c.out0 == none) tag)).sweep n v))
      let work : Option State :=
        match tok, (if c.g ∧ x.closed = false ∧ guard = none then s.stray g c else none) with
        | _, some g1 => some (s.setRegion g1)
        | none, none =>
          if x.closed then none
          else (match s.nodeTake g c 0 with
            | .nothing => none
            | .fault s1 => some s1
            | .ok k g1 =>
              if k.tag = 0 then
                let rep : Reply := { id := seen, tok := { tag := 0, mask := 0, lanes := k.lanes }, left := 0, closed := false }
                put s g1 (.sluice (some k) none 0 reqs (if q.ret then replies ++ [rep] else replies) (seen + 1)) 0
              else
                let rep : Reply := { id := seen, tok := k, left := 0, closed := true }
                put s g1 (.sluice none none 0 reqs (replies ++ [rep]) seen) 0)
        | some k, none =>
          if c.g ∧ guard = none then
            (match s.nodeTake g c 1 with
              | .nothing => none
              | .fault s1 => some s1
              | .ok gk g1 => put s g1 (.sluice tok (if gk.tag = 0 then some gk else none) u reqs replies seen) 0)
          else if g.mustEnter n (seen - 1) then (g.enter n (seen - 1) (c.updates k guard)).map s.setRegion
          else if s.chainOk g c (seen - 1) (c.updates k guard) = false then none
          else if 16 / q.layout.1 ≤ u then
            put s g (.sluice none none 0 reqs (replies.map (fun y => if y.id = seen - 1 then { y with closed := true } else y)) seen) 0
          else match q.acts c.g k guard u with
            | none => put s g (.sluice tok guard (u + 1) reqs replies seen) 0
            | some i =>
              let va := q.vbase + i * q.size
              if reqs.any (fun y => y.va == va) then none
              else match freeTag q reqs with
                | none => none
                | some tag =>
                  match s.sluicePlace g q va with
                  | .error e => some (s.nodeFault r n e)
                  | .ok pa =>
                    if s.linkFull pa then none
                    else
                    let (st, cl, ol) := q.layout
                    let (old, s1) :=
                      if q.tgt = 2 then
                        (let (o, s1) := s.amoMem (BitVec.ofNat 4 q.op) q.size pa (q.value k (st * u + ol)) (q.value k (st * u + cl))
                         (some o, s1))
                      else (none, s)
                    let req : SluiceReq := { tag := tag, va := va, reply := seen - 1, u := u, old := old, port := s.peerPort pa }
                    put s1 g (.sluice tok guard (u + 1) (reqs ++ [req])
                      (replies.map (fun y => if y.id = seen - 1 ∧ y.tok.tag = 0 then { y with left := y.left + 1 } else y)) seen) 0
      match replies with
      | y :: ys =>
        if y.closed ∧ y.left = 0 ∧ (y.tok.tag ≠ 3 ∨ reqs = []) ∧ g.roomFor c.out0 = true then
          (match s.nodeSend g n c.out0 y.tok with
            | .full => none
            | .fault s1 => some s1
            | .ok s1 g1 => put s1 g1 (.sluice tok guard u reqs ys seen) y.tok.tag)
        else work
      | [] => work
    | _ => none)) s

/-- SLUICE_COMPLETION (R291, R292): the completion of a request returns its old value and frees its tag. st 0 is success; any
other is Unsupported Request or Completer Abort, which raises SLUICE_OP. An update at the module's own memory completes with
the value that it read there. -/
def execSluiceCompletion (r n tag : Nat) (st : BitVec 2) (old : BitVec 64) (s : State) : Host.Outcome State Fault Refusal :=
  event (fun s => s.nodeStep r n [8] 2 (fun s g c x =>
    match x.var with
    | .sluice tok guard u reqs replies seen =>
      (match reqs.find? (fun y => y.tag == tag) with
        | none => none
        | some y =>
          let q := c.sluice
          let reqs1 := reqs.filter (fun z => z.tag != tag)
          if y.old = none ∧ st ≠ 0 then
            some ((s.setRegion (g.setNode n (fun m => { m with var := .sluice tok guard u reqs1 replies seen }))).nodeFault r n
              (sluiceTrap y.va))
          else
            let v := (y.old.getD old.toNat) % 2 ^ (8 * q.size)
            let fill (z : Reply) : Reply :=
              if z.id = y.reply ∧ z.tok.tag = 0 then
                let k := q.reply z.tok y.u v
                { z with tok := { k with mask := k.mask ||| q.replyMask y.u }, left := z.left - 1 }
              else z
            let v' : NodeVar := .sluice tok guard u reqs1 (replies.map fill) seen
            some (s.setRegion ((g.setNode n (fun m => { m with var := v' })).sweep n v')))
    | _ => none)) s

end Sys2Proof.Machine
end

