-- ==== Sys2Proof/Machine/Loader.lean ====
section
/-! DEFINITION. Configuration images: their layout and the checks of the loader (R82 to R92, R105 to R107, R165, R209, R214,
R220 to R226, R231 to R247, R249 to R255, R264 to R266, R278 to R292). -/

namespace Sys2Proof.Machine

/-! ### Bytes of an image -/

/-- n bytes of an image from an offset as a number (R5). -/
def imgNat (bs : List Byte) (off n : Nat) : Nat := ofLe ((bs.drop off).take n)

/-- Bytes of an image from one offset to another. -/
def imgBytes (bs : List Byte) (lo hi : Nat) : List Byte := (bs.drop lo).take (hi - lo)

/-- Bytes of an image are all zero. -/
def imgZero (bs : List Byte) (lo hi : Nat) : Bool := (imgBytes bs lo hi).all (fun b => b == 0)

/-- Why a load fails (R335): step, fault code, DETAIL and OFFSET. -/
structure LoadFail where
  step : Nat
  code : Code
  detail : Nat := 0
  offset : Nat := 0
  deriving DecidableEq, Repr

/-- A rejection with ILLEGAL. -/
def illegalAt (step offset : Nat) (detail : Nat := 0) : LoadFail :=
  { step := step, code := .illegal, detail := detail, offset := offset }

/-- A rejection with CFG_UE, which is step 1 (R264, R335). -/
def cfgUe (offset : Nat) : LoadFail := { step := 1, code := .cfgUe, offset := offset }

/-- A section table entry (R106). -/
structure Section where
  kind : Nat
  res : Nat
  rsz : Nat
  cnt : Nat
  off : Nat
  crc : Nat
  deriving DecidableEq, Repr

/-- NSEC and LEN of a header (R105). -/
def imgNsec (h : List Byte) : Nat := imgNat h 14 2
/-- LEN of a header (R105). -/
def imgLen (h : List Byte) : Nat := imgNat h 20 4

/-- NSEC and LEN bound a section table (R107 step 1, item 2). -/
def imgBounds (h : List Byte) : Bool :=
  decide (1 ≤ imgNsec h ∧ imgNsec h ≤ 8 ∧ imgLen h % 8 = 0 ∧ 64 + 16 * imgNsec h ≤ imgLen h)

/-- The section table (R106). -/
def sections (bs : List Byte) : List Section :=
  (upto (imgNsec bs)).map (fun e =>
    let o := 64 + 16 * e
    { kind := imgNat bs o 1, res := imgNat bs (o + 1) 1, rsz := imgNat bs (o + 2) 2, cnt := imgNat bs (o + 4) 4,
      off := imgNat bs (o + 8) 4, crc := imgNat bs (o + 12) 4 })

/-- The OFF of the next section in ascending order: among equal ones, that of the later entry of the table. -/
def Section.next (x : Section) (all : List Section) : Option Nat :=
  let after := (all.dropWhile (fun y => y != x)).drop 1
  match (all.map Section.off).filter (fun o => decide (x.off < o)) ++ (after.map Section.off).filter (fun o => o == x.off) with
  | [] => none
  | o :: os => some (os.foldl Nat.min o)

/-- Where the bytes of a section end (R107 step 1, item 3); none where its kind and record size bound none. -/
def Section.stop (x : Section) (all : List Section) (len : Nat) : Option Nat :=
  if x.rsz ≠ 0 then some (x.off + x.rsz * x.cnt)
  else if x.kind = 3 ∨ x.kind = 8 then some ((x.next all).getD len)
  else none

/-- A section that step 1 covers lies inside its bounds (R107 step 1, item 2); its end. -/
def Section.inside (x : Section) (all : List Section) (len : Nat) : Option Nat :=
  match x.stop all len with
  | none => none
  | some hi => if 64 + 16 * all.length ≤ x.off ∧ x.off ≤ hi ∧ hi ≤ len then some hi else none

/-- Offsets and sizes of the records of a section whose records vary in size (R88, R106); records that begin beyond its end
are left out. A pool record with a count above 64 is the last one: nothing says where a record after it would begin, and step
4 rejects it (R106). -/
def varRecords (bs : List Byte) (kind hi : Nat) : Nat → Nat → List (Nat × Nat)
  | 0, _ => []
  | n + 1, off =>
    if hi ≤ off then []
    else if kind = 8 ∧ 64 < imgNat bs (off + 2) 1 ∧ off + 4 ≤ hi then [(off, hi - off)]
    else
      let size := if kind = 3 then 40 + 4 * imgNat bs (off + 32) 1 else 4 + 4 * imgNat bs (off + 2) 1
      (off, size) :: varRecords bs kind hi n (off + size)

/-- Offsets and sizes of the records of a section. -/
def Section.records (x : Section) (bs : List Byte) (all : List Section) : List (Nat × Nat) :=
  if x.kind = 3 ∨ x.kind = 8 then varRecords bs x.kind ((x.stop all bs.length).getD x.off) x.cnt x.off
  else (upto x.cnt).map (fun i => (x.off + x.rsz * i, x.rsz))

/-- Step 1 after the header (R107): every section's CRC, then every record's. The offset of the first mismatch. -/
def crcFail (bs : List Byte) : Option Nat :=
  let all := sections bs
  let good (x : Section) : Option (Option Nat) := (x.inside all bs.length).map (fun hi =>
    if crc32c (imgBytes bs x.off hi) = x.crc then some hi else none)
  match all.find? (fun x => good x == some none) with
  | some x => some x.off
  | none =>
    let recs := all.flatMap (fun x =>
      match good x with
      | some (some hi) =>
        if x.kind = 3 ∨ (x.kind = 5 ∧ x.rsz = 64) then (x.records bs all).filter (fun p => decide (p.1 + p.2 ≤ hi)) else []
      | _ => [])
    ((recs.filter (fun p => crc32c (imgBytes bs p.1 (p.1 + p.2 - 4)) != imgNat bs (p.1 + p.2 - 4) 4)).map Prod.fst).foldl
      (fun acc o => match acc with | none => some o | some m => some (Nat.min m o)) none

/-- Record size and count limits of the section kinds (R106). -/
def kindLimits (kind : Nat) : Nat × Nat × Nat :=
  match kind with
  | 1 => (8, 1, 256) | 2 => (32, 0, 63) | 3 => (0, 0, 128) | 4 => (2, 0, 128) | 5 => (64, 0, 128) | 6 => (16, 0, 4096)
  | 7 => (32, 0, 4096) | _ => (0, 0, 128)

/-- A section of pool records with a count above 64 in one of them (R106: rejected at step 4). -/
def Section.overlong (x : Section) (bs : List Byte) (all : List Section) : Bool :=
  x.kind == 8 && (x.records bs all).any (fun p => decide (64 < imgNat bs (p.1 + 2) 1))

/-- The section of a kind. -/
def sectionOf (all : List Section) (kind : Nat) : Option Section := all.find? (fun x => x.kind == kind)

/-- Sections ascend, do not overlap, lie inside LEN, and the bytes between them are zero (R106); the first argument is where
the last one ended. Log entry 31: the bytes before the first section and after the last one are zero too, and two sections of
equal OFF, of which the first is empty, ascend. -/
def sectionsOrdered (bs : List Byte) (all : List Section) : Nat → List Section → Bool
  | at', [] => imgZero bs at' bs.length
  | at', x :: xs =>
    let stop := match (x.records bs all).getLast? with | some p => p.1 + p.2 | none => x.off
    decide (at' ≤ x.off ∧ stop ≤ bs.length) && ((x.records bs all).length == x.cnt || x.overlong bs all) && imgZero bs at' x.off &&
      sectionsOrdered bs all stop xs

/-- Step 2 of R107. -/
def layoutOk (bs : List Byte) : Bool :=
  let all := sections bs
  let n (k : Nat) : Nat := match sectionOf all k with | some x => x.cnt | none => 0
  imgBounds bs && imgNat bs 0 4 == 0x4943594C && imgNat bs 4 2 == 1 && imgZero bs 6 8 && imgZero bs 24 60 &&
  all.all (fun x =>
    let (rsz, lo, hi) := kindLimits x.kind
    decide (1 ≤ x.kind ∧ x.kind ≤ 8 ∧ x.res = 0 ∧ x.rsz = rsz ∧ lo ≤ x.cnt ∧ x.cnt ≤ hi ∧ x.off % 8 = 0)) &&
  decide ((all.map Section.kind).Nodup) && (sectionOf all 1).isSome && n 3 == n 4 &&
  sectionsOrdered bs all (64 + 16 * all.length) all

/-! ### Stages and tiles (R82 to R89, R165, R209, R214, R223 to R226, R231 to R244) -/

/-- A stage word (R82). -/
def stageWord (v : Nat) : StageWord :=
  { op := nfield v 25 7, sa := nfield v 22 3, sb := nfield v 19 3, sc := nfield v 16 3, dst := nfield v 13 3,
    fmt := nfield v 9 4, imm := nfield v 0 9 }

/-- An assigned stage op (R85). -/
def opAssigned (op : Nat) : Bool :=
  decide (op ≤ 4 ∨ (8 ≤ op ∧ op ≤ 0x1B) ∨ (0x20 ≤ op ∧ op ≤ 0x2B) ∨ (0x30 ≤ op ∧ op ≤ 0x3B) ∨ (0x40 ≤ op ∧ op ≤ 0x42))

/-- The Formats column of R85, with the narrower sets of R238, R239 and R243. -/
def fmtOk (op fmt : Nat) : Bool :=
  if op ≤ 4 ∨ op = 0x3B ∨ op = 0x42 then fmt == 0
  else if op = 0x18 ∨ (0x30 ≤ op ∧ op ≤ 0x32) ∨ op = 0x37 ∨ op = 0x3A then decide (fmt ≤ 0xD)
  else if 8 ≤ op ∧ op ≤ 0x1B then intFmt fmt
  else if op = 0x27 ∨ op = 0x33 ∨ op = 0x34 ∨ op = 0x41 then floatFmt fmt || intFmt fmt
  else if op = 0x35 ∨ op = 0x36 then decide (fmt = 3 ∨ fmt = 4) || narrowFmt fmt
  else if op = 0x38 ∨ op = 0x39 then decide (fmt ≤ 6 ∨ fmt = 0xD) || intFmt fmt
  else if op = 0x40 then decide (1 ≤ fmt ∧ fmt ≤ 0xC)
  else floatFmt fmt

/-- The op's IMM is an immediate of its own (R223). -/
def ownImm (op fmt : Nat) : Bool :=
  op == 0x03 || op == 0x04 || op == 0x17 || op == 0x26 || op == 0x27 || (op == 0x30 && fmt != 0xA) ||
    decide (0x31 ≤ op ∧ op ≤ 0x37) || op == 0x3A || op == 0x3B || op == 0x40

/-- An op's own immediate is legal (R231, R233, R234, R236 to R238, R240, R242, R243). -/
def immOk (op fmt imm : Nat) : Bool :=
  match op with
  | 0x03 => imm % 8 == 0 || imm % 8 == 2 || imm % 8 == 6
  | 0x04 => decide (imm < 128)
  | 0x17 => decide (imm ≤ 5)
  | 0x26 => decide (imm ≤ 2)
  | 0x27 => decide (imm < 16) && (floatFmt imm || intFmt imm)
  | 0x30 => decide (imm < 64)
  | 0x31 => decide (imm ≤ 62)
  | 0x32 => decide (imm < 16) && (fmt != 1 || imm % 2 == 0)
  | 0x33 => decide (imm ≤ 2)
  | 0x34 => decide (imm ≤ 2)
  | 0x35 => decide (2 ≤ imm ∧ imm ≤ 4)
  | 0x36 => decide (imm < 32 ∧ 2 ≤ imm % 16 ∧ imm % 16 ≤ 4)
  | 0x37 => decide (imm ≤ 1)
  | 0x3A => decide (imm ≤ 63)
  | 0x3B => decide (1 ≤ imm ∧ imm ≤ 3)
  | _ => true

/-- The scratch neighbour of a position lies inside the region (R165). In a region as high or as wide as its stripe the
wrapped neighbour does (R14). -/
def neighbourInside (rows cols pos d : Nat) : Bool :=
  match d with
  | 0 => decide (1 ≤ pos / 32 ∨ rows = 8)
  | 1 => decide (pos % 32 + 1 < cols ∨ cols = 32)
  | 2 => decide (pos / 32 + 1 < rows ∨ rows = 8)
  | _ => decide (1 ≤ pos % 32 ∨ cols = 32)

/-- A scratch-stream descriptor in use is legal (R165, R225). -/
def TileCfg.descOk (c : TileCfg) (rows cols entry : Nat) (mma : Bool) : Bool :=
  let d := c.cp entry
  decide (entry < 64 ∧ d % 16 = 0 ∧ nfield d 16 12 + nfield d 4 12 + 1 ≤ 4096) && (mma || nfield d 28 4 == 0) &&
    (c.stream entry).1.all (neighbourInside rows cols c.pos)

/-- The rules of R224 and R243 for pln.mma. -/
def TileCfg.mmaOk (c : TileCfg) (rows cols : Nat) (w : StageWord) : Bool :=
  let fb := w.imm % 16
  let k := w.imm / 16 + 1
  let operand (sel fmt : Nat) (b : Bool) : Bool :=
    if sel = 5 then c.descOk rows cols (if b then 63 else 62) true else decide (16 * k * storedWidth c.prec b fmt ≤ 512)
  decide (2 ^ k.log2 = k ∧ 1 ≤ w.sa ∧ w.sa ≤ 5 ∧ 1 ≤ w.sb ∧ w.sb ≤ 5) && fmtOk 0x40 fb && (intFmt w.fmt == intFmt fb) &&
    operand w.sa w.fmt false && operand w.sb fb true &&
    (fieldOf c.prec 59 2 == 0 || (c.descOk rows cols 60 true && c.descOk rows cols 61 true))

/-- An enabled stage is legal (R85, R86, R214, R223, R231 to R244). -/
def TileCfg.stageOk (c : TileCfg) (rows cols i : Nat) : Bool :=
  let w := c.stage i
  let used := opSources w.op
  let unused := [w.sa, w.sb, w.sc].drop used
  let acc := w.op == 0x0B || w.op == 0x23
  let uses := (if w.sels.contains 6 then 1 else 0) + (if w.streams then 1 else 0) + (if ownImm w.op w.fmt then 1 else 0)
  opAssigned w.op && fmtOk w.op w.fmt && unused.all (fun x => x == 0 || x == 7) &&
  ((w.sels.take 2).all (fun x => x != 7) || w.op == 0x41) && (!(w.sels.drop 2).contains 7 || acc) &&
  (w.op != 0x41 || w.sa == 7) &&
  (!w.sels.contains 0 || (c.lower i).isSome) && !(i == 5 && w.dst == 0) &&
  (w.dst != 7 || w.op == 0x08 || w.op == 0x20 || acc || w.op == 0x40) && (w.op != 0x40 || (w.dst == 7 && i == 3)) &&
  (w.op != 0x39 || w.dst == 5) && (!(w.op == 0 || w.op == 0x42 || w.op == 0x3B) || w.dst == 0) &&
  (!w.sels.contains 6 || decide (w.imm < 64)) &&
  decide (uses ≤ 1) && (uses == 1 || w.imm == 0) && (!ownImm w.op w.fmt || immOk w.op w.fmt w.imm) &&
  (!w.streams || c.descOk rows cols w.imm false) &&
  (!(w.op == 0x38 || w.op == 0x39) || (neighbourInside rows cols c.pos c.psn &&
    (!intFmt w.fmt || [8, 16, 32].contains (precWidth c.prec false)))) &&
  (w.op != 0x40 || c.mmaOk rows cols w)

/-- No two elements of a list are equal under a key that is none for those that do not count. -/
def keysDistinct {α : Type} (key : α → Option Nat) (l : List α) : Bool := decide ((l.filterMap key).Nodup)

/-- The rules of one tile that step 4 of R107 checks: its header (R87), its stages (R86), its switch entries (R89, R165), its
PREC entry (R209) and its accumulator (R226). `h` is the header, `word` gives the stage words as stored. The port circuit of
R165 that would reach a scratch position outside the region is read as an out-bound one (log entry 31): R382 and R388 show
images that load with in-bound ports at the region's edge. -/
def TileCfg.ok (c : TileCfg) (rows cols h nprec nbook : Nat) (words : List Nat) : Bool :=
  let on (i : Nat) : Bool := c.sen.testBit i
  let ws := c.enabled.map c.stage
  let accs := ws.filter (fun w => w.dst == 7)
  let reads := ws.any (fun w => (w.op == 0x0B || w.op == 0x23) && w.sc == 7)
  let lk4 := ws.any (fun w => w.fmt == 0xA || (w.op == 0x40 && w.imm % 16 == 0xA))
  let cbx := nfield h 38 6
  (upto 6).all (fun i => if on i then decide (c.phases.getD i 0 < c.ii) else c.phases.getD i 0 == 0 && words.getD i 0 == 0) &&
  decide (nfield h 44 8 < nprec) && (cbx == 63 || decide (cbx < nbook)) && (cbx != 63 || !lk4) &&
  c.enabled.all (c.stageOk rows cols) &&
  keysDistinct (fun i => let d := (c.stage i).dst; if 1 ≤ d ∧ d ≤ 5 then some (d * 64 + c.phases.getD i 0) else none) c.enabled &&
  c.sw.all (fun e => decide (1 ≤ e.port ∧ e.port ≤ 4) && (!e.out || neighbourInside rows cols c.pos (e.port - 1))) &&
  keysDistinct (fun e => some (e.port * 2 + (if e.out then 1 else 0))) c.sw &&
  precValid c c.prec && decide (accs.length ≤ 1) && decide ((ws.filter (fun w => w.op == 0x41)).length ≤ 1) &&
  (!reads || accs.any (fun w => w.op != 0x40))

/-- A tile record read at an offset (R87 to R89), with what its header names. -/
def parseTile (bs : List Byte) (off pos : Nat) (precs books : List Nat) (pools : List (Nat × List Nat)) : TileCfg :=
  let h := imgNat bs off 8
  { pos := pos, ii := nfield h 58 6 + 1, sen := nfield h 52 6, psn := nfield h 36 2,
    phases := (upto 6).map (fun i => nfield h (6 * i) 6),
    stages := (upto 6).map (fun i => stageWord (imgNat bs (off + 8 + 4 * i) 4)),
    sw := (upto (imgNat bs (off + 32) 1)).map (fun i =>
      let e := imgNat bs (off + 36 + 4 * i) 4
      { port := nfield e 29 3, out := e.testBit 28, circ := nfield e 16 12 }),
    prec := BitVec.ofNat 64 (precs.getD (nfield h 44 8) 0),
    book := match books[nfield h 38 6]? with
      | some b => (upto 16).map (fun i => nfield b (16 * i) 16)
      | none => [],
    pool := (assoc pools pos).getD [] }

/-- The records of an image by section: offsets of the PREC entries, codebooks, tiles, positions, nodes, links, cisterns and
pools. -/
structure ImgIndex where
  precs : List Nat
  books : List Nat
  tiles : List Nat
  poss : List Nat
  nodes : List Nat
  links : List Nat
  cisterns : List Nat
  pools : List Nat

/-- The records of an accepted layout. -/
def imgIndex (bs : List Byte) : ImgIndex :=
  let all := sections bs
  let f (k : Nat) : List Nat := match sectionOf all k with | some x => (x.records bs all).map Prod.fst | none => []
  { precs := f 1, books := f 2, tiles := f 3, poss := f 4, nodes := f 5, links := f 6, cisterns := f 7, pools := f 8 }

/-- The constant pools by position (R106). -/
def imgPools (bs : List Byte) (x : ImgIndex) : List (Nat × List Nat) :=
  x.pools.map (fun o => (imgNat bs o 2, (upto (imgNat bs (o + 2) 1)).map (fun i => imgNat bs (o + 4 + 4 * i) 4)))

/-- The tiles of an image. -/
def imgTiles (bs : List Byte) (x : ImgIndex) : List TileCfg :=
  let precs := x.precs.map (fun o => imgNat bs o 8)
  let books := x.books.map (fun o => imgNat bs o 32)
  let pools := imgPools bs x
  (x.tiles.zip x.poss).map (fun p => parseTile bs p.1 (imgNat bs p.2 2) precs books pools)

/-- A position of a region that is a compute tile (R90, R106). -/
def posOk (rows cols pos : Nat) : Bool :=
  decide (pos < 256 ∧ pos / 32 < rows ∧ pos % 32 < cols ∧ (pos / 32 + pos % 32) % 2 = 0)

/-- Position records ascend (R106); a record that does not is found with its offset. -/
def posChecks (bs : List Byte) (rows cols : Nat) : Option Nat → List Nat → List (Nat × Bool)
  | _, [] => []
  | last, o :: os =>
    let p := imgNat bs o 2
    (o, posOk rows cols p && (match last with | some l => decide (l < p) | none => true)) :: posChecks bs rows cols (some p) os

/-- Pool records name distinct positions of tile records (R106). -/
def poolChecks (bs : List Byte) (tiles : List Nat) : List Nat → List Nat → List (Nat × Bool)
  | _, [] => []
  | seen, o :: os =>
    let p := imgNat bs o 2
    let n := imgNat bs (o + 2) 1
    (o, decide (1 ≤ n ∧ n ≤ 64) && imgNat bs (o + 3) 1 == 0 && tiles.contains p && !seen.contains p) ::
      poolChecks bs tiles (p :: seen) os

/-- The lowest offset of a failed check (R107). -/
def firstBad (l : List (Nat × Bool)) : Option Nat :=
  ((l.filter (fun p => !p.2)).map Prod.fst).foldl (fun acc o => match acc with | none => some o | some m => some (Nat.min m o)) none

/-- Step 4 of R107: PREC entries, tile records, positions and pools. -/
def tilesFail (bs : List Byte) (x : ImgIndex) (rows cols : Nat) : Option Nat :=
  let tiles := imgTiles bs x
  firstBad (
    x.precs.map (fun o => (o, precFields (BitVec.ofNat 64 (imgNat bs o 8)))) ++
    (x.tiles.zip tiles).map (fun p =>
      let o := p.1
      (o, imgNat bs (o + 32) 4 ≤ 8 && (upto (imgNat bs (o + 32) 1)).all (fun i => imgNat bs (o + 36 + 4 * i) 2 == 0) &&
        p.2.ok rows cols (imgNat bs o 8) x.precs.length x.books.length ((upto 6).map (fun i => imgNat bs (o + 8 + 4 * i) 4)))) ++
    posChecks bs rows cols none x.poss ++ poolChecks bs (x.poss.map (fun o => imgNat bs o 2)) [] x.pools)

/-! ### Nodes (R90 to R92, R246, R257 to R259, R265, R278, R282, R285, R287, R289) -/

/-- A circuit binding (R90). -/
def binding (v : Nat) : Option Nat := if v.testBit 15 then some (v % 4096) else none

/-- A node record read at an offset (R90). -/
def parseNode (bs : List Byte) (o : Nat) : NodeCfg :=
  { pos := imgNat bs (o + 2) 2 % 256, kind := imgNat bs o 1, nid := imgNat bs (o + 4) 2 % 4096, kfl := imgNat bs (o + 7) 1,
    g := (imgNat bs (o + 6) 1).testBit 0, in0 := binding (imgNat bs (o + 8) 2), in1 := binding (imgNat bs (o + 10) 2),
    out0 := binding (imgNat bs (o + 12) 2), out1 := binding (imgNat bs (o + 14) 2), body := imgBytes bs o (o + 64) }

/-- Bytes of a node's record are zero. -/
def NodeCfg.zero (c : NodeCfg) (lo hi : Nat) : Bool := ((c.body.drop lo).take (hi - lo)).all (fun b => b == 0)

/-- A node of a region that can be the predecessor in a chain (R285). -/
def NodeCfg.chains (c : NodeCfg) : Bool := c.kind == 4 || c.kind == 5 || c.kind == 8

/-- OV, OPRED and LAG of a chained node (R282, R289). -/
def NodeCfg.pred (c : NodeCfg) : Option (Nat × Nat) :=
  let o := if c.kind = 8 then 32 else 30
  if c.chains ∧ (c.field o 2).testBit 15 then some (c.field o 2 % 4096, c.field (o + 2) 1 % 16) else none

/-- A chain of a node comes back to it with a sum of LAG of 0 (R285). -/
def chainZero (nodes : List NodeCfg) (goal : Nat) : Nat → Nat → Bool
  | 0, _ => false
  | n + 1, nid =>
    match nodes.find? (fun c => c.nid == nid) with
    | none => false
    | some c =>
      match c.pred with
      | some (p, 0) => p == goal || chainZero nodes goal n p
      | _ => false

/-- The rules of a chain (R285). -/
def NodeCfg.chainOk (c : NodeCfg) (nodes : List NodeCfg) : Bool :=
  match c.pred with
  | none => true
  | some (p, _) => p != c.nid && nodes.any (fun d => d.nid == p && d.chains) && !chainZero nodes c.nid (nodes.length + 1) c.nid

/-- A body keeps to its kind's map (R246, R257 to R259, R265, R278, R282, R287, R289). Log entry 31: an IN1 that the kind, G or
TWO does not call for, and an OUT1 of an esc, are rejected; the kinds of OFMT and IFMT are those of R226. -/
def NodeCfg.bodyOk (c : NodeCfg) (nodes : List NodeCfg) : Bool :=
  let f := c.field
  let i0 := c.in0.isSome
  let i1 := c.in1.isSome
  let o0 := c.out0.isSome
  let o1 := c.out1.isSome
  let va (v : Nat) : Bool := decide (v < 2 ^ 56)
  match c.kind with
  | 1 => c.kfl == 0 && !i0 && !i1 && o0 && !o1 && decide (f 16 1 ≤ 1) && f 17 1 == 0 && (f 16 1 == 1 || f 18 2 == 0) && c.zero 20 60
  | 2 => c.kfl == 0 && i0 && !i1 && !o0 && !o1 && decide (f 16 1 ≤ 1) && f 17 1 == 0 && f 20 2 != 0 && c.zero 22 60
  | 3 =>
    let stream (s : Nat) : Bool :=
      let o := 16 + 20 * s
      let out := if s = 0 then o0 else o1
      if (f (o + 7) 1).testBit 0 then out && decide (f o 7 < 2 ^ 50) && decide (f (o + 7) 1 < 16)
      else !out && c.zero o (o + 20)
    c.kfl == 0 && !i1 && ((f 23 1).testBit 0 || (f 43 1).testBit 0) && stream 0 && stream 1 && c.zero 56 60
  | 4 =>
    let a := f 28 1
    c.kfl == 0 && i0 && (i1 == c.g) && o0 && !o1 && (if a.testBit 4 then decide (f 16 8 < 2 ^ 33) else va (f 16 8)) &&
      f 16 8 % 2 ^ (a / 64) == 0 && a % 8 == 0 && f 29 1 == 0 && nfield (f 30 2) 12 3 == 0 && decide (f 32 1 < 16) &&
      c.zero 33 60 && c.chainOk nodes
  | 5 =>
    let a := f 28 1
    c.kfl == 0 && i0 && i1 && !o0 && !o1 && (if a.testBit 4 then decide (f 16 8 < 2 ^ 33) else va (f 16 8)) &&
      f 16 8 % 2 ^ (a / 64) == 0 && a % 8 == 0 && !a.testBit 5 && f 29 1 == 0 && nfield (f 30 2) 12 3 == 0 &&
      decide (f 32 1 < 16) && c.zero 33 60 && c.chainOk nodes
  | 6 =>
    let ifm := f 16 1 % 16
    let ofm := f 16 1 / 16
    decide (c.kfl ≤ 1) && i0 && (i1 == c.kfl.testBit 0) && o0 && !o1 && [1, 2, 3, 4, 0xB].contains ifm &&
      [1, 2, 3, 4, 0xB].contains ofm && accnKind ifm == accnKind ofm && decide (f 17 1 < 16 ∧ f 17 1 % 8 ≤ 5) && c.zero 20 60
  | 7 =>
    decide (c.kfl < 8) && i0 && (i1 == c.g) && o0 && !o1 && f 16 8 % 4 == 0 && va (f 16 8) && f 32 8 % 4096 == 0 &&
      decide (f 40 2 < 4096) && c.zero 42 60
  | 8 =>
    let a := f 24 1
    c.kfl == 0 && i0 && (i1 == c.g) && !o1 && (!a.testBit 5 || o0) && decide (a / 64 ≤ 2 ∧ a % 16 ≤ 9) && va (f 16 8) &&
      f 16 8 % (if a.testBit 4 then 8 else 4) == 0 && f 25 1 == 0 && decide (1 ≤ f 26 2 ∧ f 26 2 ≤ 32) &&
      nfield (f 32 2) 12 3 == 0 && decide (f 34 1 < 16) && c.zero 35 60 && c.chainOk nodes
  | 9 =>
    c.kfl == 0 && !i1 && o0 && !o1 && f 16 8 % 8 == 0 && f 24 8 % 8 == 0 && ((f 36 1).testBit 0 || f 24 8 == 0) &&
      f 32 4 != 0 && decide (f 36 1 < 8) && c.zero 37 60
  | _ => c.kfl == 0 && !i0 && !i1 && o0 && !o1 && c.zero 16 18 && c.zero 20 60

/-- The rules of R92 for a node record, with the records before it. -/
def nodeChecks (bs : List Byte) (rows cols : Nat) (tiles : List Nat) (all : List NodeCfg) :
    List NodeCfg → List Nat → List (Nat × Bool)
  | _, [] => []
  | seen, o :: os =>
    let c := parseNode bs o
    let v (i : Nat) : Nat := imgNat bs (o + 8 + 2 * i) 2
    (o, decide (1 ≤ c.kind ∧ c.kind ≤ 0xA) && imgNat bs (o + 1) 1 == 0 && imgNat bs (o + 3) 1 == 0 &&
      decide (imgNat bs (o + 4) 2 < 4096 ∧ imgNat bs (o + 6) 1 ≤ 1) && posOk rows cols c.pos && !tiles.contains c.pos &&
      !seen.any (fun d => d.nid == c.nid || d.pos == c.pos) && (!c.g || [4, 5, 7, 8].contains c.kind) &&
      (upto 4).all (fun i => nfield (v i) 12 3 == 0 && ((v i).testBit 15 || v i == 0)) && c.bodyOk all) ::
      nodeChecks bs rows cols tiles all (c :: seen) os

/-- What a load is checked against besides the image: the region's shape, the handle requested, the tile level's extent
(R327), whether escape slots are bound (R266), the context's free link slots (R254) and channels (R253), AtomicOp Requester
Enable and a trained port (R292). `taken` holds the channels that bound nodes read and write. -/
structure LoadEnv where
  rows : Nat
  cols : Nat
  handle : Nat
  extent : Option Nat
  escapes : Bool
  free : Nat
  chans : List Chan
  taken : List (Nat × Bool)
  atomReq : Bool
  port : Bool

/-- A sluice's OP can be carried by its TGT (R292). -/
def sluiceCarried (e : LoadEnv) (c : NodeCfg) : Bool :=
  let op := c.field 24 1 % 16
  match c.field 24 1 / 64 with
  | 0 => (op == 0 || op == 8 || op == 9) && e.atomReq
  | 1 => e.port
  | _ => true

/-- Step 5 of R107: the maps, then the esc rejection of R266, then the sluices of R292. -/
def nodesFail (bs : List Byte) (x : ImgIndex) (e : LoadEnv) (nodes : List NodeCfg) : Option LoadFail :=
  match firstBad (nodeChecks bs e.rows e.cols (x.poss.map (fun o => imgNat bs o 2)) nodes [] x.nodes) with
  | some o => some (illegalAt 5 o)
  | none =>
    let at' := x.nodes.zip nodes
    let low := (at'.filter (fun p => p.2.kind == 7)).foldl (fun (acc : Option (Nat × NodeCfg)) p =>
      match acc with
      | none => some p
      | some b => if p.2.nid < b.2.nid then some p else some b) none
    match (if e.escapes then none else low) with
    | some p => some (illegalAt 5 p.1 p.2.nid)
    | none =>
      match at'.find? (fun p => p.2.kind == 8 && !sluiceCarried e p.2) with
      | some p => some { step := 5, code := .sluiceOp, detail := p.2.nid, offset := p.1 }
      | none => none

/-! ### Circuits, cisterns and channels (R248 to R255) -/

/-- One end of a circuit: tile or node by its position, its port, and the offset of its record. -/
structure CircEnd where
  node : Bool
  pos : Nat
  port : Nat
  off : Nat
  deriving DecidableEq, Repr

/-- The out-bound and the in-bound ends of a circuit (R248). -/
def circEnds (tiles : List (Nat × TileCfg)) (nodes : List (Nat × NodeCfg)) (c : Nat) : List CircEnd × List CircEnd :=
  let sw (out : Bool) : List CircEnd := tiles.flatMap (fun t => (t.2.sw.filter (fun e => e.out == out && e.circ == c)).map
    (fun e => { node := false, pos := t.2.pos, port := e.port, off := t.1 }))
  let nb (i : Nat) (f : NodeCfg → Option Nat) : List CircEnd := (nodes.filter (fun n => f n.2 == some c)).map
    (fun n => { node := true, pos := n.2.pos, port := i, off := n.1 })
  (sw true ++ nb 0 NodeCfg.out0 ++ nb 1 NodeCfg.out1, sw false ++ nb 0 NodeCfg.in0 ++ nb 1 NodeCfg.in1)

/-- Every end lies on a tile (R248). -/
def timedEnds (e : List CircEnd × List CircEnd) : Bool := (e.1 ++ e.2).all (fun x => !x.node)

/-- The ports that a tile's enabled stages read, or send on. -/
def TileCfg.ports (c : TileCfg) (out : Bool) : List Nat :=
  (c.enabled.map c.stage).flatMap (fun w => if out then [w.dst].filter (fun p => decide (1 ≤ p ∧ p ≤ 4))
    else w.sels.filter (fun p => decide (1 ≤ p ∧ p ≤ 4)))

/-- A link rejection detail word (R252). -/
def linkDetail (reason num : Nat) (noc : Bool) (pos : Nat) : Nat :=
  reason * 2 ^ 24 + num % 4096 * 2 ^ 12 + (if noc then 256 else 0) + pos % 256

/-- A link record read at an offset: SLOTS, DIST, CISX, and whether its reserved bytes are zero (R249). -/
def linkAt (bs : List Byte) (o : Nat) : Nat × Nat × Nat × Bool :=
  (imgNat bs o 1, imgNat bs (o + 1) 1, imgNat bs (o + 2) 2, imgZero bs (o + 4) (o + 16))

/-- A cistern record at an offset keeps R255 for a circuit that names it. -/
def cisternOk (bs : List Byte) (o circ ins : Nat) : Bool :=
  let vb := imgNat bs o 8
  let size := imgNat bs (o + 8) 4
  decide (vb % 4096 = 0 ∧ vb < 2 ^ 56 ∧ size % 4096 = 0 ∧ 4096 ≤ size ∧ imgNat bs (o + 12) 2 = circ ∧ ins ≤ 1) &&
    imgZero bs (o + 14) (o + 32)

/-- R250 for a timed circuit: the same II, L not negative, and slots enough, at every in-bound end; one stage sends on it. -/
def timedOk (tiles : List (Nat × TileCfg)) (e : List CircEnd × List CircEnd) (slots dist : Nat) : Bool :=
  let tile (p : Nat) : TileCfg := match tiles.find? (fun t => t.2.pos == p) with | some t => t.2 | none => TileCfg.idle
  match e.1 with
  | [o] =>
    let pt := tile o.pos
    let prods := pt.enabled.filter (fun i => (pt.stage i).dst == o.port)
    decide (prods.length ≤ 1) && e.2.all (fun i =>
      let ct := tile i.pos
      prods.all (fun p => (ct.enabled.filter (fun j => (ct.stage j).sels.contains i.port)).all (fun j =>
        let have' := ct.off j + dist * ct.ii
        let need := pt.off p + 1
        decide (ct.ii = pt.ii ∧ need ≤ have' ∧ Nat.max dist (ceilDiv (have' - need) ct.ii) ≤ slots))))
  | _ => true

/-- The checks of one circuit, in their order (R252 pass 1): the REASON and offset of the first that fails. -/
def circuitFail (bs : List Byte) (x : ImgIndex) (tiles : List (Nat × TileCfg)) (nodes : List (Nat × NodeCfg)) (c : Nat) :
    Option (Nat × Nat) :=
  let e := circEnds tiles nodes c
  match x.links[c]? with
  | none =>
    match (e.1 ++ e.2).map CircEnd.off with
    | [] => none
    | o :: os => some (0x13, os.foldl Nat.min o)
  | some o =>
    let (slots, dist, cisx, res) := linkAt bs o
    let timed := timedEnds e
    let cis := if cisx = 0xFFFF then true
      else match x.cisterns[cisx]? with
        | none => false
        | some q => !timed && cisternOk bs q c e.2.length
    -- a cistern record of this circuit that the link does not name
    let stray := (upto x.cisterns.length).any (fun i => imgNat bs (x.cisterns.getD i 0 + 12) 2 == c && i != cisx)
    let unused := tiles.any (fun t => t.2.sw.any (fun s => s.circ == c && !(t.2.ports s.out).contains s.port))
    if res = false ∨ 32 < slots ∨ 32 < dist ∨ (timed = false ∧ dist ≠ 0) ∨ cis = false ∨ stray = true then some (0x13, o)
    else if e.1.length ≠ 1 ∨ e.2 = [] ∨ unused = true then some (0x14, o)
    else if timed ∧ timedOk tiles e slots dist = false then some (0x11, o)
    else none

/-- Circuits that a unit which consumes one of a set of circuits produces. -/
def circNext (ends : List (List CircEnd × List CircEnd)) (zero set : List Nat) : List Nat :=
  zero.filter (fun d => ((ends.getD d ([], [])).1).any (fun o =>
    set.any (fun c => ((ends.getD c ([], [])).2).any (fun i => i.node == o.node && i.pos == o.pos))))

/-- Circuits that can be reached from a set, in at most n steps. -/
def circReach (ends : List (List CircEnd × List CircEnd)) (zero : List Nat) : Nat → List Nat → List Nat
  | 0, set => set
  | n + 1, set =>
    let more := (circNext ends zero set).filter (fun c => !set.contains c)
    if more = [] then set else circReach ends zero n (set ++ more)

/-- The lowest circuit on a zero-slot cycle (R252 pass 2). -/
def zeroCycle (bs : List Byte) (x : ImgIndex) (ends : List (List CircEnd × List CircEnd)) : Option Nat :=
  let zero := (upto x.links.length).filter (fun c =>
    let (slots, _, cisx, _) := linkAt bs (x.links.getD c 0); slots == 0 && cisx == 0xFFFF)
  zero.find? (fun c => (circReach ends zero zero.length (circNext ends zero [c])).contains c)

/-- Link slots that an image's node circuits draw (R254): the slots of each in-bound end. -/
def Image.nodeSlots (i : Image) : Nat :=
  let tiles := i.tiles.map (fun t => (0, t))
  let nodes := i.nodes.map (fun n => (0, n))
  ((upto i.links.length).map (fun c =>
    let e := circEnds tiles nodes c
    if timedEnds e then 0 else (match i.links[c]? with | some l => l.slots | none => 0) * e.2.length)).sum

/-- The channel that a node names, and whether it writes it (R257 to R259). -/
def NodeCfg.channel (c : NodeCfg) : Option (Nat × Bool) :=
  match c.kind with
  | 1 => if c.field 16 1 = 1 then some (c.field 18 2, false) else none
  | 2 => if c.field 16 1 = 1 then some (c.field 18 2, true) else none
  | 0x0A => some (c.field 18 2, false)
  | _ => none

/-- A node may take the side of a channel that it names (R253). -/
def channelOk (chans : List Chan) (taken : List (Nat × Bool)) (c : NodeCfg) (ch : Nat × Bool) : Bool :=
  match chans.find? (fun k => k.num == ch.1) with
  | none => false
  | some k =>
    !taken.contains ch &&
      (match c.kind with
        | 1 => k.prod == 1 && k.cons == 1
        | 2 => k.prod == 1
        | _ => k.prod == 2 && k.cons == 1)

/-- Pass 5 of R252, nodes in ascending position. -/
def channelFail (chans : List Chan) : List (Nat × Bool) → List (Nat × NodeCfg) → Option (Nat × Nat × Nat)
  | _, [] => none
  | taken, n :: ns =>
    match n.2.channel with
    | none => channelFail chans taken ns
    | some ch => if channelOk chans taken n.2 ch then channelFail chans (ch :: taken) ns else some (n.1, ch.1, n.2.pos)

/-- Step 6 of R107 (R252). -/
def linksFail (bs : List Byte) (x : ImgIndex) (e : LoadEnv) (img : Image) : Option LoadFail :=
  let tiles := x.tiles.zip img.tiles
  let nodes := x.nodes.zip img.nodes
  let named := tiles.flatMap (fun t => t.2.sw.map SwEntry.circ) ++
    nodes.flatMap (fun n => [n.2.in0, n.2.in1, n.2.out0, n.2.out1].filterMap id)
  let top := named.foldl (fun m c => Nat.max m (c + 1)) x.links.length
  match (upto top).findSome? (fun c => (circuitFail bs x tiles nodes c).map (fun r => (c, r))) with
  | some (c, reason, o) => some (illegalAt 6 o (linkDetail reason c false 0))
  | none =>
    let ends := (upto x.links.length).map (circEnds tiles nodes)
    match zeroCycle bs x ends with
    | some c => some (illegalAt 6 (x.links.getD c 0) (linkDetail 0x10 c false 0))
    | none =>
      match tiles.find? (fun t => [false, true].any (fun out => (t.2.ports out).any (fun p =>
          !t.2.sw.any (fun s => s.out == out && s.port == p)))) with
      | some t => some (illegalAt 6 t.1 (linkDetail 0x14 0 true t.2.pos))
      | none =>
        if e.free < img.nodeSlots then some (illegalAt 6 0 (linkDetail 0x12 0 true 0))
        else match channelFail e.chans e.taken (sortBy (fun n => n.2.pos) nodes) with
          | some (o, ch, pos) => some (illegalAt 6 o (linkDetail 0x15 ch true pos))
          | none => none

/-! ### The precision cost, and the whole check (R107, R221) -/

/-- The detail word of a tile that fails R220 (R221). -/
def costDetail (c : TileCfg) : Option Nat :=
  if costOk c c.prec then none
  else
    let cells := tileCells c c.prec
    let bytes := (upto 4).map (tileBytes c c.prec)
    let minii := (bytes.map (fun b => ceilDiv b 64)).foldl Nat.max (ceilDiv cells 65536)
    let low := c.pos * 256 + (if minii ≤ 64 then minii else 0)
    if 65536 * c.ii < cells then some (0x01 * 2 ^ 24 + low)
    else match bytes.findIdx? (fun b => decide (64 * c.ii < b)) with
      | some d => some (0x02 * 2 ^ 24 + (d + 1) * 2 ^ 16 + low)
      | none => none

/-- A link record with its cistern (R249, R255). -/
def linkCfg (bs : List Byte) (x : ImgIndex) (o : Nat) : LinkCfg :=
  let (slots, dist, cisx, _) := linkAt bs o
  match x.cisterns[cisx]? with
  | some q => { slots := slots, dist := dist, vbase := imgNat bs q 8, size := imgNat bs (q + 8) 4 }
  | none => { slots := slots, dist := dist, vbase := 0, size := 0 }

/-- The image that the bytes hold. -/
def parseImage (bs : List Byte) : Image :=
  let x := imgIndex bs
  { handle := imgNat bs 8 4, rows := imgNat bs 12 1, cols := imgNat bs 13 1, seed := BitVec.ofNat 32 (imgNat bs 16 4),
    tiles := imgTiles bs x, nodes := x.nodes.map (parseNode bs), links := x.links.map (linkCfg bs x) }

/-- Steps 2 to 7 of R107. -/
def checkLayout (bs : List Byte) (e : LoadEnv) : Except LoadFail Image :=
  if layoutOk bs = false then .error (illegalAt 2 0)
  else
    let x := imgIndex bs
    let img := parseImage bs
    if img.rows ≠ e.rows ∨ img.cols ≠ e.cols ∨ ¬ (1 ≤ img.rows ∧ img.rows ≤ 8 ∧ 1 ≤ img.cols ∧ img.cols ≤ 32) ∨
        img.handle ≠ e.handle ∨ (match e.extent with | some n => n != img.rows * img.cols | none => false) = true then
      .error (illegalAt 3 0)
    else match tilesFail bs x e.rows e.cols with
      | some o => .error (illegalAt 4 o)
      | none =>
        match nodesFail bs x e img.nodes with
        | some f => .error f
        | none =>
          match linksFail bs x e img with
          | some f => .error f
          | none =>
            match (x.tiles.zip img.tiles).findSome? (fun t => (costDetail t.2).map (fun d => (t.1, d))) with
            | some (o, d) => .error (illegalAt 7 o d)
            | none => .ok img

/-- A fault in reading an image (R107, R264, R335): CFG_UE of step 1 for an uncorrectable error, else step 0. -/
def readFail (off : Nat) (t : Trap) : LoadFail :=
  if t.code = .eccUe then cfgUe off else { step := 0, code := t.code, offset := off }

/-- The loader reads and checks the image at an address of a context (R107). -/
def State.checkImage (s : State) (ctx va : Nat) (e : LoadEnv) : Except LoadFail Image :=
  match s.agentRead (ctxAgent ctx) va 64 with
  | .error t => .error (readFail (t.addr.toNat - va) t)
  | .ok h =>
    if crc32c (h.take 60) ≠ imgNat h 60 4 then .error (cfgUe 0)
    else if imgBounds h = false then .error (illegalAt 2 0)
    else match s.agentRead (ctxAgent ctx) va (imgLen h) with
      | .error t => .error (readFail (t.addr.toNat - va) t)
      | .ok bs =>
        match crcFail bs with
        | some o => .error (cfgUe o)
        | none => checkLayout bs e

/-! ### A region as its configuration leaves it (R207, R250, R260, R262, R263) -/

/-- A node as a configuration load leaves it. -/
def NodeCfg.start (c : NodeCfg) : NodeSt :=
  { nid := c.nid,
    var := match c.kind with
      | 2 => .snk 0 0 0 false
      | 3 => .agn Stream.idle Stream.idle false
      | 4 => .mem none none none 0 [] 0 0
      | 5 => .mem none none none 0 [] 0 0
      | 6 => .accn (List.replicate 16 0) 0 0 false false false [] 0 none 0
      | 7 => .esc 0 [] [] 15
      | 8 => .sluice none none 0 [] [] 0
      | 9 => .slh none false false false none none
      | _ => .plain,
    fault := none, retry := false, first := 0, closed := false, inject := none, ended := none }

/-- The in-bound ends of an image's circuits, each with its slots and cistern; a timed circuit holds DIST initial tokens
(R250). -/
def Image.ends (i : Image) : List End :=
  let tiles := i.tiles.map (fun t => (0, t))
  let nodes := i.nodes.map (fun n => (0, n))
  (upto i.links.length).flatMap (fun c =>
    let e := circEnds tiles nodes c
    let timed := timedEnds e
    match i.links[c]? with
    | none => []
    | some l => e.2.map (fun x =>
        { circ := c, node := x.node, pos := x.pos, port := x.port, timed := timed,
          ring := { slots := l.slots, vbase := l.vbase, size := l.size,
                    q := if timed then List.replicate l.dist (dataToken (List.replicate 16 0)) else [],
                    chead := 0, ccount := 0 } }))

/-- The counters of an agn's streams, without what they have read ahead and their translations (R281). -/
def NodeVar.counters : NodeVar → NodeVar
  | .agn s0 s1 b => .agn { s0 with ahead := [], tr := none } { s1 with ahead := [], tr := none } b
  | v => v

/-- What a checkpoint saved is restored (R262): the counters of agn streams, the tokens in the slots of node circuits and of
timed circuits with DIST of 1 or more, and the heads and counts of cisterns. -/
def Region.restore (r : Region) (saved : List NodeSt × List End) : Region :=
  { r with
    nodes := r.nodes.map (fun n =>
      match n.var, saved.1.find? (fun m => m.nid == n.nid) with
      | .agn _ _ _, some m => { n with var := m.var.counters }
      | _, _ => n),
    ends := r.ends.map (fun e =>
      match saved.2.find? (fun o => o.circ == e.circ && o.node == e.node && o.pos == e.pos && o.port == e.port) with
      | some o =>
        if e.timed then
          (if 1 ≤ ((r.img.links[e.circ]?).map LinkCfg.dist).getD 0 then { e with ring := { e.ring with q := o.ring.q } } else e)
        else { e with ring := o.ring }
      | none => e) }

/-- A region in the first clk of a configuration (R42, R207, R263). -/
def Region.install (r : Region) (img : Image) : Region :=
  { r with phase := .running, img := img, shadow := none, resume := none, tiles := img.tiles.map (fun c => c.load img.seed),
           nodes := img.nodes.map NodeCfg.start, ends := img.ends, compares := [], sclk := 0 }

end Sys2Proof.Machine
end

