-- ==== Sys2Proof/Machine/Launches.lean ====
section
/-! DEFINITION. Launch records, placement, dispatch, the end of a launch and the registrars' procedure (R22, R25, R145, R157,
R323 to R340, R408). -/

namespace Sys2Proof.Machine

/-! ### Launches and queues -/

/-- A launch by its ticket. -/
def State.launch? (s : State) (k : Nat) : Option Launch := s.reg.launches.find? (fun l => l.ticket == k)

/-- The state with a launch replaced. -/
def State.setLaunch (s : State) (l : Launch) : State :=
  { s with reg := { s.reg with launches := s.reg.launches.map (fun o => if o.ticket = l.ticket then l else o) } }

/-- A launch stands in its queue. -/
def Launch.queued (l : Launch) : Bool := l.phase == .queued || l.phase == .preempted

/-- The head of a queue (R324). A pre-empted launch stands before the others (R336). -/
def State.headOf (s : State) (q : Nat) : Option Launch := s.reg.launches.find? (fun l => l.queue == q && l.queued)

/-- A queue, or one that has never been bound (R324, R325). -/
def State.queueOf (s : State) (i : Nat) : Queue :=
  (s.queue? i).getD
    { idx := i, ctx := 0, pri := 0, bound := false, cvbase := 0, csize := 0, port := [], ctail := 0, cist := [],
      payload := List.replicate 64 0, drop := 0, orphan := 0, accept := 0, epoch := 0, opened := [], waiting := [],
      dropped := false }

/-- The state with a queue replaced, or named for the first time. -/
def State.putQueue (s : State) (q : Queue) : State :=
  if (s.queue? q.idx).isSome then s.setQueue q else { s with reg := { s.reg with queues := s.reg.queues ++ [q] } }

/-! ### Completion words and KIND 4 records (R261, R333, R345, R408) -/

/-- A KIND 4 record in a context's fault log (R345, R352, R354, R408). -/
def State.moduleRecord (s : State) (ctx : Nat) (tr : Trap) (ticket : Nat) (fatal : Bool) : State :=
  s.appendLog ctx (faultRecord
    { kind := 4, coord := 0, slot := 0, ctx := 0x3F, pc := 0, word := 0, nid := 0, rinst := 0, pxs := 0, ticket := ticket }
    tr fatal s.clk)

/-- The registrar writes a completion word or a load report; a fault leaves a KIND 4 record instead (R408). -/
def State.regWrite (s : State) (l : Launch) (va : Word) (bs : List Byte) : State :=
  match s.agentStore (ctxAgent l.ctx) va.toNat bs with
  | .ok s1 => s1
  | .error tr => (s.noteUe tr).moduleRecord l.ctx { tr with addr := va, retry := false } l.ticket false

/-- The flags of a region: of its tiles and accn nodes (R261). -/
def Region.flags (r : Region) : BitVec 5 :=
  r.nodes.foldl (fun f n => match n.var with | .accn _ _ _ _ _ _ _ g _ _ => f ||| g | _ => f)
    (r.tiles.foldl (fun f t => f ||| t.flg) 0)

/-- The sinks' counts of a region: POISON tokens and late ones (R259). -/
def Region.counts (r : Region) : Nat × Nat :=
  r.nodes.foldl (fun (c : Nat × Nat) n => match n.var with | .snk _ p l _ => (c.1 + p, c.2 + l) | _ => c) (0, 0)

/-- A launch with the counts of one of its instances added. -/
def Launch.absorb (l : Launch) (r : Region) : Launch :=
  let (p, t) := r.counts
  { l with npois := Nat.min (l.npois + Nat.min p 0xFFFFFF) 0xFFFFFF, late := Nat.min (l.late + Nat.min t 0xFFFF) 0xFFFF,
           flg := l.flg ||| r.flags }

/-- The completion word of a launch (R261, R333). -/
def Launch.word (l : Launch) (aborted : Bool) : Nat :=
  if l.spec.region then
    (if aborted then 3 else if l.npois = 0 then 1 else 2) * 2 ^ 56 + l.npois * 2 ^ 32 + l.late * 2 ^ 16 + l.flg.toNat
  else
    (if aborted then 3 else if l.nnz = 0 then 1 else 2) * 2 ^ 56 + Nat.min l.nnz 0xFFFFFF * 2 ^ 32 + l.xmax % 2 ^ 32

/-! ### Windows and semaphores of a core (R145, R157, R330) -/

/-- A record of a context on a core is in force. -/
def State.bound (s : State) (core ctx : Nat) : Bool := s.binds.any (fun b => !b.region && b.unit == core && b.ctx == ctx)

/-- A window keeps its base and length (R157). -/
def State.windowStable (s : State) (core ctx : Nat) : Bool :=
  s.threads.any (fun t => t.core == core && t.ctx == ctx && t.place != .saved) ||
  (s.core core).sb.any (fun e => [e.dst, e.src].any (fun r => match r with | some x => x.space == .win core ctx | none => false))

/-- Cells of a window, by offset. -/
def State.windowCells (s : State) (core ctx : Nat) : List Host.Cell :=
  let k := Space.key (.win core ctx) 0
  (s.scratch.filter (fun c => decide (k ≤ c.1 ∧ c.1 < k + 2 ^ 18))).map (fun c => (c.1 - k, c.2))

/-- A window is withdrawn, its contents saved with its context, for the launch that is pre-empted if it is for that (R157, R337). -/
def State.withdraw (s : State) (core ctx : Nat) (ticket : Option Nat) : State :=
  match s.window core ctx with
  | none => s
  | some w =>
    let k := Space.key (.win core ctx) 0
    { s with windows := s.windows.filter (fun x => !(x.core == core && x.ctx == ctx)),
             scratch := s.scratch.filter (fun c => !decide (k ≤ c.1 ∧ c.1 < k + 2 ^ 18)),
             reg := { s.reg with savedWin := s.reg.savedWin ++
               [{ core := core, ctx := ctx, len := w.len, ticket := ticket, cells := s.windowCells core ctx }] } }

/-- A window's base in 16 KiB units: the lowest range of its length, aligned to the length rounded up to a power of two, that
no window of the core overlaps (R157). -/
def State.windowBase (s : State) (core len : Nat) : Option Nat :=
  let p := 2 ^ (len - 1).log2 * (if len ≤ 1 then 1 else 2)
  (upto 16).find? (fun b => b % p == 0 && decide (b + len ≤ 16) &&
    !s.windows.any (fun w => w.core == core && decide (w.base < b + len ∧ b < w.base + w.len / 2 ^ 14)))

/-- The saved window that a context's next window on a core takes: for a launch that was pre-empted its own from there, else one that
no such launch waits for, from the same core first (R157, R337). -/
def State.windowFor (s : State) (core ctx ticket : Nat) : Option SavedWin :=
  let mine := s.reg.savedWin.filter (fun p => p.ctx == ctx)
  let free := mine.filter (fun p => p.ticket.isNone)
  (mine.find? (fun p => p.core == core && p.ticket == some ticket)).or ((free.find? (fun p => p.core == core)).or free.head?)

/-- A window of a length in units is granted for a launch: what the context has saved is restored to its first bytes (R157, R330). -/
def State.openWindow (s : State) (core ctx len base ticket : Nat) : State :=
  let s1 : State := { s with windows := s.windows ++ [{ core := core, ctx := ctx, base := base, len := len * 2 ^ 14 }] }
  match s1.windowFor core ctx ticket with
  | none => s1
  | some p =>
    let s2 := { s1 with reg := { s1.reg with savedWin := s1.reg.savedWin.erase p } }
    p.cells.foldl (fun s c => if c.1 < len * 2 ^ 14 then s.writeByte (.win core ctx) c.1 c.2 else s) s2

/-- A window that no record and no access needs is withdrawn where its context's store has room (R157, R338). -/
def State.withdrawIdle (s : State) (core ctx : Nat) : State :=
  if s.bound core ctx = true ∨ s.windowStable core ctx = true ∨ s.storeHolds ctx (s.windowLen core ctx / 4096) = false then s
  else s.withdraw core ctx none

/-- The window of a context on a core made at least as long as a launch needs; none while the core is not free for it
(R157, R330). Windows of contexts that hold no record there are withdrawn when their room is needed. -/
def State.grantWindow (s : State) (core ctx len ticket : Nat) : Option State :=
  let grow (s : State) : Option State := (s.windowBase core len).map (fun b => s.openWindow core ctx len b ticket)
  match s.window core ctx with
  | some w =>
    if len * 2 ^ 14 ≤ w.len then some s
    else
      let s1 := s.withdrawIdle core ctx
      if (s1.window core ctx).isSome then none else grow s1
  | none =>
    match grow s with
    | some s1 => some s1
    | none => grow ((s.windows.filter (fun w => w.core == core)).foldl (fun s w => s.withdrawIdle core w.ctx) s)

/-- The semaphores of a core follow its records; a count is 0 again where the grant changes hands (R145). -/
def State.grantSems (s : State) (core : Nat) : State :=
  let cs := s.core core
  let who (n : Nat) : Option Nat := (s.binds.find? (fun b => !b.region && b.unit == core && b.semg.testBit n)).map Bind.ctx
  s.setCore core { cs with sems := Vector.ofFn (fun i =>
    if cs.sems[i].grant = who i.val then cs.sems[i] else { grant := who i.val, count := 0, waiters := [] }) }

/-- Bind records are cleared (R330). -/
def State.clearBinds (s : State) (p : Bind → Bool) : State :=
  let gone := s.binds.filter p
  let s1 := { s with binds := s.binds.filter (fun b => !p b) }
  ((gone.filter (fun b => !b.region)).map Bind.unit).foldl State.grantSems s1

/-! ### Saving and resuming threads (R113, R135, R337, R339) -/

/-- A thread can be stopped at an instruction boundary now: nothing of its word is in flight (R113, R337). -/
def State.canSave (s : State) (t : Thread) : Bool :=
  !s.hasCmds t && (match t.wait with | .link _ => false | .amo _ => t.place == .queue | _ => true)

/-- What a descheduled thread goes on waiting for: a barrier arrival and a callx stay; an arrival stays one, and a fault that it has to
take; any other word runs again (R135, R145, R146, R150, R152). -/
def Wait.kept : Wait → Wait
  | .bus d key => .bus d key
  | .callx d => .callx d
  | .fault tr => .fault tr
  | .arrival => .arrival
  | .amo r => .amo r
  | _ => .none

/-- A thread leaves the waiter lists of its core, of the engines and of the channels (R135, R145). -/
def State.unwait (s : State) (t : Thread) : State :=
  let cs := s.core t.core
  let s1 := s.setCore t.core
    { cs with sems := cs.sems.map (fun x => { x with waiters := x.waiters.filter (fun u => u != t.uid) }),
              queue := cs.queue.filter (fun u => u != t.uid), senders := cs.senders.filter (fun u => u.1 != t.uid) }
  { s1 with
    engines := s1.engines.map (fun (x : Engine) => { x with waiters := x.waiters.filter (fun u => u != t.uid) }),
    chans := s1.chans.map (fun (c : Chan) => { c with getters := c.getters.filter (fun u => u != t.uid) }) }

/-- A thread is descheduled with its context saved; it leaves the waiter lists whose words run again (R113, R135, R145). None while
something of its word is in flight, or the store has no room (R338). -/
def State.saveThread (s : State) (t : Thread) (own : Option Nat) : Option State :=
  if s.canSave t then (s.unwait t).stow { s.landAll t with mode := .descheduled, wait := t.wait.kept, since := s.clk } own
  else none

/-- A saved thread takes a slot again: its context is reloaded (R113, R135, R339). A lock word that has been written ends its
lending. -/
def State.resumeAt (s : State) (t : Thread) (core slot : Nat) : State :=
  let ticket := match s.grant core t.ctx slot with | some b => b.ticket | none => t.bindTicket
  let u : Thread := { s.unstow t with core := core, slot := slot, place := .slot, bindTicket := ticket, since := s.clk }
  let s1 : State := match t.wait with
    | .lock _ _ true => { s with reg := { s.reg with lends := s.reg.lends.filter (fun e => e.waiter != t.uid) } }
    | _ => s
  let held := match t.wait with
    | .bus _ _ => !u.wresValid
    | .callx _ => !u.wresValid
    | .amo _ => true
    | _ => false
  s1.setT (if held then { u with mode := .waiting }
    else { u with mode := .ready, wait := match t.wait with | .fault tr => .fault tr | _ => .none })

/-- A thread waits on a lock word: on a word of the status page it waits for the next write alone (R152, R367). -/
def Thread.onLock (w : Thread) : Option Nat :=
  match w.wait with
  | .lock _ pa _ => if statusPage ≤ pa ∧ pa < statusPage + 4096 then none else some pa
  | _ => none

/-- The core and slot that the value of a lock word names to a waiter (R152); the registrar resolves the core's name (R356). -/
def State.holderPlace (s : State) (w : Thread) (v : Nat) : Option (Nat × Nat) :=
  if w.onLock = none ∨ nfield v 20 6 ≠ w.ctx then none else (s.nameAt .registrar (v % 2 ^ 16)).map (fun c => (c, nfield v 16 4))

/-- The descheduled thread of a waiter's context that the value of a lock word names (R152). -/
def State.holderOf (s : State) (w : Thread) (v : Nat) : Option Thread :=
  (s.holderPlace w v).bind (fun p =>
    s.threads.find? (fun t => t.ctx == w.ctx && t.core == p.1 && t.slot == p.2 && t.mode == .descheduled))

/-- A thread is named by a lock word on which a thread of its context waits in waitl (R152, R339). -/
def State.named (s : State) (u : Thread) : Bool :=
  s.threads.any (fun w => w.ctx == u.ctx && match w.onLock with
    | some pa => s.holderPlace w (s.readNat .mem pa 8) == some (u.core, u.slot)
    | none => false)

/-- The registrar has looked at the lock words that threads wait on: its name cache holds the names in them (R356). -/
def State.readLocks (s : State) : State :=
  s.threads.foldl (fun s w => match w.onLock with
    | some pa =>
      let v := s.readNat .mem pa 8
      if nfield v 20 6 = w.ctx then s.learnName .registrar (v % 2 ^ 16) else s
    | none => s) s

/-- The thread whose slot a resumed thread takes when none is free (R339): of the same context on the core, resumed longest
ago, and neither named by a lock word nor of the threads to be spared. -/
def State.yieldsTo (s : State) (t : Thread) (spare : List Nat) : Option Thread :=
  (s.threads.filter (fun u => u.ctx == t.ctx && u.core == t.core && u.place == .slot && s.canSave u && !spare.contains u.uid &&
      !s.named u)).foldl
    (fun (acc : Option Thread) u => match acc with
      | none => some u
      | some b => if u.since < b.since then some u else some b) none

/-- A descheduled thread is resumed on its core (R339): into a free slot, else into that of a thread that yields it and for whose
context the store has room (R338). -/
def State.resumeThread (s : State) (t : Thread) (spare : List Nat) : State :=
  match s.freeSlot t.core t.ctx with
  | some j => s.resumeAt t t.core j
  | none =>
    match s.yieldsTo t spare with
    | some u => (match s.saveThread u none with | some s1 => s1.resumeAt t t.core u.slot | none => s)
    | none => s

/-- A thread of another launch in a slot that is withdrawn waits for one elsewhere, once it can be saved (R148, R338, R339). -/
def State.relieve (s : State) (t : Thread) : State :=
  (s.saveThread { t with wait := if t.wait.kept = .none then .arrival else t.wait } none).getD s

/-! ### The end of a launch (R261, R325, R330, R333, R335, R340, R350, R351) -/

/-- The launches of a queue take no more tokens of this one (R325). -/
def State.closePort (s : State) (l : Launch) : State :=
  match s.queue? l.queue with
  | none => s
  | some q =>
    let q1 := q.orphans l.ticket
    s.setQueue { q1 with opened := q1.opened.filter (fun p => p.2 != l.ticket) }

/-- A thread of a launch that ends stops; while it has copies or engine commands in flight it holds its slot, descheduled, and ends
with them (R350). -/
def State.stopThread (s : State) (t : Thread) : State :=
  if s.hasCmds t then (s.unwait t).setT { t with mode := .descheduled, wait := .none, retry := none } else s.endThread t

/-- A thread stands in a slot of a record for threads. -/
def State.occupied (s : State) (b : Bind) : Bool :=
  s.threads.any (fun t => t.core == b.unit && t.place == .slot && b.slots.testBit t.slot)

/-- A configuration of the region has never been in force: it stands in the shadow planes at most (R263). -/
def Region.pending (r : Region) : Bool :=
  match r.phase with
  | .loading => true
  | .checked => true
  | .stopped => decide (r.nodes = [] ∧ r.tiles = [])
  | _ => false

/-- The threads of other launches that stand in slots of a launch. -/
def State.guests (s : State) (ticket : Nat) : List Thread :=
  s.threads.filter (fun t => t.bindTicket == ticket && !t.isOf ticket && t.place == .slot)

/-- The regions of a launch end: those that ran are empty, with their configuration where it may run again; what only stood in the
shadow planes is discarded, and the tiles stay on what they held (R264, R335). -/
def State.endRegions (s : State) (ticket : Nat) (keep : Bool) : State :=
  { s with regions := (s.regions.filter (fun r => !(r.ticket == ticket && r.pending))).map (fun r =>
      if r.ticket = ticket ∧ r.phase ≠ .idle then { r with phase := .idle, handle := if keep then r.handle else 0 } else r) }

/-- The resources of a launch are freed: its threads stop, threads of others in its slots wait for others, its records are cleared
where no thread stands in their slots any more, and its regions are empty. -/
def State.freeLaunch (s : State) (l : Launch) (keep : Bool) : State :=
  let s1 := (s.threads.filter (fun t => t.isOf l.ticket && !(keep && t.escape.isSome))).foldl State.stopThread s
  let s2 := (s1.guests l.ticket).foldl State.relieve s1
  let s3 := (s2.clearBinds (fun b => b.ticket == l.ticket && (b.region || !s2.occupied b))).endRegions l.ticket keep
  { s3 with dying := s3.dying.filter (fun k => k != l.ticket), exits := s3.exits.filter (fun e => e.1 != l.ticket),
            reg := { s3.reg with launches := s3.reg.launches.filter (fun o => o.ticket != l.ticket),
                                 savedWin := s3.reg.savedWin.filter (fun w => w.ticket != some l.ticket) } }

/-- A launch is aborted: the load report if there is one, the completion word with STATUS 0x03, then its records
(R261, R329, R333, R335, R340). -/
def State.abortNow (s : State) (ticket : Nat) (report : Option (List Byte)) : State :=
  match s.launch? ticket with
  | none => { s with dying := s.dying.filter (fun k => k != ticket) }
  | some l =>
    let l1 := (s.regions.filter (fun r => r.ticket == ticket && r.phase != .idle)).foldl Launch.absorb l
    let s1 := match report with
      | some bs => if l.spec.report = 0 then s else s.regWrite l l.spec.report bs
      | none => s
    ((s1.regWrite l l.spec.compl (leBytes 8 (l1.word true))).closePort l).freeLaunch l false

/-- A load report (R335). -/
def loadReport (f : LoadFail) : List Byte :=
  leBytes 4 (f.step * 256 + f.code.num) ++ leBytes 4 f.detail ++ leBytes 8 f.offset

/-- A launch completes: its completion word, then its records (R260, R333). -/
def State.finishLaunch (s : State) (l : Launch) : State :=
  ((s.regWrite l l.spec.compl (leBytes 8 (l.word false))).closePort l).freeLaunch l true

/-! ### Launch records (R326, R327) -/

/-- A launch record (R326). -/
def parseLaunch (bs : List Byte) : LaunchRec :=
  let f := imgNat bs 1 1
  let w (o : Nat) : Word := BitVec.ofNat 64 (imgNat bs o 8)
  { region := imgNat bs 0 1 == 1, prv := f.testBit 2, ser := f.testBit 1, present := f.testBit 0, cscope := imgNat bs 3 1,
    handle := imgNat bs 4 4, code := w 8, compl := w 16, arg := w 24, depw := w 32, handler := w 40, report := w 48,
    sems := imgNat bs 56 2, scrw := imgNat bs 58 1, escn := imgNat bs 59 1,
    levels := (upto (imgNat bs 2 1)).map (fun i =>
      let v := imgNat bs (64 + 8 * i) 8
      { extent := nfield v 8 24, scope := nfield v 4 3, dom := nfield v 0 4 }) }

/-- A level keeps to the limits of R327 for its KIND. -/
def Level.ok (l : Level) (region : Bool) : Bool :=
  let e (n : Nat) : Bool := decide (1 ≤ l.extent ∧ l.extent ≤ n)
  decide (l.scope ≤ 6) &&
  (match l.dom with
    | 0 => region && l.extent == 16 && decide (2 ≤ l.scope)
    | 1 => region && decide (2 ≤ l.scope)
    | 2 => region && e 8192 && decide (3 ≤ l.scope)
    | 3 => !region && e 16 && decide (1 ≤ l.scope)
    | 4 => !region && e 16 && decide (3 ≤ l.scope)
    | 5 => e 4 && decide (4 ≤ l.scope)
    | 6 => e 6 && decide (4 ≤ l.scope)
    | 7 => e 4 && decide (5 ≤ l.scope)
    | 8 => l.extent == 1 && decide (5 ≤ l.scope)
    | 9 => l.extent == 1 && decide (6 ≤ l.scope)
    | _ => false)

/-- Domains fall strictly from the outermost level (R327). -/
def levelsFall : List Level → Bool
  | a :: b :: ls => decide (b.dom < a.dom) && levelsFall (b :: ls)
  | _ => true

/-- The fields of a launch record are legal (R326, R327). -/
def launchLegal (bs : List Byte) (prvOk : Bool) : Bool :=
  let r := parseLaunch bs
  let n := imgNat bs 2 1
  let a (w : Word) (k : Nat) : Bool := w.toNat % k == 0
  decide (imgNat bs 0 1 = 1 ∨ imgNat bs 0 1 = 2) && decide (imgNat bs 1 1 < 8) && decide (1 ≤ n ∧ n ≤ 8) &&
  decide (2 ≤ r.cscope ∧ r.cscope ≤ 6) && a r.compl 8 && r.compl != 0 && a r.depw 8 && imgZero bs 60 64 &&
  imgZero bs (64 + 8 * n) 128 && (!r.prv || prvOk) &&
  (upto n).all (fun i => let v := imgNat bs (64 + 8 * i) 8; decide (v < 2 ^ 32) && !v.testBit 7) &&
  levelsFall r.levels && r.levels.all (fun l => l.ok r.region) &&
  r.levels.any (fun l => l.dom == (if r.region then 2 else 3)) &&
  (if r.region then
    r.handle != 0 && a r.code 64 && r.arg == 0 && r.handler == 0 && a r.report 16 && r.sems == 0 &&
      decide (r.scrw ≤ 16 ∧ r.escn ≤ 16)
   else
    r.handle == 0 && a r.code 4 && r.report == 0 && decide (1 ≤ r.scrw ∧ r.scrw ≤ 16) && r.escn == 0)

/-! ### Placement (R25, R328, R330, R332, R336; log entry 8) -/

/-- What the registrar reads of an image before it places it: the shape, and the sides of its escape stripes (R265, R330). -/
structure Shape where
  rows : Nat
  cols : Nat
  sides : List Bool

/-- The shape of a launch's image, from the bytes that stand at CODE (log entry 8). -/
def State.shapeOf (s : State) (ctx : Nat) (r : LaunchRec) : Shape :=
  let g := ctxAgent ctx
  match s.agentRead g r.code.toNat 64 with
  | .error _ => { rows := 1, cols := 1, sides := [] }
  | .ok h =>
    let rows := Nat.max 1 (Nat.min 8 (imgNat h 12 1))
    let cols := Nat.max 1 (Nat.min 32 (imgNat h 13 1))
    if r.escn = 0 ∨ r.scrw = 0 ∨ imgBounds h = false then { rows := rows, cols := cols, sides := [] }
    else match s.agentRead g r.code.toNat (imgLen h) with
      | .error _ => { rows := rows, cols := cols, sides := [] }
      | .ok bs =>
        let escs := if layoutOk bs then (parseImage bs).nodes.filter (fun c => c.kind == 7) else []
        { rows := rows, cols := cols,
          sides := [false, true].filter (fun b => escs.any (fun c => c.kfl.testBit 2 == b)) }

/-- How rectangles are looked for on a stripe: by rows, by columns, or packed as closely as they can be (log entry 8). -/
inductive PlotWay where
  | rows | columns | packed
  deriving DecidableEq, Repr

/-- What a launch is given: slots of cores, rectangles by stripe, row and column, and slots of escape cores with the index
and stripe of their region; with the bind records that each die's slot table then holds and the state in which the windows of these cores
have been granted (R330), and how rectangles are looked for, also where a region drains whose tiles are free once it has ended (R260, R263;
log entry 8). -/
structure Plot where
  cores : List (Nat × Nat)
  rects : List (Nat × Nat × Nat)
  escs : List (Nat × Nat × Nat × Nat)
  recs : List Nat
  win : State
  way : PlotWay := .rows
  drains : Bool := false

/-- One more record in a die's slot table of 2,048 (R330). -/
def Plot.record (p : Plot) (die : Nat) : Option Plot :=
  let n := p.recs.getD die 0
  if 2048 ≤ n then none else some { p with recs := p.recs.set die (n + 1) }

/-- Slots of a core that a plot holds. -/
def Plot.slots (p : Plot) (core : Nat) : Nat :=
  (p.cores.filter (fun c => c.1 == core)).foldl (fun m c => m ||| c.2) 0 |||
    (p.escs.filter (fun c => c.1 == core)).foldl (fun m c => m ||| c.2.1) 0

/-- The plot with the window of one more core granted; none where the core is not free for it (R330). -/
def Plot.grant (p : Plot) (core ctx scrw ticket : Nat) : Option Plot :=
  (p.win.grantWindow core ctx scrw ticket).map (fun s => { p with win := s })

/-- The free slots of a core for a launch (R330, R336, R359). -/
def State.openSlots (s : State) (p : Plot) (ctx sems scrw ticket core : Nat) : List Nat :=
  if !s.coreLive core || s.isRetired 3 core ||
      s.binds.any (fun b => !b.region && b.unit == core && b.ctx != ctx && b.semg &&& sems != 0) ||
      (p.grant core ctx scrw ticket).isNone then []
  else (upto 16).filter (fun j =>
    !s.binds.any (fun b => !b.region && b.unit == core && b.slots.testBit j) && s.slotEmpty core j && !(p.slots core).testBit j)

/-- Two rectangles of a stripe overlap. -/
def rectsMeet (r1 c1 rows1 cols1 r2 c2 rows2 cols2 : Nat) : Bool :=
  decide (r1 < r2 + rows2 ∧ r2 < r1 + rows1 ∧ c1 < c2 + cols2 ∧ c2 < c1 + cols1)

/-- A region stands on tiles of a rectangle. -/
def Region.on (r : Region) (stripe row col rows cols : Nat) : Bool :=
  r.stripe == stripe && rectsMeet row col rows cols r.row r.col r.rows r.cols

/-- A tile is not free for a region: another stands on it, unless that drains and may be waited for, or it is defect (R25, R260, R263). -/
def State.tileShut (s : State) (p : Plot) (h : Shape) (stripe row col : Nat) : Bool :=
  s.regions.any (fun r => r.phase != .idle && !(p.drains && r.phase == .draining) && r.on stripe row col 1 1) ||
  p.rects.any (fun q => q.1 == stripe && rectsMeet row col 1 1 q.2.1 q.2.2 h.rows h.cols) || s.tileBad stripe row col

/-- A rectangle is free for a region, or becomes free when a region that drains has ended (R25, R90, R260, R263). -/
def State.rectFree (s : State) (p : Plot) (h : Shape) (stripe row col : Nat) : Bool :=
  decide (row + h.rows ≤ 8 ∧ col + h.cols ≤ 32 ∧ (row + col) % 2 = 0) && s.fieldJoined (stripe / 4) &&
  !s.regions.any (fun r => r.phase != .idle && !(p.drains && r.phase == .draining) && r.on stripe row col h.rows h.cols) &&
  !p.rects.any (fun q => q.1 == stripe && rectsMeet row col h.rows h.cols q.2.1 q.2.2 h.rows h.cols) &&
  (upto h.rows).all (fun i => (upto h.cols).all (fun j => !s.tileBad stripe (row + i) (col + j)))

/-- Rectangles that are being packed column by column: for each row the columns from the next one on that they take, how many they are, and
where they start, the last one first. -/
structure Packing where
  taken : List Nat
  count : Nat
  starts : List (Nat × Nat)

/-- The packings that come of one by letting rectangles start in a column: in the rows that are left, from the top down. -/
def Packing.column (h : Shape) (col : Nat) (fits : Nat → Bool) : Nat → Packing → List Packing
  | 0, p => [p]
  | left + 1, p =>
    let row := 7 - left
    let skip := Packing.column h col fits left p
    if fits row && (upto h.rows).all (fun i => p.taken.getD (row + i) 1 == 0) then
      skip ++ Packing.column h col fits left
        { taken := (upto 8).map (fun r => if row ≤ r ∧ r < row + h.rows then h.cols else p.taken.getD r 0), count := p.count + 1,
          starts := (row, col) :: p.starts }
    else skip

/-- A packing is no better than another: that has as many rectangles and takes no more of any row. -/
def Packing.below (p q : Packing) : Bool :=
  decide (p.count ≤ q.count) && (upto 8).all (fun r => decide (q.taken.getD r 0 ≤ p.taken.getD r 0))

/-- The packings of a list without those that are no better than another. -/
def bestPackings (l : List Packing) : List Packing :=
  l.foldl (fun acc p => if acc.any p.below then acc else p :: acc.filter (fun q => !q.below p)) []

/-- The columns in which a rectangle of a closest packing may start: every rectangle stands as far left as it goes, two columns at a time
(R90), so before it there is an edge, a tile that is not free, or another rectangle. -/
def packColumns (cols : Nat) (shut : Nat → Bool) : List Nat :=
  (upto 32).foldl (fun acc c =>
    if c ≤ 1 || shut (c - 1) || shut (c - 2) || acc.any (fun b => b + cols == c || b + cols + 1 == c) then acc ++ [c] else acc) []

/-- As many rectangles of a shape as a stripe has room for (R327, R336): by columns from the left, each time with all packings of which
none is better than another. -/
def packing (h : Shape) (fits : Nat → Nat → Bool) (shut : Nat → Bool) : List (Nat × Nat) :=
  let starts := packColumns h.cols shut
  let last := (upto 32).foldl (fun ps col =>
    let next := if starts.contains col then bestPackings (ps.flatMap (Packing.column h col (fun r => fits r col) 8)) else ps
    next.map (fun p => { p with taken := p.taken.map (fun n => n - 1) })) [{ taken := List.replicate 8 0, count := 0, starts := [] }]
  match last with
  | [] => []
  | p :: ps => (ps.foldl (fun (b : Packing) q => if b.count < q.count then q else b) p).starts.reverse

/-- Candidate rectangles of a stripe: those that hold the configuration, then all in the order of their coordinates (R332); or those of a
closest packing. -/
def State.rectsOf (s : State) (p : Plot) (ctx handle : Nat) (h : Shape) (stripe : Nat) : List (Nat × Nat) :=
  let held := (s.regions.filter (fun r => r.phase == .idle && r.stripe == stripe && r.ctx == ctx && r.handle == handle &&
    r.rows == h.rows && r.cols == h.cols)).map (fun r => (r.row, r.col))
  match p.way with
  | .rows => held ++ (upto 256).map (fun k => (k / 32, k % 32))
  | .columns => held ++ (upto 256).map (fun k => (k % 8, k / 8))
  | .packed =>
    packing h (fun r c => s.rectFree p h stripe r c) (fun c => (upto 8).any (fun r => s.tileShut p h stripe r c))

/-- The escape slots of a region placed on a stripe (R265, R266, R330); none where a core has too few. -/
def State.plotEscapes (s : State) (ctx ticket : Nat) (r : LaunchRec) (h : Shape) (stripe : Nat) (p : Plot) : Option Plot :=
  let idx := p.rects.length
  h.sides.foldl (fun (acc : Option Plot) side =>
    let st := if side then stripe / 4 * 4 + (stripe % 4 + 3) % 4 else stripe
    ((upto 16).map (fun i => st * 16 + i)).foldl (fun (acc : Option Plot) core =>
      match acc with
      | none => none
      | some q =>
        if !s.coreLive core || s.isRetired 3 core then some q
        else
          let js := (s.openSlots q ctx 0 r.scrw ticket core).take r.escn
          if js.length < r.escn then none
          else ((q.record (coreDie core)).bind (fun q => q.grant core ctx r.scrw ticket)).map (fun q =>
            { q with escs := q.escs ++ [(core, laneMask js, idx, st)] })) acc) (some p)

/-- Up to n more rectangles on a stripe for a region launch, and how many are missing still. Where a region's record or its escape slots find
no room none follows. -/
def State.plotStripe (s : State) (ctx ticket : Nat) (r : LaunchRec) (h : Shape) (stripe n : Nat) (p : Plot) : Plot × Nat :=
  let place (acc : Plot × Nat × Bool) (c : Nat × Nat) : Plot × Nat × Bool :=
    let (q, left, full) := acc
    if left = 0 ∨ full = true ∨ s.rectFree q h stripe c.1 c.2 = false then acc
    else match (q.record (stripe / 24)).bind (s.plotEscapes ctx ticket r h stripe) with
      | some q1 => ({ q1 with rects := q1.rects ++ [(stripe, c.1, c.2)] }, left - 1, false)
      | none => (q, left, true)
  if n = 0 then (p, 0)
  else
    let (q, left, _) := (s.rectsOf p ctx r.handle h stripe).foldl place (p, n, false)
    (q, left)

/-- Cores that one unit of a domain spans; a fabric stripe is numbered as the swarm stripe beside it. -/
def domSize (dom : Nat) : Nat :=
  match dom with | 4 => 1 | 5 => 16 | 6 => 64 | 7 => 384 | _ => 1536

/-- Cores that one unit of a scope spans (R326). -/
def scopeSize (scope : Nat) : Nat :=
  match scope with | 0 => 1 | 1 => 1 | 2 => 16 | 3 => 16 | 4 => 384 | _ => 1536

/-- A field has joined that holds some of size cores from one up. -/
def State.someJoined (s : State) (lo size : Nat) : Bool :=
  (upto 24).any (fun f => s.fieldJoined f && decide (f * 64 < lo + size ∧ lo < f * 64 + 64))

/-- Instances of a level: with PRESENT, no more than have joined under the enclosing instance (R328). -/
def State.extentOf (s : State) (present : Bool) (l : Level) (lo size : Nat) : Nat :=
  let d := domSize l.dom
  let joined := ((upto (size / d)).filter (fun k => s.someJoined (lo + k * d) d)).length
  if present ∧ 5 ≤ l.dom ∧ l.dom ≤ 7 then Nat.min l.extent joined else l.extent

/-- The levels of a launch placed inside a unit, that is cores lo to lo + size - 1, in ascending coordinate (R327, R328). With PRESENT an
instance is placed only where something has joined (R25). -/
def State.plotLevels (s : State) (ctx ticket : Nat) (r : LaunchRec) (h : Shape) : List Level → Nat → Nat → Plot → Option Plot
  | [], _, _, p => some p
  | l :: ls, lo, size, p =>
    let want := s.extentOf r.present l lo size
    let span := Nat.min size (scopeSize l.scope)
    (upto (size / span)).findSome? (fun v =>
      let base := lo + v * span
      if l.dom = 3 then
        let (q, left) := (upto span).foldl (fun (acc : Plot × Nat) i =>
          if acc.2 = 0 then acc
          else
            match (s.openSlots acc.1 ctx r.sems r.scrw ticket (base + i)).take acc.2,
                (acc.1.record (coreDie (base + i))).bind (fun q => q.grant (base + i) ctx r.scrw ticket) with
            | j :: js, some q => ({ q with cores := q.cores ++ [(base + i, laneMask (j :: js))] }, acc.2 - (js.length + 1))
            | _, _ => acc) (p, want)
        if left = 0 then some q else none
      else if l.dom = 2 then
        let (q, left) := (upto (Nat.max 1 (span / 16))).foldl (fun (acc : Plot × Nat) i =>
          s.plotStripe ctx ticket r h (base / 16 + i) acc.2 acc.1) (p, want)
        if left = 0 then some q else none
      else
        let d := Nat.min span (domSize l.dom)
        let (q, left) := (upto (span / d)).foldl (fun (acc : Plot × Nat) i =>
          if acc.2 = 0 ∨ (r.present = true ∧ s.someJoined (base + i * d) d = false) then acc
          else match State.plotLevels s ctx ticket r h ls (base + i * d) d acc.1 with
            | some q => (q, acc.2 - 1)
            | none => acc) (p, want)
        if left = 0 then some q else none)

/-- Bind records of a die that are in force (R330). -/
def State.recordsOn (s : State) (die : Nat) : Nat :=
  (s.binds.filter (fun b => if b.region then (s.regions.find? (fun r => r.rinst == b.rinst)).any (fun r => r.stripe / 24 == die)
    else coreDie b.unit == die)).length

/-- The ways in which a launch's rectangles are looked for, one after another (log entry 8). -/
def plotWays (region : Bool) : List (PlotWay × Bool) :=
  if region then [PlotWay.rows, .columns, .packed].map (fun w => (w, false)) ++ [PlotWay.rows, .columns, .packed].map (fun w => (w, true))
  else [(.rows, false)]

/-- place(L) of R336: the resources of R22 as the levels need, or none. -/
def State.plotFor (s : State) (ctx ticket : Nat) (r : LaunchRec) : Option Plot :=
  let h := if r.region then s.shapeOf ctx r else { rows := 0, cols := 0, sides := [] }
  let recs := (upto 4).map s.recordsOn
  (plotWays r.region).findSome? (fun w =>
    s.plotLevels ctx ticket r h (r.levels.filter (fun l => decide (2 ≤ l.dom))) 0 1536
      { cores := [], rects := [], escs := [], recs := recs, win := s, way := w.1, drains := w.2 })

/-- The instances of a launch could be placed if every field had joined and nothing else ran (R327). -/
def State.everPlaced (s : State) (ctx : Nat) (r : LaunchRec) : Bool :=
  let bare : State :=
    { s with th := Thread.initial, others := [], joined := upto 24, binds := [], windows := [], regions := [], retiredCores := [],
             out := { s.out with retired := [] } }
  (bare.plotFor ctx (2 ^ 32) r).isSome

/-! ### Dispatch (R114, R165, R332) -/

/-- One record for threads is written: its slots, semaphores and window (R330). -/
def State.bindCore (s : State) (l : Launch) (core mask : Nat) (esc : Option (Nat × Nat)) : State :=
  let s1 := (s.grantWindow core l.ctx l.spec.scrw l.ticket).getD s
  let w := s1.window core l.ctx
  let b : Bind :=
    { region := false, ctx := l.ctx, unit := core, slots := mask, rinst := match esc with | some e => e.1 | none => 0,
      ticket := l.ticket, semg := l.spec.sems, wbase := (w.map Window.base).getD 0,
      wlen := (w.map (fun w => w.len / 2 ^ 14)).getD 0, code := l.spec.code, handler := l.spec.handler, escape := esc }
  ({ s1 with binds := s1.binds ++ [b] } : State).grantSems core

/-- The cores and slots of a plot, in ascending coordinate. -/
def slotList (l : List (Nat × Nat)) : List (Nat × Nat) :=
  l.flatMap (fun c => ((upto 16).filter (fun j => c.2.testBit j)).map (fun j => (c.1, j)))

/-- The threads of a launch, one in each slot (R114, R332). -/
def State.createThreads (s : State) (l : Launch) : List (Nat × Nat) → Nat → State
  | [], _ => s
  | (core, slot) :: rest, rank =>
    let t : Thread :=
      { Thread.initial with
          uid := s.nextId, ctx := l.ctx, core := core, slot := slot, mode := .ready, pc := l.spec.code,
          g := ((Thread.initial).g.set 1 l.spec.arg).set 2 (BitVec.ofNat 64 rank), prv := l.spec.prv, bornPrv := l.spec.prv,
          bindTicket := l.ticket, byBind := some rank, origin := l.ticket, since := s.clk }
    State.createThreads (({ s with nextId := s.nextId + 1 } : State).addT t) l rest (rank + 1)

/-- The core that stands for an old one of a launch that is placed afresh: the one that its first slot maps to (R336). -/
def newCore (old slots : List (Nat × Nat)) (core : Nat) : Option Nat :=
  ((old.findIdx? (fun p => p.1 == core)).bind (fun i => slots[i]?)).map Prod.fst

/-- The saved windows of a pre-empted launch go to the cores that stand for theirs, before its records are written: so each takes its
own (R157, R336, R337). -/
def State.restoreWindows (s : State) (l : Launch) (slots : List (Nat × Nat)) : State :=
  let old := slotList l.place
  let s1 : State := { s with reg := { s.reg with savedWin := s.reg.savedWin.map (fun w =>
    if w.ticket = some l.ticket then { w with core := (newCore old slots w.core).getD w.core } else w) } }
  let s2 := (s1.reg.savedWin.filter (fun w => w.ticket == some l.ticket)).foldl
    (fun s w => (s.grantWindow w.core l.ctx l.spec.scrw l.ticket).getD s) s1
  { s2 with reg := { s2.reg with savedWin := s2.reg.savedWin.map (fun w =>
    if w.ticket = some l.ticket then { w with ticket := none } else w) } }

/-- The counts of the semaphores of some cores that a context has there, as core, number and count (R145, R379). -/
def State.semCounts (s : State) (ctx : Nat) (cores : List Nat) : List (Nat × Nat × Nat) :=
  cores.flatMap (fun c => (upto 16).filterMap (fun n =>
    match (s.core c).sems.toList[n]? with
    | some x => if x.grant = some ctx ∧ 0 < x.count then some (c, n, x.count) else none
    | none => none))

/-- What a pre-empted launch had counted in its semaphores counts again on the cores that stand for its own (R145, R336, R379; log entry
52). -/
def State.restoreSems (s : State) (l : Launch) (slots : List (Nat × Nat)) : State :=
  l.sems.foldl (fun s x =>
    match newCore (slotList l.place) slots x.1 with
    | none => s
    | some c =>
      let cs := s.core c
      s.setCore c { cs with sems := Vector.ofFn (fun (i : Fin 16) => let m := cs.sems[i]
        if i.val = x.2.1 ∧ m.grant = some l.ctx then { m with count := Nat.min (m.count + x.2.2) (2 ^ 32 - 1) } else m) }) s

/-- The saved threads of a pre-empted launch take the slots that stand where theirs stood, else another free one of the core; one for
which none is free is resumed there at a tick, and so is one whose fault is retried (R336, R339, R349). Before a thread changes its core
the posted stores that its releases cover are performed, since the accesses that follow are its own still (R190, R191). -/
def State.restoreThreads (s : State) (l : Launch) (slots : List (Nat × Nat)) : State :=
  let old := slotList l.place
  (s.threads.filter (fun t => t.isOf l.ticket && t.place == .saved)).foldl (fun s t =>
    let same := (old.findIdx? (fun p => p == (t.core, t.slot))).bind (fun i => slots[i]?)
    let core := match same with | some p => p.1 | none => (newCore old slots t.core).getD t.core
    let u := { t with core := core }
    let s := if core = t.core then s else s.drain (s.covered t)
    let free := match same with
      | some p => if s.slotEmpty p.1 p.2 then some p.2 else s.freeSlot core t.ctx
      | none => s.freeSlot core t.ctx
    match (if t.retry.isSome then none else free) with
    | some j => s.resumeAt u core j
    | none => s.setT { u with slot := match same with | some p => p.2 | none => t.slot }) s

/-- The next number of a region instance (R330): no live record and no region has it. -/
def State.freshRinst (s : State) : Nat :=
  ((upto 65536).map (fun i => (s.reg.nextRinst + i) % 65536)).find? (fun n =>
    !s.regions.any (fun r => r.rinst == n) && !s.binds.any (fun b => b.rinst == n && (b.region || b.escape.isSome))) |>.getD 0

/-- The scratch tiles of a region's rectangle that no other region of its context held last are zeroed (R165). -/
def State.clearTiles (s : State) (r : Region) : State :=
  let fresh (key : Nat) : Bool :=
    r.on (key / 256) (key % 256 / 32) (key % 32) 1 1 &&
    !s.regions.any (fun o => o.rinst != r.rinst && o.ctx == r.ctx && o.on (key / 256) (key % 256 / 32) (key % 32) 1 1)
  { s with tiles := s.tiles.filter (fun c => !fresh (c.1 / 2 ^ 18)) }

/-- A region that runs its configuration once more without a load (R332): tiles keep what they hold, the schedule, the nodes
and the circuits begin afresh. -/
def Region.rerun (r : Region) (rinst ticket clk : Nat) : Region :=
  { r with rinst := rinst, ticket := ticket, phase := .running, shadow := none, resume := none, since := clk, sclk := 0,
           tiles := r.tiles.map (fun t => { t with fired := List.replicate 6 0, dead := [] }),
           nodes := r.img.nodes.map NodeCfg.start, ends := r.img.ends }

/-- Two regions share tiles: the one is to take them when the other has ended (R263). -/
def Region.meets (r o : Region) : Bool := o.rinst != r.rinst && o.on r.stripe r.row r.col r.rows r.cols

/-- The regions of a context that run beside a region once that has its tiles. -/
def State.beside (s : State) (c : Ctx) (r : Region) : List Region :=
  s.regions.filter (fun o => o.ctx == c.idx && o.rinst != r.rinst && o.phase != .idle && !r.meets o)

/-- Free link slots of a context for a region's load (R254). -/
def State.freeSlots (s : State) (c : Ctx) (r : Region) : Nat :=
  let chans := ((s.chans.filter (fun k => k.ctx == c.idx)).map (fun k => k.ring.slots)).sum
  let circs := ((s.beside c r).map (fun o => (o.shadow.getD o.img).nodeSlots)).sum
  c.lslots - chans - circs

/-- The channels that the nodes of the regions beside one read and write (R253). -/
def State.takenChans (s : State) (c : Ctx) (r : Region) : List (Nat × Bool) :=
  (s.beside c r).flatMap (fun o => (o.shadow.getD o.img).nodes.filterMap NodeCfg.channel)

/-- A region's configuration may be bound again as it stands: its channels are free for it, and its context has link slots for its circuits;
else a load checks it, and rejects it (R253, R254, R332). -/
def State.bindsAgain (s : State) (r : Region) : Bool :=
  match s.ctx? r.ctx with
  | none => false
  | some c =>
    let taken := s.takenChans c r
    decide (r.img.nodeSlots ≤ s.freeSlots c r) && !(r.img.nodes.filterMap NodeCfg.channel).any taken.contains

/-- The image has a src node that takes the tokens of the launch's ingress port (R257, R325). -/
def Image.takesPort (i : Image) : Bool := i.nodes.any (fun c => c.kind == 1 && c.field 16 1 == 0)

/-- The tokens of a launch whose image holds no src node of SRCK 0 are orphans (R325). -/
def State.portOf (s : State) (l : Launch) (img : Image) : State :=
  if img.takesPort then s
  else match s.queue? l.queue with
    | some q => s.setQueue (q.orphans l.ticket)
    | none => s

/-- One region of a launch is bound to a rectangle (R332): its configuration is used as it stands there, else it is loaded into the
shadow planes, while the tiles stay on what they hold (R263). -/
def State.bindRegion (s : State) (l : Launch) (h : Shape) (at' : Nat × Nat × Nat) (saved : Option (List NodeSt × List End)) :
    Nat × State :=
  let (stripe, row, col) := at'
  let rinst := s.freshRinst
  let b : Bind :=
    { region := true, ctx := l.ctx, unit := rinst, slots := 0, rinst := rinst, ticket := l.ticket, semg := 0, wbase := 0, wlen := 0,
      code := l.spec.code, handler := 0, escape := none }
  let s1 := { s with binds := s.binds ++ [b], reg := { s.reg with nextRinst := (rinst + 1) % 65536 } }
  let same (r : Region) : Bool := r.phase == .idle && r.stripe == stripe && r.row == row && r.col == col && r.rows == h.rows &&
    r.cols == h.cols && r.ctx == l.ctx && r.handle == l.spec.handle
  match (if saved.isSome then none else s1.regions.find? (fun r => same r && s1.bindsAgain r)) with
  | some r =>
    (rinst, ({ s1 with regions := s1.regions.map (fun o => if o.rinst = r.rinst then r.rerun rinst l.ticket s.clk else o) } : State).portOf
      l r.img)
  | none =>
    let r : Region :=
      { rinst := rinst, ctx := l.ctx, ticket := l.ticket, stripe := stripe, row := row, col := col, rows := h.rows, cols := h.cols,
        phase := .loading, img := { handle := 0, rows := h.rows, cols := h.cols, seed := 0, tiles := [], nodes := [], links := [] },
        shadow := none, resume := saved, tiles := [], nodes := [], ends := [], sclk := 0, since := s.clk, code := l.spec.code,
        handle := l.spec.handle }
    (rinst, { s1 with regions := s1.regions ++ [r] })

/-- The regions of a plot are bound one after another; their instance numbers. -/
def State.bindRegions (s : State) (l : Launch) (h : Shape) : List (Nat × Nat × Nat) → List (List NodeSt × List End) →
    List Nat × State
  | [], _ => ([], s)
  | p :: ps, saved =>
    let (n, s1) := s.bindRegion l h p saved.head?
    let (ns, s2) := State.bindRegions s1 l h ps saved.tail
    (n :: ns, s2)

/-- dispatch(L) of R336 onto a plot (R332). -/
def State.dispatch (s : State) (l : Launch) (p : Plot) : State :=
  let fresh := l.phase == .queued
  let h := if l.spec.region then s.shapeOf l.ctx l.spec else { rows := 0, cols := 0, sides := [] }
  let rects := if fresh then p.rects else p.rects.take l.saved.length
  let slots := slotList p.cores
  let all := slots ++ slotList (p.escs.map (fun e => (e.1, e.2.1)))
  let (rinsts, s1) := (if fresh then s else s.restoreWindows l all).bindRegions l h rects (if fresh then [] else l.saved)
  let s2 := p.cores.foldl (fun s c => s.bindCore l c.1 c.2 none) s1
  let s3 := p.escs.foldl (fun s e => match rinsts[e.2.2.1]? with
    | some n => s.bindCore l e.1 e.2.1 (some (n, e.2.2.2))
    | none => s) s2
  let l1 : Launch :=
    { l with phase := .running, order := s3.reg.order, saved := [], barred := false, place := [], sems := [],
             left := if fresh then (if l.spec.region then rects.length else slots.length) else l.left }
  let s4 := ({ s3 with reg := { s3.reg with order := s3.reg.order + 1 } } : State).setLaunch l1
  let s5 := if l.spec.region ∨ ¬ fresh then s4 else s4.createThreads l slots 0
  let s6 := if fresh then s5 else (s5.restoreSems l all).restoreThreads l all
  (p.cores.map Prod.fst ++ p.escs.map Prod.fst).foldl State.serveQueue s6

/-! ### Pre-emption (R262, R336 to R338, R352) -/

/-- A checkpoint is ordered of a region (R262). One whose image is not yet in force stops at once. -/
def Region.order (r : Region) (forced : Bool) (clk : Nat) : Region :=
  match r.phase with
  | .running => { r.injectAll 4 with phase := .checkpoint forced, since := clk }
  | .checkpoint f => { r with phase := .checkpoint (f || forced), since := if forced ∧ ¬ f then clk else r.since }
  | .loading => { r with phase := .stopped }
  | .checked => { r with phase := .stopped }
  | _ => r

/-- Every region of a launch is ordered to checkpoint. -/
def State.orderCheckpoint (s : State) (ticket : Nat) (forced : Bool) : State :=
  { s with regions := s.regions.map (fun r => if r.ticket = ticket then r.order forced s.clk else r) }

/-- preempt of R336: the parts of a launch are to be saved. -/
def State.preempt (s : State) (l : Launch) : State :=
  (s.setLaunch { l with phase := .preempting, since := s.clk }).orderCheckpoint l.ticket false

/-- What a stopped region leaves to be saved (R262); a region whose image was not in force leaves what it was to restore, or the start of
an image that has been accepted (R292). -/
def Region.leaves (r : Region) : List NodeSt × List End :=
  if r.nodes ≠ [] then (r.nodes, r.ends)
  else match r.resume, r.shadow with
    | some x, _ => x
    | none, some i => (i.nodes.map NodeCfg.start, i.ends)
    | none, none => ([], [])

/-- The parts of a launch that is pre-empted, or whose forced checkpoints have ended: once every one is saved, its resources
free and it returns to the head of its queue, or it is aborted (R337, R340). -/
def State.settle (s : State) (ticket : Nat) : State :=
  match s.launch? ticket with
  | none => s
  | some l =>
    let parts := s.regions.filter (fun r => r.ticket == ticket && r.phase != .idle)
    let rs := parts.filter (fun r => r.phase == .stopped)
    let ts := s.threads.filter (fun t => t.isOf ticket)
    if parts.length ≠ rs.length then s
    else if l.abort ∧ l.spec.region then s.abortNow ticket none
    else if l.phase ≠ .preempting ∨ ts.any (fun t => t.place != .saved) then s
    else
      let mine (b : Bind) : Bool := b.ticket == ticket
      let place := (s.binds.filter (fun b => mine b && !b.region)).map (fun b => (b.unit, b.slots))
      let s1 := (s.guests ticket).foldl State.relieve s
      if s1.guests ticket ≠ [] then s1
      else
        let s2 := s1.clearBinds mine
        let cores := (place.map Prod.fst).eraseDups
        let kept := (s1.semCounts l.ctx cores).filter (fun x => (((s2.core x.1).sems.toList[x.2.1]?).bind Sem.grant).isNone)
        let s3 := place.foldl (fun s p =>
          if s.bound p.1 l.ctx ∨ s.windowStable p.1 l.ctx = true then s else s.withdraw p.1 l.ctx (some ticket)) s2
        let l1 : Launch := { l with phase := .preempted, place := place, sems := kept, saved := rs.map Region.leaves }
        let s4 := s3.endRegions ticket false
        { s4 with reg := { s4.reg with launches := l1 :: s4.reg.launches.filter (fun o => o.ticket != ticket) } }

/-- The state as if launches held nothing. -/
def State.without (s : State) (ks : List Nat) : State :=
  let gone (b : Bind) : Bool := ks.contains b.ticket
  let held (w : Window) (p : Bind → Bool) : Bool := s.binds.any (fun b => !b.region && b.unit == w.core && b.ctx == w.ctx && p b)
  { s with binds := s.binds.filter (fun b => !gone b),
           windows := s.windows.filter (fun w => !(held w gone && !held w (fun b => !gone b))),
           regions := s.regions.filter (fun r => r.phase == .idle || !ks.contains r.ticket),
           others := s.others.filter (fun t => !ks.contains t.bindTicket),
           th := if ks.contains s.th.bindTicket then Thread.initial else s.th }

/-- A lending is under way: its waiter waits on the lock word, which has not been written since (R339). -/
def State.lending (s : State) (e : Lend) : Bool :=
  match (s.getT e.waiter).map Thread.wait with
  | some (.lock _ pa false) => pa == e.pa
  | _ => false

/-- The priority at which a launch counts: its own, or a higher one that has been lent to a thread of it (R339). -/
def State.lentPri (s : State) (l : Launch) : Nat :=
  (s.reg.lends.filter (fun e => s.lending e && (match s.getT e.holder with | some h => h.isOf l.ticket | none => false))).foldl
    (fun m e => Nat.max m e.pri) l.pri

/-- Launches in the order in which R336 takes victims: lowest priority first, the latest dispatched first among equals. -/
def victimOrder (l : List Launch) : List Launch :=
  (upto 8).flatMap (fun p => (sortBy Launch.order (l.filter (fun x => x.pri == p))).reverse)

/-- victims(L) of R336: the launches to pre-empt, empty where enough are already being saved; none if there is no such set. -/
def State.victims (s : State) (l : Launch) : Option (List Launch) :=
  let going := (s.reg.launches.filter (fun x => x.phase == .preempting)).map Launch.ticket
  let cands := victimOrder (s.reg.launches.filter (fun x => x.phase == .running && decide (s.lentPri x < l.pri) && !x.barred && !x.abort))
  match (upto (cands.length + 1)).find? (fun n =>
      ((s.without (going ++ (cands.take n).map Launch.ticket)).plotFor l.ctx l.ticket l.spec).isSome) with
  | none => none
  | some n =>
    let set := cands.take n
    let paused := s.regions.any (fun r => set.any (fun x => x.ticket == r.ticket) && r.phase != .idle && r.nodes.any (fun n => n.fault.isSome))
    let room := (set.map Launch.ctx).all (fun c => s.storeHolds c (((set.filter (fun x => x.ctx == c)).map s.pagesFor).sum))
    if paused ∨ room = false then none else some set

/-! ### The procedure of R336 -/

/-- Where a launch's dependence word stands (R329): ready, not yet, or a fault. -/
def State.depends (s : State) (l : Launch) : Except Trap Bool :=
  if l.spec.depw = 0 then .ok true
  else match s.agentNat (ctxAgent l.ctx) l.spec.depw.toNat 8 with
    | .error e => .error e
    | .ok v => .ok (decide (2 ^ 56 ≤ v))

/-- The conditions of R329 but for DEPW. -/
def State.mayGo (s : State) (l : Launch) : Bool :=
  (s.ctx? l.ctx).isSome && !s.dying.contains l.ticket &&
    (!l.spec.ser || l.phase == .preempted || (match l.prev with | some k => (s.launch? k).isNone | none => true))

/-- Head launches of a priority, by queue. -/
def State.heads (s : State) (p : Nat) : List Launch :=
  sortBy Launch.queue (s.reg.launches.filter (fun l => l.queued && l.pri == p && (s.headOf l.queue == some l)))

/-- next_ready(p) of R336: the first eligible head above last(p), else the lowest; or the first whose dependence word
faults. -/
def State.nextReady (s : State) (p : Nat) : Option (Launch × Option Trap) :=
  let hs := s.heads p
  let last := s.reg.last.getD p 16383
  let order := hs.filter (fun l => decide (last < l.queue)) ++ hs.filter (fun l => decide (l.queue ≤ last))
  match (hs.filter s.mayGo).findSome? (fun l => match s.depends l with | .error e => some (l, some e) | .ok _ => none) with
  | some x => some x
  | none => (order.find? (fun l => s.mayGo l && (match s.depends l with | .ok b => b | .error _ => false))).map (fun l => (l, none))

/-- The dependence word of a launch could not be read: it is aborted, a region launch with a load report (R329). -/
def State.depAbort (s : State) (l : Launch) (e : Trap) : State :=
  s.abortNow l.ticket (if l.spec.region then some (loadReport { step := 0, code := e.code }) else none)

/-- One priority of schedule() (R336); the flag says that the pass ends. -/
def State.schedPri (p : Nat) : Nat → State → State × Bool
  | 0, s => (s, false)
  | n + 1, s =>
    match s.nextReady p with
    | none => (s, false)
    | some (l, some e) => State.schedPri p n (s.depAbort l e)
    | some (l, none) =>
      match s.plotFor l.ctx l.ticket l.spec with
      | none =>
        (match s.victims l with
          | some set => set.foldl (fun s v => s.settle v.ticket) (set.foldl State.preempt s)
          | none => s, true)
      | some plot =>
        let s1 := s.dispatch l plot
        State.schedPri p n { s1 with reg := { s1.reg with last := s1.reg.last.set p l.queue } }

/-- A record for threads is to be cleared: its launch has ended, or the region instance whose escape threads it serves (R330). -/
def State.overdue (s : State) (b : Bind) : Bool :=
  !b.region && ((s.launch? b.ticket).isNone ||
    (match b.escape with | some e => s.regions.any (fun r => r.rinst == e.1 && r.phase == .idle) | none => false))

/-- A thread of a launch that has ended, which held its slot for its commands only, and these have ended (R350). -/
def State.finished (s : State) (t : Thread) : Bool :=
  t.place == .slot && t.mode == .descheduled && t.retry.isNone && (s.launch? t.origin).isNone && !s.hasCmds t

/-- What earlier ends have left is done once it can be: stopped threads end, guests of ended launches are saved, records without
threads are cleared, launches that are being pre-empted settle, and lendings whose threads are gone are forgotten (R330, R337, R339,
R350). -/
def State.sweep (s : State) : State :=
  let s1 := (s.threads.filter s.finished).foldl (fun s t => s.endThread t) s
  let s2 := (s1.threads.filter (fun t => t.place == .slot && !t.isOf t.bindTicket && (s1.launch? t.bindTicket).isNone)).foldl
    State.relieve s1
  let s3 := s2.clearBinds (fun b => s2.overdue b && !s2.occupied b)
  let s4 := ((s3.reg.launches.filter (fun l => l.phase == .preempting)).map Launch.ticket).foldl State.settle s3
  { s4 with reg := { s4.reg with lends := s4.reg.lends.filter (fun e => (s4.getT e.waiter).isSome && (s4.getT e.holder).isSome) } }

/-- schedule() of R336. -/
def State.sched (s : State) : State :=
  let s1 := s.sweep
  ((upto 8).foldl (fun (acc : State × Bool) k =>
    if acc.2 then acc else State.schedPri (7 - k) (s1.reg.launches.length + 1) acc.1) (s1, false)).1

/-! ### Launches enter queues (R324 to R327, R334) -/

/-- A result code and value of R341, or the fault that ended a read. -/
structure Reply0 where
  result : Nat
  value : Nat := 0
  err : Option Trap := none
  deriving DecidableEq, Repr

/-- A launch record enters a bound queue (R324, R326, R327, R334). -/
def State.enter (s : State) (q : Nat) (va : Word) : Reply0 × State :=
  match s.queue? q with
  | none => ({ result := 6 }, s)
  | some w =>
    if w.bound = false then ({ result := 6 }, s)
    else if 64 ≤ (s.reg.launches.filter (fun l => l.queue == q && l.queued)).length then ({ result := 5 }, s)
    else if va.toNat % 128 ≠ 0 then ({ result := 3 }, s)
    else match s.agentRead (ctxAgent w.ctx) va.toNat 128, s.ctx? w.ctx with
      | .error e, _ => ({ result := 3, err := some e }, s)
      | .ok _, none => ({ result := 6 }, s)
      | .ok bs, some c =>
        if launchLegal bs c.prvOk = false then ({ result := 3 }, s)
        else
          let r := parseLaunch bs
          if s.everPlaced w.ctx r = false then ({ result := 4 }, s)
          else
            let n := (assoc s.reg.counts q).getD 0
            let ticket := q + n % 2 ^ 18 * 2 ^ 14
            let l : Launch :=
              { ticket := ticket, queue := q, ctx := w.ctx, pri := w.pri, spec := r, phase := .queued, order := 0,
                prev := assoc s.reg.latest q, left := 0, nnz := 0, xmax := 0, npois := 0, late := 0, flg := 0, place := [],
                saved := [], abort := false, barred := false }
            ({ result := 0, value := ticket },
              { s with reg := { s.reg with launches := s.reg.launches ++ [l], counts := assocSet s.reg.counts q (n + 1),
                                           latest := assocSet s.reg.latest q ticket } })

/-- The oldest launch token of a port enters its queue if there is room (R324, R325). A refused record opens no launch, and a launch of
threads has no src nodes: the tokens that follow it are orphans. -/
def State.letOne (s : State) (i : Nat) (w : Nat × Word) : State :=
  let (r, s1) := s.enter i w.2
  if r.result = 5 then s
  else
    let q1 := s1.queueOf i
    let q2 := { q1 with waiting := q1.waiting.filter (fun p => p != w) }
    let q3 := if r.result = 0 ∧ (s1.launch? r.value).any (fun l => l.spec.region) = true then q2 else q2.lose (fun n => n == w.1)
    s1.putQueue (if r.result = 0 then { q3 with opened := q3.opened ++ [(w.1, r.value)] } else q3)

/-- A launch token stands in a port's cistern. -/
def Queue.behind (q : Queue) : Bool := q.cist.any Spilled.launch

/-- Launch tokens that wait in ports enter their queues while there is room (R324, R325). -/
def State.letIn (s : State) : State :=
  s.reg.queues.foldl (fun s q =>
    let s1 := if q.behind then s.setQueue (s.refilled q) else s
    (if q.behind then s.refilled q else q).waiting.foldl (fun s w => s.letOne q.idx w) s1) s

/-- An event of R336: waiting launch tokens enter, then schedule() runs. -/
def State.schedule (s : State) : State := if s.out.fatal then s else s.sched.letIn.sched

end Sys2Proof.Machine
end

