-- ==== Sys2Proof/Machine/Ecdsa.lean ====
section
/-! DEFINITION. ECDSA on the curve P-384 of FIPS 186-5 and SP 800-186, which R3 names for the attestation report (R373, R374). -/

namespace Sys2Proof.Machine

/-- The prime of P-384. -/
def p384Prime : Nat := 2 ^ 384 - 2 ^ 128 - 2 ^ 96 + 2 ^ 32 - 1

/-- The order of the group of P-384. -/
def p384Order : Nat := 0xFFFFFFFFFFFFFFFFFFFFFFFFFFFFFFFFFFFFFFFFFFFFFFFFC7634D81F4372DDF581A0DB248B0A77AECEC196ACCC52973

/-- A power modulo m, by the lowest n bits of the exponent. -/
def powMod (m : Nat) : Nat → Nat → Nat → Nat
  | 0, _, _ => 1 % m
  | n + 1, x, e => (if e % 2 = 1 then x else 1) * powMod m n (x * x % m) (e / 2) % m

/-- The inverse modulo a prime of at most 384 bits. -/
def invMod (m x : Nat) : Nat := powMod m 384 (x % m) (m - 2)

/-- A point of the curve by its Jacobian coordinates; z is 0 for the point at infinity. -/
structure CurvePoint where
  x : Nat
  y : Nat
  z : Nat
  deriving DecidableEq, Repr

/-- The base point of P-384. -/
def p384Base : CurvePoint :=
  { x := 0xAA87CA22BE8B05378EB1C71EF320AD746E1D3B628BA79B9859F741E082542A385502F25DBF55296C3A545E3872760AB7,
    y := 0x3617DE4A96262C6F5D9E98BF9292DC29F8F41DBD289A147CE9DA3113B5F0B8C00A60B1CE1D7E819D7A431D7C90EA0E5F, z := 1 }

/-- A difference modulo the prime. -/
def p384Sub (a b : Nat) : Nat := (a + p384Prime - b % p384Prime) % p384Prime

/-- Twice a point; the curve's first coefficient is -3. -/
def CurvePoint.double (a : CurvePoint) : CurvePoint :=
  let m := p384Prime
  let d := a.z * a.z % m
  let g := a.y * a.y % m
  let b := a.x * g % m
  let h := 3 * (p384Sub a.x d * ((a.x + d) % m)) % m
  let x := p384Sub (h * h % m) (8 * b)
  { x := x, y := p384Sub (h * p384Sub (4 * b) x % m) (8 * (g * g % m)), z := 2 * a.y * a.z % m }

/-- The sum of two points. -/
def CurvePoint.plus (a b : CurvePoint) : CurvePoint :=
  let m := p384Prime
  if a.z = 0 then b
  else if b.z = 0 then a
  else
    let za := a.z * a.z % m
    let zb := b.z * b.z % m
    let u := a.x * zb % m
    let v := a.y * b.z * zb % m
    let h := p384Sub (b.x * za % m) u
    let r := p384Sub (b.y * a.z * za % m) v
    if h = 0 then (if r = 0 then a.double else { x := 1, y := 1, z := 0 })
    else
      let hh := h * h % m
      let hhh := h * hh % m
      let w := u * hh % m
      let x := p384Sub (p384Sub (r * r % m) hhh) (2 * w)
      { x := x, y := p384Sub (r * p384Sub w x % m) (v * hhh % m), z := a.z * b.z * h % m }

/-- A multiple of a point, by the lowest n bits of the factor. -/
def CurvePoint.times : Nat → Nat → CurvePoint → CurvePoint
  | 0, _, _ => { x := 1, y := 1, z := 0 }
  | n + 1, k, a =>
    let rest := CurvePoint.times n (k / 2) a.double
    if k % 2 = 1 then rest.plus a else rest

/-- The affine x coordinate of a point. -/
def CurvePoint.affineX (a : CurvePoint) : Nat := a.x * invMod p384Prime (a.z * a.z % p384Prime) % p384Prime

/-- The signature (r, s) of a digest as a number, under a private key and with a per-message secret (FIPS 186-5, 6.4.1). -/
def signWith (key k digest : Nat) : Nat × Nat :=
  let n := p384Order
  let r := (CurvePoint.times 384 k p384Base).affineX % n
  (r, invMod n k * ((digest + r * key) % n) % n)

/-- A number from 1 to the order less 1. -/
def scalar (x : Nat) : Nat := 1 + x % (p384Order - 1)

/-- The first signature of a few attempts that has no zero: with one a further secret is drawn (FIPS 186-5, 6.4.1). -/
def signFrom (digest i : Nat) : Nat → Nat × Nat
  | 0 => signWith (scalar Config.identityKey) (scalar (Config.signSecret i)) digest
  | n + 1 =>
    let sig := signWith (scalar Config.identityKey) (scalar (Config.signSecret i)) digest
    if sig.1 = 0 ∨ sig.2 = 0 then signFrom digest (i + 1) n else sig

/-- The ECDSA P-384 signature (r, s) of a message under the identity key, with SHA-384 (R373, R374); the number i chooses the per-message
secret. -/
def ecdsaSign (message : List Byte) (i : Nat) : BitVec 384 × BitVec 384 :=
  let sig := signFrom (ofLe (sha384 message).reverse) i 8
  (BitVec.ofNat 384 sig.1, BitVec.ofNat 384 sig.2)

end Sys2Proof.Machine
end

