-- ==== Sys2Proof/Machine/Registrar.lean ====
section
/-! DEFINITION. The registrars at work: the ends of threads, regions and loads, quantum ticks, retries and watchdogs, Aeltas
commands, enq and ingress ports (R141, R148, R152, R161, R186, R253, R260 to R264, R323 to R343, R349, R352). -/

namespace Sys2Proof.Machine

/-! ### Threads end, regions end, loads end -/

/-- Exit codes reach their launches; a thread launch whose last thread has exited completes, unless a fatal fault has aborted it (R141,
R333, R350). -/
def State.takeExits (s : State) : State :=
  let s1 := s.exits.foldl (fun (s : State) e =>
    match s.launch? e.1 with
    | none => s
    | some l => s.setLaunch { l with left := l.left - 1, nnz := if e.2.2 = 0 then l.nnz else l.nnz + 1, xmax := Nat.max l.xmax e.2.2 })
    s
  let s2 : State := { s1 with exits := [] }
  let ended (l : Launch) : Bool := !l.spec.region && l.phase == .running && !s2.dying.contains l.ticket && decide (l.left = 0) &&
    !s2.threads.any (fun t => t.isOf l.ticket)
  match s2.reg.launches.filter ended with
  | [] => s2
  | ls => (ls.foldl State.finishLaunch s2).schedule

/-- exit (R141, R333). -/
def execExit (a : Spec) (s : State) : Host.Outcome State Fault Refusal :=
  issueWord (.exit a) (fun s => match exitBody a s with | .stop s1 => .stop s1.takeExits | e => e) s

/-- A node at which a marker ends: a snk, or one with no used output (R260). -/
def Region.terminal (r : Region) (n : NodeSt) : Bool :=
  match r.img.nodes.find? (fun c => c.nid == n.nid) with
  | some c => c.kind == 2 || (c.out0.isNone && c.out1.isNone)
  | none => false

/-- A marker has reached every unit that it must reach (R260, R262). -/
def Region.reached (r : Region) (tag : Nat) : Bool := r.nodes.all (fun n => !r.terminal n || n.ended == some tag)

/-- REGION_COMPLETE (R260, R261, R330): DRAIN has reached every end. The instance's records are cleared, those of its escape stripes where
no thread stands in their slots any more, and the region is reusable; with the last instance the completion word is written. -/
def execRegionComplete (rinst : Nat) (s : State) : Host.Outcome State Fault Refusal :=
  event (fun s =>
    match s.region? rinst with
    | none => s
    | some r =>
      match (if r.phase = .draining ∧ r.reached 3 = true then s.launch? r.ticket else none) with
      | none => s
      | some l =>
        let l1 := (Launch.absorb l r)
        let l2 : Launch := { l1 with left := l1.left - 1 }
        let s1 := ((s.setLaunch l2).setRegion { r with phase := .idle }).clearBinds (fun b =>
          b.rinst == rinst && (b.region || (b.escape.isSome && !s.occupied b)))
        if l2.left = 0 then (s1.finishLaunch l2).schedule else (s1.settle l.ticket).schedule) s

/-- CHECKPOINT_COMPLETE (R262, R277, R337, R340): CKPT has reached every end while no node is paused, and the region stops. -/
def execCheckpointComplete (rinst : Nat) (s : State) : Host.Outcome State Fault Refusal :=
  event (fun s =>
    match s.region? rinst with
    | none => s
    | some r =>
      match r.phase with
      | .checkpoint _ =>
        if r.reached 4 = true ∧ r.nodes.all (fun n => n.fault.isNone) = true then ((s.setRegion { r with phase := .stopped }).settle r.ticket).schedule else s
      | _ => s) s

/-- THREAD_SAVE_COMPLETE (R113, R337): a thread of a launch that is being pre-empted has nothing in flight, and is saved. -/
def execThreadSaveComplete (u : Nat) (s : State) : Host.Outcome State Fault Refusal :=
  event (fun s =>
    match s.getT u with
    | none => s
    | some t =>
      match s.launch? t.origin with
      | none => s
      | some l =>
        match (if l.phase = .preempting ∧ t.place ≠ .saved then s.saveThread t (some l.ticket) else none) with
        | some s1 => s1.settle l.ticket
        | none => s) s

/-- The region's configuration was accepted before its launch was pre-empted: it has nodes to restore (R292). -/
def Region.accepted (r : Region) : Bool := match r.resume with | some x => !x.1.isEmpty | none => false

/-- What a region's load is checked against (R107, R252, R266, R292, R327). One that was accepted before its launch was pre-empted is not
checked again for what its sluices' operations need (R292). -/
def State.loadEnv (s : State) (c : Ctx) (l : Launch) (r : Region) : LoadEnv :=
  { rows := r.rows, cols := r.cols, handle := r.handle,
    extent := (l.spec.levels.find? (fun v => v.dom == 1)).map Level.extent,
    escapes := l.spec.escn != 0 && l.spec.scrw != 0, free := s.freeSlots c r, chans := s.chans.filter (fun k => k.ctx == c.idx),
    taken := s.takenChans c r,
    atomReq := s.out.atomReq || r.accepted, port := s.portsUp != 0 || r.accepted }

/-- LOAD_FINISH (R107, R264, R335): the loader has checked an image; a failed load aborts its launch. -/
def execLoadFinish (rinst : Nat) (s : State) : Host.Outcome State Fault Refusal :=
  event (fun s =>
    match s.region? rinst with
    | none => s
    | some r =>
      match (if r.phase = .loading then s.launch? r.ticket else none), s.ctx? r.ctx with
      | some l, some c =>
        (match (if r.shadowBad then .error (cfgUe 0) else s.checkImage r.ctx r.code.toNat (s.loadEnv c l r)) with
          | .ok img => (s.setRegion { r with phase := .checked, shadow := some img }).portOf l img
          | .error f => (s.abortNow l.ticket (some (loadReport f))).schedule)
      | _, _ => s) s

/-- A region whose checked configuration comes into force (R42, R207, R262, R263). -/
def Region.switched (r : Region) (img : Image) : Region :=
  match r.resume with
  | some sv => (r.install img).restore sv
  | none => r.install img

/-- CONFIG_SWITCH (R165, R263, R264): a checked configuration switches for every tile and node of its region, once the region that held
the tiles has ended. An uncorrectable error in the shadow planes aborts the load. -/
def execConfigSwitch (rinst : Nat) (s : State) : Host.Outcome State Fault Refusal :=
  event (fun s =>
    match s.region? rinst with
    | none => s
    | some r =>
      match r.phase, r.shadow with
      | .checked, some img =>
        if r.shadowBad then (s.abortNow r.ticket (some (loadReport (cfgUe 0)))).schedule
        else if s.regions.any (fun o => r.meets o && o.phase != .idle) then s
        else
          let s1 := s.clearTiles r
          State.setRegion { s1 with regions := s1.regions.filter (fun o => !r.meets o) } (r.switched img)
      | _, _ => s) s

/-! ### Quantum ticks (R336, R339, R349, R350) -/

/-- Threads that a tick resumes: saved ones whose launches run, but for those that a fault's retry holds (R339, R349). -/
def State.resumable (s : State) (t : Thread) : Bool :=
  t.place == .saved && t.retry.isNone && !s.dying.contains t.origin &&
    (match s.launch? t.origin with | some l => l.phase == .running | none => true)

/-- Descheduled threads are resumed in the order of R339. -/
def State.resumeAll (s : State) : State :=
  let saved := s.threads.filter s.resumable
  let arrived (t : Thread) : Bool := match t.wait with | .arrival => true | .amo _ => true | _ => false
  let g1 := saved.filter s.named
  let g2 := sortBy Thread.since (saved.filter (fun t => !s.named t && arrived t))
  let g3 := sortBy Thread.since (saved.filter (fun t => !s.named t && !arrived t))
  let first := (g1 ++ g2).map Thread.uid
  let again (spare : List Nat) (s : State) (t : Thread) : State :=
    match s.getT t.uid with
    | some u => if u.place = .saved then s.resumeThread u spare else s
    | none => s
  g3.foldl (fun s t => match s.freeSlot t.core t.ctx, s.getT t.uid with
    | some j, some u => if u.place = .saved then s.resumeAt u u.core j else s
    | none, some u => again (first ++ g3.map Thread.uid) s u
    | _, none => s) ((g1 ++ g2).foldl (again first) s)

/-- QUANTUM_TICK (R336): launches that a fatal fault or a forced cancel aborts end, each an event of its own, descheduled threads are
resumed, and schedule() runs. -/
def execQuantumTick (s : State) : Host.Outcome State Fault Refusal :=
  event (fun s =>
    if s.clk < (s.reg.ticks + 1) * Config.quantum then s
    else
      let s1 := { s with reg := { s.reg with ticks := s.reg.ticks + 1 } }
      let stop := s1.dying ++ (s1.reg.launches.filter (fun l => l.abort && !l.spec.region)).map Launch.ticket
      let s2 := stop.foldl (fun s k => (s.abortNow k none).schedule) s1
      s2.readLocks.resumeAll.schedule) s

/-- The priority of a thread's launch, as it counts (R339). -/
def State.threadPri (s : State) (t : Thread) : Nat := match s.launch? t.origin with | some l => s.lentPri l | none => 0

/-- LOCK_LEND (R339): a waiter of higher priority gives way to the descheduled holder of its lock word, which counts at the waiter's
priority until the word is written. A save that could not be finished is not begun (R338). -/
def execLockLend (u : Nat) (s : State) : Host.Outcome State Fault Refusal :=
  event (fun s =>
    match s.getT u with
    | none => s
    | some w =>
      match (if w.mode = .waiting then w.wait else .none) with
      | .lock va pa false =>
        (match s.holderOf w (s.readNat .mem pa 8) with
          | none => s
          | some h =>
            if s.threadPri w ≤ s.threadPri h ∨ s.resumable h = false then s
            else match s.saveThread w none with
              | none => s
              | some s1 =>
                let e : Lend := { holder := h.uid, waiter := w.uid, pri := s.threadPri w, pa := pa }
                let s2 := s1.modT w.uid (fun t => { t with wait := .lock va pa false })
                let s3 : State := { s2.readLocks with reg := { s2.reg with lends := s2.reg.lends.filter (fun o => o.waiter != w.uid) ++ [e] } }
                s3.resumeThread h [h.uid])
      | _ => s) s

/-- WAITL_END (R152, R339): the lock word has been written. A waiter reads it again and completes with that value; a waiter
that lent its slot is resumed, and its word runs again. -/
def execWaitlEnd (u : Nat) (s : State) : Host.Outcome State Fault Refusal :=
  event (fun s =>
    match s.getT u with
    | some t =>
      match t.wait with
      | .lock va pa true =>
        if t.mode = .descheduled then s.resumeThread t [t.uid]
        else if t.mode ≠ .waiting then s
        else if s.badAt .mem pa 8 then s.takeFault t (eccTrap .mem pa va) t.word
        else
          let (v, t1) := s.readLock t pa
          s.completeWord t1 v none .seq
      | _ => s
    | none => s) s

/-- ARRIVAL_RELIEF (R148, R338, R350): the oldest entry of an arrival queue that has waited a quantum moves to the save area; where that is
full it ends, and its launch is aborted as for a fatal fault of it. -/
def execArrivalRelief (s : State) : Host.Outcome State Fault Refusal :=
  event (fun s =>
    match ((s.core s.unit).queue.filterMap s.getT).find? (fun t => decide (t.since + Config.quantum ≤ s.clk)) with
    | none => s
    | some t =>
      let cs := s.core s.unit
      match (s.setCore s.unit { cs with queue := cs.queue.filter (fun v => v != t.uid) }).stow
          { t with mode := .descheduled, since := s.clk } none with
      | some s1 => s1
      | none => ((s.moduleRecord t.ctx { code := .watchdog, detail := 4 } t.origin true).abortLaunch t.origin).endThread t) s

/-! ### Retries and watchdogs (R349, R352) -/

/-- A fault has been retried in vain at 1,000 ticks and more (R349). -/
def limitReached (first last : Nat) : Bool := decide (first + Config.retryLimit ≤ last)

/-- FAULT_RETRY (R349): a tick lets a paused node perform its access again, or resumes a thread at its faulting word, once. Where the thread
finds no slot, or its launch does not run, the tick passes without success. After 1,000 ticks nothing is retried any more. -/
def execFaultRetry (isNode : Bool) (a b : Nat) (s : State) : Host.Outcome State Fault Refusal :=
  event (fun s =>
    if isNode then
      match s.region? a with
      | none => s
      | some r => s.setRegion (r.setNode b (fun n =>
          if n.fault.isSome = true ∧ n.last < s.reg.ticks ∧ limitReached n.first n.last = false then { n with retry := true, last := s.reg.ticks } else n))
    else
      match s.getT a with
      | none => s
      | some t =>
        match (if t.mode = .descheduled then t.retry else none) with
        | none => s
        | some r =>
          let u := { t with retry := some { r with last := s.reg.ticks } }
          if s.reg.ticks ≤ r.last ∨ limitReached r.first r.last = true then s
          else if (match s.launch? t.origin with | some l => l.phase != .running | none => false) = true then s.setT u
          else if t.place = .saved then (s.setT u).resumeThread u [t.uid] else s.resumeAt u t.core t.slot) s

/-- FAULT_RETRY_LIMIT (R349 to R351): after 1,000 ticks, at the last of which the fault has met its retry, the record is appended again with
FATAL, and the fate of a fatal fault follows. -/
def execFaultRetryLimit (isNode : Bool) (a b : Nat) (s : State) : Host.Outcome State Fault Refusal :=
  event (fun s =>
    if isNode then
      match s.region? a with
      | none => s
      | some r =>
        match r.nodes.find? (fun n => n.nid == b), r.img.nodes.find? (fun c => c.nid == b) with
        | some n, some c =>
          (match n.fault with
            | some tr =>
              if limitReached n.first n.last = false ∨ n.retry = true ∨ tr.retry = false then s
              else
                let s1 := s.setRegion (r.setNode b (fun m => { m with fault := some { tr with retry := false } }))
                (s1.appendLog r.ctx (faultRecord (r.recordAt 2 c.pos b) tr true s.clk)).abortLaunch r.ticket
            | none => s)
        | _, _ => s
    else
      match s.getT a with
      | none => s
      | some t =>
        match (if t.mode = .descheduled then t.retry else none) with
        | none => s
        | some r =>
          if limitReached r.first r.last = false then s
          else
            let s1 := if t.ticket.getLsbD 63 then s else s.appendLog t.ctx (faultRecord (t.recordAt r.trap r.word) r.trap true s.clk)
            s1.fatal t r.trap r.word) s

/-- 10 ms in clk (R352). -/
def watchLimit : Nat := 10 * Config.quantum

/-- An abandoned pre-emption (R352): its regions run on, its saved threads are resumed at the next tick (R339), and the launch is barred
from the next victim set. The launch that needed its place waits for the next event of R336. -/
def State.abandon (s : State) (ticket : Nat) (cause : Nat) : State :=
  match s.launch? ticket with
  | none => s
  | some l =>
    let reopen (r : Region) : Region :=
      { r with
        phase := (match r.phase with | .checkpoint false => .running | .stopped => (if r.nodes ≠ [] then .running else if r.shadow.isSome then .checked else .loading) | p => p),
        nodes := r.nodes.map (fun n => match r.img.nodes.find? (fun c => c.nid == n.nid) with
          | some c => if c.kind = 1 ∨ c.kind = 0x0A then { n with closed := false, inject := none } else { n with ended := none }
          | none => n) }
    let s1 : State := { s with regions := s.regions.map (fun (r : Region) => if r.ticket = ticket ∧ r.phase ≠ RPhase.idle then reopen r else r) }
    let s2 := s1.setLaunch { l with phase := .running, barred := true }
    s2.moduleRecord l.ctx { code := .watchdog, detail := cause } ticket false

/-- CHECKPOINT_WATCHDOG (R352 cause 1). -/
def execCheckpointWatchdog (rinst : Nat) (s : State) : Host.Outcome State Fault Refusal :=
  event (fun s =>
    match s.region? rinst with
    | some r => if r.phase = .checkpoint false ∧ r.since + watchLimit ≤ s.clk ∧ r.reached 4 = false then s.abandon r.ticket 1 else s
    | none => s) s

/-- THREAD_SAVE_WATCHDOG (R352 cause 2): 10 ms after the order a thread's copies or engine commands have not completed. -/
def execThreadSaveWatchdog (u : Nat) (s : State) : Host.Outcome State Fault Refusal :=
  event (fun s =>
    match s.getT u with
    | none => s
    | some t =>
      match s.launch? t.origin with
      | none => s
      | some l => if l.phase = .preempting ∧ l.since + watchLimit ≤ s.clk ∧ t.place ≠ .saved ∧ s.hasCmds t = true then s.abandon l.ticket 2 else s) s

/-- FORCED_ABORT_WATCHDOG (R352 cause 3): a forced cancel's checkpoint took too long, and the launch is aborted at once. -/
def execForcedAbortWatchdog (rinst : Nat) (s : State) : Host.Outcome State Fault Refusal :=
  event (fun s =>
    match s.region? rinst with
    | some r =>
      if r.phase = .checkpoint true ∧ r.since + watchLimit ≤ s.clk ∧ r.reached 4 = false then
        ((s.moduleRecord r.ctx { code := .watchdog, detail := 3 } r.ticket true).abortNow r.ticket none).schedule
      else s
    | none => s) s

/-! ### What host commands and enq do (R186, R323, R340, R341) -/

/-- CANCEL (R340). Every cancel is an event of R336. -/
def State.cancel (s : State) (ticket : Nat) (force : Bool) : Reply0 × State :=
  match s.launch? ticket with
  | none => ({ result := 2 }, s.schedule)
  | some l =>
    match l.phase with
    | .queued => ({ result := 0 }, (s.abortNow ticket none).schedule)
    | .preempted => ({ result := 1 }, (if force then s.abortNow ticket none else s).schedule)
    | _ =>
      if force = false then ({ result := 1 }, s.schedule)
      else
        let s1 := s.setLaunch { l with abort := true }
        ({ result := 1 }, (if l.spec.region then (s1.orderCheckpoint ticket true).settle ticket else s1).schedule)

/-- XINV (R186): translations of a context's range are dropped from every cache, and what the context's threads have in flight through
them ends. -/
def State.invalidate (s : State) (ctx lo len : Nat) : State :=
  (s.dropTlb (fun e => e.ctx == ctx && decide (e.va < lo + len ∧ lo < e.va + 2 ^ e.bits))).quiesce ctx lo len

/-- A request on a link, of a thread or a sluice node of a context, at an address of a range is in flight still (R186). -/
def State.linksIn (s : State) (ctx lo len : Nat) : Bool :=
  let hit (va n : Nat) : Bool := decide (va < lo + len ∧ lo < va + n)
  s.links.any (fun q => q.ctx == ctx && hit q.va.toNat (match q.op with | .load _ _ r _ => r.size | .amo r => if r.wide then 8 else 4)) ||
  s.regions.any (fun r => r.ctx == ctx && r.nodes.any (fun n => match n.var with
    | .sluice _ _ _ reqs _ _ => reqs.any (fun q => q.old.isNone && hit q.va 8)
    | _ => false))

/-- The operands of XINV are legal (R341). -/
def xinvOk (va len : Nat) : Bool := decide (va % 4096 = 0 ∧ len ≠ 0 ∧ len % 4096 = 0)

/-- The live-slice map as SLICEMAP writes it (R179, R341): packed coordinates of core 0 of the stripes. -/
def State.sliceBytes (s : State) : List Byte := (upto 96).flatMap (fun n => leBytes 2 (coreCoord (s.sliceMap.getD n n * 16)))

/-- A channel descriptor (R253), or none where a rule of its map is broken. -/
def parseChan (ctx n : Nat) (bs : List Byte) : Option Chan :=
  let vb := imgNat bs 0 8
  let size := imgNat bs 8 4
  let slots := imgNat bs 12 1
  let cons := imgNat bs 13 1 / 16
  let prod := imgNat bs 13 1 % 16
  let kind (k : Nat) : Bool := k == 1 || k == 2
  if kind cons && kind prod && decide (vb % 4096 = 0 ∧ vb < 2 ^ 56 ∧ size % 4096 = 0 ∧ slots ≤ 32) && ((vb == 0) == (size == 0)) &&
      imgZero bs 14 32 then
    some { ctx := ctx, num := n, ring := { slots := slots, vbase := vb, size := size, q := [], chead := 0, ccount := 0 },
           cons := cons, prod := prod, taken := 0, run := none, getters := [] }
  else none

/-- A context record (R323), or none where a limit of its table is broken. -/
def parseCtx (idx : Nat) (bs : List Byte) : Option Ctx :=
  let w (o : Nat) : Nat := imgNat bs o 8
  let deep (d : Nat) : Nat := nfield (imgNat bs 56 4) (6 * d) 6
  if decide (w 0 % 4096 = 0 ∧ inHbm (w 0) 4096 = true ∧ w 8 % 64 = 0 ∧ imgNat bs 16 2 ≤ 4096 ∧ imgNat bs 18 2 ≤ 4096 ∧
      imgNat bs 20 4 < 2 ^ 20 ∧ w 32 % 4096 = 0 ∧ 0x1000000 ≤ w 40 ∧ inHbm (w 32) (w 40) = true ∧ imgNat bs 59 1 = 0 ∧
      imgNat bs 60 1 < 8 ∧ imgNat bs 61 1 < 2) && (upto 4).all (fun d => decide (deep d ≤ 32)) && imgZero bs 62 128 then
    some { idx := idx, ptroot := w 0, pubBase := w 8, pubCnt := imgNat bs 16 2, chCnt := imgNat bs 18 2, lslots := imgNat bs 20 4,
           chBase := BitVec.ofNat 64 (w 24), saveBase := w 32, saveLen := w 40, hsave := BitVec.ofNat 64 (w 48),
           maxPri := imgNat bs 60 1, prvOk := imgNat bs 61 1 == 1,
           splits := Vector.ofFn (fun (d : Fin 4) => { grant := deep d.val, scr := 0, cch := 0, rej := false }), logNext := 0 }
  else none

/-- The deep-memory units of a die that a grant takes: of those that are neither retired nor held as many as it asks for, in an order that
is open (R160, R359; log entry 10). -/
def State.grantUnits (s : State) (die n : Nat) : List Nat :=
  let held := s.ctxs.flatMap Ctx.deep
  let free := ((upto 32).map (fun u => 32 * die + u)).filter (fun u => !held.contains u && !s.isRetired 5 u)
  (sortBy (Config.unitOrder s.free) free).take n

/-- CTX_CREATE's work (R253, R323): the result, and the state with the context installed. -/
def State.createCtx (s : State) (pa : Nat) : Reply0 × State :=
  if inHbm pa 128 = false ∨ s.badAt .mem pa 128 = true then ({ result := 3 }, s)
  else
    let free := (upto 64).find? (fun i => (s.ctx? i).isNone)
    match parseCtx (free.getD 0) (s.readBytes .mem pa 128) with
    | none => ({ result := 3 }, s)
    | some c =>
      let s0 : State := { s with ctxs := s.ctxs.filter (fun o => o.idx != c.idx) ++ [c] }
      let table := (upto c.chCnt).map (fun n =>
        match s0.agentRead (ctxAgent c.idx) (c.chBase.toNat + 32 * n) 32 with
        | .ok bs => parseChan c.idx n bs
        | .error _ => none)
      if free.isNone then ({ result := 4 }, s)
      else if table.any Option.isNone then ({ result := 3 }, s)
      else
        let chans := table.filterMap id
        let all := s.ctxs ++ [c]
        if (upto 4).any (fun d => decide (32 - (s.out.retired.filter (fun r => r.kind == 5 && r.unit / 32 == d)).length <
              (all.map (fun x => (x.splits.toList.getD d { grant := 0, scr := 0, cch := 0, rej := false }).grant)).sum)) ∨
            262144 < (all.map Ctx.lslots).sum ∨ c.lslots < (chans.map (fun k => k.ring.slots)).sum then
          ({ result := 4 }, s)
        else
          let units := (upto 4).flatMap (fun d => s.grantUnits d (c.splits.toList.getD d { grant := 0, scr := 0, cch := 0, rej := false }).grant)
          ({ result := 0, value := c.idx },
            ({ s with free := s.free + 1, ctxs := s.ctxs ++ [{ c with deep := units }], chans := s.chans ++ chans } : State).put .mem c.saveBase (List.replicate 64 0))

/-- A queue is unbound: its launches that do not run are removed with STATUS 0x03, and the launch tokens that wait in its port are
orphans with the tokens that follow them (R325, R341). -/
def State.unbind (s : State) (q : Nat) : State :=
  let gone := (s.reg.launches.filter (fun l => l.queue == q && l.queued)).map Launch.ticket
  let s1 := gone.foldl (fun s k => s.abortNow k none) s
  match s1.queue? q with
  | some w =>
    let lost := w.waiting.map Prod.fst ++ (w.cist.filter Spilled.launch).map Spilled.epoch
    let w1 := w.lose lost.contains
    s1.setQueue { w1 with bound := false, waiting := [], cist := w1.cist.filter (fun e => !e.launch),
                          orphan := Nat.min (w1.orphan + lost.length) 0xFFFF, epoch := w.epoch + 1 }
  | none => s1

/-- The registrar lowers the grant of a context on a die: CCH first, then SCR, as if the context had written the result (R161, R162). -/
def State.lowerGrant (s : State) (ctx die g : Nat) : State :=
  let x := s.split ctx die
  let scr := Nat.min x.scr g
  s.changeSplit ctx die { x with grant := g, scr := scr, cch := Nat.min x.cch (g - scr) }

/-- Nothing of a context remains bound: its last traces go (R157, R161, R341). -/
def State.removeCtx (s : State) (i : Nat) : State :=
  { s with
    ctxs := s.ctxs.filter (fun c => c.idx != i), chans := s.chans.filter (fun c => c.ctx != i),
    regions := s.regions.filter (fun r => r.ctx != i), windows := s.windows.filter (fun w => w.ctx != i),
    scratch := s.scratch.filter (fun c => c.1 / 2 ^ 18 % 64 != i), deep := s.deep.filter (fun c => c.1 / 2 ^ 33 != i),
    busCounts := s.busCounts.filter (fun b => b.2.2.1 != i), buses := s.buses.filter (fun b => b.ctx != i),
    wakes := s.wakes.filter (fun m => m.ctx != i),
    cores := s.cores.map (fun c => (c.1, { c.2 with tlb := c.2.tlb.filter (fun e => e.ctx != i) })),
    walkers := s.walkers.map (fun w => (w.1, w.2.filter (fun e => e.ctx != i))),
    reg := { s.reg with savedWin := s.reg.savedWin.filter (fun w => w.ctx != i) } }

/-- CTX_DESTROY's work (R341): every launch of the context is aborted as a forced cancel would abort it, its queues are
unbound and its grids freed; none while something of it is still bound, its commands in flight among it. Its grants of deep memory are
lowered last (R161). -/
def State.destroyCtx (s : State) (i : Nat) : Option State × State :=
  let qs := (s.reg.queues.filter (fun q => q.bound && q.ctx == i)).map Queue.idx
  let s1 := qs.foldl State.unbind s
  let s2 := ((s1.reg.launches.filter (fun l => l.ctx == i && !l.abort)).map Launch.ticket).foldl (fun s k => (s.cancel k true).2) s1
  let s3 : State := { s2 with engines := s2.engines.map (fun (x : Engine) =>
    { x with grids := x.grids.filter (fun g => g.owner != i) }) }
  if s3.reg.launches.any (fun l => l.ctx == i) then (none, s3)
  else
    let s4 := (s3.threads.filter (fun t => t.ctx == i)).foldl State.stopThread s3
    if s4.threads.any (fun t => t.ctx == i) then (none, s4)
    else
      let s5 := (upto 4).foldl (fun s d => s.lowerGrant i d 0) (s4.clearBinds (fun b => b.ctx == i))
      (some (s5.removeCtx i), s4)

/-! ### The Aeltas rings (R341, R342, R368) -/

/-- The physical address of the host's memory at a bus address (R178). -/
def hostPa (bus : Nat) : Nat := 0x8000000000000 + bus % 2 ^ 48

/-- Entries of the command ring and of the completion ring (R342). -/
def Registrar.csize (r : Registrar) : Nat := 2 ^ (r.csz + 4)
/-- Entries of the completion ring (R342). -/
def Registrar.qsize (r : Registrar) : Nat := 2 ^ (r.qsz + 4)

/-- The completion ring is full (R342). -/
def Registrar.full (r : Registrar) : Bool := (r.qtail + 1) % r.qsize == r.qhead

/-- A completion entry is written and VEC sent (R341, R342). -/
def State.complete (s : State) (cid result : Nat) (value : Word) : State :=
  let r := s.reg
  let bytes := leBytes 2 cid ++ [BitVec.ofNat 8 result, if r.phase then 1 else 0] ++ leBytes 4 0 ++ leBytes 8 value.toNat
  let s1 := s.put .mem (hostPa (r.qbase.toNat + 16 * r.qtail)) bytes
  let next := (r.qtail + 1) % r.qsize
  ({ s1 with reg := { s1.reg with qtail := next, phase := if next = 0 then !r.phase else r.phase } } : State).sendMsi s.vec

/-- Join events that wait are written while there is room (R342, R368). The first argument bounds them. -/
def State.flushJoins : Nat → State → State
  | 0, s => s
  | n + 1, s =>
    match s.reg.joinq with
    | [] => s
    | v :: vs =>
      if s.reg.full ∨ s.reg.qbase = 0 then s
      else State.flushJoins n (State.complete { s with reg := { s.reg with joinq := vs } } 0xFFFF 0 v)

/-- The command that Aeltas handles, and whether it takes that now: it has booted, the completion ring has room, and a command has been
taken before or stands in the ring (R341, R342, R368). -/
def State.command (s : State) : Option (List Byte × Bool) :=
  if s.out.booting ∨ s.reg.full = true then none
  else match s.reg.busy with
    | some bs => some (bs, false)
    | none =>
      if s.reg.chead = s.reg.ctail then none else some (s.readBytes .mem (hostPa (s.reg.cbase.toNat + 64 * s.reg.chead)) 64, true)

/-- CHEAD passes a command that Aeltas takes, whose bytes are read once (R342). -/
def State.taken (s : State) (bs : List Byte) (now : Bool) : State :=
  { s with reg := { s.reg with chead := if now then (s.reg.chead + 1) % s.reg.csize else s.reg.chead, busy := some bs } }

/-- Words that a command uses, of W1 to W7 (R341). -/
def commandWords (op : Nat) : Nat := match op with | 3 => 3 | 5 => 2 | 7 => 3 | _ => 1

/-- The bytes that no field of a command uses are zero (R9, R341). -/
def commandClean (bs : List Byte) : Bool :=
  let op := imgNat bs 0 1
  imgZero bs 1 2 && imgZero bs 4 8 && imgZero bs (8 + 8 * commandWords op) 64

/-- Aeltas takes the next command when it is one of the named opcode, performs it and writes its completion (R341, R342). A
command that cannot end yet is handled on. CID 0xFFFF gives BADARG and has no effect (R368). -/
def hostCommand (want : Nat → Bool) (f : (Nat → Nat) → State → Option (Reply0 × State) × State) (s : State) : State :=
  match s.command with
  | none => s
  | some (bs, now) =>
    let cid := imgNat bs 2 2
    if want (imgNat bs 0 1) = false then s
    else
      let (out, s1) : Option (Reply0 × State) × State :=
        if cid = 0xFFFF then (some ({ result := 3 }, s), s)
        else if imgNat bs 0 1 ≤ 8 ∧ 1 ≤ imgNat bs 0 1 ∧ commandClean bs = false then (some ({ result := 3 }, s), s)
        else f (fun i => imgNat bs (8 * i) 8) s
      match out with
      | none => s1.taken bs now
      | some (r, s2) =>
        let s3 := s2.taken bs now
        State.complete { s3 with reg := { s3.reg with busy := none } } cid r.result (BitVec.ofNat 64 r.value)

/-- A host command that ends at once. -/
def hostNow (op : Nat) (f : (Nat → Nat) → State → Reply0 × State) (s : State) : Host.Outcome State Fault Refusal :=
  event (hostCommand (fun o => o == op) (fun w s => (some (f w s), s))) s

/-- CTX_CREATE (R323, R341). -/
def execCtxCreate (s : State) : Host.Outcome State Fault Refusal := hostNow 1 (fun w s => s.createCtx (w 1)) s

/-- CTX_DESTROY (R341): it completes once nothing of the context remains bound. -/
def execCtxDestroy (s : State) : Host.Outcome State Fault Refusal :=
  event (hostCommand (fun o => o == 2) (fun w s =>
    if (s.ctx? (w 1)).isNone then (some ({ result := 6 }, s), s)
    else match s.destroyCtx (w 1) with
      | (none, s1) => (none, s1)
      | (some s1, _) => (some ({ result := 0 }, s1.schedule), s1))) s

/-- QBIND (R341). Tokens that a port keeps for launches that run on stay where they are; a cistern that is the one as before goes on where
it stood. -/
def execQbind (s : State) : Host.Outcome State Fault Refusal :=
  hostNow 3 (fun w s =>
    let q := w 1 % 2 ^ 14
    let ctx := nfield (w 1) 16 6
    let pri := nfield (w 1) 24 3
    match s.ctx? ctx with
    | none => ({ result := 6 }, s)
    | some c =>
      let old := s.queueOf q
      if nfield (w 1) 14 2 ≠ 0 ∨ nfield (w 1) 22 2 ≠ 0 ∨ 2 ^ 27 ≤ w 1 ∨ c.maxPri < pri ∨ (old.bound = true ∧ old.ctx ≠ ctx) then
        ({ result := 3 }, s)
      else if old.bound then
        let s1 := s.putQueue { old with pri := pri }
        let ls := s1.reg.launches.map (fun (l : Launch) => if l.queue = q then { l with pri := pri } else l)
        ({ result := 0 }, { s1 with reg := { s1.reg with launches := ls } })
      else if w 2 % 4096 ≠ 0 ∨ 2 ^ 56 ≤ w 2 ∨ w 3 % 4096 ≠ 0 ∨ 2 ^ 32 ≤ w 3 ∨ (w 2 == 0) ≠ (w 3 == 0) then ({ result := 3 }, s)
      else
        let kept := decide (old.ctx = ctx ∧ old.cvbase = w 2 ∧ old.csize = w 3)
        ({ result := 0 }, s.putQueue { old with ctx := ctx, pri := pri, bound := true, cvbase := w 2, csize := w 3, ctail := if kept then old.ctail else 0 })) s

/-- QUNBIND (R341). -/
def execQunbind (s : State) : Host.Outcome State Fault Refusal :=
  hostNow 4 (fun w s =>
    if 2 ^ 14 ≤ w 1 then ({ result := 3 }, s)
    else if (s.queueOf (w 1)).bound = false then ({ result := 6 }, s)
    else ({ result := 0 }, (s.unbind (w 1)).schedule)) s

/-- LAUNCH by the host (R324, R326, R341). -/
def execLaunch (s : State) : Host.Outcome State Fault Refusal :=
  hostNow 5 (fun w s =>
    if 2 ^ 14 ≤ w 1 then ({ result := 3 }, s)
    else
      let (r, s1) := s.enter (w 1) (BitVec.ofNat 64 (w 2))
      (r, s1.schedule)) s

/-- CANCEL by the host (R340, R341). -/
def execCancel (s : State) : Host.Outcome State Fault Refusal :=
  hostNow 6 (fun w s => if 2 ^ 33 ≤ w 1 then ({ result := 3 }, s) else s.cancel (w 1 % 2 ^ 32) ((w 1).testBit 32)) s

/-- XINV by the host (R186, R341): it completes once no access through an old translation is in flight. -/
def execXinv (s : State) : Host.Outcome State Fault Refusal :=
  event (hostCommand (fun o => o == 7) (fun w s =>
    if (s.ctx? (w 1)).isNone then (some ({ result := 6 }, s), s)
    else if xinvOk (w 2) (w 3) = false then (some ({ result := 3 }, s), s)
    else
      let s1 := s.invalidate (w 1) (w 2) (w 3)
      (if s1.linksIn (w 1) (w 2) (w 3) then none else some ({ result := 0 }, s1), s1))) s

/-- SLICEMAP by the host (R341). -/
def execSlicemap (s : State) : Host.Outcome State Fault Refusal :=
  hostNow 8 (fun w s => ({ result := 0 }, s.put .mem (hostPa (w 1)) s.sliceBytes)) s

/-- An opcode that is not in the table completes with BADOPC (R341). -/
def execBadopc (s : State) : Host.Outcome State Fault Refusal :=
  event (hostCommand (fun o => o == 0 || decide (8 < o)) (fun _ s => (some ({ result := 7 }, s), s))) s

/-- CTAIL_WRITE (R342): a write of the ring's size or more is discarded. -/
def execCtailWrite (v : BitVec 32) (s : State) : Host.Outcome State Fault Refusal :=
  event (fun s =>
    if s.out.booting ∨ s.reg.csize ≤ v.toNat then s else { s with reg := { s.reg with ctail := v.toNat } }) s

/-- A base and size register of a ring (R341): sizes 12 to 15 read as 11. -/
def ringRegister (v : BitVec 64) : BitVec 64 × Nat := (v &&& 0xFFFFFFFFFFFFF000#64, Nat.min (v.toNat % 16) 11)

/-- CMD_RING_CONFIG (R342). -/
def execCmdRingConfig (v : BitVec 64) (s : State) : Host.Outcome State Fault Refusal :=
  event (fun s =>
    if s.out.booting then s
    else { s with reg := { s.reg with cbase := (ringRegister v).1, csz := (ringRegister v).2, chead := 0, ctail := 0 } }) s

/-- CPL_RING_CONFIG (R342). -/
def execCplRingConfig (v : BitVec 64) (s : State) : Host.Outcome State Fault Refusal :=
  event (fun s =>
    if s.out.booting then s
    else
      let r : Registrar := { s.reg with qbase := (ringRegister v).1, qsz := (ringRegister v).2, qhead := 0, qtail := 0, phase := true }
      State.flushJoins r.joinq.length { s with reg := r }) s

/-- QHEAD_WRITE (R342): a write of the ring's size or more is discarded; join events that waited are written. -/
def execQheadWrite (v : BitVec 32) (s : State) : Host.Outcome State Fault Refusal :=
  event (fun s =>
    if s.out.booting ∨ s.reg.qsize ≤ v.toNat then s
    else State.flushJoins s.reg.joinq.length { s with reg := { s.reg with qhead := v.toNat } }) s

/-! ### enq (R343) -/

/-- The block of an enq keeps to its table (R343). -/
def enqLegal (ws : List Word) : Bool :=
  let w0 := wordAt ws 0
  let w1 := (wordAt ws 1)
  let w2 := (wordAt ws 2).toNat
  let op := fieldOf w0 0 8
  decide (5 ≤ op ∧ op ≤ 8) && onlyBits w0 0x3FFF01FF#64 && semFields w0 && (op == 5 || fieldOf w0 16 14 == 0) &&
    (op == 6 || !w0.getLsbD 8) && (op != 6 || decide (w1.toNat < 2 ^ 32)) && (op != 8 || eOk [1, 2] 8 w1) &&
    (if op = 7 then decide (w2 ≠ 0 ∧ w2 % 4096 = 0) else w2 == 0)

/-- The scratch side of an enq: the buffer of a SLICEMAP (R307, R343). -/
def enqSide (ws : List Word) : List Side :=
  if fieldOf (wordAt ws 0) 0 8 = 8 then
    let a := (eAddr (wordAt ws 1)).toNat
    [{ cls := eCls (wordAt ws 1), lo := a, hi := a + 192 }]
  else []

/-- enq (R343). A SLICEMAP takes an entry of the range scoreboard for its buffer (R169, R307). -/
def execEnq (d a : Spec) (s : State) : Host.Outcome State Fault Refusal :=
  issueWord (.enq d a) (fun s =>
    let t := s.th
    let ws := t.block a 3
    if blockOk 3 a = false then .trap s { code := .illegal }
    else if (regBlock a 3).any t.busy then .stall s
    else if enqLegal ws = false ∨ sidesAgree (enqSide ws) = false then .trap s { code := .illegal }
    else
      let w0 := wordAt ws 0
      let q := s.queueOf (fieldOf w0 16 14)
      if w0.getLsbD 48 = true ∧ s.semGranted t (fieldOf w0 44 4) = false then .trap s { code := .priv }
      else if fieldOf w0 0 8 = 5 ∧ (q.bound = false ∨ q.ctx ≠ t.ctx) then .trap s (rangeProt 0)
      else if 4 ≤ (s.reg.enqs.filter (fun e => e.core == t.core)).length ∨ t.busy d = true ∨
          (enqSide ws ≠ [] ∧ Config.scoreboardSize ≤ (s.core t.core).sb.length) then .stall s
      else match s.release t 5 with
        | (s1, some tr) => .trap s1 tr
        | (s1, none) =>
          let (id, s2) := s1.launchLate (some d) none .status
          let e : Enq := { id := id, uid := t.uid, ctx := t.ctx, core := t.core, prv := t.prv, regs := ws }
          let s3 : State := { s2 with reg := { s2.reg with enqs := s2.reg.enqs ++ [e] } }
          .done (match hull t.core t.ctx (enqSide ws) with
            | some r => s3.setCore t.core { s3.core t.core with sb := (s3.core t.core).sb ++ [{ cmd := id, dst := some r, src := none }] }
            | none => s3) 0 (some id) .seq) s

/-- Bytes written by an engine in pieces of 8, ascending; the state at a fault holds what was written before it (R307). -/
def State.writePieces (s : State) (g : Agent) : Nat → List Byte → Nat → State × Option Trap
  | _, _, 0 => (s, none)
  | va, bs, n + 1 =>
    match s.agentStore g va (bs.take 8) with
    | .error e => (s, some e)
    | .ok s1 => State.writePieces s1 g (va + 8) (bs.drop 8) n

/-- What an enq asks for (R343), for its thread's context: the reply, and the state after. -/
def State.perform (s : State) (e : Enq) : Reply0 × State :=
  let w0 := wordAt e.regs 0
  let w1 := wordAt e.regs 1
  match fieldOf w0 0 8 with
  | 5 =>
    let q := fieldOf w0 16 14
    let (r, s1) : Reply0 × State := if (s.queueOf q).ctx = e.ctx then s.enter q w1 else ({ result := 6 }, s)
    (r, s1.schedule)
  | 6 =>
    let k := w1.toNat % 2 ^ 32
    match s.launch? k with
    | some l => if l.ctx = e.ctx then s.cancel k (w0.getLsbD 8) else ({ result := 2 }, s.schedule)
    | none => s.cancel k (w0.getLsbD 8)
  | 7 =>
    let len := (wordAt e.regs 2).toNat
    if xinvOk w1.toNat len then ({ result := 0 }, s.invalidate e.ctx w1.toNat len) else ({ result := 3 }, s)
  | _ =>
    match s.writePieces { ctx := e.ctx, core := e.core, cls := eCls w1, prv := false } (eAddr w1).toNat s.sliceBytes 24 with
    | (s1, err) => ({ result := 0, err := err }, s1)

/-- An enq cannot be finished yet: accesses through the translations that it invalidates are in flight on a link, or a change of split or
a gated clk holds its write of deep scratch (R162, R168, R186). -/
def State.enqHeld (s : State) (e : Enq) : Bool :=
  (fieldOf (wordAt e.regs 0) 0 8 == 7 && s.linksIn e.ctx (wordAt e.regs 1).toNat (wordAt e.regs 2).toNat) ||
    (e.deep && (s.gated || s.threads.any (fun t => t.ctx == e.ctx && (match t.wait with | .split _ _ _ n => decide (n ≤ e.id) | _ => false))))

/-- ENQ_RETIRE (R343): the registrar has finished a request; its status lands, its semaphore is signalled, and its scoreboard entry
frees (R169). -/
def execEnqRetire (core i : Nat) (s : State) : Host.Outcome State Fault Refusal :=
  event (fun s =>
    match s.reg.enqs.find? (fun e => e.id == i && e.core == core) with
    | none => s
    | some e =>
      if s.enqHeld e then (if e.deep then s else (s.perform e).2)
      else
      let s0 := { s with reg := { s.reg with enqs := s.reg.enqs.filter (fun x => x.id != i) } }
      let (r, s1) := s0.perform e
      let v : Word := match r.err with
        | some tr => BitVec.ofNat 64 (tr.code.num * 2 ^ 56)
        | none => BitVec.ofNat 64 (r.result * 2 ^ 48 + r.value)
      let s2 := s1.modT e.uid (fun t => match t.inflight.find? (fun f => f.id == e.id) with
        | some f => t.land f v 0
        | none => t)
      let w0 := wordAt e.regs 0
      let s3 := if w0.getLsbD 48 then s2.semV e.core (fieldOf w0 44 4) else s2
      if enqSide e.regs = [] then s3
      else s3.setCore e.core { s3.core e.core with sb := (s3.core e.core).sb.filter (fun y => y.cmd != e.id) }) s

/-! ### Ingress ports (R325) -/

/-- The entry of its cistern that a port's next token spills to: from the tail on the first that no token holds; none while the cistern
is full (R255, R325). -/
def Queue.spillAt (q : Queue) : Option Nat :=
  let cap := q.csize / 72
  ((upto (Nat.min cap (q.cist.length + 1))).map (fun i => (q.ctail + i) % cap)).find? (fun i =>
    !q.cist.any (fun e => e.ctx == q.ctx && e.va == q.cvbase + 72 * i))

/-- A token or launch token of the port's latest number is placed in the port, or in its cistern, or discarded and counted (R325). -/
def State.pushPort (s : State) (q0 : Queue) (k : Token) (launch : Bool) : State :=
  let q := s.refilled q0
  let drop (s : State) : State :=
    let n := if launch then q.epoch - 1 else q.epoch
    let s1 := s.putQueue { q with drop := Nat.min (q.drop + 1) 0xFFFF, dropped := true, epoch := n }
    if q.dropped then s1 else s1.sendMsi (1 + q.idx % 2047)
  let taken := { q with accept := (q.accept + 1) % 2 ^ 32 }
  if q.cist = [] ∧ q.port.length + q.waiting.length < 64 then
    s.putQueue (if launch then { taken with waiting := q.waiting ++ [(q.epoch, k.recordVa)] }
      else { taken with port := q.port ++ [(q.epoch, k)] })
  else match q.spillAt with
    | none => drop s
    | some i =>
      let va := q.cvbase + 72 * i
      match s.agentStore (ctxAgent q.ctx) va k.entry with
      | .ok s1 =>
        s1.putQueue { taken with cist := q.cist ++ [{ epoch := q.epoch, launch := launch, ctx := q.ctx, va := va }],
                                 ctail := (i + 1) % (q.csize / 72) }
      | .error _ => drop s

/-- The launch that tokens of a number belong to still takes them: an instance of it has src nodes of SRCK 0 that have not injected DRAIN, or
its image is not known yet (R325). -/
def State.takesTokens (s : State) (ticket : Nat) : Bool :=
  match s.launch? ticket with
  | none => false
  | some l =>
    let rs := s.regions.filter (fun r => r.ticket == ticket && r.phase != .idle)
    l.spec.region && (rs = [] || rs.any (fun r => r.phase == .loading || (r.phase != .draining && (r.shadow.getD r.img).takesPort)))

/-- A launch token that is pushed enters its queue at once: none waits before it, and the queue has room (R324, R325). -/
def State.entersNow (s : State) (q : Queue) : Bool :=
  q.waiting.isEmpty && !q.behind && decide ((s.reg.launches.filter (fun l => l.queue == q.idx && l.queued)).length < 64)

/-- A launch token of the latest number of a port has been pushed that waits there or in its cistern (R325). -/
def Queue.awaits (q : Queue) : Bool :=
  q.waiting.any (fun w => w.1 == q.epoch) || q.cist.any (fun e => e.launch && e.epoch == q.epoch)

/-- INGRESS_PUSH (R324, R325): a write of a port's header pushes a token or a launch token. -/
def execIngressPush (qi : Nat) (hdr : BitVec 64) (s : State) : Host.Outcome State Fault Refusal :=
  event (fun s =>
    if s.out.booting then s
    else
      let q := s.queueOf qi
      let k : Token := { tag := fieldOf hdr 16 3, mask := fieldOf hdr 0 16, lanes := lanesOf q.payload }
      let orphan (q : Queue) : State := s.putQueue { q with orphan := Nat.min (q.orphan + 1) 0xFFFF }
      if q.bound = false then orphan q
      else if k.tag = 6 ∧ k.mask = 3 then
        let q1 := { q with epoch := q.epoch + 1 }
        if s.entersNow q then
          ((s.putQueue { q1 with accept := (q.accept + 1) % 2 ^ 32, waiting := [(q1.epoch, k.recordVa)] }).letIn).schedule
        else (s.pushPort q1 k true).schedule
      else if q.awaits then s.pushPort q k false
      else match assoc q.opened q.epoch with
        | some ticket => if s.takesTokens ticket then s.pushPort q k false else orphan q
        | none => orphan q) s

end Sys2Proof.Machine
end

