-- ==== Sys2Proof/Machine/Outside.lean ====
section
/-! DEFINITION. The outside: registers of the PCIe function, host and peer accesses, ports, boot, power, soft errors, module
faults, resets and attestation (R168, R354 to R374). -/

namespace Sys2Proof.Machine

/-! ### Join events and boot (R179, R359, R367, R368) -/

/-- A join event: the status page, JOINGEN last, then the entry in the completion ring and vector 0 (R368). -/
def State.joinEvent (s : State) (ev field : Nat) : State :=
  let s1 : State := { s with
    out := { s.out with joingen := (s.out.joingen + 1) % 2 ^ 64, joinclk := s.clk },
    reg := { s.reg with joinq := s.reg.joinq ++ [BitVec.ofNat 64 (ev * 256 + field)] } }
  ((State.flushJoins s1.reg.joinq.length s1.showJoin)).sendMsi 0

/-- SETTLED of R368: every field has joined or failed. -/
def State.settle24 (s : State) : State :=
  if s.out.settled ∨ s.joined.length + s.out.failed.length < 24 then s
  else State.joinEvent { s with out := { s.out with settled := true } } 3 0

/-- An L2 slice can serve homes: its field has joined and it is not retired (R179). -/
def State.sliceLive (s : State) (n : Nat) : Bool := s.fieldJoined (n / 4) && !s.isRetired 4 n

/-- The live-slice map anew: each home's own slice, or the next live one in ascending order (R179; log entry 37). -/
def State.remapSlices (s : State) : State :=
  if s.ctxs ≠ [] then s
  else
    { s with
      sliceMap := (upto 96).map (fun n => (((upto 96).map (fun i => (n + i) % 96)).find? s.sliceLive).getD n),
      out := { s.out with retired := s.out.retired.map (fun r => if r.kind = 4 then { r with effect := true } else r) } }

/-- FIELD_JOIN (R368): field 0 of die 0 first, which ends the boot. -/
def execFieldJoin (f : Nat) (s : State) : Host.Outcome State Fault Refusal :=
  event (fun s =>
    if s.out.powered = false ∨ 24 ≤ f ∨ s.joined.contains f = true ∨ s.out.failed.contains f = true ∨
        (f ≠ 0 ∧ s.out.booting = true) then s
    else
      let s1 : State := { s with joined := (upto 24).filter (fun i => i == f || s.joined.contains i),
                                 out := { s.out with booting := s.out.booting && f != 0 } }
      ((s1.remapSlices.joinEvent 1 f).settle24).schedule) s

/-- FIELD_FAIL (R368). -/
def execFieldFail (f : Nat) (s : State) : Host.Outcome State Fault Refusal :=
  event (fun s =>
    if s.out.powered = false ∨ 24 ≤ f ∨ f = 0 ∨ s.joined.contains f = true ∨ s.out.failed.contains f = true ∨ s.out.booting = true then s
    else
      let s1 : State := { s with out := { s.out with failed := (upto 24).filter (fun i => i == f || s.out.failed.contains i) } }
      (s1.joinEvent 2 f).settle24) s

/-- LIVE_SLICE_MAP_CHANGE (R179, R359): while no context is installed. -/
def execLiveSliceMapChange (s : State) : Host.Outcome State Fault Refusal :=
  event (fun s => if s.ctxs ≠ [] then s else s.remapSlices.showStatus) s

/-- RETIREMENT_EFFECT (R355, R356, R359): a retired core whose last record has cleared is named no more, and its name leaves
every name cache. -/
def execRetirementEffect (i : Nat) (s : State) : Host.Outcome State Fault Refusal :=
  event (fun s =>
    match s.out.retired[i]? with
    | none => s
    | some r =>
      if r.effect = true ∨ r.kind = 4 ∨ (r.kind = 3 ∧ s.binds.any (fun b => !b.region && b.unit == r.unit) = true) then s
      else
        let s1 : State := { s with out := { s.out with retired := s.out.retired.set i { r with effect := true } } }
        let s2 : State :=
          if r.kind = 3 then
            { s1.dropNames r.unit with retiredCores := r.unit :: s1.retiredCores }
          else s1
        s2.showStatus) s

/-! ### Soft errors (R357, R358) -/

/-- A store code and unit number name a unit of the module. -/
def rowUnitOk (store unit : Nat) : Bool :=
  match store with
  | 1 => decide (unit < 1536)
  | 2 => decide (unit < 24576 ∧ (unit / 32 + unit) % 2 = 1)
  | 3 => decide (unit < 24576 ∧ (unit / 32 + unit) % 2 = 0)
  | 4 => decide (unit < 1536)
  | 5 => decide (unit < 96)
  | 6 => decide (unit < 128)
  | _ => false

/-- The running region that stands on a compute tile, by the tile's number, and the position in it (R357). -/
def State.regionOf (s : State) (unit : Nat) : Option (Region × Nat) :=
  (s.regions.find? (fun r => r.phase.stepping && r.on (unit / 256) (unit % 256 / 32) (unit % 32) 1 1)).map (fun r =>
    (r, (unit % 256 / 32 - r.row) * 32 + (unit % 32 - r.col)))

/-- CORRECTED_ERROR (R351, R357 to R359): a corrected error is counted; `hard` is an uncorrectable one, which makes its row lasting
at once, and in an accumulator or a plane array of a running region aborts its launch. -/
def execCorrectedError (store : BitVec 4) (unit row : Nat) (hard : Bool) (s : State) : Host.Outcome State Fault Refusal :=
  event (fun s =>
    if s.out.powered = false ∨ rowUnitOk store.toNat unit = false then s
    else if hard then
      match (if store = 3 then s.regionOf unit else none) with
      | some (r, pos) => s.tileAbort r pos { code := .eccUe, detail := 3 * 2 ^ 28 + row % 2 ^ 28, unit := some (3, unit) }
      | none => s.rowLasting store.toNat unit (row % 2 ^ 28) true
    else
      let (n, s1) := s.countError store.toNat unit (row % 2 ^ 28)
      if 3 ≤ n then s1.rowLasting store.toNat unit (row % 2 ^ 28) false else s1) s

/-! ### Module-fatal faults (R354) -/

/-- A module-fatal fault: a record in the log of every context, the flag and its join event, and every launch stops. -/
def State.goFatal (s : State) (tr : Trap) : State :=
  let s1 := s.ctxs.foldl (fun s c => s.moduleRecord c.idx tr 0 true) s
  let s2 : State := { s1 with
    th := Thread.initial, others := [], binds := [], regions := [], links := [], answers := [], wakes := [], buses := [],
    dying := [], exits := [],
    chans := s1.chans.map (fun c => { c with getters := [], run := none }),
    cores := s1.cores.map (fun c => (c.1, { c.2 with sb := [], queue := [], senders := [] })),
    engines := s1.engines.map (fun x => { x with holder := none, waiters := [], fifo := [] }),
    reg := { s1.reg with launches := [], enqs := [] },
    out := { s1.out with fatal := true } }
  s2.joinEvent 4 0

/-- MODULE_FATAL (R354): an uncorrectable error in a registrar's memory, the slot table or the catalogue. -/
def execModuleFatal (pa : BitVec 64) (s : State) : Host.Outcome State Fault Refusal :=
  event (fun s => if s.out.booting then s else s.goFatal { code := .eccUe, addr := pa, detail := rowId Space.mem.rowCode pa.toNat }) s

/-- REGISTRAR_UNRESPONSIVE (R354). -/
def execRegistrarUnresponsive (s : State) : Host.Outcome State Fault Refusal :=
  event (fun s => if s.out.booting then s else s.goFatal { code := .watchdog }) s

/-- Row and column of a field in the package's grid of 4 rows by 6 columns (R12). -/
def fieldPlace (f : Nat) : Nat × Nat := (2 * (f / 12) + f % 6 / 3, 3 * (f / 6 % 2) + f % 3)

/-- Two fields are neighbours in the grid. -/
def fieldsMeet (a b : Nat) : Bool :=
  let p := fieldPlace a
  let q := fieldPlace b
  (p.1 == q.1 && (p.2 + 1 == q.2 || q.2 + 1 == p.2)) || (p.2 == q.2 && (p.1 + 1 == q.1 || q.1 + 1 == p.1))

/-- A stitched link between two fields that has not failed (R12, R354). -/
def Outside.linkUp (o : Outside) (a b : Nat) : Bool :=
  fieldsMeet a b && !o.links.any (fun l => (l.1 == a && l.2 == b) || (l.1 == b && l.2 == a))

/-- The fields that remaining links reach from a set of fields. -/
def Outside.reach (o : Outside) : Nat → List Nat → List Nat
  | 0, l => l
  | n + 1, l => Outside.reach o n ((upto 24).filter (fun b => l.contains b || l.any (fun a => o.linkUp a b)))

/-- The remaining links keep every joined field in reach of every other. -/
def State.meshWhole (s : State) : Bool :=
  match s.joined with
  | [] => true
  | f :: fs => fs.all (fun g => (s.out.reach 24 [f]).contains g)

/-- MESH_LINK_FAIL (R354): fatal when it parts joined fields. -/
def execMeshLinkFail (a b : Nat) (s : State) : Host.Outcome State Fault Refusal :=
  event (fun s =>
    if 24 ≤ a ∨ 24 ≤ b ∨ s.out.linkUp a b = false then s
    else
      let s1 : State := { s with out := { s.out with links := s.out.links ++ [(a, b)] } }
      if s1.meshWhole = true ∨ s1.out.booting = true then s1 else s1.goFatal { code := .watchdog }) s

/-! ### UALink ports (R369) -/

/-- PORT_TRAINED (R365, R369): only an enabled port trains. -/
def execPortTrained (p : Nat) (s : State) : Host.Outcome State Fault Refusal :=
  event (fun s => if p < 16 ∧ s.portsEn.testBit p = true ∧ s.out.powered = true then { s with portsUp := s.portsUp ||| 2 ^ p } else s) s

/-- A port goes down: its requests in flight, posted stores among them, complete with Completer Abort (R178, R206, R291, R369). -/
def State.portGone (s : State) (p : Nat) : State :=
  let lost := s.stores.filter (fun x => x.port == some p)
  let s0 := lost.foldl (fun s x => s.deferError x { code := .prot }) { s with stores := s.stores.filter (fun x => x.port != some p) }
  let s1 : State := { s0 with portsUp := bitSet ((upto 16).filter (fun i => s.portsUp.testBit i && i != p)) }
  let s2 := (s1.links.filter (fun r => r.port == some p)).foldl (fun s r => s.linkDone r 1 0) s1
  let tags : List (Nat × Nat × Nat) := s2.regions.flatMap (fun r => r.nodes.flatMap (fun n =>
    match n.var with
    | .sluice _ _ _ reqs _ _ => (reqs.filter (fun q => q.port == some p)).map (fun q => (r.rinst, n.nid, q.tag))
    | _ => []))
  tags.foldl (fun s q => match execSluiceCompletion q.1 q.2.1 q.2.2 1 0 s with | .next t => t | _ => s) s2

/-- PORT_DOWN (R369). -/
def execPortDown (p : Nat) (s : State) : Host.Outcome State Fault Refusal :=
  event (fun s => if s.portsUp.testBit p then s.portGone p else s) s

/-- PORTS_WRITE (R365): EN is set; a port whose bit is cleared goes down. -/
def execPortsWrite (v : BitVec 64) (s : State) : Host.Outcome State Fault Refusal :=
  event (fun s =>
    if s.out.booting then s
    else
      let en := fieldOf v 16 16
      let gone := (upto 16).filter (fun p => s.portsUp.testBit p && !en.testBit p)
      gone.foldl State.portGone { s with portsEn := en }) s

/-! ### Accesses of the host and of peers (R24, R195, R365, R369) -/

/-- Bytes from an address cut where a line of 64 bytes begins: at most n pieces. -/
def linePieces : Nat → Nat → List Byte → List (Nat × List Byte)
  | 0, _, _ => []
  | n + 1, a, bs => if bs = [] then [] else (a, bs.take (64 - a % 64)) :: linePieces n (a + (64 - a % 64)) (bs.drop (64 - a % 64))

/-- A line takes no write of the outside: it is poisoned (R206), or of the status page, which Aeltas alone writes (R367). -/
def State.lineShut (s : State) (a n : Nat) : Bool := s.badAt .mem a n || decide (statusPage < a + n ∧ a < statusPage + 4096)

/-- A completion goes to the host, or to a peer by a port (R363, R365, R369). -/
def State.reply (s : State) (to' : Option Nat) (a : HostReply) : State := { s with out := { s.out with replies := (to', a) :: s.out.replies } }

/-- An access at the home slice by an agent outside the module, and its completion: a read of at most `most` bytes, a write of at most `lim`
bytes, line by line, or an atomic of 4 or 8 bytes (R195, R365, R369). `bad` completes what the module does not support; a posted write has
no completion. -/
def State.outsideAccess (s : State) (who : Option Nat) (bad : HostReply) (op : Option (BitVec 4)) (write : Bool) (most lim pa size v : Nat)
    (cmp : BitVec 64) : State :=
  match op with
  | some o =>
    if ¬ (size = 4 ∨ size = 8) ∨ pa % size ≠ 0 then s.reply who bad
    else if s.lineShut pa size then s.reply who (if s.badAt .mem pa size then .poisoned else bad)
    else
      let (old, s1) := s.amoMem o size pa (v % 2 ^ 64) cmp.toNat
      s1.reply who (.data (leBytes size old))
  | none =>
    if write then
      if lim < size then s
      else (linePieces 9 pa (leBytes size v)).foldl (fun s p => if s.lineShut p.1 p.2.length then s else s.put .mem p.1 p.2) s
    else if most < size then s.reply who bad
    else s.reply who (if size ≠ 0 ∧ s.badAt .mem pa size = true then .poisoned else .data (s.readBytes .mem pa size))

/-- HOST_APERTURE_ACCESS (R363 to R365): op 0 reads at most 4,096 bytes, 1 writes at most the 512 bytes of the greatest payload, 2 is
FetchAdd, 3 Swap and 4 CAS; any other, which would use an absent option, completes with Unsupported Request, as does an access beyond HBM,
and any in D3hot or before field 0 has joined (log entry 36). What lies beyond BAR4 is no access of it. -/
def execHostApertureAccess (op : BitVec 3) (off size : Nat) (v : BitVec 4096) (cmp : BitVec 64) (s : State) : Host.Outcome State Fault Refusal :=
  event (fun s =>
    let pa := s.out.aperture.toNat + off
    let go (o : Option (BitVec 4)) (write : Bool) : State := s.outsideAccess none .unsupported o write 4096 512 pa size v.toNat cmp
    if s.out.powered = false ∨ 2 ^ s.out.bar4 < off + size then s
    else if s.out.booting = true ∨ s.out.d3 = true ∨ inHbm pa size = false then s.reply none .unsupported
    else match op.toNat with
      | 0 => go none false
      | 1 => go none true
      | 2 => go (some 0) true
      | 3 => go (some 8) true
      | 4 => go (some 9) true
      | _ => s.reply none .unsupported) s

/-- PEER_REQUEST (R369): op 0 reads and 1 writes up to 256 bytes, and 2 to 11 are the atomics of R66 in order; it comes by the port that
the step names, if that is up, else by the lowest that is. After a module-fatal fault, and at any address but those of HBM, it completes with
Completer Abort (R354, R369). -/
def execPeerRequest (op : BitVec 4) (pa size : Nat) (v : BitVec 2048) (cmp : BitVec 64) (s : State) : Host.Outcome State Fault Refusal :=
  event (fun s =>
    let a := pa % 2 ^ 40
    match (if s.portsUp.testBit s.unit ∧ s.unit < 16 then some s.unit else (upto 16).find? s.portsUp.testBit) with
    | none => s
    | some p =>
      let go (o : Option (BitVec 4)) (write : Bool) : State := s.outsideAccess (some p) .abort o write 256 256 a size v.toNat cmp
      if s.out.booting = true then s
      else if s.out.fatal = true ∨ inHbm a size = false ∨ 11 < op.toNat then s.reply (some p) .abort
      else match op.toNat with
        | 0 => go none false
        | 1 => if 256 < size then s.reply (some p) .abort else (go none true).reply (some p) (.data [])
        | _ => go (some (op - 2)) true) s

/-! ### Power and heat (R168, R370, R372) -/

/-- THERM.TLF is set (R168). -/
def State.throttle (s : State) : State := if s.tlf then s else { s with tlf := true, out := { s.out with tlfSince := s.clk } }

/-- PLIM_WRITE (R365): LIM is kept from 30 to 72. -/
def execPlimWrite (v : BitVec 64) (s : State) : Host.Outcome State Fault Refusal :=
  event (fun s => if s.out.booting then s else { s with out := { s.out with plim := Nat.max 30 (Nat.min 72 (v.toNat % 256)) } }) s

/-- POWER_MEASURE (R168, R367, R370, R372): one sample, each microsecond. The sensors are hot above 105 degrees, and cool at 95 or
below; above 8.0 kW the module throttles. -/
def execPowerMeasure (watts : Nat) (s : State) : Host.Outcome State Fault Refusal :=
  event (fun s =>
    if s.out.powered = false then s
    else
      let o := { s.out with samples := (watts :: s.out.samples).take 1000, tjmax := (Config.sensors s.free).toNat }
      let o1 :=
        if s.out.plim * 100 < watts then
          if o.above + 1 < 10 then { o with above := o.above + 1 } else { o with above := 0, allow := o.allow - 1 }
        else
          if o.below + 1 < 100 then { o with below := o.below + 1 } else { o with below := 0, allow := Nat.min 1000 (o.allow + 1) }
      let o2 := { o1 with coolSince := if o.tjmax ≤ 190 then some (o.coolSince.getD s.clk) else none }
      let s1 : State := { s with free := s.free + 1, pwx := decide (7200 < watts), out := o2 }
      let s2 := if o1.allow = 0 ∨ 210 < o.tjmax ∨ 8000 < watts then s1.throttle else s1
      if s2.out.booting then s2 else s2.showStatus) s

/-- THROTTLE_START (R168, R372): a sensor reads above 105 degrees, or the allowance is spent. -/
def execThrottleStart (hot : Bool) (s : State) : Host.Outcome State Fault Refusal :=
  event (fun s =>
    let s1 : State := if hot then { s with out := { s.out with coolSince := none } } else s
    if hot = true ∨ s.out.allow = 0 then s1.throttle else s1) s

/-- Every sensor has read 95 degrees or below for 1 ms (R168). -/
def State.coolLong (s : State) : Bool := match s.out.coolSince with | some c => decide (c + Config.quantum ≤ s.clk) | none => false

/-- THROTTLE_END (R168): the sensors have been cool for 1 ms, the allowance has returned, and TLF has been set for 1 ms. -/
def execThrottleEnd (s : State) : Host.Outcome State Fault Refusal :=
  event (fun s =>
    if s.coolLong = true ∧ s.out.allow = 1000 ∧ s.out.tlfSince + Config.quantum ≤ s.clk then { s with tlf := false } else s) s

/-! ### Resets and power (R362, R368, R371) -/

/-- What a reset leaves. A warm reset keeps HBM and the capacity tier but for the status page, and what R119 and R334 count from cold
reset, with the ticks that are due by CLK (log entry 34). Every reset keeps the flash, and the memory of the host and of peers, which is
not the module's. -/
def State.cleared (s : State) (warm : Bool) : State :=
  let kept (a : Nat) : Bool := (warm && !decide (statusPage ≤ a ∧ a < statusPage + 4096)) || decide (0x8000000000000 ≤ a)
  { State.reset with
    agenda := s.agenda, unit := s.unit, free := s.free, nextId := s.nextId, msi := s.msi, flash := s.flash,
    mem := s.mem.filter (fun c => kept c.1),
    clk := if warm then s.clk else 0,
    reg := { State.reset.reg with counts := if warm then s.reg.counts else [], ticks := if warm then s.reg.ticks else State.reset.reg.ticks },
    bad := if warm then s.bad.filter (fun b => b.1 == .mem) else s.bad.filter (fun b => b.1 == .mem && decide (0x200000000000 ≤ b.2)),
    out := { Outside.start with bootcnt := s.out.bootcnt } }

/-- The bytes that M_LOG measures: the committed records of the live log in slot order (R373). -/
def State.logBytes (s : State) : List Byte :=
  match s.liveBank with
  | none => []
  | some bank => (s.logRecords bank 16383 1).flatMap id

/-- A reset: state is cleared, BOOTCNT counts, the log is recovered and measured (R362, R371, R373). -/
def State.restart (s : State) (warm : Bool) : State :=
  let s1 := s.cleared warm
  let s2 := State.recoverLog { s1 with out := { s1.out with bootcnt := (s.out.bootcnt + 1) % 2 ^ 32 } }
  { s2 with out := { s2.out with mlog := s2.logBytes } }

/-- COLD_RESET (R368, R371): PERST# or power-on. -/
def execColdReset (s : State) : Host.Outcome State Fault Refusal := event (fun s => s.restart false) s

/-- WARM_RESET (R371): a Function Level Reset or the return from D3hot; a module without power makes none. -/
def execWarmReset (s : State) : Host.Outcome State Fault Refusal :=
  event (fun s => if s.out.powered then s.restart true else s) s

/-- POWER_LOSS (R362): power fails. An append or a compaction of the same clk has finished `done` of the three steps of its
last slot, and what was not written reads as erased. Everything but the flash is lost. -/
def execPowerLoss (done : Nat) (s : State) : Host.Outcome State Fault Refusal :=
  event (fun s =>
    let torn : State :=
      match s.out.lastSlot with
      | some (clk, a) =>
        if clk = s.clk then
          let cut := match done with | 0 => 0 | 1 => 59 | 2 => 60 | _ => 64
          s.writeBytes .flash (a + cut) (List.replicate (64 - cut) 0xFF)
        else s
      | none => s
    let s1 := torn.cleared false
    { s1 with out := { s1.out with powered := false } }) s

/-! ### Attestation (R373, R374) -/

/-- A number as 48 bytes (R374). -/
def bytes48 (x : BitVec 384) : List Byte := leBytes 48 x.toNat

/-- Bytes 0 to 207 of a report. -/
def State.reportBody (s : State) : List Byte :=
  leBytes 4 1 ++ leBytes 4 s.out.bootcnt ++ bytes48 Config.romMeasure ++ bytes48 Config.fuseMeasure ++
    sha384 s.out.mlog ++ (s.out.nonce ++ List.replicate 48 0).take 48 ++ leBytes 8 s.clk

/-- ATTEST_CMD (R374): a write of 1 starts a report, unless one is being made. -/
def execAttestCmd (v : BitVec 64) (s : State) : Host.Outcome State Fault Refusal :=
  event (fun s =>
    if v = 1 ∧ s.out.attBusy = false ∧ s.out.powered = true then
      { s with out := { s.out with attBusy := true, attDone := false } }
    else s) s

/-- ATTEST_REPORT_DONE (R374). -/
def execAttestReportDone (s : State) : Host.Outcome State Fault Refusal :=
  event (fun s =>
    if s.out.attBusy then
      let body := s.reportBody
      let sig := ecdsaSign body s.free
      { s with free := s.free + 1,
               out := { s.out with attBusy := false, attDone := true, report := body ++ bytes48 sig.1 ++ bytes48 sig.2 } }
    else s) s

/-! ### Registers (R8, R9, R325, R341, R364, R365, R369) -/

/-- The byte of BAR2 that a host reads at an offset (R364). While the module boots, only the attestation window answers
(R371). -/
def State.bar2 (s : State) (o : Nat) : Byte :=
  let part (x base : Nat) : Byte := BitVec.ofNat 8 (x / 256 ^ (o - base))
  if s.out.booting = true ∧ ¬ (0xD000 ≤ o ∧ o < 0xE000) then 0
  else if o < 0x08 then part (s.reg.cbase.toNat + s.reg.csz) 0
  else if o < 0x10 then part (s.reg.qbase.toNat + s.reg.qsz) 0x08
  else if o < 0x18 then part s.reg.ctail 0x10
  else if o < 0x20 then part s.reg.chead 0x18
  else if o < 0x28 then part s.reg.qhead 0x20
  else if o < 0x30 then part s.vec 0x28
  else if o < 0x1000 then 0
  else if o < 0x2000 then s.readByte .mem (statusPage + (o - 0x1000))
  else if o < 0xA000 then s.msixByte (o - 0x2000)
  else if o < 0xA100 then BitVec.ofNat 8 (bitSet (((upto 8).filter (fun i => s.out.pba.contains (8 * (o - 0xA000) + i)))))
  else if o < 0xB000 then 0
  else if o < 0xB008 then part s.out.aperture.toNat 0xB000
  else if o < 0xB010 then part (s.out.myIdx + (if s.out.myV then 2 ^ 15 else 0)) 0xB008
  else if o < 0xB018 then part s.out.plim 0xB010
  else if o < 0xB020 then part (s.portsUp + s.portsEn * 2 ^ 16) 0xB018
  else if o < 0xC000 then 0
  else if o < 0xD000 then BitVec.ofNat 8 ((assoc s.routes ((o - 0xC000) / 4)).getD 0 / 256 ^ (o % 4))
  else if o < 0xD030 then s.out.nonce.getD (o - 0xD000) 0
  else if o = 0xD038 then BitVec.ofNat 8 ((if s.out.attBusy then 1 else 0) + (if s.out.attDone then 2 else 0))
  else if 0xD100 ≤ o ∧ o < 0xD230 then s.out.report.getD (o - 0xD100) 0
  else if 0xD3F8 ≤ o ∧ o < 0xD400 then part Config.certChain.length 0xD3F8
  else if 0xD400 ≤ o ∧ o < 0xE000 then Config.certChain.getD (o - 0xD400) 0
  else 0

/-- The byte of BAR0 that a host reads at an offset (R325). -/
def State.bar0 (s : State) (o : Nat) : Byte :=
  let q := s.queueOf (o / 4096)
  let w := o % 4096
  if s.out.booting = true ∨ w < 0x80 ∨ 0x88 ≤ w then 0
  else BitVec.ofNat 8 ((q.accept + q.orphan * 2 ^ 32 + q.drop * 2 ^ 48) / 256 ^ (w - 0x80))

/-- A write of bytes from an offset, as a register of n bytes at a base sees it: its old bytes, the written ones replaced; none
where the write does not reach it. -/
def State.merged (s : State) (base n off : Nat) (bs : List Byte) : Option Nat :=
  if base + n ≤ off ∨ off + bs.length ≤ base then none
  else some (ofLe ((upto n).map (fun i => if off ≤ base + i ∧ base + i < off + bs.length then bs.getD (base + i - off) 0 else s.bar2 (base + i))))

/-- The state that an outcome of a register's own step leaves. -/
def State.follow (s : State) (o : Host.Outcome State Fault Refusal) : State := match o with | .next t => t | _ => s

/-- A write of the MSI-X table; a vector that it unmasks is sent if it pends (log entry 36). -/
def State.writeMsix (s : State) (off : Nat) (bs : List Byte) : State :=
  let put (l : List Host.Cell) (i : Nat) : List Host.Cell :=
    let o := off + i
    let b := bs.getD i 0
    let b1 := if o % 16 < 12 then b else if o % 16 = 12 then b &&& 1 else 0
    if o < 0x8000 then cellWrite (if o % 16 = 12 then 1 else 0) l o b1 else l
  let s1 : State := { s with out := { s.out with msix := (upto bs.length).foldl put s.out.msix } }
  let due := s1.out.pba.filter (fun v => !(s1.msixByte (16 * v + 12)).getLsbD 0)
  due.reverse.foldl State.sendMsi { s1 with out := { s1.out with pba := s1.out.pba.filter (fun v => !due.contains v) } }

/-- A write of a BAR2 register, by its base: the ones with a row of their own take their own step. -/
def State.writeBar2 (s : State) (base v : Nat) : State :=
  if base = 0x00 then s.follow (execCmdRingConfig (BitVec.ofNat 64 v) s)
  else if base = 0x08 then s.follow (execCplRingConfig (BitVec.ofNat 64 v) s)
  else if base = 0x10 then s.follow (execCtailWrite (BitVec.ofNat 32 v) s)
  else if base = 0x20 then s.follow (execQheadWrite (BitVec.ofNat 32 v) s)
  else if base = 0x28 then { s with vec := v % 2 ^ 16 }
  else if base = 0xB000 then { s with out := { s.out with aperture := BitVec.ofNat 64 (nfield v 30 22 * 2 ^ 30) } }
  else if base = 0xB008 then { s with out := { s.out with myV := nbit v 15, myIdx := v % 2 ^ 10 } }
  else if base = 0xB010 then s.follow (execPlimWrite (BitVec.ofNat 64 v) s)
  else if base = 0xB018 then s.follow (execPortsWrite (BitVec.ofNat 64 v) s)
  else s

/-- The BAR2 registers of 8 bytes. -/
def bar2Registers : List Nat := [0x00, 0x08, 0x10, 0x20, 0x28, 0xB000, 0xB008, 0xB010, 0xB018]

/-- A write of bytes to BAR2 (R364). -/
def State.storeBar2 (s : State) (off : Nat) (bs : List Byte) : State :=
  if 0xD000 ≤ off ∧ off < 0xE000 then
    if s.out.attBusy then s
    else
      let nonce := (upto 48).map (fun i => if off ≤ 0xD000 + i ∧ 0xD000 + i < off + bs.length then bs.getD (0xD000 + i - off) 0 else s.out.nonce.getD i 0)
      let s1 : State := { s with out := { s.out with nonce := nonce } }
      if off = 0xD030 then s1.follow (execAttestCmd (BitVec.ofNat 64 (ofLe bs)) s1) else s1
  else if s.out.booting then s
  else if 0x2000 ≤ off ∧ off < 0xA000 then s.writeMsix (off - 0x2000) bs
  else if 0xC000 ≤ off ∧ off < 0xD000 then
    (upto 1024).foldl (fun s i =>
      match s.merged (0xC000 + 4 * i) 4 off bs with
      | some v => { s with routes := assocSet s.routes i (v % 2 ^ 16 + (if nbit v 31 then 2 ^ 31 else 0)) }
      | none => s) s
  else bar2Registers.foldl (fun s base => match s.merged base 8 off bs with | some v => s.writeBar2 base v | none => s) s

/-- A write of bytes to BAR0 (R325): the payload register of a port, or its header of 8 bytes. -/
def State.storeBar0 (s : State) (off : Nat) (bs : List Byte) : State :=
  let q := s.queueOf (off / 4096)
  let w := off % 4096
  if s.out.booting = true ∨ 2 ^ 26 ≤ off then s
  else if w = 0x40 ∧ bs.length = 8 then s.follow (execIngressPush (off / 4096) (BitVec.ofNat 64 (ofLe bs)) s)
  else
    s.putQueue { q with payload := (upto 64).map (fun i => if w ≤ i ∧ i < w + bs.length then bs.getD (i - w) 0 else q.payload.getD i 0) }

/-- A write of the power management control, whose bits 1:0 choose D0 or, as 3, D3hot; the return to D0 is a warm reset (R363, R371; log
entry 36). -/
def State.writePower (s : State) (v : Nat) : State :=
  if v % 4 = 3 then { s with out := { s.out with d3 := true } }
  else if v % 4 = 0 ∧ s.out.d3 = true then s.restart true
  else s

/-- REGISTER_WRITE (R8, R9, R363, R364): a write of up to 8 bytes to BAR0 or BAR2, which in D3hot is an Unsupported Request. The others are
writes of configuration registers (log entry 36): as BAR 7 of PCI Express Device Control 2, whose bit 6 enables AtomicOp requests (R292), as
BAR 6 of the Resizable BAR Control of BAR4, whose bits 13:8 give its size from 1 GiB to 1 TiB (R364), and as BAR 5 of the power management
control. -/
def execRegisterWrite (bar : BitVec 3) (off : Nat) (size : Nat) (v : BitVec 64) (s : State) : Host.Outcome State Fault Refusal :=
  event (fun s =>
    let bs := leBytes (Nat.min size 8) v.toNat
    if bs = [] ∨ s.out.powered = false then s
    else match bar.toNat with
      | 0 => if s.out.d3 then s.reply none .unsupported else s.storeBar0 off bs
      | 2 => if s.out.d3 then s.reply none .unsupported else s.storeBar2 off bs
      | 5 => s.writePower v.toNat
      | 6 =>
        let n := fieldOf v 8 6
        if 10 ≤ n ∧ n ≤ 20 then { s with out := { s.out with bar4 := 20 + n } } else s
      | 7 => { s with out := { s.out with atomReq := v.getLsbD 6 } }
      | _ => s) s

end Sys2Proof.Machine
end

