-- ==== Sys2Proof/Machine/Prefetch.lean ====
section
/-! DEFINITION. The indirect prefetcher of a clerk core (R293): what it learns from the .c loads of the core's threads, and the lines
that it fetches. It never changes a value that an access returns. -/

namespace Sys2Proof.Machine

/-- The .c load that an instruction of a thread is (R172, R200): its destination, its address, its size and whether it extends the sign. -/
def Thread.plainLoad (t : Thread) : Instr → Option (Spec × Word × Nat × Bool)
  | .ld d b 0 z o => some (d, effAddr (t.read b) o (sizeOf2 z), sizeOf2 z, true)
  | .ldn d b 0 z o => some (d, effAddr (t.read b) o (sizeOf2 z), sizeOf2 z, false)
  | .ldp d b 0 o => some (d, effAddr (t.read b) o 16, 16, false)
  | .ldAcq d b 0 z _ o => some (d, effAddr (t.read b) o (sizeOf2 z), sizeOf2 z, true)
  | _ => none

/-- A word whose addresses have advanced by one stride on four executions in a row is an index stream (R293; log entry 38). -/
def Watch.isStream (w : Watch) : Bool := decide (4 ≤ w.run) && w.stride != 0

/-- The thread of a watched word stands in its slot as it did: training state is lost at migration and pre-emption (R293). -/
def State.stands (s : State) (core : Nat) (w : Watch) : Bool :=
  s.threads.any (fun t => t.uid == w.uid && t.since == w.since && t.core == core && t.place == .slot && t.mode != .descheduled)

/-- A watched word takes the value that its load has returned to its thread. -/
def Watch.settle (t : Thread) (w : Watch) : Watch :=
  match w.pending with
  | none => w
  | some id =>
    if w.uid ≠ t.uid then w
    else match t.inflight.find? (fun f => f.id == id) with
      | some f => if f.dst.isSome then w else { w with pending := none }
      | none => { w with pending := none, value := some (t.read w.dst) }

/-- The factors S of R293. -/
def prefScales : List Word := [1, 2, 4, 8, 16, 32, 64, 128, 256]

/-- The links of a word to an index stream after an execution at an address: for each S the run of executions with one B. -/
def linksTo (old : List PrefLink) (addr : Word) (x : Watch) : List PrefLink :=
  match x.value with
  | none => []
  | some v => prefScales.map (fun k =>
      let base := addr - v * k
      let run := match old.find? (fun l => l.pc == x.pc && l.scale == k) with | some l => if l.base = base then l.run + 1 else 1 | none => 1
      { pc := x.pc, scale := k, base := base, run := run })

/-- At most eight of the words watched are index streams: of more, the one that ran longest ago goes (R293; log entry 38). -/
def keepStreams : Nat → List Watch → List Watch
  | _, [] => []
  | n, w :: ws => if w.isStream then (match n with | 0 => keepStreams 0 ws | m + 1 => w :: keepStreams m ws) else w :: keepStreams n ws

/-- The words watched after a load word of a thread has issued, whose value is in flight under a name, or is there (R200). -/
def trained (t : Thread) (id : Option Nat) (v : Option Word) (l : Spec × Word × Nat × Bool) (ws : List Watch) : List Watch :=
  let addr := l.2.1
  let mine (w : Watch) : Bool := w.uid == t.uid && w.pc == t.pc
  let streams := ws.filter (fun w => w.uid == t.uid && w.pc != t.pc && w.isStream)
  let new : Watch :=
    match ws.find? mine with
    | none => { uid := t.uid, since := t.since, pc := t.pc, dst := l.1, size := l.2.2.1, sgn := l.2.2.2, addr := addr, stride := 0, run := 1,
                pending := id, value := v, links := streams.flatMap (linksTo [] addr) }
    | some w => { w with dst := l.1, size := l.2.2.1, sgn := l.2.2.2, addr := addr, stride := addr - w.addr,
                         run := if addr - w.addr = w.stride then w.run + 1 else 2, pending := id, value := v.or w.value,
                         links := streams.flatMap (linksTo w.links addr) }
  keepStreams 8 (new :: ws.filter (fun w => !mine w))

/-- What the prefetcher of its core learns when a word of a thread has issued: the thread as it stood before, and the load that the word
is (R293). -/
def State.observe (s : State) (t : Thread) (load : Option (Spec × Word × Nat × Bool)) : State :=
  let cs := s.core t.core
  let id := match (getT s t.uid).bind Thread.y0Id with
    | some k => if t.inflight.any (fun f => f.id == k) then none else some k
    | none => none
  let ws := (cs.watches.map (Watch.settle t)).filter (s.stands t.core)
  -- the value of a load that has completed with its word
  let done := ((getT s t.uid).filter (fun u => u.mode == .ready && u.place == .slot && u.inHandler == t.inHandler && u.y0Id.isNone)).map
    Thread.y0
  match load, id, done with
  | some l, some k, _ => s.setCore t.core { cs with watches := trained t (some k) none l ws }
  | some l, none, some v => s.setCore t.core { cs with watches := trained t none (some v) l ws }
  | _, _, _ => if cs.watches = [] then s else s.setCore t.core { cs with watches := ws }

/-- The place in the module's memory of a virtual address, where a core's translation cache holds it with the right to read: a prefetch is
dropped elsewhere (R176). -/
def State.prefPa (s : State) (core ctx : Nat) (prv : Bool) (va : Word) : Option Nat :=
  match (s.core core).tlb.find? (fun e => e.covers ctx va.toNat && e.allows .rd prv) with
  | some e => if inTier (e.paOf va.toNat) 1 then some (e.paOf va.toNat) else none
  | none => none

/-- The line that the value of an index stream some strides ahead leads a linked word to, if nothing drops the fetch (R176, R293). -/
def State.prefLine (s : State) (core : Nat) (t : Thread) (x : Watch) (l : PrefLink) (k : Nat) : Option Nat :=
  match s.prefPa core t.ctx t.prv (x.addr + x.stride * BitVec.ofNat 64 k) with
  | none => none
  | some a =>
    if s.badAt .mem a x.size then none
    else
      let v := (loadValue { space := .mem, addr := a, size := x.size, sgn := x.sgn } (s.viewBytes core .mem a x.size)).1
      (s.prefPa core t.ctx t.prv (l.base + v * l.scale)).map (fun p => p / 64 * 64)

/-- The lines that a core's prefetcher fetches: for each linked pair those of 16 strides ahead, as far as miss entries are free (R293). -/
def State.prefLines (s : State) (core : Nat) : List Nat :=
  let ws := (s.core core).watches
  let lines := ws.flatMap (fun w => (w.links.filter (fun l => decide (4 ≤ l.run))).flatMap (fun l =>
    match ws.find? (fun x => x.uid == w.uid && x.pc == l.pc && x.isStream), getT s w.uid with
    | some x, some t => (upto 16).filterMap (fun k => s.prefLine core t x l (k + 1))
    | _, _ => []))
  lines.take (Config.missLimit - s.misses core)

/-- INDIRECT_PREFETCH (R293): the prefetcher of each core fetches lines into its L1 cache. It never faults and never changes a value that
an access returns (log entry 38). -/
def execIndirectPrefetch (s : State) : Host.Outcome State Fault Refusal :=
  event (fun s =>
    { s with cores := s.cores.map (fun c => if c.2.watches = [] then c else (c.1, { c.2 with prefetched := s.prefLines c.1 })) }) s

end Sys2Proof.Machine
end

