-- ==== Sys2Proof/Machine/Dispatch.lean ====
section
/-! DEFINITION. The dispatcher: one arm for every constructor of `Instr`. -/

namespace Sys2Proof.Machine

-- one direct call of a meaning for each instruction and step
def exec (i : Instr) (s : State) : Host.Outcome State Fault Refusal :=
  match i with
  | .add d a b => Sys2Proof.Machine.execAdd d a b s
  | .sub d a b => Sys2Proof.Machine.execSub d a b s
  | .and d a b => Sys2Proof.Machine.execAnd d a b s
  | .or d a b => Sys2Proof.Machine.execOr d a b s
  | .xor d a b => Sys2Proof.Machine.execXor d a b s
  | .andn d a b => Sys2Proof.Machine.execAndn d a b s
  | .orn d a b => Sys2Proof.Machine.execOrn d a b s
  | .shl d a b => Sys2Proof.Machine.execShl d a b s
  | .shr d a b => Sys2Proof.Machine.execShr d a b s
  | .sha d a b => Sys2Proof.Machine.execSha d a b s
  | .rotl d a b => Sys2Proof.Machine.execRotl d a b s
  | .min d a b => Sys2Proof.Machine.execMin d a b s
  | .max d a b => Sys2Proof.Machine.execMax d a b s
  | .minn d a b => Sys2Proof.Machine.execMinn d a b s
  | .maxn d a b => Sys2Proof.Machine.execMaxn d a b s
  | .slt d a b => Sys2Proof.Machine.execSlt d a b s
  | .sltn d a b => Sys2Proof.Machine.execSltn d a b s
  | .seq d a b => Sys2Proof.Machine.execSeq d a b s
  | .sne d a b => Sys2Proof.Machine.execSne d a b s
  | .sel d a b => Sys2Proof.Machine.execSel d a b s
  | .mul d a b => Sys2Proof.Machine.execMul d a b s
  | .mulh d a b => Sys2Proof.Machine.execMulh d a b s
  | .mulhn d a b => Sys2Proof.Machine.execMulhn d a b s
  | .div d a b => Sys2Proof.Machine.execDiv d a b s
  | .divn d a b => Sys2Proof.Machine.execDivn d a b s
  | .rem d a b => Sys2Proof.Machine.execRem d a b s
  | .remn d a b => Sys2Proof.Machine.execRemn d a b s
  | .clz d a => Sys2Proof.Machine.execClz d a s
  | .ctz d a => Sys2Proof.Machine.execCtz d a s
  | .pop d a => Sys2Proof.Machine.execPop d a s
  | .brev d a => Sys2Proof.Machine.execBrev d a s
  | .bswap d a => Sys2Proof.Machine.execBswap d a s
  | .bfx d a b => Sys2Proof.Machine.execBfx d a b s
  | .bfi d a b => Sys2Proof.Machine.execBfi d a b s
  | .add32 d a b => Sys2Proof.Machine.execAdd32 d a b s
  | .sub32 d a b => Sys2Proof.Machine.execSub32 d a b s
  | .and32 d a b => Sys2Proof.Machine.execAnd32 d a b s
  | .or32 d a b => Sys2Proof.Machine.execOr32 d a b s
  | .xor32 d a b => Sys2Proof.Machine.execXor32 d a b s
  | .andn32 d a b => Sys2Proof.Machine.execAndn32 d a b s
  | .orn32 d a b => Sys2Proof.Machine.execOrn32 d a b s
  | .shl32 d a b => Sys2Proof.Machine.execShl32 d a b s
  | .shr32 d a b => Sys2Proof.Machine.execShr32 d a b s
  | .sha32 d a b => Sys2Proof.Machine.execSha32 d a b s
  | .rotl32 d a b => Sys2Proof.Machine.execRotl32 d a b s
  | .min32 d a b => Sys2Proof.Machine.execMin32 d a b s
  | .max32 d a b => Sys2Proof.Machine.execMax32 d a b s
  | .minn32 d a b => Sys2Proof.Machine.execMinn32 d a b s
  | .maxn32 d a b => Sys2Proof.Machine.execMaxn32 d a b s
  | .slt32 d a b => Sys2Proof.Machine.execSlt32 d a b s
  | .sltn32 d a b => Sys2Proof.Machine.execSltn32 d a b s
  | .seq32 d a b => Sys2Proof.Machine.execSeq32 d a b s
  | .sne32 d a b => Sys2Proof.Machine.execSne32 d a b s
  | .sel32 d a b => Sys2Proof.Machine.execSel32 d a b s
  | .mul32 d a b => Sys2Proof.Machine.execMul32 d a b s
  | .mulh32 d a b => Sys2Proof.Machine.execMulh32 d a b s
  | .mulhn32 d a b => Sys2Proof.Machine.execMulhn32 d a b s
  | .div32 d a b => Sys2Proof.Machine.execDiv32 d a b s
  | .divn32 d a b => Sys2Proof.Machine.execDivn32 d a b s
  | .rem32 d a b => Sys2Proof.Machine.execRem32 d a b s
  | .remn32 d a b => Sys2Proof.Machine.execRemn32 d a b s
  | .clz32 d a => Sys2Proof.Machine.execClz32 d a s
  | .ctz32 d a => Sys2Proof.Machine.execCtz32 d a s
  | .pop32 d a => Sys2Proof.Machine.execPop32 d a s
  | .brev32 d a => Sys2Proof.Machine.execBrev32 d a s
  | .bswap32 d a => Sys2Proof.Machine.execBswap32 d a s
  | .bfx32 d a b => Sys2Proof.Machine.execBfx32 d a b s
  | .bfi32 d a b => Sys2Proof.Machine.execBfi32 d a b s
  | .fadd d a b f => Sys2Proof.Machine.execFadd d a b f s
  | .fsub d a b f => Sys2Proof.Machine.execFsub d a b f s
  | .fmul d a b f => Sys2Proof.Machine.execFmul d a b f s
  | .fdiv d a b f => Sys2Proof.Machine.execFdiv d a b f s
  | .fsqrt d a f => Sys2Proof.Machine.execFsqrt d a f s
  | .fma d a b f => Sys2Proof.Machine.execFma d a b f s
  | .fnma d a b f => Sys2Proof.Machine.execFnma d a b f s
  | .fmin d a b f => Sys2Proof.Machine.execFmin d a b f s
  | .fmax d a b f => Sys2Proof.Machine.execFmax d a b f s
  | .fsgn d a b f => Sys2Proof.Machine.execFsgn d a b f s
  | .feq d a b f => Sys2Proof.Machine.execFeq d a b f s
  | .flt d a b f => Sys2Proof.Machine.execFlt d a b f s
  | .fle d a b f => Sys2Proof.Machine.execFle d a b f s
  | .fclass d a f => Sys2Proof.Machine.execFclass d a f s
  | .fmv d a f => Sys2Proof.Machine.execFmv d a f s
  | .cvt d a r w t s0 => Sys2Proof.Machine.execCvt d a r w t s0 s
  | .cvtb d a r w t s0 => Sys2Proof.Machine.execCvtb d a r w t s0 s
  | .csrr d n => Sys2Proof.Machine.execCsrr d n s
  | .csrw a n => Sys2Proof.Machine.execCsrw a n s
  | .csrs a n => Sys2Proof.Machine.execCsrs a n s
  | .csrc a n => Sys2Proof.Machine.execCsrc a n s
  | .addi d a i0 => Sys2Proof.Machine.execAddi d a i0 s
  | .andi d a i0 => Sys2Proof.Machine.execAndi d a i0 s
  | .ori d a i0 => Sys2Proof.Machine.execOri d a i0 s
  | .xori d a i0 => Sys2Proof.Machine.execXori d a i0 s
  | .slti d a i0 => Sys2Proof.Machine.execSlti d a i0 s
  | .sltni d a i0 => Sys2Proof.Machine.execSltni d a i0 s
  | .shli d a n => Sys2Proof.Machine.execShli d a n s
  | .shri d a n => Sys2Proof.Machine.execShri d a n s
  | .shai d a n => Sys2Proof.Machine.execShai d a n s
  | .muli d a i0 => Sys2Proof.Machine.execMuli d a i0 s
  | .lui d i0 => Sys2Proof.Machine.execLui d i0 s
  | .addpc d i0 => Sys2Proof.Machine.execAddpc d i0 s
  | .ld d b c z o => Sys2Proof.Machine.execLd d b c z o s
  | .ldp d b c o => Sys2Proof.Machine.execLdp d b c o s
  | .ldn d b c z o => Sys2Proof.Machine.execLdn d b c z o s
  | .st s0 b c z o => Sys2Proof.Machine.execSt s0 b c z o s
  | .stp s0 b c o => Sys2Proof.Machine.execStp s0 b c o s
  | .ldbit d k c x w v => Sys2Proof.Machine.execLdbit d k c x w v s
  | .stbit s0 k c w v => Sys2Proof.Machine.execStbit s0 k c w v s
  | .ldAcq d b c z p o => Sys2Proof.Machine.execLdAcq d b c z p o s
  | .stRel s0 b c z p o => Sys2Proof.Machine.execStRel s0 b c z p o s
  | .amoAdd d a b w o s0 => Sys2Proof.Machine.execAmoAdd d a b w o s0 s
  | .amoAnd d a b w o s0 => Sys2Proof.Machine.execAmoAnd d a b w o s0 s
  | .amoOr d a b w o s0 => Sys2Proof.Machine.execAmoOr d a b w o s0 s
  | .amoXor d a b w o s0 => Sys2Proof.Machine.execAmoXor d a b w o s0 s
  | .amoMin d a b w o s0 => Sys2Proof.Machine.execAmoMin d a b w o s0 s
  | .amoMax d a b w o s0 => Sys2Proof.Machine.execAmoMax d a b w o s0 s
  | .amoMinn d a b w o s0 => Sys2Proof.Machine.execAmoMinn d a b w o s0 s
  | .amoMaxn d a b w o s0 => Sys2Proof.Machine.execAmoMaxn d a b w o s0 s
  | .amoSwap d a b w o s0 => Sys2Proof.Machine.execAmoSwap d a b w o s0 s
  | .amoCas d a b w o s0 => Sys2Proof.Machine.execAmoCas d a b w o s0 s
  | .pref h b c o => Sys2Proof.Machine.execPref h b c o s
  | .fence s0 => Sys2Proof.Machine.execFence s0 s
  | .publ d a s0 => Sys2Proof.Machine.execPubl d a s0 s
  | .brEq a b d => Sys2Proof.Machine.execBrEq a b d s
  | .brNe a b d => Sys2Proof.Machine.execBrNe a b d s
  | .brLt a b d => Sys2Proof.Machine.execBrLt a b d s
  | .brGe a b d => Sys2Proof.Machine.execBrGe a b d s
  | .brLtn a b d => Sys2Proof.Machine.execBrLtn a b d s
  | .brGen a b d => Sys2Proof.Machine.execBrGen a b d s
  | .jmp d => Sys2Proof.Machine.execJmp d s
  | .call d => Sys2Proof.Machine.execCall d s
  | .jr a => Sys2Proof.Machine.execJr a s
  | .callr d a => Sys2Proof.Machine.execCallr d a s
  | .ret a => Sys2Proof.Machine.execRet a s
  | .callx d a b => Sys2Proof.Machine.execCallx d a b s
  | .reply a => Sys2Proof.Machine.execReply a s
  | .loopi c l => Sys2Proof.Machine.execLoopi c l s
  | .loop a l => Sys2Proof.Machine.execLoop a l s
  | .spawn d a b => Sys2Proof.Machine.execSpawn d a b s
  | .exit a => Sys2Proof.Machine.execExit a s
  | .yield => Sys2Proof.Machine.execYield s
  | .sleep a => Sys2Proof.Machine.execSleep a s
  | .wake a => Sys2Proof.Machine.execWake a s
  | .semp n => Sys2Proof.Machine.execSemp n s
  | .semv n => Sys2Proof.Machine.execSemv n s
  | .barr a => Sys2Proof.Machine.execBarr a s
  | .bcast d a => Sys2Proof.Machine.execBcast d a s
  | .migr a => Sys2Proof.Machine.execMigr a s
  | .pin e => Sys2Proof.Machine.execPin e s
  | .unpin e => Sys2Proof.Machine.execUnpin e s
  | .waitl a => Sys2Proof.Machine.execWaitl a s
  | .trap n => Sys2Proof.Machine.execTrap n s
  | .eret => Sys2Proof.Machine.execEret s
  | .cqpush d a => Sys2Proof.Machine.execCqpush d a s
  | .nblBox d a => Sys2Proof.Machine.execNblBox d a s
  | .nblBin d a => Sys2Proof.Machine.execNblBin d a s
  | .nblPairs d a => Sys2Proof.Machine.execNblPairs d a s
  | .nblStat d => Sys2Proof.Machine.execNblStat d s
  | .pgsSum d a => Sys2Proof.Machine.execPgsSum d a s
  | .pgsSel d a => Sys2Proof.Machine.execPgsSel d a s
  | .sflTab d a => Sys2Proof.Machine.execSflTab d a s
  | .sflBag d a => Sys2Proof.Machine.execSflBag d a s
  | .wdqGrid d a => Sys2Proof.Machine.execWdqGrid d a s
  | .wdqAsk d a => Sys2Proof.Machine.execWdqAsk d a s
  | .enq d a => Sys2Proof.Machine.execEnq d a s
  | .chput a b => Sys2Proof.Machine.execChput a b s
  | .chget d a b => Sys2Proof.Machine.execChget d a b s
  | .chwin d a => Sys2Proof.Machine.execChwin d a s
  | .chsync d a => Sys2Proof.Machine.execChsync d a s
  | .slipr d a => Sys2Proof.Machine.execSlipr d a s
  | .sliprep a b => Sys2Proof.Machine.execSliprep a b s
  | .pfxFmt a b d r f => Sys2Proof.Machine.execPfxFmt a b d r f s
  | .pfxScl g s0 i0 c => Sys2Proof.Machine.execPfxScl g s0 i0 c s
  | .illegalWord w => Sys2Proof.Machine.execIllegalWord w s
  | .loadDataReturn u i0 => Sys2Proof.Machine.execLoadDataReturn u i0 s
  | .storeAck i0 => Sys2Proof.Machine.execStoreAck i0 s
  | .walkDone core ctx va acc => Sys2Proof.Machine.execWalkDone core ctx va acc s
  | .amoAtHome u => Sys2Proof.Machine.execAmoAtHome u s
  | .nameWalkDone core name => Sys2Proof.Machine.execNameWalkDone core name s
  | .wakeArrival i0 => Sys2Proof.Machine.execWakeArrival i0 s
  | .sleepDeadline u => Sys2Proof.Machine.execSleepDeadline u s
  | .waitlEnd u => Sys2Proof.Machine.execWaitlEnd u s
  | .lockLend u => Sys2Proof.Machine.execLockLend u s
  | .arrivalSendRetry u => Sys2Proof.Machine.execArrivalSendRetry u s
  | .callxAnswer u => Sys2Proof.Machine.execCallxAnswer u s
  | .pinHandoff e unit => Sys2Proof.Machine.execPinHandoff e unit s
  | .chputEnter u => Sys2Proof.Machine.execChputEnter u s
  | .chgetTake u => Sys2Proof.Machine.execChgetTake u s
  | .chgetTimeout u => Sys2Proof.Machine.execChgetTimeout u s
  | .chsyncDrained u => Sys2Proof.Machine.execChsyncDrained u s
  | .publComplete u => Sys2Proof.Machine.execPublComplete u s
  | .splitChangeComplete u => Sys2Proof.Machine.execSplitChangeComplete u s
  | .engineRetire e unit => Sys2Proof.Machine.execEngineRetire e unit s
  | .enqRetire core i0 => Sys2Proof.Machine.execEnqRetire core i0 s
  | .regionStep r => Sys2Proof.Machine.execRegionStep r s
  | .srcSend r n => Sys2Proof.Machine.execSrcSend r n s
  | .injSend r n => Sys2Proof.Machine.execInjSend r n s
  | .snkTake r n => Sys2Proof.Machine.execSnkTake r n s
  | .regionComplete r => Sys2Proof.Machine.execRegionComplete r s
  | .agnRunStart r n => Sys2Proof.Machine.execAgnRunStart r n s
  | .agnEmit r n st => Sys2Proof.Machine.execAgnEmit r n st s
  | .memgGather r n => Sys2Proof.Machine.execMemgGather r n s
  | .memsWrite r n => Sys2Proof.Machine.execMemsWrite r n s
  | .slhEmit r n => Sys2Proof.Machine.execSlhEmit r n s
  | .sluiceSend r n => Sys2Proof.Machine.execSluiceSend r n s
  | .sluiceCompletion r n tag st old => Sys2Proof.Machine.execSluiceCompletion r n tag st old s
  | .accnSum r n => Sys2Proof.Machine.execAccnSum r n s
  | .escTake r n => Sys2Proof.Machine.execEscTake r n s
  | .escEmit r n => Sys2Proof.Machine.execEscEmit r n s
  | .cisternRefill isChan a b => Sys2Proof.Machine.execCisternRefill isChan a b s
  | .ingressPush q hdr => Sys2Proof.Machine.execIngressPush q hdr s
  | .loadFinish r => Sys2Proof.Machine.execLoadFinish r s
  | .configSwitch r => Sys2Proof.Machine.execConfigSwitch r s
  | .checkpointComplete r => Sys2Proof.Machine.execCheckpointComplete r s
  | .threadSaveComplete u => Sys2Proof.Machine.execThreadSaveComplete u s
  | .faultRetry isNode a b => Sys2Proof.Machine.execFaultRetry isNode a b s
  | .faultRetryLimit isNode a b => Sys2Proof.Machine.execFaultRetryLimit isNode a b s
  | .checkpointWatchdog r => Sys2Proof.Machine.execCheckpointWatchdog r s
  | .threadSaveWatchdog u => Sys2Proof.Machine.execThreadSaveWatchdog u s
  | .forcedAbortWatchdog r => Sys2Proof.Machine.execForcedAbortWatchdog r s
  | .ctailWrite v => Sys2Proof.Machine.execCtailWrite v s
  | .cmdRingConfig v => Sys2Proof.Machine.execCmdRingConfig v s
  | .cplRingConfig v => Sys2Proof.Machine.execCplRingConfig v s
  | .qheadWrite v => Sys2Proof.Machine.execQheadWrite v s
  | .plimWrite v => Sys2Proof.Machine.execPlimWrite v s
  | .portsWrite v => Sys2Proof.Machine.execPortsWrite v s
  | .attestCmd v => Sys2Proof.Machine.execAttestCmd v s
  | .registerWrite bar off size v => Sys2Proof.Machine.execRegisterWrite bar off size v s
  | .hostApertureAccess op off size v cmp => Sys2Proof.Machine.execHostApertureAccess op off size v cmp s
  | .peerRequest op pa size v cmp => Sys2Proof.Machine.execPeerRequest op pa size v cmp s
  | .linkCompletion i0 st data => Sys2Proof.Machine.execLinkCompletion i0 st data s
  | .portTrained p => Sys2Proof.Machine.execPortTrained p s
  | .portDown p => Sys2Proof.Machine.execPortDown p s
  | .fieldJoin f => Sys2Proof.Machine.execFieldJoin f s
  | .fieldFail f => Sys2Proof.Machine.execFieldFail f s
  | .correctedError store unit row hard => Sys2Proof.Machine.execCorrectedError store unit row hard s
  | .retirementEffect i0 => Sys2Proof.Machine.execRetirementEffect i0 s
  | .powerMeasure watts => Sys2Proof.Machine.execPowerMeasure watts s
  | .throttleStart hot => Sys2Proof.Machine.execThrottleStart hot s
  | .moduleFatal pa => Sys2Proof.Machine.execModuleFatal pa s
  | .meshLinkFail a b => Sys2Proof.Machine.execMeshLinkFail a b s
  | .unassignedFnWord w => Sys2Proof.Machine.execUnassignedFnWord w s
  | .powerLoss done => Sys2Proof.Machine.execPowerLoss done s
  | .migrationArrival => Sys2Proof.Machine.execMigrationArrival s
  | .arrivalRelief => Sys2Proof.Machine.execArrivalRelief s
  | .indirectPrefetch => Sys2Proof.Machine.execIndirectPrefetch s
  | .copyStart => Sys2Proof.Machine.execCopyStart s
  | .copyRetire => Sys2Proof.Machine.execCopyRetire s
  | .nblBoxExec => Sys2Proof.Machine.execNblBoxExec s
  | .nblBinExec => Sys2Proof.Machine.execNblBinExec s
  | .nblPairsExec => Sys2Proof.Machine.execNblPairsExec s
  | .nblStatExec => Sys2Proof.Machine.execNblStatExec s
  | .pgsSumExec => Sys2Proof.Machine.execPgsSumExec s
  | .pgsSelExec => Sys2Proof.Machine.execPgsSelExec s
  | .sflTabExec => Sys2Proof.Machine.execSflTabExec s
  | .sflBagExec => Sys2Proof.Machine.execSflBagExec s
  | .wdqGridExec => Sys2Proof.Machine.execWdqGridExec s
  | .wdqAskExec => Sys2Proof.Machine.execWdqAskExec s
  | .quantumTick => Sys2Proof.Machine.execQuantumTick s
  | .ctxCreate => Sys2Proof.Machine.execCtxCreate s
  | .ctxDestroy => Sys2Proof.Machine.execCtxDestroy s
  | .qbind => Sys2Proof.Machine.execQbind s
  | .qunbind => Sys2Proof.Machine.execQunbind s
  | .launch => Sys2Proof.Machine.execLaunch s
  | .cancel => Sys2Proof.Machine.execCancel s
  | .xinv => Sys2Proof.Machine.execXinv s
  | .slicemap => Sys2Proof.Machine.execSlicemap s
  | .badopc => Sys2Proof.Machine.execBadopc s
  | .attestReportDone => Sys2Proof.Machine.execAttestReportDone s
  | .coldReset => Sys2Proof.Machine.execColdReset s
  | .warmReset => Sys2Proof.Machine.execWarmReset s
  | .liveSliceMapChange => Sys2Proof.Machine.execLiveSliceMapChange s
  | .throttleEnd => Sys2Proof.Machine.execThrottleEnd s
  | .registrarUnresponsive => Sys2Proof.Machine.execRegistrarUnresponsive s

end Sys2Proof.Machine
end

