-- ==== Sys2Proof/Machine/Handover.lean ====
section
/-! DEFINITION. The clk of a rendezvous: a token that is handed to a consumer is taken in the step that hands it (R251, R255). -/

namespace Sys2Proof.Machine

/-- The in-bound ends, by region instance and index, where a rendezvous holds a token. -/
def State.handedEnds (s : State) : List (Nat × Nat) :=
  s.regions.flatMap (fun r => (upto r.ends.length).filterMap (fun i => match r.ends[i]? with
    | some e => if !e.timed && e.ring.rendezvous && !e.ring.q.isEmpty && r.phase.stepping then some (r.rinst, i) else none
    | none => none))

/-- The channels, by context and number, where a rendezvous holds a token. -/
def State.handedChans (s : State) : List (Nat × Nat) :=
  (s.chans.filter (fun c => c.rendezvous && !c.ring.q.isEmpty)).map (fun c => (c.ctx, c.num))

/-- The step of its own in which a node takes a token. -/
def takeStep (kind rinst nid : Nat) (s : State) : State :=
  s.follow (match kind with
    | 1 => execSrcSend rinst nid s
    | 2 => execSnkTake rinst nid s
    | 3 => execAgnRunStart rinst nid s
    | 4 => execMemgGather rinst nid s
    | 5 => execMemsWrite rinst nid s
    | 6 => execAccnSum rinst nid s
    | 7 => execEscTake rinst nid s
    | 8 => execSluiceSend rinst nid s
    | 9 => execSlhEmit rinst nid s
    | 10 => execInjSend rinst nid s
    | _ => .next s)

/-- The consumer at an in-bound end moves: the node there, or the region's schedule. -/
def State.consumeEnd (s : State) (rinst i : Nat) : State :=
  match s.region? rinst with
  | none => s
  | some r =>
    match r.ends[i]? with
    | none => s
    | some e =>
      if e.node = false then s.follow (execRegionStep rinst s)
      else match r.img.nodes.find? (fun c => c.pos == e.pos) with
        | some c => takeStep c.kind rinst c.nid s
        | none => s

/-- The node that takes the tokens of a channel moves. -/
def State.consumeChan (s : State) (ctx n : Nat) : State :=
  match (s.chan? ctx n).bind s.chanTaker with
  | some (r, c, _) => takeStep c.kind r.rinst c.nid s
  | none => s

/-- One token that has been handed to its consumer is taken; none where none can be. -/
def State.handOne (s : State) : Option State :=
  match s.handedEnds.findSome? (fun p => let t := s.consumeEnd p.1 p.2; if t.handedEnds.contains p then none else some t) with
  | some t => some t
  | none => s.handedChans.findSome? (fun p => let t := s.consumeChan p.1 p.2; if t.handedChans.contains p then none else some t)

/-- The tokens that have been handed to consumers are taken, and those that these hand on (R251). The first argument bounds them. -/
def State.handAll : Nat → State → State
  | 0, s => s
  | n + 1, s => match s.handOne with | some t => State.handAll n t | none => s

/-- The state after a step: what it has handed to a consumer that waits for it has been taken in the same clk (R251; log entry 21). -/
def State.handedOver (s : State) : State :=
  State.handAll ((s.regions.map (fun r => r.ends.length)).sum + s.chans.length) s

/-- The outcome of a step, with what it has handed over taken. -/
def settled : Host.Outcome State Fault Refusal → Host.Outcome State Fault Refusal
  | .next s => .next s.handedOver
  | x => x

end Sys2Proof.Machine
end

