-- ==== Sys2Proof/Machine/Fetch.lean ====
section
/-! DEFINITION. Which thread of a core issues (R134, R142), instruction fetch (R53, R182, R183), and what moves when nothing is
planned. -/

namespace Sys2Proof.Machine

/-- The thread in a slot of a core, if it is ready (R133). -/
def State.readyAt (s : State) (core slot : Nat) : Option Thread :=
  s.threads.find? (fun t => t.core == core && t.slot == slot && t.place == .slot && t.mode == .ready)

/-- The slots of a core in the order in which they are looked at: from the one above the slot issued last (R134). -/
def slotOrder (rot : Nat) : List Nat := (upto 16).map (fun i => (rot + 1 + i) % 16)

/-- A thread that has yielded still skips: its 15 clk have not passed, and a thread that was to issue first is ready and has not issued
(R142). -/
def State.skips (s : State) (t : Thread) : Bool :=
  decide (s.clk ≤ t.skipTo) && t.skip.any (fun j => j != t.slot && (s.readyAt t.core j).isSome)

/-- The thread of a core that issues next (R134, R142). -/
def State.nextThread (s : State) (core : Nat) : Option Thread :=
  ((slotOrder (s.core core).rot).filterMap (s.readyAt core)).find? (fun t => !s.skips t)

/-- A thread of a slot has issued: others of its core that skip wait for it no longer (R142). -/
def Thread.sawIssue (core slot : Nat) (t : Thread) : Thread :=
  if t.core = core then { t with skip := t.skip.filter (fun j => j != slot) } else t

/-- The state in which a thread issues: it is selected and skips no more. -/
def State.turn (s : State) (t : Thread) : State :=
  let s1 := s.select t.uid
  { s1 with th := { s1.th with skip := [] } }

/-- A word of a slot has issued: the rotation points at the slot, and other threads of the core no longer wait for it (R134, R142). -/
def State.turned (s : State) (core slot : Nat) : State :=
  let s1 := s.setCore core { s.core core with rot := slot }
  { s1 with issued := some (s.clk, core), th := s1.th.sawIssue core slot, others := s1.others.map (Thread.sawIssue core slot) }

/-- The word at a place of memory as a thread of a core fetches it: one that the core still holds and that memory no longer has may be
the old or the new one, until a fence has marked it and the thread has then made a taken transfer (R53; log entry 6). -/
def State.codeWord (s : State) (core xfer pa : Nat) : Word32 × State :=
  let now := s.codeNow core pa
  let cs := s.core core
  let held := cs.icache.filter (fun w => w.pa != pa)
  let renew := s.setCore core { cs with icache := { pa := pa, word := now, fenced := none } :: held }
  match cs.icache.find? (fun w => w.pa == pa) with
  | none => (now, renew)
  | some w =>
    if w.word = now then (now, s)
    else if (match w.fenced with | some n => decide (n ≤ xfer) | none => false) then (now, renew)
    else (if Config.fetchOld s.free then w.word else now, { s with free := s.free + 1 })

/-- Instruction fetch of the selected thread (R53, R182, R183). -/
def State.fetch (s : State) : Except Trap (Word32 × State) :=
  match s.translate s.th.core s.th.ctx s.th.pc .ex s.th.prv with
  | .error e => .error e
  | .ok (pa, s1) =>
    match s1.reachPa s.th.pc .ex pa with
    | .error e => .error e
    | .ok a => if s1.badAt .mem a 4 then .error (eccTrap .mem a s.th.pc) else .ok (s1.codeWord s.th.core s.th.xfer a)

/-- The selected thread issues one word: fetched, decoded, executed. A fetch that faults raises the fault at the word (R137), and a
thread that has stalled with a fault takes it. -/
def State.runWord (s : State) : Host.Outcome State Fault Refusal :=
  match s.th.wait with
  | .fault tr => .next (s.takeFault s.th tr s.th.word)
  | _ =>
    match s.fetch with
    | .error e => .next (s.takeFault s.th e 0)
    | .ok (w, s1) => exec (decode w) s1

/-- The .c load that the selected thread is about to issue, which its core's prefetcher watches (R293). -/
def State.nextLoad (s : State) : Option (Spec × Word × Nat × Bool) :=
  match s.th.wait with
  | .fault _ => none
  | _ => match s.fetch with | .ok (w, _) => s.th.plainLoad (decode w) | .error _ => none

/-- A core may issue in this clk: it has not, and no core of a higher coordinate has, so that what words of one clk do stands in the
order of their places (R134, R146, R148, R151, R271). -/
def State.mayIssue (s : State) (core : Nat) : Bool :=
  match s.issued with
  | some (c, k) => !(decide (c = s.clk ∧ core ≤ k))
  | none => true

/-- The outcome of a word of a thread, with the load that the word is: one that stalls has not issued (R133, R134). -/
def State.afterWord (t : Thread) (load : Option (Spec × Word × Nat × Bool)) :
    Host.Outcome State Fault Refusal → Host.Outcome State Fault Refusal
  | .next s => .next (if s.th.uid = t.uid ∧ s.th.mode = .stalled then s else (s.turned t.core t.slot).observe t load)
  | x => x

/-- A core issues at most one word in a clk (R134). -/
def State.issueAt (s : State) (core : Nat) : Host.Outcome State Fault Refusal :=
  if s.gated ∨ s.mayIssue core = false then .next s
  else match s.nextThread core with
    | none => .next s
    | some t => State.afterWord t (s.turn t).nextLoad (s.turn t).runWord

/-- The oldest load in flight of any thread. -/
def State.someLoad (s : State) : Option (Nat × Nat) :=
  s.threads.findSome? (fun t => t.inflight.findSome? (fun f => match f.late with | .load _ => some (t.uid, f.id) | .status => none))

/-- With nothing planned one clk passes, and one thing moves: the core of the selected thread issues; else a core with a ready
thread; else the oldest load in flight lands; else the oldest posted store is performed; else stalled threads look again (log
entry 2). -/
def State.idle (s0 : State) : Host.Outcome State Fault Refusal :=
  let s : State := { s0 with clk := s0.clk + 1 }
  if (s.nextThread s.th.core).isSome then s.issueAt s.th.core
  else match s.threads.find? (fun t => (s.nextThread t.core).isSome) with
    | some t => s.issueAt t.core
    | none =>
      match s.someLoad with
      | some (u, i) => exec (.loadDataReturn u i) s
      | none =>
        match s.stores with
        | x :: _ => exec (.storeAck x.id) s
        | [] => .next s.unstall

/-- One planned move: its clk pass, its unit is the one that the step names, and it takes place. Only the module's own steps can
be planned as events. -/
def State.planned (s : State) (p : Plan) : Host.Outcome State Fault Refusal :=
  let s1 : State := { s with clk := s.clk + p.dt, unit := p.unit }
  match p.move with
  | .issue core => s1.issueAt core
  | .event i => if i.isScalar then .next s1 else exec i s1

/-! ### What falls in one clk (R134, R145, R271, R324, R340, R368) -/

/-- The header that a write of an ingress port pushes is one of a launch token (R325). -/
def launchHeader (h : Word) : Bool := decide (fieldOf h 16 3 = 6 ∧ fieldOf h 0 16 = 3)

/-- A planned move that hands the registrar a launch, by the order in which it takes those of one clk: a launch token of an ingress port,
then the host's, then enq requests in ascending queue index (R324). -/
def State.launchRank (s : State) : Move → Option Nat
  | .event (.ingressPush _ h) => if launchHeader h then some 0 else none
  | .event (.registerWrite bar off size v) => if bar = 0 ∧ off % 4096 = 0x40 ∧ size = 8 ∧ launchHeader v = true then some 0 else none
  | .event .launch => some 1
  | .event (.enqRetire core i) =>
    match s.reg.enqs.find? (fun e => e.id == i && e.core == core) with
    | some e => if fieldOf (wordAt e.regs 0) 0 8 = 5 then some (2 + fieldOf (wordAt e.regs 0) 16 14) else none
    | none => none
  | _ => none

/-- A planned move that is a cancel: it comes after the dispatches of its clk (R340). -/
def State.isCancel (s : State) : Move → Bool
  | .event .cancel => true
  | .event (.enqRetire core i) =>
    s.reg.enqs.any (fun e => e.id == i && e.core == core && fieldOf (wordAt e.regs 0) 0 8 == 6)
  | _ => false

/-- The block of a command asks for a signal (R302, R305, R343). -/
def signals (ws : List Word) : Bool := !ws.isEmpty && (wordAt ws 0).getLsbD 48

/-- The engine code of a signal that a planned move gives (R72, R145). -/
def State.signalOf (s : State) (p : Plan) : Option Nat :=
  let oldest (e unit : Nat) : Option Nat :=
    match (s.engine e unit).fifo with | c :: _ => if signals c.regs then some e else none | [] => none
  match p.move with
  | .event .copyRetire => oldest 0 p.unit
  | .event (.engineRetire e unit) => oldest e.toNat unit
  | .event (.enqRetire core i) => if s.reg.enqs.any (fun e => e.id == i && e.core == core && signals e.regs) then some 5 else none
  | _ => none

/-- Where a planned move stands among the words of its clk and what goes by their order: the words, and the tokens of threads that wait
in chput, by ascending coordinate and slot (R134, R271), and behind them the signals by ascending engine code (R145). -/
def State.wordRank (s : State) (p : Plan) : Option Nat :=
  match p.move with
  | .issue core => some (core * 16 + ((s.nextThread core).map Thread.slot).getD 0)
  | .event (.chputEnter u) => (s.getT u).map Thread.placeNo
  | _ => (s.signalOf p).map (fun e => 1536 * 16 + e)

/-- A field that joins (R368). -/
def Move.joins : Move → Option Nat
  | .event (.fieldJoin f) => some f
  | _ => none

/-- Both ranks are there, and the first is the lesser. -/
def lesser : Option Nat → Option Nat → Bool
  | some a, some b => decide (a < b)
  | _, _ => false

/-- Of two moves planned for one clk the first one comes before the other: launches, words with signals, and joining fields go by their
ranks (R145, R271, R324, R368), and a cancel comes last (R340). -/
def State.before (s : State) (p q : Plan) : Bool :=
  (s.isCancel q.move && !s.isCancel p.move) || lesser (s.launchRank p.move) (s.launchRank q.move) ||
    lesser (s.wordRank p) (s.wordRank q) || lesser p.move.joins q.move.joins

/-- A move at Aeltas' rings, whose order is the host's (R342). -/
def Move.atRings : Move → Bool
  | .event .ctxCreate => true
  | .event .ctxDestroy => true
  | .event .qbind => true
  | .event .qunbind => true
  | .event .launch => true
  | .event .cancel => true
  | .event .xinv => true
  | .event .slicemap => true
  | .event .badopc => true
  | .event (.ctailWrite _) => true
  | .event (.cmdRingConfig _) => true
  | .event (.cplRingConfig _) => true
  | .event (.qheadWrite _) => true
  | .event (.registerWrite _ _ _ _) => true
  | _ => false

/-- A write of an ingress port, whose order is the host's (R325). -/
def Move.atPorts : Move → Bool
  | .event (.ingressPush _ _) => true
  | .event (.registerWrite _ _ _ _) => true
  | _ => false

/-- Two moves of one clk keep their order. -/
def Move.keeps (a b : Move) : Bool := (a.atRings && b.atRings) || (a.atPorts && b.atPorts)

/-- Of the moves that are planned for one clk, the place of the one that comes first: the first that need not keep behind an earlier one and
that no other such comes before. -/
def State.firstOf (s : State) (group : List Plan) : Nat :=
  let free := (upto group.length).filter (fun j => match group[j]? with
    | some q => !(group.take j).any (fun p => p.move.keeps q.move)
    | none => false)
  let at' (j : Nat) : List Plan := (group[j]?).toList
  (free.find? (fun j => !free.any (fun i => (at' i).any (fun p => (at' j).any (s.before p))))).getD 0

/-- The planned move that comes next, and the agenda after it. -/
def State.nextPlan (s : State) : Option (Plan × List Plan) :=
  match s.agenda with
  | [] => none
  | p :: ps =>
    match ps.takeWhile (fun q => q.dt == 0) with
    | [] => some (p, ps)
    | qs =>
      let rest := { p with dt := 0 } :: ps
      match s.firstOf (p :: qs), rest[s.firstOf (p :: qs)]? with
      | n + 1, some q => some ({ q with dt := p.dt }, rest.eraseIdx (n + 1))
      | _, _ => some (p, ps)

/-! ### Placing one instruction -/

/-- The context, bind record and thread of a module that has none, as a launch would make them (log entry 16). -/
def State.withThread (s : State) : State :=
  if s.th.mode ≠ .empty then s
  else
    let c : Ctx := { idx := 0, ptroot := 0, pubBase := 0, pubCnt := 0, chCnt := 0, lslots := 0, chBase := 0, saveBase := 0, saveLen := 0,
                     hsave := 0, maxPri := 0, prvOk := true, splits := Vector.replicate 4 { grant := 0, scr := 0, cch := 0, rej := false },
                     logNext := 0 }
    let b : Bind := { region := false, ctx := 0, unit := 0, slots := 1, rinst := 0, ticket := 0, semg := 0, wbase := 0, wlen := 0,
                      code := 0x1000, handler := 0, escape := none }
    { s with
      ctxs := c :: s.ctxs.filter (fun x => x.idx != 0), binds := b :: s.binds,
      joined := if s.joined.contains 0 then s.joined else 0 :: s.joined, out := { s.out with booting := false },
      th := { Thread.initial with mode := .ready, pc := 0x1000, bornPrv := true, prv := true } }

/-- The state with the selected thread about to fetch a word: a gigabyte of code and data is translated, the word stands at its
program counter, and nothing else is due before it. -/
def State.placeWord (s0 : State) (w : Nat) : State :=
  let s := s0.withThread
  let t := s.th
  let pa := t.pc.toNat % 2 ^ 30
  let e : Tlb := { ctx := t.ctx, va := t.pc.toNat / 2 ^ 30 * 2 ^ 30, bits := 30, pa := 0, rd := true, wr := true, ex := true, po := false,
                   pub := none }
  let cs := s.core t.core
  let s1 := s.setCore t.core { cs with rot := (t.slot + 15) % 16, tlb := e :: cs.tlb, icache := [] }
  let s2 : State := { s1 with
    agenda := [], issued := none, tlf := false, bad := s1.bad.filter (fun b => !(b.1 == .mem && decide (pa / 64 ≤ b.2 ∧ b.2 ≤ (pa + 3) / 64))),
    th := { s1.th with mode := .ready, place := .slot, skip := [], wait := .none } }
  s2.writeNat .mem pa 4 w

end Sys2Proof.Machine
end

