-- ==== Sys2Proof/Machine/Step.lean ====
section
/-! DEFINITION. One step of the module, and the placing of one instruction for the next step. -/

namespace Sys2Proof.Machine

/-- One step: the move that is planned next, or with none planned what `State.idle` says; what it hands to a consumer that waits is
taken in the same clk (R251). -/
def step (s : State) : Host.Outcome State Fault Refusal :=
  settled (match s.nextPlan with
    | some (p, ps) => State.planned { s with agenda := ps } p
    | none => s.idle)

/-- The state with an instruction stored where the next step fetches (R52: one 32-bit word). -/
def State.withFetchWord (s : State) (nbits w : Nat) : State := s.placeWord (w % 2 ^ Nat.min nbits 32)

end Sys2Proof.Machine
end

