-- ==== Sys2Proof/Safety.lean ====
section
/-! DEFINITION. The words in which claims are stated: a good state, a safe run, a word that may issue, and what a completed
word leaves. Nothing of the model calls a definition of this file. -/

namespace Sys2Proof

open Machine

/-- Every byte store stands in its canonical form (R5; log entry 1). -/
def Machine.State.memOk (s : State) : Bool :=
  Memory.wf 0 s.mem && Memory.wf 0 s.deep && Memory.wf 0 s.scratch && Memory.wf 0 s.tiles && Memory.wf 0xFF s.flash

/-- A run is safe: k steps from a state answer a next state each time. -/
def Machine.State.safe (s : State) : Nat → Prop
  | 0 => True
  | k + 1 => ∃ t, step s = .next t ∧ Machine.State.safe t k

/-! ### Words that issue and complete -/

/-- Nothing stands in the way of a scalar word of the selected thread (R54, R78, R81, R110, R133): the thread is ready, the word
is well formed, no prefix that it does not take is pending, and none of its operands is in flight. -/
structure Machine.State.Free (s : State) (i : Instr) : Prop where
  ready : s.th.mode = .ready
  wf : i.wf = true
  fmt : s.th.fv = true → takesFmt i = true
  scl : s.th.sv = true → takesScl i = true
  landed : ∀ x ∈ i.uses, s.th.busy x = false

/-- What no word changes but by its own effect: every field of a thread but the registers, the result pair, the program counter,
the loop count and its flag, the pending prefixes, the values in flight, the flags and the random generator, what is kept of a
word that waits, and how many fences came before the last taken transfer. -/
def Machine.Thread.rest (t : Thread) : Thread :=
  { t with g := Vector.replicate 32 0, q := Vector.replicate 8 0, y0 := 0, y1 := 0, y0Id := none, y1Id := none, pc := 0, la := false,
           lc := 0, fv := false, fmt := 0, sv := false, scl := 0, inflight := [], mode := .ready, wait := .none, retry := none,
           word := 0, ffl := 0, dz := false, srnd := 1, xfer := 0 }

/-- The registers after a write of one destination (R54): it takes the value unless it is g0, g0 reads 0, every other register
keeps its value, and no value in flight lands in the destination any more (R110). -/
structure Machine.Thread.Wrote (t u : Thread) (d : Spec) (v : Word) : Prop where
  value : 0 < d.toNat → d.toNat < 40 → u.read d = v
  zero : u.read 0 = 0
  others : ∀ x : Spec, x.toNat < 40 → x ≠ d → u.read x = t.read x
  landing : u.inflight = t.inflight.map (InFlight.cancel d)

/-- The registers after a word without a destination. -/
structure Machine.Thread.Kept (t u : Thread) : Prop where
  registers : ∀ x : Spec, x.toNat < 40 → u.read x = t.read x
  landing : u.inflight = t.inflight

/-- The result pair shifts (R110), pending prefixes are consumed (R78), and the thread is ready for its next word. -/
structure Machine.Thread.Shifted (t u : Thread) (v : Word) : Prop where
  y0 : u.y0 = v
  y0Id : u.y0Id = none
  y1 : u.y1 = t.y0
  y1Id : u.y1Id = t.y0Id
  prefixes : u.fv = false ∧ u.sv = false
  ready : u.mode = .ready ∧ u.wait = .none

/-- The program counter after a word that is no transfer: the next word, or by R139 the hardware loop's back-edge or its exit
after the word at LE - 4. -/
structure Machine.Thread.Advanced (t u : Thread) : Prop where
  seq : ¬ (t.la = true ∧ t.pc + 4 = t.le) → u.pc = t.pc + 4 ∧ u.lc = t.lc ∧ u.la = t.la
  last : t.la = true → t.pc + 4 = t.le → t.lc.toNat ≤ 1 → u.pc = t.le ∧ u.lc = 0 ∧ u.la = false
  back : t.la = true → t.pc + 4 = t.le → 1 < t.lc.toNat → u.pc = t.ls ∧ u.lc = t.lc - 1 ∧ u.la = true

/-- A word of the thread has completed in sequence: value v in destination d and in y0; the flags, TS.DZ and the random generator
are as given; nothing else of the thread changes. -/
structure Machine.Thread.Done (t u : Thread) (d : Spec) (v : Word) (ffl : BitVec 5) (dz : Bool) (srnd : BitVec 32) : Prop where
  wrote : t.Wrote u d v
  shifted : t.Shifted u v
  advanced : t.Advanced u
  flags : u.ffl = ffl ∧ u.dz = dz ∧ u.srnd = srnd
  kept : u.rest = t.rest

/-- Between two states no core differs, but for fetched instruction words that a core holds (R53). -/
def Machine.State.CoresKept (s t : State) : Prop := ∀ c, { t.core c with icache := (s.core c).icache } = s.core c

/-- A word of the selected thread that only computes has completed: outside the thread nothing changes, no byte of any store, no
other thread and no core. Where the hardware loop turns back the thread fetches no word older than a fence before it (R53, R139). -/
structure Machine.State.Computed (s t : State) (d : Spec) (v : Word) (ffl : BitVec 5) (dz : Bool) (srnd : BitVec 32) : Prop where
  only : { t with th := s.th } = s
  turns : t.th.xfer = if s.th.la = true ∧ s.th.pc + 4 = s.th.le ∧ 1 < s.th.lc.toNat then s.fences else s.th.xfer
  thread : s.th.Done t.th d v ffl dz srnd

/-- The same with the flags, TS.DZ and the generator untouched. -/
abbrev Machine.State.Plain (s t : State) (d : Spec) (v : Word) : Prop := s.Computed t d v s.th.ffl s.th.dz s.th.srnd

/-- A word takes a fault: the next state is that of the fault (R153, R347), with none of the word's effect. -/
def Machine.State.Traps (s : State) (i : Instr) (tr : Trap) : Prop := exec i s = .next (s.takeFault s.th tr (encode i))

/-! ### The integer results of R29, R121, R122 and R123, over integers -/

/-- sext(r[W-1:0], W) (R121). -/
def wrapTo (w : Nat) (r : Int) : Word := (BitVec.ofInt w r).signExtend 64

/-- signed(x, W) of a natural below 2^W (R121). -/
def signedOf (w x : Nat) : Int := if x < 2 ^ (w - 1) then x else (x : Int) - 2 ^ w

/-- Positions below w, in rising order, at which a number has a 1. -/
def ones (w x : Nat) : List Nat := (List.range w).filter (fun i => x.testBit i)

/-- The sum of 2^i over positions. -/
def sumBits (l : List Nat) : Nat := (l.map (fun i => 2 ^ i)).sum

/-- The functions of R121 and R29 that read two operands, by the low byte of their words (R59). -/
def intTwo (w : Nat) (fn : Nat) (a b : Nat) : Option Int :=
  let n := b % w
  let sa := signedOf w a
  let sb := signedOf w b
  match fn with
  | 0x00 => some ((a : Int) + b)
  | 0x01 => some ((a : Int) - b)
  | 0x02 => some (a &&& b : Nat)
  | 0x03 => some (a ||| b : Nat)
  | 0x04 => some (a ^^^ b : Nat)
  | 0x05 => some (a &&& (2 ^ w - 1 - b) : Nat)
  | 0x06 => some (a ||| (2 ^ w - 1 - b) : Nat)
  | 0x08 => some (a * 2 ^ n : Nat)
  | 0x09 => some (a / 2 ^ n : Nat)
  | 0x0A => some (sa / (2 ^ n : Nat))
  | 0x0B => some (a * 2 ^ n + a / 2 ^ (w - n) : Nat)
  | 0x10 => some (if sb < sa then sb else sa)
  | 0x11 => some (if sa < sb then sb else sa)
  | 0x12 => some (if b < a then b else a : Nat)
  | 0x13 => some (if a < b then b else a : Nat)
  | 0x14 => some (if sa < sb then 1 else 0)
  | 0x15 => some (if a < b then 1 else 0)
  | 0x16 => some (if a = b then 1 else 0)
  | 0x17 => some (if a = b then 0 else 1)
  | 0x20 => some (a * b : Nat)
  | 0x21 => some (sa * sb / (2 ^ w : Nat))
  | 0x22 => some (a * b / 2 ^ w : Nat)
  | 0x24 => some (if b = 0 then -1 else if sa = -(2 ^ (w - 1) : Nat) ∧ sb = -1 then -(2 ^ (w - 1) : Nat) else sa.tdiv sb)
  | 0x25 => some (if b = 0 then 2 ^ w - 1 else (a / b : Nat))
  | 0x26 => some (if b = 0 then sa else if sa = -(2 ^ (w - 1) : Nat) ∧ sb = -1 then 0 else sa - sb * sa.tdiv sb)
  | 0x27 => some (if b = 0 then a else (a - b * (a / b) : Nat))
  | _ => none

/-- The functions of R121 that read one operand. -/
def intOne (w : Nat) (fn : Nat) (a : Nat) : Option Int :=
  match fn with
  | 0x30 => some (match (ones w a).getLast? with | some i => w - 1 - i | none => w : Nat)
  | 0x31 => some (match (ones w a).head? with | some i => i | none => w : Nat)
  | 0x32 => some ((ones w a).length : Nat)
  | 0x33 => some (sumBits ((ones w a).map (fun i => w - 1 - i)) : Nat)
  | 0x34 => some (sumBits ((ones w a).map (fun i => 8 * (w / 8 - 1 - i / 8) + i % 8)) : Nat)
  | _ => none

/-- The length l of the field of R122, cut to the width. -/
def cutLen (w b : Nat) : Nat := if w ≤ b % 64 then 0 else min (b / 2 ^ 8 % 2 ^ 7) (w - b % 64)

/-- bfx of R122. -/
def bfxOf (w a b : Nat) : Int :=
  let l := cutLen w b
  let mask := (2 ^ l - 1) * 2 ^ (b % 64)
  let f := (a &&& mask) / 2 ^ (b % 64)
  if b.testBit 16 ∧ 0 < l ∧ f.testBit (l - 1) then (f : Int) - 2 ^ l else f

/-- bfi of R122. -/
def bfiOf (w a b d : Nat) : Nat :=
  let l := cutLen w b
  let mask := (2 ^ l - 1) * 2 ^ (b % 64)
  (d &&& (2 ^ w - 1 - mask)) ||| (a % 2 ^ l * 2 ^ (b % 64))

/-- The functions that read d as well: sel of R121 and bfi of R122. -/
def intThree (w : Nat) (fn : Nat) (a b d : Nat) : Option Int :=
  match fn with
  | 0x18 => some (if d = 0 then b else a : Nat)
  | 0x40 => some (bfxOf w a b)
  | 0x41 => some (bfiOf w a b d : Nat)
  | _ => none

/-- The result value of an integer word for operand values, cut to its width, by the low byte of its word. -/
def intResult (w fn : Nat) (a b d : Word) : Option Word :=
  let x := a.toNat % 2 ^ w
  let y := b.toNat % 2 ^ w
  let z := d.toNat % 2 ^ w
  ((intTwo w fn x y).or ((intOne w fn x).or (intThree w fn x y z))).map (wrapTo w)

/-- Divisions, by the low byte of their words (R59). -/
def isDivision (fn : Nat) : Bool := decide (0x24 ≤ fn ∧ fn ≤ 0x27)

/-- The words of majors 0x01 and 0x02: width, low byte, and the specifiers d, a and b (0 where the word has no b). -/
def intWord : Instr → Option (Nat × Nat × Spec × Spec × Spec)
  | .add d a b => some (64, 0x00, d, a, b)
  | .sub d a b => some (64, 0x01, d, a, b)
  | .and d a b => some (64, 0x02, d, a, b)
  | .or d a b => some (64, 0x03, d, a, b)
  | .xor d a b => some (64, 0x04, d, a, b)
  | .andn d a b => some (64, 0x05, d, a, b)
  | .orn d a b => some (64, 0x06, d, a, b)
  | .shl d a b => some (64, 0x08, d, a, b)
  | .shr d a b => some (64, 0x09, d, a, b)
  | .sha d a b => some (64, 0x0A, d, a, b)
  | .rotl d a b => some (64, 0x0B, d, a, b)
  | .min d a b => some (64, 0x10, d, a, b)
  | .max d a b => some (64, 0x11, d, a, b)
  | .minn d a b => some (64, 0x12, d, a, b)
  | .maxn d a b => some (64, 0x13, d, a, b)
  | .slt d a b => some (64, 0x14, d, a, b)
  | .sltn d a b => some (64, 0x15, d, a, b)
  | .seq d a b => some (64, 0x16, d, a, b)
  | .sne d a b => some (64, 0x17, d, a, b)
  | .sel d a b => some (64, 0x18, d, a, b)
  | .mul d a b => some (64, 0x20, d, a, b)
  | .mulh d a b => some (64, 0x21, d, a, b)
  | .mulhn d a b => some (64, 0x22, d, a, b)
  | .div d a b => some (64, 0x24, d, a, b)
  | .divn d a b => some (64, 0x25, d, a, b)
  | .rem d a b => some (64, 0x26, d, a, b)
  | .remn d a b => some (64, 0x27, d, a, b)
  | .clz d a => some (64, 0x30, d, a, 0)
  | .ctz d a => some (64, 0x31, d, a, 0)
  | .pop d a => some (64, 0x32, d, a, 0)
  | .brev d a => some (64, 0x33, d, a, 0)
  | .bswap d a => some (64, 0x34, d, a, 0)
  | .bfx d a b => some (64, 0x40, d, a, b)
  | .bfi d a b => some (64, 0x41, d, a, b)
  | .add32 d a b => some (32, 0x00, d, a, b)
  | .sub32 d a b => some (32, 0x01, d, a, b)
  | .and32 d a b => some (32, 0x02, d, a, b)
  | .or32 d a b => some (32, 0x03, d, a, b)
  | .xor32 d a b => some (32, 0x04, d, a, b)
  | .andn32 d a b => some (32, 0x05, d, a, b)
  | .orn32 d a b => some (32, 0x06, d, a, b)
  | .shl32 d a b => some (32, 0x08, d, a, b)
  | .shr32 d a b => some (32, 0x09, d, a, b)
  | .sha32 d a b => some (32, 0x0A, d, a, b)
  | .rotl32 d a b => some (32, 0x0B, d, a, b)
  | .min32 d a b => some (32, 0x10, d, a, b)
  | .max32 d a b => some (32, 0x11, d, a, b)
  | .minn32 d a b => some (32, 0x12, d, a, b)
  | .maxn32 d a b => some (32, 0x13, d, a, b)
  | .slt32 d a b => some (32, 0x14, d, a, b)
  | .sltn32 d a b => some (32, 0x15, d, a, b)
  | .seq32 d a b => some (32, 0x16, d, a, b)
  | .sne32 d a b => some (32, 0x17, d, a, b)
  | .sel32 d a b => some (32, 0x18, d, a, b)
  | .mul32 d a b => some (32, 0x20, d, a, b)
  | .mulh32 d a b => some (32, 0x21, d, a, b)
  | .mulhn32 d a b => some (32, 0x22, d, a, b)
  | .div32 d a b => some (32, 0x24, d, a, b)
  | .divn32 d a b => some (32, 0x25, d, a, b)
  | .rem32 d a b => some (32, 0x26, d, a, b)
  | .remn32 d a b => some (32, 0x27, d, a, b)
  | .clz32 d a => some (32, 0x30, d, a, 0)
  | .ctz32 d a => some (32, 0x31, d, a, 0)
  | .pop32 d a => some (32, 0x32, d, a, 0)
  | .brev32 d a => some (32, 0x33, d, a, 0)
  | .bswap32 d a => some (32, 0x34, d, a, 0)
  | .bfx32 d a b => some (32, 0x40, d, a, b)
  | .bfi32 d a b => some (32, 0x41, d, a, b)
  | _ => none

/-- The immediate words of R123: destination, and the value for the thread (A an unsigned operand, I the signed immediate). -/
def immWord : Instr → Option (Spec × (Thread → Int))
  | .addi d a i => some (d, fun t => (t.read a).toNat + i.toInt)
  | .andi d a i => some (d, fun t => ((t.read a).toNat &&& (BitVec.ofInt 64 i.toInt).toNat : Nat))
  | .ori d a i => some (d, fun t => ((t.read a).toNat ||| (BitVec.ofInt 64 i.toInt).toNat : Nat))
  | .xori d a i => some (d, fun t => ((t.read a).toNat ^^^ (BitVec.ofInt 64 i.toInt).toNat : Nat))
  | .slti d a i => some (d, fun t => if (t.read a).toInt < i.toInt then 1 else 0)
  | .sltni d a i => some (d, fun t => if ((t.read a).toNat : Int) < i.toInt % 2 ^ 64 then 1 else 0)
  | .shli d a n => some (d, fun t => ((t.read a).toNat * 2 ^ n.toNat : Nat))
  | .shri d a n => some (d, fun t => ((t.read a).toNat / 2 ^ n.toNat : Nat))
  | .shai d a n => some (d, fun t => (t.read a).toInt / (2 ^ n.toNat : Nat))
  | .muli d a i => some (d, fun t => (t.read a).toNat * i.toInt)
  | .lui d i => some (d, fun _ => i.toInt * 2 ^ 12)
  | .addpc d i => some (d, fun t => t.pc.toNat + i.toInt * 2 ^ 12)
  | _ => none

/-! ### Float and control-register words -/

/-- The rounded float words of R125: format, destination, operands, and the exact result of the operand values (for fma and fnma d
is the third operand). -/
def floatWord : Instr → Option (BitVec 2 × Spec × Spec × Spec × (Nat → FV → FV → FV → FV × FFlags))
  | .fadd d a b f => some (f, d, a, b, fun rm x y _ => FV.add rm x y)
  | .fsub d a b f => some (f, d, a, b, fun rm x y _ => FV.add rm x y.negate)
  | .fmul d a b f => some (f, d, a, b, fun _ x y _ => FV.mul x y)
  | .fdiv d a b f => some (f, d, a, b, fun _ x y _ => FV.div x y)
  | .fsqrt d a f => some (f, d, a, 0, fun _ x _ _ => FV.sqrt x)
  | .fma d a b f => some (f, d, a, b, fun rm x y z => FV.fma rm x y z)
  | .fnma d a b f => some (f, d, a, b, fun rm x y z => FV.fma rm x.negate y z)
  | .fmin d a b f => some (f, d, a, b, fun _ x y _ => FV.minV x y)
  | .fmax d a b f => some (f, d, a, b, fun _ x y _ => FV.maxV x y)
  | _ => none

/-- The comparisons of R126: format, destination, operands, and the result and flags of the operand values. -/
def compareWord : Instr → Option (BitVec 2 × Spec × Spec × Spec × (FV → FV → Bool × FFlags))
  | .feq d a b f => some (f, d, a, b, fun x y => (FV.eq x y, x.sigFlag ||| y.sigFlag))
  | .flt d a b f => some (f, d, a, b, fun x y => if x.isNan || y.isNan then (false, fINV) else (FV.lt x y, 0))
  | .fle d a b f => some (f, d, a, b, fun x y => if x.isNan || y.isNan then (false, fINV) else (FV.lt x y || FV.eq x y, 0))
  | _ => none

/-- The control-register words that write (R115): number, operand, and the value to write from the old value and the operand. -/
def csrForm : Instr → Option (Nat × Spec × (Word → Word → Word))
  | .csrw a n => some (n.toNat, a, fun _ x => x)
  | .csrs a n => some (n.toNat, a, fun old x => old ||| x)
  | .csrc a n => some (n.toNat, a, fun old x => old &&& ~~~x)
  | _ => none

/-- What a control register of the thread reads after a value is written to it (R117, R118, R119): its writable bits. -/
def csrKeeps (n : Nat) (old v : Word) : Word :=
  if n = 0x000 then (old &&& ~~~1#64) ||| (v &&& 1#64)
  else if n = 0x002 then v &&& 0x1F#64
  else if n = 0x003 then (if v.toNat % 8 < 6 then v &&& 7#64 else old)
  else if n = 0x004 then (if v &&& 0xFFFFFFFF#64 = 0 then 1 else v &&& 0xFFFFFFFF#64)
  else if n = 0x008 then v &&& 0xFFFFFFFF#64
  else if n = 0x009 ∨ n = 0x00A then v &&& 0x00FFFFFFFFFFFFFC#64
  else if 0x010 ≤ n ∧ n ≤ 0x013 then v &&& 0xFFFFFFFFFF#64
  else old

/-! ### Bytes -/

/-- The list of cells that holds a store's bytes. -/
def Machine.Space.bank : Space → Nat
  | .mem => 0
  | .deep _ => 1
  | .win _ _ => 2
  | .tile _ => 3
  | .flash => 4

/-- An address that a store has: below 2^18 in a window or a tile, below 2^33 in the deep scratch of one context. -/
def Machine.Space.has : Space → Nat → Prop
  | .win _ ctx, a => ctx < 64 ∧ a < 2 ^ 18
  | .deep _, a => a < 2 ^ 33
  | .tile _, a => a < 2 ^ 18
  | _, _ => True

/-- A byte is one of the n bytes of a store from an address up. -/
def Machine.Space.Among (sp : Space) (a n : Nat) (sq : Space) (x : Nat) : Prop :=
  sq.bank = sp.bank ∧ sp.key a ≤ sq.key x ∧ sq.key x < sp.key a + n

/-- Every byte of every store but n bytes from an address reads as before. -/
def Machine.State.SameBut (s t : State) (sp : Space) (a n : Nat) : Prop :=
  ∀ sq x, ¬ sp.Among a n sq x → t.readByte sq x = s.readByte sq x

/-- Every byte of every store reads as before. -/
def Machine.State.SameBytes (s t : State) : Prop := ∀ sq x, t.readByte sq x = s.readByte sq x

/-- Bytes stand in a store from an address up, and every other byte reads as before. -/
structure Machine.State.Stored (s t : State) (sp : Space) (a : Nat) (bs : List Byte) : Prop where
  there : t.readBytes sp a bs.length = bs
  elsewhere : s.SameBut t sp a bs.length

/-! ### Conversions -/

/-- The scale code of a pending pfx.scl (R130, R131). -/
def scaleCode (t : Thread) : Option Nat := t.sclPfx.map (fun q => if q.imm then q.sc else (t.read q.sr).toNat % 256)

/-- A narrow float format (R27). -/
def isNarrow (code : Nat) : Bool := decide (5 ≤ code ∧ code ≤ 9)

/-- An integer or natural (R26). -/
def isWhole (code : Nat) : Bool := decide (code = 0xB ∨ code = 0xC)

/-- The exact value that cvt converts (R129, R130): tc and sc are the formats, iw the width of an integer side. -/
def cvtSource (t : Thread) (a : Spec) (tc sc iw : Nat) : FV :=
  let plain :=
    if isWhole sc then Machine.intValue (sc == 0xB) (if isWhole tc then 64 else iw) t.fmtPfx.frac (t.read a).toNat
    else operandValue sc 0 (t.read a)
  match scaleCode t, ffmt sc with
  | none, _ => plain
  | some c, some f => if isNarrow sc then decodeScaled f (t.read a).toNat c else if isNarrow tc then plain.scale (127 - (c : Int)) else plain
  | some c, none => if isNarrow tc then plain.scale (127 - (c : Int)) else plain

/-- What cvt makes of a value (R129): the register value and its flags. -/
def cvtTarget (t : Thread) (tc sc iw rm : Nat) (v : FV) : Word × FFlags :=
  if isWhole tc then
    let r := storeInt (tc == 0xB) iw (if isWhole sc then 0 else t.fmtPfx.frac) rm t.srnd.toNat v
    (BitVec.ofInt 64 r.1, r.2)
  else storeValue tc 0 rm t.srnd.toNat v

/-- The mode in force for a conversion (R129). -/
def cvtMode (t : Thread) (r : BitVec 3) : Nat := if r ≠ 7 then r.toNat else t.modeOf

/-- A pending pfx.fmt of a conversion names only the formats of the word (R130). -/
def cvtPfxOk (t : Thread) (tc sc : Nat) : Bool :=
  let ok (x : Nat) : Bool := decide (x = 0 ∨ x = tc ∨ x = sc)
  ok t.fmtPfx.fa && ok t.fmtPfx.fb && ok t.fmtPfx.fd

/-! ### Loads and stores -/

/-- The loads of R172: destination, second destination of ldp, base, class, bytes, sign extension, and the offset in access units. -/
def loadWord : Instr → Option (Spec × Option Spec × Spec × BitVec 2 × Nat × Bool × Int)
  | .ld d b c z o => some (d, none, b, c, 2 ^ z.toNat, true, o.toInt)
  | .ldn d b c z o => some (d, none, b, c, 2 ^ z.toNat, false, o.toInt)
  | .ldp d b c o => some (d, some (d + 1), b, c, 16, false, o.toInt)
  | _ => none

/-- The stores of R172: base, class, bytes, offset in access units, and the number that is stored. -/
def storeWord : Instr → Option (Spec × BitVec 2 × Nat × Int × (Thread → Nat))
  | .st v b c z o => some (b, c, 2 ^ z.toNat, o.toInt, fun t => (t.read v).toNat)
  | .stp v b c o => some (b, c, 16, o.toInt, fun t => (t.read v).toNat + 2 ^ 64 * (t.read (v + 1)).toNat)
  | _ => none

/-- Base plus a signed offset in access units (R172). -/
def addrOf (t : Thread) (b : Spec) (o : Int) (size : Nat) : Word := t.read b + BitVec.ofInt 64 (o * size)

/-- The value of bytes in a register (R172), sign- or zero-extended. -/
def extended (sgn : Bool) (bs : List Byte) : Word :=
  if sgn then (BitVec.ofNat (8 * bs.length) (ofLe bs)).signExtend 64 else BitVec.ofNat 64 (ofLe bs)

/-- Where an access goes: the store of the module and the address in it, or the picture of the memory behind a link (R178). -/
def Machine.Loc.place : Loc → Space × Nat
  | .at sp a => (sp, a)
  | .link pa => (.mem, pa)

/-- The second write of an ldp, before the first. -/
def wroteSecond (t : Thread) (d2 : Option Spec) (v : Word) : Thread := match d2 with | some x => t.write x v | none => t

/-- A load has left and its value is in flight (R110): its destinations are those of the word, but for g0, y0 names it, and the
thread goes on. -/
structure Machine.State.LeftFor (s t : State) (d : Spec) (d2 : Option Spec) (r : LoadReq) : Prop where
  only : { t with th := s.th, cores := s.cores, walkers := s.walkers, nextId := s.nextId } = s
  cores : ∀ c, { t.core c with tlb := (s.core c).tlb } = s.core c
  name : t.nextId = s.nextId + 1
  registers : ∀ x : Spec, x.toNat < 40 → t.th.read x = s.th.read x
  late : t.th.y0Id = some s.nextId ∧ t.th.y1 = s.th.y0 ∧ t.th.y1Id = s.th.y0Id
  flight : ∃ old, old.map InFlight.id = s.th.inflight.map InFlight.id ∧ t.th.inflight = old ++
    [{ id := s.nextId, dst := if d = 0 then none else some d, dst2 := d2, late := .load r }]
  busy : 0 < d.toNat → t.th.busy d = true
  advanced : s.th.Advanced t.th
  kept : t.th.rest = s.th.rest ∧ t.th.ffl = s.th.ffl ∧ t.th.dz = s.th.dz ∧ t.th.srnd = s.th.srnd

/-- The atomics of R203: operation, destination, address, operand, width bit, ordering and scope. -/
def amoWord : Instr → Option (BitVec 4 × Spec × Spec × Spec × BitVec 1 × BitVec 2 × BitVec 1)
  | .amoAdd d a b w o c => some (0, d, a, b, w, o, c)
  | .amoAnd d a b w o c => some (1, d, a, b, w, o, c)
  | .amoOr d a b w o c => some (2, d, a, b, w, o, c)
  | .amoXor d a b w o c => some (3, d, a, b, w, o, c)
  | .amoMin d a b w o c => some (4, d, a, b, w, o, c)
  | .amoMax d a b w o c => some (5, d, a, b, w, o, c)
  | .amoMinn d a b w o c => some (6, d, a, b, w, o, c)
  | .amoMaxn d a b w o c => some (7, d, a, b, w, o, c)
  | .amoSwap d a b w o c => some (8, d, a, b, w, o, c)
  | .amoCas d a b w o c => some (9, d, a, b, w, o, c)
  | _ => none

/-- What an atomic leaves in n bytes (R203): old and v are their values, c the comparand of cas. -/
def amoOf (op n old v c : Nat) : Nat :=
  let m := 2 ^ (8 * n)
  let sg := signedOf (8 * n)
  match op with
  | 0 => (old + v) % m
  | 1 => old &&& v
  | 2 => old ||| v
  | 3 => old ^^^ v
  | 4 => if sg v < sg old then v else old
  | 5 => if sg old < sg v then v else old
  | 6 => if v < old then v else old
  | 7 => if old < v then v else old
  | 8 => v
  | _ => if old = c then v else old

/-- An atomic has been performed on n bytes of memory, and its word has completed with the old value, sign-extended (R203). -/
structure Machine.State.Atomic (s t : State) (uid : Nat) (op n pa : Nat) (v c : Word) (d : Spec) : Prop where
  memory : t.readNat .mem pa n = amoOf op n (s.readNat .mem pa n) (v.toNat % 2 ^ (8 * n)) (c.toNat % 2 ^ (8 * n))
  elsewhere : s.SameBut t .mem pa n
  word : ∃ u w, s.getT uid = some u ∧ t.getT uid = some w ∧
    u.Done w d ((BitVec.ofNat (8 * n) (s.readNat .mem pa n)).signExtend 64) u.ffl u.dz u.srnd

/-- Publication record x of a context has been flipped for a thread (R202): its GEN is one more and is the word's value; no core holds
a translation tagged with the record, and no walker; no other byte changes. -/
structure Machine.State.Flipped (s t : State) (uid : Nat) (c : Ctx) (x : Nat) (r : PubRec) (d : Spec) : Prop where
  gen : t.readNat .mem (c.pubAddr x + 32) 8 = (r.gen + 1) % 2 ^ 64
  elsewhere : s.SameBut t .mem (c.pubAddr x + 32) 8
  untagged : ∀ p ∈ t.cores, ∀ e ∈ p.2.tlb, ¬ (e.ctx = c.idx ∧ e.pub = some x)
  walkers : ∀ p ∈ t.walkers, ∀ e ∈ p.2, ¬ (e.ctx = c.idx ∧ e.pub = some x)
  word : ∃ u w, s.getT uid = some u ∧ t.getT uid = some w ∧
    ({ u with seen := w.seen }).Done w d (BitVec.ofNat 64 (r.gen + 1)) u.ffl u.dz u.srnd

/-- Nothing of the module is in flight: no posted store, no value in flight of any thread, no uncorrectable error and no deferred one. -/
structure Machine.State.Calm (s : State) : Prop where
  stores : s.stores = []
  loads : ∀ t ∈ s.threads, t.inflight = []
  errors : s.bad = []
  deferred : ∀ t ∈ s.threads, t.deferred = []
  names : (s.threads.map Thread.uid).Nodup
  present : ∀ t ∈ s.others, t.mode ≠ .empty ∧ t.uid ≠ s.th.uid

/-- A release of a thread at scope core: its posted stores are acknowledged there, and of no store does anything else change (R188). -/
structure Machine.State.Acked (s t : State) (u : Thread) : Prop where
  same : t.stores.map (fun x => { x with rel := false }) = s.stores.map (fun x => { x with rel := false })
  acked : ∀ x ∈ t.stores, x.uid = u.uid → x.core = u.core → x.rel = true
  kept : ∀ x ∈ s.stores, x.rel = true → ∃ y ∈ t.stores, y = x

/-! ### Control transfers and threads -/

/-- A target lies outside the loop body, LS to LE - 4 (R139). -/
def outsideLoop (t : Thread) (target : Word) : Bool := decide (target.toNat < t.ls.toNat ∨ t.le.toNat ≤ target.toNat)

/-- A word of the thread has completed with a transfer: the result pair shifts, the program counter is the target, the loop count
stands, and a transfer that leaves the loop body clears TS.LA when `leaves` (R139). -/
structure Machine.Thread.Went (t u : Thread) (v target : Word) (leaves : Bool) : Prop where
  shifted : t.Shifted u v
  pc : u.pc = target
  loop : u.lc = t.lc ∧ u.la = (t.la && !(leaves && outsideLoop t target))
  flags : u.ffl = t.ffl ∧ u.dz = t.dz ∧ u.srnd = t.srnd
  kept : u.rest = t.rest

/-- Outside its thread a transfer changes nothing. -/
structure Machine.State.OnlyThread (s t : State) : Prop where
  only : { t with th := s.th } = s

/-- The conditional branches of R68 and R137: operands, displacement, condition. -/
def branchWord : Instr → Option (Spec × Spec × BitVec 10 × (Word → Word → Prop))
  | .brEq a b d => some (a, b, d, fun x y => x = y)
  | .brNe a b d => some (a, b, d, fun x y => x ≠ y)
  | .brLt a b d => some (a, b, d, fun x y => x.toInt < y.toInt)
  | .brGe a b d => some (a, b, d, fun x y => y.toInt ≤ x.toInt)
  | .brLtn a b d => some (a, b, d, fun x y => x.toNat < y.toNat)
  | .brGen a b d => some (a, b, d, fun x y => y.toNat ≤ x.toNat)
  | _ => none

/-- A word of a thread has completed, wherever the thread stands: value v in its destination and in y0, the program counter moved by
R139. -/
def Machine.State.Completes (s t : State) (uid : Nat) (d : Spec) (v : Word) : Prop :=
  ∃ u w, s.getT uid = some u ∧ t.getT uid = some w ∧ u.Done w d v u.ffl u.dz u.srnd

/-- Thread u is what a saved context gives back, from byte a of memory up (R113, R136). -/
structure Machine.State.Reloads (s : State) (a : Nat) (u : Thread) : Prop where
  registers : ∀ x : Spec, 0 < x.toNat → x.toNat < 40 → u.read x = BitVec.ofNat 64 (s.readNat .mem (a + 8 * x.toNat) 8)
  result : u.y0 = BitVec.ofNat 64 (s.readNat .mem (a + 320) 8) ∧ u.y1 = BitVec.ofNat 64 (s.readNat .mem (a + 328) 8)
  cursors : ∀ j : Fin 4, u.k[j] = BitVec.ofNat 40 (s.readNat .mem (a + 336 + 8 * j.val) 5)
  pc : u.pc = BitVec.ofNat 64 (s.readNat .mem (a + 368) 8)
  ts : u.dz = (s.readNat .mem (a + 376) 8).testBit 0 ∧ u.la = (s.readNat .mem (a + 376) 8).testBit 4
  pxs : u.pxs = BitVec.ofNat 64 (s.readNat .mem (a + 384) 8 % 2 ^ 50)
  float : u.ffl = BitVec.ofNat 5 (s.readNat .mem (a + 392) 8) ∧ u.frm = BitVec.ofNat 3 (s.readNat .mem (a + 400) 8) ∧
    u.srnd = BitVec.ofNat 32 (s.readNat .mem (a + 408) 8)
  loop : u.lc = BitVec.ofNat 32 (s.readNat .mem (a + 416) 8) ∧ u.ls = maskLoopAddr (BitVec.ofNat 64 (s.readNat .mem (a + 424) 8)) ∧
    u.le = maskLoopAddr (BitVec.ofNat 64 (s.readNat .mem (a + 432) 8))
  family : u.join = BitVec.ofNat 64 (s.readNat .mem (a + 440) 8) ∧ u.parent = BitVec.ofNat 64 (s.readNat .mem (a + 448) 8) ∧
    u.ticket = BitVec.ofNat 64 (s.readNat .mem (a + 456) 8)
  wait : u.wres = BitVec.ofNat 64 (s.readNat .mem (a + 472) 8) ∧ u.wresValid = (s.readNat .mem (a + 480) 8).testBit 0 ∧
    u.wakePending = (s.readNat .mem (a + 480) 8).testBit 1
  rest : u.deadline = BitVec.ofNat 64 (s.readNat .mem (a + 488) 8) ∧ u.savea = BitVec.ofNat 64 (s.readNat .mem (a + 496) 8)

/-- The thread of a name stands alone: the state holds it, and none other of its name. -/
structure Machine.State.Holds (s : State) (uid : Nat) (t : Thread) : Prop where
  got : s.getT uid = some t
  real : t.mode ≠ .empty
  one : s.th.mode = .empty → s.th.uid ≠ uid

/-! ### Engines -/

/-- The words that command an engine (R294, R303): engine code, operation, words of the block, and the specifiers d and a. -/
def engineWord : Instr → Option (Nat × Nat × Nat × Spec × Spec)
  | .cqpush d a => some (0, 0, 4, d, a)
  | .nblBox d a => some (1, 0, 3, d, a)
  | .nblBin d a => some (1, 1, 1, d, a)
  | .nblPairs d a => some (1, 2, 1, d, a)
  | .nblStat d => some (1, 3, 0, d, 0)
  | .pgsSum d a => some (2, 0, 2, d, a)
  | .pgsSel d a => some (2, 1, 5, d, a)
  | .sflTab d a => some (3, 0, 3, d, a)
  | .sflBag d a => some (3, 1, 4, d, a)
  | .wdqGrid d a => some (4, 0, 1, d, a)
  | .wdqAsk d a => some (4, 1, 2, d, a)
  | _ => none

/-- The words w of a block that an engine takes with the geometry g (R299, R304, R308 to R321): its reserved bits and addresses. -/
def blockLegal (i : Instr) (w g : List Word) : Bool :=
  let w0 := wordAt w 0
  match i with
  | .cqpush .. => (copyReq w g).legal w0
  | .nblBox .. => onlyBits w0 0x7FFFFFFFF#64 && eOk [2] 64 (wordAt g 1)
  | .nblBin .. => onlyBits w0 0 && eOk [2] 64 (wordAt g 1) && eOk [0, 2] 16 (wordAt g 0)
  | .nblPairs .. => onlyBits w0 0x70FFF#64 && decide (fieldOf w0 16 3 ≤ 2) && eOk [2] 64 (wordAt g 1) && eOk [0, 2] 16 (wordAt g 0)
  | .pgsSum .. => onlyBits w0 0x00000F00FFFFFFFF#64 && fieldOf (wordAt w 1) 32 32 == 0 && eOk [0, 2] 64 (wordAt g 0) &&
    eOk [0, 1, 2] 64 (wordAt g 2)
  | .pgsSel .. => onlyBits w0 0x00000F800000007F#64 && eOk [0, 1, 2] 64 (wordAt w 1) && eOk [0, 1, 2] 4 (wordAt w 2) &&
    (if w0.getLsbD 39 then eOk [0, 1, 2] 64 (wordAt w 3) && eOk [0, 2] 64 (wordAt g 0) && eOk [0, 2] 64 (wordAt g 1)
      else wordAt w 3 == 0) && eOk [0, 1, 2] 64 (wordAt g 2) && eOk [0, 2] 1 (wordAt g 3)
  | .sflTab .. => onlyBits w0 0x00000FF0000007FF#64 && eOk [0] 64 (wordAt w 1) && fieldOf (wordAt w 2) 32 32 == 0
  | .sflBag .. => onlyBits w0 0x00000F80FFFFFFFF#64 && eOk [0, 1, 2] 4 (wordAt w 1) &&
    (if w0.getLsbD 39 then eOk [0, 1, 2] 4 (wordAt w 2) else wordAt w 2 == 0) && eOk [0, 1, 2] 4 (wordAt w 3) &&
    eOk [0, 1, 2] 64 (wordAt g 0) && fieldOf (wordAt g 1) 0 32 % 64 == 0
  | .wdqGrid .. => onlyBits w0 0x3F#64
  | .wdqAsk .. => onlyBits w0 0xF#64 && eOk [1, 2] 8 (wordAt w 1)
  | _ => true

/-- The scratch sides of a command for an engine (R307): the destinations and the sources, as they are asked for. -/
def blockSides (i : Instr) (w : List Word) (x : Engine) : List Side × List Side :=
  let w0 := wordAt w 0
  let g := x.geom
  match i with
  | .cqpush .. => (copyReq w g).sides
  | .nblBox .. => ([eSide (wordAt g 1) 0 64], [])
  | .nblBin .. => ([nblSide g], [eSide (wordAt g 0) 0 (16 * nblPart g)])
  | .nblPairs .. => ([], [eSide (wordAt g 0) 0 (16 * nblPart g), nblSide g])
  | .pgsSum .. =>
    let dim := pgsDim w0
    let first := fieldOf w0 0 32
    let n := fieldOf (wordAt w 1) 0 32
    ([eSide (wordAt g 2) (2 * dim * first) (2 * dim * n)], [eSide (wordAt g 0) (32 * dim * first) (32 * dim * n)])
  | .pgsSel .. =>
    let dim := pgsDim w0
    let k := fieldOf w0 0 7
    let first := fieldOf (wordAt w 4) 0 32
    let n := fieldOf (wordAt w 4) 32 32
    ([eSide (wordAt w 2) 0 (4 * k)] ++ (if w0.getLsbD 39 then [eSide (wordAt w 3) 0 (64 * dim * k)] else []),
      [eSide (wordAt w 1) 0 (2 * dim), eSide (wordAt g 2) (2 * dim * first) (2 * dim * n)] ++
      (if wordAt g 3 = 0 ∨ n = 0 then [] else [eSide (wordAt g 3) (first / 8) ((first + n - 1) / 8 - first / 8 + 1)]) ++
      (if w0.getLsbD 39 then [eSide (wordAt g 0) (32 * dim * first) (32 * dim * n), eSide (wordAt g 1) (32 * dim * first) (32 * dim * n)]
        else []))
  | .sflBag .. =>
    let n := fieldOf w0 0 32
    let k := x.sflElems (fieldOf w0 40 4)
    let whole (y : Word) : List Side :=
      if eCls y = 0 then [] else [eSide y 0 (if eCls y = 1 then 2 ^ 18 else 2 ^ 31 - (eAddr y).toNat % 2 ^ 31)]
    ([eSide (wordAt g 0) 0 (if n = 0 ∨ k = 0 then 0 else (n - 1) * sflPitch g k + k * sflOut g)],
      if n = 0 then [] else
        whole (wordAt w 1) ++ (if w0.getLsbD 39 then whole (wordAt w 2) else []) ++ [eSide (wordAt w 3) 0 (4 * (n + 1))])
  | .wdqAsk .. => ([eSide (wordAt w 1) 0 8], [])
  | _ => ([], [])

/-- A command for an engine is legal (R299, R305, R307): its block and geometry, and the scratch sides among its destinations and among
its sources lie in one class each, for .k on one die. -/
def commandLegal (i : Instr) (e : Nat) (w : List Word) (x : Engine) : Bool :=
  blockLegal i w x.geom &&
    (e == 0 || ((w.isEmpty || semFields (wordAt w 0)) && sidesAgree (blockSides i w x).1 && sidesAgree (blockSides i w x).2))

/-- A word has left its result to a command's status word (R110, R299, R305): the status is in flight for d, y0 names it, and the thread
goes on. -/
structure Machine.Thread.Launched (t u : Thread) (id : Nat) (d : Spec) : Prop where
  registers : ∀ x : Spec, x.toNat < 40 → u.read x = t.read x
  late : u.y0Id = some id ∧ u.y1 = t.y0 ∧ u.y1Id = t.y0Id
  flight : ∃ old, old.map InFlight.id = t.inflight.map InFlight.id ∧ u.inflight = old ++
    [{ id := id, dst := if d = 0 then none else some d, late := .status }]
  advanced : t.Advanced u
  kept : u.rest = t.rest ∧ u.ffl = t.ffl ∧ u.dz = t.dz ∧ u.srnd = t.srnd

/-- The steps in which an engine runs its head command: engine code and operation. -/
def engineRun : Instr → Option (Nat × Nat)
  | .copyStart => some (0, 0)
  | .nblBoxExec => some (1, 0)
  | .nblBinExec => some (1, 1)
  | .nblPairsExec => some (1, 2)
  | .nblStatExec => some (1, 3)
  | .pgsSumExec => some (2, 0)
  | .pgsSelExec => some (2, 1)
  | .sflTabExec => some (3, 0)
  | .sflBagExec => some (3, 1)
  | .wdqGridExec => some (4, 0)
  | .wdqAskExec => some (4, 1)
  | _ => none

/-- A step of the engine of code e of the unit that steps runs command c, which has not ended and which no thermal throttle or change of
split holds (R162, R168, R300, R305); nothing else of the module is on its way. A copy's step names no number of source lines, and runs to
the end (log entry 9). -/
structure Machine.State.Runs (s : State) (i : Instr) (e : Nat) (c : Cmd) (cs : List Cmd) : Prop where
  step : engineRun i = some (e, c.op)
  head : (s.engine e s.unit).fifo = c :: cs
  unended : c.status = none ∧ c.toks = []
  begins : s.cmdHeld e c = false
  stores : s.stores = []
  errors : s.bad = []
  publ : ∀ t ∈ s.threads, ∀ d x p l, t.wait ≠ .publ d x p l
  whole : e = 0 → s.unit < 2048

/-- The head command of the engine has ended with a status word; the commands behind it stand. -/
def Machine.State.Ended (t : State) (e : Nat) (c : Cmd) (cs : List Cmd) (v : Word) : Prop :=
  ∃ c1, (t.engine e t.unit).fifo = c1 :: cs ∧ c1.status = some v ∧
    { c1 with resolved := c.resolved, pubRec := c.pubRec, status := none, toks := [] } = c

/-- Deep scratch that a context may reach, from an address up (R160). -/
def Machine.State.DeepHas (s : State) (ctx lo n : Nat) : Prop := lo + n ≤ 2 ^ 33 ∧ ∀ x, lo ≤ x → x < lo + n → s.deepOk ctx x = true

/-- A summary element (R316) from its 16 key elements. -/
def summaryOf (keys : List Nat) : Nat :=
  (storeFloat bf16 0 0 (FV.scale (-4) (f32.decode (keys.foldl (fun a k => (accF32 a (bf16.decode k)).1) 0)))).1

/-- The score of a page (R317) from the query and its summary. -/
def scoreOf (q v : List Nat) : Nat := (q.zip v).foldl (fun a x => (fmaF32 a (bf16.decode x.1) (bf16.decode x.2)).1) 0

/-! ### Regions and nodes -/

/-- A region steps, no fault of a cistern holding it (R255), and a node of it, of a kind, is not paused (R277): its record, its state. -/
structure Machine.State.NodeAt (s : State) (rinst nid kind : Nat) (r : Region) (c : NodeCfg) (n : NodeSt) : Prop where
  region : s.region? rinst = some r
  steps : r.phase.stepping = true
  alive : s.dying.contains r.ticket = false
  flows : s.cisternHeld r = false
  cfg : r.img.nodes.find? (fun x => x.nid == nid) = some c
  node : r.nodes.find? (fun x => x.nid == nid) = some n
  kind : c.kind = kind
  free : ∀ m ∈ r.nodes, m.nid = nid → m.fault = none

/-- What a node of a region holds beside its header. -/
def Machine.State.nodeVar (s : State) (rinst nid : Nat) : Option NodeVar :=
  (s.region? rinst).bind (fun r => (r.nodes.find? (fun n => n.nid == nid)).map NodeSt.var)

/-- The fault that pauses a node of a region (R277). -/
def Machine.State.nodePaused (s : State) (rinst nid : Nat) : Option Trap :=
  (s.region? rinst).bind (fun r => (r.nodes.find? (fun n => n.nid == nid)).bind NodeSt.fault)

/-- The in-bound ends of a region. -/
def Machine.State.endsOf (s : State) (rinst : Nat) : Option (List End) := (s.region? rinst).map Region.ends

/-- A token stands at every in-bound end of a circuit, behind what was there (R251, R255). -/
def Machine.Region.delivered (r : Region) (circ : Nat) (k : Token) : Region :=
  { r with ends := r.ends.map (fun e => if e.circ = circ then { e with ring := { e.ring with q := e.ring.q ++ [k] } } else e) }

/-- Every in-bound end of a circuit has a free slot. -/
def Machine.Region.SlotFree (r : Region) (circ : Nat) : Prop :=
  ∀ e ∈ r.ends, e.circ = circ → e.ring.ccount = 0 ∧ e.ring.q.length < e.ring.slots

/-- A token is the oldest one at an input of a node: the end's index, and what stays behind the token. -/
structure Machine.Region.Offers (r : Region) (c : NodeCfg) (port j : Nat) (k : Token) (ks : List Token) (e : End) : Prop where
  at' : r.endAt true c.pos port = some j
  stands : r.ends[j]? = some e
  oldest : e.ring.q = k :: ks

/-- The region with that token taken. -/
def Machine.Region.without (r : Region) (j : Nat) (e : End) (ks : List Token) : Region :=
  { r with ends := r.ends.set j { e with ring := { e.ring with q := ks } } }

/-- An element that a memg gathers at a lane (R282, R283): 0 where the lane is inactive or its index out of range. -/
def Machine.State.gathered (s : State) (r : Region) (m : MemCfg) (k : Token) (l : Nat) : Nat :=
  match (if k.active l then m.index k l else none) with
  | none => 0
  | some i =>
    match s.agentNat (r.memAgent m.cls) (m.addr i) m.esz with
    | .ok v => if m.sx then ofSigned 32 (toSigned (8 * m.esz) v) else v
    | .error _ => 0

/-! ### Launches -/

/-- Launches that have ended have left no thread that is still to end, or to give way in its slot (R330, R350). -/
structure Machine.State.Settled (s : State) : Prop where
  ended : ∀ t ∈ s.threads, s.finished t = false
  guests : ∀ t ∈ s.threads, t.place = .slot → t.isOf t.bindTicket = true ∨ (s.launch? t.bindTicket).isSome = true

/-- The registrars hold one launch, and no queue has been bound. -/
structure Machine.State.Sole (s : State) (l : Launch) : Prop where
  launches : s.reg.launches = [l]
  queues : s.reg.queues = []
  settled : s.Settled

/-- No thread belongs to a launch or stands in a slot of its records. -/
def Machine.State.NoThreads (s : State) (ticket : Nat) : Prop := ∀ t ∈ s.threads, t.origin ≠ ticket ∧ t.bindTicket ≠ ticket

/-! ### The host and the outside -/

/-- The host commands, by opcode (R341). -/
def hostOp : Instr → Option Nat
  | .ctxCreate => some 1
  | .ctxDestroy => some 2
  | .qbind => some 3
  | .qunbind => some 4
  | .launch => some 5
  | .cancel => some 6
  | .xinv => some 7
  | .slicemap => some 8
  | _ => none

/-- Where the command that Aeltas takes next stands (R342). -/
def Machine.State.commandAt (s : State) : Nat := hostPa (s.reg.cbase.toNat + 64 * s.reg.chead)

/-- A command waits and can be taken (R342): its opcode, its CID, and its eight words. -/
structure Machine.State.Asks (s : State) (op cid : Nat) (w : Nat → Nat) : Prop where
  booted : s.out.booting = false
  here : s.reg.chead ≠ s.reg.ctail
  room : (s.reg.qtail + 1) % s.reg.qsize ≠ s.reg.qhead
  idle : s.reg.busy = none
  opcode : s.readNat .mem s.commandAt 1 = op
  cid : s.readNat .mem (s.commandAt + 2) 2 = cid
  words : ∀ i < 8, w i = s.readNat .mem (s.commandAt + 8 * i) 8

/-- The unused bytes of the command are 0, and its CID is one that a host may give (R341, R368). -/
def Machine.State.CleanCommand (s : State) (cid : Nat) : Prop := commandClean (s.readBytes .mem s.commandAt 64) = true ∧ cid ≠ 0xFFFF

/-- A command has ended (R341, R342): its completion stands in the ring, the command ring moves on, VEC is sent or pends, and nothing
else changes. -/
structure Machine.State.Answered (s t : State) (cid result value : Nat) : Prop where
  entry : s.Stored t .mem (hostPa (s.reg.qbase.toNat + 16 * s.reg.qtail))
    (leBytes 2 cid ++ [BitVec.ofNat 8 result, if s.reg.phase then 1 else 0] ++ leBytes 4 0 ++ leBytes 8 value)
  rings : t.reg = { s.reg with chead := (s.reg.chead + 1) % s.reg.csize, qtail := (s.reg.qtail + 1) % s.reg.qsize,
                               phase := if (s.reg.qtail + 1) % s.reg.qsize = 0 then !s.reg.phase else s.reg.phase }
  vector : s.vec < 2048 → s.vec ∈ t.msi ∨ s.vec ∈ t.out.pba
  kept : { t with th := s.th, others := s.others, mem := s.mem, msi := s.msi, reg := s.reg, out := s.out } = s
  outside : { t.out with pba := s.out.pba } = s.out

/-- Nothing of the launches and queues is there for the registrars to act on. -/
structure Machine.State.Quiet (s : State) : Prop where
  launches : s.reg.launches = []
  queues : s.reg.queues = []
  settled : s.Settled

/-- A module-fatal fault has stopped the module (R354): its flag is set, and no thread, launch, region, record or request remains. -/
structure Machine.State.FellDown (s t : State) : Prop where
  flag : t.out.fatal = true
  threads : t.threads = []
  launches : t.reg.launches = [] ∧ t.reg.enqs = []
  regions : t.regions = [] ∧ t.binds = []
  event : s.reg.qbase = 0 → t.reg.joinq = s.reg.joinq ++ [0x400]
  joingen : t.out.joingen = (s.out.joingen + 1) % 2 ^ 64

/-- No record of the clk stands in a context's fault log, so that one that is appended now stands last (R348). -/
def Machine.State.LogFresh (s : State) (c : Ctx) : Prop := ∀ i < 1023, s.readNat .mem (c.saveBase + 64 * (1 + i) + 40) 8 ≠ s.clk

/-- A record has been appended to a context's fault log, which held none of its clk (R345, R348): its code, its kind, its flags (1 FATAL,
2 RETRY), the program counter, the address and the clk; NEXT counts on. -/
structure Machine.State.Appended (s t : State) (c : Ctx) (code kind flags : Nat) (pc addr : Word) : Prop where
  head : let a := c.saveBase + 64 * (1 + c.logNext % 2 ^ 32 % 1023)
    t.readNat .mem a 1 = code ∧ t.readNat .mem (a + 1) 1 = kind ∧ t.readNat .mem (a + 2) 1 = flags
  place : let a := c.saveBase + 64 * (1 + c.logNext % 2 ^ 32 % 1023)
    t.readNat .mem (a + 8) 8 = pc.toNat ∧ t.readNat .mem (a + 16) 8 = addr.toNat ∧ t.readNat .mem (a + 40) 8 = s.clk % 2 ^ 64 ∧
      t.readNat .mem (a + 56) 4 = c.logNext % 2 ^ 32
  next : t.readNat .mem c.saveBase 4 = (c.logNext + 1) % 2 ^ 32

/-- The record that a module-fatal fault leaves in the log of the only context (R354), which lies apart from the status page and holds none
of its clk. -/
def Machine.State.Recorded (s t : State) (code : Code) : Prop :=
  ∀ c, s.ctxs = [c] → s.reg.qbase = 0 → c.saveBase + 0x10000 ≤ statusPage → s.LogFresh c →
    let n := c.logNext % 2 ^ 32
    t.readNat .mem (c.saveBase + 64 * (1 + n % 1023)) 1 = code.num ∧ t.readNat .mem c.saveBase 4 = (n + 1) % 2 ^ 32

/-- What every reset leaves (R362, R371): all of the state after reset, but for the flash, the memory, its errors, the units that the
log retires, the count of boots, and CLK, the ticks and the numbers of launches, which count from a cold reset (R119, R334); and what the
model keeps for itself. -/
structure Machine.State.Cleared (s t : State) : Prop where
  state : { t with agenda := [], unit := 0, free := 0, nextId := 1, msi := [], mem := [], flash := flashStart, bad := [], clk := 0,
                   reg := { t.reg with counts := [], ticks := 0 }, retiredCores := [], out := Outside.start } = State.reset
  outside : { t.out with bootcnt := 1, retired := [], mlog := [], lastSlot := none, powered := true } = Outside.start
  beyond : ∀ a, 0x8000000000000 ≤ a → t.readByte .mem a = s.readByte .mem a

/-- Every byte of every store reads as before but those of the status page, which Aeltas writes (R367). -/
abbrev Machine.State.SameButStatus (s t : State) : Prop := s.SameBut t .mem statusPage 0x1000

end Sys2Proof
end

