-- ==== Sys2Proof/Certificates/Slice0/Obligations.lean ====
section
/-! DEFINITION. The statements for the provers, one `def Obligations.<Name> : Prop` each. -/

open Sys2Proof Sys2Proof.Machine

/-- R54: what every specifier reads, what a write does, and that a specifier that may not be read or written raises ILLEGAL. -/
def Obligations.OperandSpecifiers : Prop :=
  (∀ (t : Thread) (x : Spec),
    (x.toNat = 0 → t.read x = 0) ∧
    (∀ h : x.toNat < 32, 0 < x.toNat → t.read x = t.g[x.toNat]) ∧
    (∀ h : 32 ≤ x.toNat ∧ x.toNat ≤ 39, t.read x = t.q[x.toNat - 32]) ∧
    (x.toNat = 40 → t.read x = t.y0) ∧ (x.toNat = 41 → t.read x = t.y1)) ∧
  (∀ (t : Thread) (x : Spec) (v : Word),
    (x.toNat = 0 → (t.write x v).g = t.g ∧ (t.write x v).q = t.q) ∧
    (∀ h : x.toNat < 32, 0 < x.toNat → (t.write x v).g = t.g.set x.toNat v ∧ (t.write x v).q = t.q) ∧
    (∀ h : 32 ≤ x.toNat ∧ x.toNat ≤ 39, (t.write x v).q = t.q.set (x.toNat - 32) v ∧ (t.write x v).g = t.g)) ∧
  (∀ (s : State) (i : Instr), s.th.mode = .ready → i.isScalar = true →
    ((∃ x ∈ i.uses, 42 ≤ x.toNat) ∨ (∃ x ∈ i.dests, 40 ≤ x.toNat)) → s.Traps i { code := .illegal })

/-- R121, R122, R29: the 68 integer words, 34 at each of two widths, write the value that the tables give for the width, with TS.DZ set by a division by 0,
and leave everything else. -/
def Obligations.IntegerResults : Prop :=
  ∀ (s : State) (i : Instr) (w fn : Nat) (d a b : Spec), intWord i = some (w, fn, d, a, b) → s.Free i →
    ∃ v t, intResult w fn (s.th.read a) (s.th.read b) (s.th.read d) = some v ∧ exec i s = .next t ∧
      s.Computed t d v s.th.ffl (s.th.dz || (isDivision fn && decide ((s.th.read b).toNat % 2 ^ w = 0))) s.th.srnd

/-- R123: the immediate words. -/
def Obligations.ImmediateResults : Prop :=
  ∀ (s : State) (i : Instr) (d : Spec) (f : Thread → Int), immWord i = some (d, f) → s.Free i →
    ∃ t, exec i s = .next t ∧ s.Plain t d (BitVec.ofInt 64 (f s.th))

/-- R125, R128, R132: the nine rounded float words, in every format and with every prefix; a prefix that names format 0xA, or that gives
fsqrt a second operand's format, raises PREFIX. The codes 0xE and 0xF and the modes 6 and 7 are those of log entry 44. -/
def Obligations.FloatResults : Prop :=
  ∀ (s : State) (i : Instr) (f : BitVec 2) (d a b : Spec) (op : Nat → FV → FV → FV → FV × FFlags),
    floatWord i = some (f, d, a, b, op) → s.Free i →
    let p := s.th.fmtPfx
    let bad := p.fa = 0xA ∨ p.fb = 0xA ∨ p.fd = 0xA ∨ ((∃ d a f, i = .fsqrt d a f) ∧ p.fb ≠ 0)
    let rm := s.th.modeOf
    let dst := overrideFmt p.fd (fnFormat f)
    let x := operandValue (overrideFmt p.fa (fnFormat f)) p.frac (s.th.read a)
    let y := operandValue (overrideFmt p.fb (fnFormat f)) p.frac (s.th.read b)
    let z := operandValue dst p.frac (s.th.read d)
    let r := op rm x y z
    let st := storeValue dst p.frac rm s.th.srnd.toNat r.1
    (bad → s.Traps i { code := .pfx }) ∧
    (¬ bad → ∃ t, exec i s = .next t ∧
      s.Computed t d st.1 (s.th.ffl ||| (r.2 ||| st.2)) s.th.dz
        (if rm = 5 ∧ rounds dst r.1 = true then lfsrNext s.th.srnd else s.th.srnd))

/-- R126 to R128, R132: comparisons and classification answer an integer, fsgn and fmv move bits; only comparisons set flags. A prefix that
names format 0xA or a field that the word has not raises PREFIX. -/
def Obligations.FloatTestsAndMoves : Prop :=
  (∀ (s : State) (i : Instr) (f : BitVec 2) (d a b : Spec) (op : FV → FV → Bool × FFlags),
    compareWord i = some (f, d, a, b, op) → s.Free i →
    let p := s.th.fmtPfx
    let x := operandValue (overrideFmt p.fa (fnFormat f)) p.frac (s.th.read a)
    let y := operandValue (overrideFmt p.fb (fnFormat f)) p.frac (s.th.read b)
    (p.fd = 0 ∧ p.fa ≠ 0xA ∧ p.fb ≠ 0xA → ∃ t, exec i s = .next t ∧
      s.Computed t d (if (op x y).1 then 1 else 0) (s.th.ffl ||| (op x y).2) s.th.dz s.th.srnd) ∧
    (¬ (p.fd = 0 ∧ p.fa ≠ 0xA ∧ p.fb ≠ 0xA) → s.Traps i { code := .pfx })) ∧
  (∀ (s : State) (d a : Spec) (f : BitVec 2), s.Free (.fclass d a f) →
    let p := s.th.fmtPfx
    let code := overrideFmt p.fa (fnFormat f)
    (p.fd = 0 ∧ p.fa ≠ 0xA ∧ p.fb ≠ 0xA → ∃ t, exec (.fclass d a f) s = .next t ∧
      s.Plain t d (BitVec.ofNat 64 (classMask (sigBits code) (operandValue code p.frac (s.th.read a))))) ∧
    (¬ (p.fd = 0 ∧ p.fa ≠ 0xA ∧ p.fb ≠ 0xA) → s.Traps (.fclass d a f) { code := .pfx })) ∧
  (∀ (s : State) (i : Instr) (f : BitVec 2) (x : FFmt) (v : Word) (d : Spec), ffmt (fnFormat f) = some x →
    ((∃ a b, i = .fsgn d a b f ∧
      v = BitVec.ofNat 64 ((s.th.read a).toNat % 2 ^ (x.width - 1) + 2 ^ (x.width - 1) * ((s.th.read b).toNat / 2 ^ (x.width - 1) % 2))) ∨
     (∃ a, i = .fmv d a f ∧ v = BitVec.ofNat 64 ((s.th.read a).toNat % 2 ^ x.width))) → s.Free i →
    (movePfxOk f s.th.fmtPfx = true → ∃ t, exec i s = .next t ∧ s.Plain t d v) ∧
    (movePfxOk f s.th.fmtPfx = false → s.Traps i { code := .pfx }))

/-- R129, R130, R38, R77, R132: cvt converts one value, scaled by a pending pfx.scl where a side is narrow. A prefix of another format, or a
scale without a narrow side, raises PREFIX; a scale of 0xFF into a narrow format gives 0 and sets INV. -/
def Obligations.ConvertResults : Prop :=
  ∀ (s : State) (d a : Spec) (r : BitVec 3) (w : BitVec 2) (tf sf : BitVec 4), s.Free (.cvt d a r w tf sf) →
    let i : Instr := .cvt d a r w tf sf
    let tc := tf.toNat
    let sc := sf.toNat
    let iw := 8 * 2 ^ w.toNat
    let scaled := isNarrow sc || isNarrow tc
    let src := cvtSource s.th a tc sc iw
    let x := cvtTarget s.th tc sc iw (cvtMode s.th r) src
    let fits := cvtPfxOk s.th tc sc = true ∧ (s.th.sv = true → scaled = true)
    let ready := ∀ q, s.th.sclPfx = some q → q.imm = true ∨ s.th.busy q.sr = false
    let noScale := scaleCode s.th = some 0xFF ∧ isNarrow tc = true ∧ isNarrow sc = false
    (¬ fits → s.Traps i { code := .pfx }) ∧
    (fits → ready → noScale → ∃ t, exec i s = .next t ∧
      s.Computed t d 0 (s.th.ffl ||| (fINV ||| src.sigFlag)) s.th.dz s.th.srnd) ∧
    (fits → ready → ¬ noScale → ∃ t, exec i s = .next t ∧
      s.Computed t d x.1 (s.th.ffl ||| (x.2 ||| src.sigFlag)) s.th.dz
        (if cvtMode s.th r = 5 ∧ rounds tc src = true then lfsrNext s.th.srnd else s.th.srnd))

/-- R131: cvtb packs or unpacks one block of G elements in core scratch: the bytes at D, the advanced address in d, for a pack the
scale code in SR, the flags and the draws; every other byte keeps its value. Without a pending pfx.scl it raises PREFIX. -/
def Obligations.BlockConversion : Prop :=
  ∀ (s : State) (d a : Spec) (r : BitVec 3) (w : BitVec 2) (tf sf : BitVec 4), s.Free (.cvtb d a r w tf sf) →
    let i : Instr := .cvtb d a r w tf sf
    let t := s.th
    (t.sv = false → s.Traps i { code := .pfx }) ∧
    ∀ (q : SclPfx) (ft fs : FFmt), t.sclPfx = some q → ffmt tf.toNat = some ft → ffmt sf.toNat = some fs →
      let pack := isNarrow tf.toNat
      let g := if q.g = 1 then 32 else 128
      let A := t.read a
      let D := t.read d
      let srcN := if pack then g * (fs.width / 8) else g * fs.width / 8
      let dstN := if pack then g * ft.width / 8 else g * (ft.width / 8)
      let sp := Space.win t.core t.ctx
      let len := s.windowLen t.core t.ctx
      let wide := if pack then A else D
      let unit := (if pack then fs.width else ft.width) / 8
      let fits := cvtPfxOk t tf.toNat sf.toNat = true ∧ (pack = true → q.imm = false ∧ q.sr ≠ 40 ∧ q.sr ≠ 41)
      let here := (pack = false → q.imm = false → t.busy q.sr = false) ∧ wide.toNat % unit = 0 ∧ A.toNat + srcN ≤ len ∧
        D.toNat + dstN ≤ len ∧ rsBlocks (s.core t.core).sb sp A.toNat (A.toNat + srcN) false = false ∧
        rsBlocks (s.core t.core).sb sp D.toNat (D.toNat + dstN) true = false ∧ s.badAt sp A.toNat srcN = false ∧
        s.badPartial sp D.toNat dstN true = false
      let bs := s.readBytes sp A.toNat srcN
      let D' := D + BitVec.ofNat 64 dstN
      let c := if q.imm then q.sc else (t.read q.sr).toNat % 256
      let packed := encodeBlock ft (cvtMode t r) t.srnd ((unpackElems fs.width g (ofLe bs)).map fs.decode)
      let unpacked := unpackBlock fs ft (cvtMode t r) c t.srnd (unpackElems fs.width g (ofLe bs))
      let codes := if pack then packed.2.1 else unpacked.1
      let fl := if pack then packed.2.2.1 else unpacked.2.1
      let rnd := if pack then packed.2.2.2 else unpacked.2.2
      (¬ fits → s.Traps i { code := .pfx }) ∧
      (fits → (pack = false → q.imm = false → t.busy q.sr = false) → wide.toNat % unit ≠ 0 → s.Traps i { code := .align, addr := wide }) ∧
      (fits → here → ∃ u, exec i s = .next u ∧ s.Stored u sp D.toNat (leBytes dstN (packElems ft.width codes)) ∧
        { u with th := s.th, scratch := s.scratch, bad := s.bad } = s ∧
        (if pack then t.write q.sr (BitVec.ofNat 64 packed.1) else t).Done u.th d D' (t.ffl ||| fl) t.dz rnd)

/-- R115 to R120, R161, R79: what every control register reads, bit by bit where it has fields; csrr reads it, writes it to its destination
and changes nothing else, for every number of the register map that the thread may read. A privileged number raises PRIV for an
unprivileged thread, and a number that names no register ILLEGAL. -/
def Obligations.ControlRegisterReads : Prop :=
  (∀ (s : State) (t : Thread),
    (∀ j < 64, (s.csrRead t 0x000).getLsbD j =
      if j = 0 then t.dz else if j = 1 then (t.fv || t.sv) else if j = 3 then t.prv else if j = 4 then t.la
      else if 5 ≤ j ∧ j ≤ 7 then t.peng.getLsbD (j - 5) else false) ∧
    s.csrRead t 0x002 = t.ffl.setWidth 64 ∧ s.csrRead t 0x003 = t.frm.setWidth 64 ∧
    s.csrRead t 0x004 = t.srnd.setWidth 64 ∧ s.csrRead t 0x008 = t.lc.setWidth 64 ∧ s.csrRead t 0x009 = t.ls ∧
    s.csrRead t 0x00A = t.le ∧ (∀ j : Fin 4, s.csrRead t (0x010 + j.val) = t.k[j].setWidth 64) ∧
    (∀ j < 64, (s.csrRead t 0x020).getLsbD j = if j = 0 then s.tlf else if j = 1 then s.pwx else false) ∧
    (t.ctx < 64 → t.core < 2 ^ 16 → t.slot < 16 → fieldOf (s.csrRead t 0x030) 0 4 = t.slot ∧ fieldOf (s.csrRead t 0x030) 4 12 = 0 ∧
      fieldOf (s.csrRead t 0x030) 16 16 = t.core ∧ fieldOf (s.csrRead t 0x030) 32 6 = t.ctx ∧ fieldOf (s.csrRead t 0x030) 38 26 = 0) ∧
    (s.csrRead t 0x031).toNat = s.clk % 2 ^ 64 ∧
    (∀ j < 64, (s.csrRead t 0x801).getLsbD j =
      if j < 24 then t.fmt.getLsbD j else if j = 24 then t.fv else if j < 49 then t.scl.getLsbD (j - 25)
      else if j = 49 then t.sv else false) ∧
    (let x := s.split t.ctx (coreDie t.core)
     x.scr < 64 → x.cch < 64 → x.grant < 64 →
     fieldOf (s.csrRead t 0x802) 0 6 = x.scr ∧ fieldOf (s.csrRead t 0x802) 6 2 = 0 ∧ fieldOf (s.csrRead t 0x802) 8 6 = x.cch ∧
     fieldOf (s.csrRead t 0x802) 14 2 = 0 ∧ fieldOf (s.csrRead t 0x802) 16 6 = x.grant ∧ fieldOf (s.csrRead t 0x802) 22 9 = 0 ∧
     (s.csrRead t 0x802).getLsbD 31 = x.rej ∧ fieldOf (s.csrRead t 0x802) 32 32 = 0) ∧
    (∀ j < 8, s.csrRead t (0x040 + j) = (s.engine 0 t.core).geom.getD j 0) ∧
    (∀ j < 4, s.csrRead t (0x050 + j) = (s.engine 1 (t.core / 16)).geom.getD j 0 ∧
      s.csrRead t (0x054 + j) = (s.engine 2 (t.core / 16)).geom.getD j 0 ∧
      s.csrRead t (0x058 + j) = (s.engine 3 (t.core / 16)).geom.getD j 0 ∧
      s.csrRead t (0x05C + j) = (s.engine 4 (t.core / 384)).geom.getD j 0)) ∧
  (∀ (s : State) (d : Spec) (n : BitVec 12), s.Free (.csrr d n) →
    (0x800 ≤ n.toNat ∧ s.th.prv = false → s.Traps (.csrr d n) { code := .priv }) ∧
    (¬ (0x800 ≤ n.toNat ∧ s.th.prv = false) → ∃ t, exec (.csrr d n) s = .next t ∧ s.Plain t d (s.csrRead s.th n.toNat))) ∧
  (∀ (s : State) (d : Spec) (n : BitVec 12), s.th.mode = .ready → csrNumberOk n = false →
    s.Traps (.csrr d n) { code := .illegal })

/-- R79, R115 to R120: csrw, csrs and csrc write a control register of the thread in its writable bits, or a geometry register of an
engine that the thread has pinned; the old value is the result. Without the pin, or without the privilege, they raise PRIV. -/
def Obligations.ControlRegisterWrites : Prop :=
  (∀ (s : State) (t : Thread) (n m : Nat) (v : Word), geomOf n = none → n ≠ 0x801 → n ≠ 0x802 → geomOf m = none →
    s.csrRead (t.csrWrite n v) n = csrKeeps n (s.csrRead t n) v ∧ (m ≠ n → s.csrRead (t.csrWrite n v) m = s.csrRead t m)) ∧
  (∀ (s : State) (i : Instr) (n : Nat) (a : Spec) (f : Word → Word → Word), csrForm i = some (n, a, f) → s.Free i →
    let old := s.csrRead s.th n
    let v := f old (s.th.read a)
    (0x800 ≤ n ∧ s.th.prv = false → s.Traps i { code := .priv }) ∧
    (n < 0x800 → geomOf n = none → ∃ t, exec i s = .next t ∧ { t with th := s.th } = s ∧
      let b := s.th.csrWrite n v
      b.Done t.th 0 old b.ffl b.dz b.srnd) ∧
    (∀ e j, geomOf n = some (e, j) →
      let x := s.engine e (engineUnit e s.th.core)
      (x.holder ≠ some s.th.uid → s.Traps i { code := .priv }) ∧
      (x.holder = some s.th.uid → ∃ t, exec i s = .next t ∧
        { t with th := s.th, engines := s.engines } = s ∧ s.th.Done t.th 0 old s.th.ffl s.th.dz s.th.srnd ∧
        t.engine e (engineUnit e s.th.core) = { x with geom := x.geom.set j (v &&& geomMask e j) } ∧
        ∀ k u, (k, u) ≠ (e, engineUnit e s.th.core) → t.engine k u = s.engine k u)) ∧
    (n = 0x801 → s.th.prv = true → ∃ t, exec i s = .next t ∧ { t with th := s.th } = s ∧
      ∃ u, s.th.Done u 0 old s.th.ffl s.th.dz s.th.srnd ∧ t.th = u.setPxs v))

/-- R161, R162: a write of SCSPLIT that asks for more than GRANT sets REJ and changes nothing else of the split; one that fits, with
no copy or command of the context outstanding, takes the new sizes, and deep scratch from the smaller size up is discarded. A write
that waits takes effect once the copies of its context have ended. -/
def Obligations.DeepSplit : Prop :=
  (∀ (s : State) (i : Instr) (a : Spec) (f : Word → Word → Word) (c : Ctx), csrForm i = some (0x802, a, f) → s.Free i → s.th.prv = true →
     s.ctx? s.th.ctx = some c → s.th.core < 1536 →
     let die := coreDie s.th.core
     let cur := s.split s.th.ctx die
     let old := s.csrRead s.th 0x802
     let v := f old (s.th.read a)
     (cur.grant < fieldOf v 0 6 + fieldOf v 8 6 → ∃ t, exec i s = .next t ∧ { t with th := s.th, ctxs := s.ctxs } = s ∧
       s.th.Done t.th 0 old s.th.ffl s.th.dz s.th.srnd ∧ t.split s.th.ctx die = { cur with rej := true } ∧
       ∀ x k, (x, k) ≠ (s.th.ctx, die) → t.split x k = s.split x k) ∧
     (fieldOf v 0 6 + fieldOf v 8 6 ≤ cur.grant → s.splitHeld s.th.ctx die = false → s.deepCopies s.th.ctx s.nextId = false →
       ∃ t, exec i s = .next t ∧ t.th.y0 = old ∧
         t.split s.th.ctx die = { cur with scr := fieldOf v 0 6, cch := fieldOf v 8 6, rej := false } ∧
         (∀ x, s.stores = [] → die * 2 ^ 31 + Nat.min cur.scr (fieldOf v 0 6) * 2 ^ 26 ≤ x → x < (die + 1) * 2 ^ 31 → t.readByte (.deep s.th.ctx) x = 0) ∧
         (∀ x, s.stores = [] → t.readByte .mem x = s.readByte .mem x)) ∧
     (fieldOf v 0 6 + fieldOf v 8 6 ≤ cur.grant → s.splitHeld s.th.ctx die = false → s.deepCopies s.th.ctx s.nextId = true →
       ∃ t, exec i s = .next t ∧ t.th.mode = .waiting ∧ t.th.wait = .split die v old s.nextId ∧ t.th.pc = s.th.pc)) ∧
  (∀ (s : State) (u die n : Nat) (v old : Word) (t : Thread) (x : Split), s.getT u = some t → t.mode ≠ .empty →
     t.wait = .split die v old n → s.deepCopies t.ctx n = false → (s.split t.ctx die).request v = some x → die < 4 →
     (∃ c, s.ctx? t.ctx = some c) →
     ∃ s1, exec (.splitChangeComplete u) s = .next s1 ∧ s1.split t.ctx die = x ∧
       ∃ t1, s1.getT u = some t1 ∧ t1.y0 = old ∧ t1.mode = .ready ∧ t1.wait = .none)

/-- R157, R158, R172: a load of core scratch delivers its bytes at once, little-endian, sign- or zero-extended; ldp fills d and the
register after it. A misaligned address raises ALIGN, and one outside the window PROT. -/
def Obligations.ScratchLoads : Prop :=
  ∀ (s : State) (i : Instr) (d : Spec) (d2 : Option Spec) (b : Spec) (c : BitVec 2) (size : Nat) (sgn : Bool) (o : Int),
    loadWord i = some (d, d2, b, c, size, sgn, o) → c = 1 → s.Free i →
    let ea := addrOf s.th b o size
    let sp := Space.win s.th.core s.th.ctx
    let bs := s.readBytes sp ea.toNat size
    let v := extended sgn (bs.take 8)
    (ea.toNat % size ≠ 0 → s.Traps i { code := .align, addr := ea }) ∧
    (ea.toNat % size = 0 → s.windowLen s.th.core s.th.ctx < ea.toNat + size → s.Traps i { code := .prot, addr := ea }) ∧
    (ea.toNat % size = 0 → ea.toNat + size ≤ s.windowLen s.th.core s.th.ctx →
      rsBlocks (s.core s.th.core).sb sp ea.toNat (ea.toNat + size) false = false → s.badAt sp ea.toNat size = false →
      ∃ t, exec i s = .next t ∧ { t with th := s.th } = s ∧
        (wroteSecond s.th d2 (BitVec.ofNat 64 (ofLe (bs.drop 8)))).Done t.th d v s.th.ffl s.th.dz s.th.srnd)

/-- R110, R162, R172, R173, R190: a load of memory or deep scratch leaves, names its value in y0, and the thread goes on; while a change of
split on its die is under way it stalls. A step of the module's own lands the bytes that the core sees then, in the destination of ld and
ldn and both of ldp, in y0 or y1 where they still name the value, and nowhere else; a load to g0 lands in y0 and y1 alone. -/
def Obligations.LoadsInFlight : Prop :=
  (∀ (s s1 : State) (i : Instr) (d : Spec) (d2 : Option Spec) (b : Spec) (c : BitVec 2) (size : Nat) (sgn : Bool) (o : Int) (sp : Space) (a : Nat),
    loadWord i = some (d, d2, b, c, size, sgn, o) → c ≠ 1 → s.Free i →
    let ea := addrOf s.th b o size
    ea.toNat % size = 0 → (s.splitWaits s.th c ea.toNat size = true → exec i s = .next s.stallAt) ∧
    (s.splitWaits s.th c ea.toNat size = false → s.resolve s.th c ea size .rd = .ok (.at sp a, s1) →
      s1.mustWait s.th sp a size false = false → s1.badAt sp a size = false → s1.misses s.th.core < Config.missLimit →
      ∃ t, exec i s = .next t ∧ s.LeftFor t d d2 { space := sp, addr := a, size := size, sgn := sgn })) ∧
  (∀ (s : State) (u i : Nat) (t : Thread) (f : InFlight) (r : LoadReq), s.getT u = some t → t.mode ≠ .empty →
    t.inflight = f :: t.inflight.tail → (∀ g ∈ t.inflight.tail, g.id ≠ f.id) → f.id = i → f.late = .load r →
    let v := (loadValue r (s.viewBytes t.core r.space r.addr r.size)).1
    let v2 := (loadValue r (s.viewBytes t.core r.space r.addr r.size)).2
    ∃ s1 t1, exec (.loadDataReturn u i) s = .next s1 ∧ s1.getT u = some t1 ∧
      (∀ x, f.dst = some x → f.dst2 ≠ some x → 0 < x.toNat → x.toNat < 40 → t1.read x = v) ∧
      (∀ x, f.dst2 = some x → 0 < x.toNat → x.toNat < 40 → t1.read x = v2) ∧
      (∀ y : Spec, y.toNat < 40 → f.dst ≠ some y → f.dst2 ≠ some y → t1.read y = t.read y) ∧ t1.inflight = t.inflight.tail ∧ t1.pc = t.pc ∧
      (t.y0Id = some i → t1.y0 = v ∧ t1.y0Id = none) ∧ (t.y0Id ≠ some i → t1.y0 = t.y0) ∧
      (t.y1Id = some i → t1.y1 = v ∧ t1.y1Id = none) ∧ (t.y1Id ≠ some i → t1.y1 = t.y1) ∧ s.SameBytes s1)

/-- R157, R162, R172, R178, R180, R190, R206: a store to core scratch changes its bytes at once; any other is posted, changes no byte of a
home, and is seen at once by the threads of its core. Either way the word completes with 0. While a change of split on its die is under
way it stalls. The home performs a posted store: its bytes, in the bits of its mask, and no other byte; the store is gone. A poisoned line
of memory keeps its bytes, as does a peer that refuses the write, and the thread has the error still to raise. -/
def Obligations.Stores : Prop :=
  (∀ (s s1 : State) (i : Instr) (b : Spec) (c : BitVec 2) (size : Nat) (o : Int) (val : Thread → Nat) (loc : Loc),
     storeWord i = some (b, c, size, o, val) → s.Free i → (∀ v b c o, i = .stp v b c o → s.th.busy (v + 1) = false) →
     let ea := addrOf s.th b o size
     (ea.toNat % size ≠ 0 → s.Traps i { code := .align, addr := ea }) ∧
     (ea.toNat % size = 0 → s.splitWaits s.th c ea.toNat size = true → exec i s = .next s.stallAt) ∧
     (ea.toNat % size = 0 → s.splitWaits s.th c ea.toNat size = false → s.resolve s.th c ea size .wr = .ok (loc, s1) →
       storeCheck s1 ea loc size true = none →
       let sp := loc.place.1
       let a := loc.place.2
       let bs := leBytes size (val s.th)
       ∃ t, exec i s = .next t ∧
         (sp = .win s.th.core s.th.ctx → s.Stored t sp a bs ∧ t.stores = s.stores ∧ s.th.Done t.th 0 0 s.th.ffl s.th.dz s.th.srnd) ∧
         (sp ≠ .win s.th.core s.th.ctx → s.SameBytes t ∧
           (∃ x, t.stores = s.stores ++ [x] ∧ x.id = s.nextId ∧ x.uid = s.th.uid ∧ x.ctx = s.th.ctx ∧ x.core = s.th.core ∧ x.va = ea ∧
             x.space = sp ∧ x.addr = a ∧ x.bytes = full bs ∧ x.port = (if sp = .mem then s.peerPort a else none) ∧ x.rel = false) ∧
           t.viewBytes s.th.core sp a size = bs ∧ (s1.landOverlap s.th sp a size).Done t.th 0 0 s.th.ffl s.th.dz s.th.srnd) ∧
         { t with th := s.th, cores := s.cores, walkers := s.walkers, scratch := s.scratch, bad := s.bad, stores := s.stores,
                  nextId := s.nextId } = s)) ∧
  (∀ (s : State) (x : Store), s.stores.find? (fun y => y.id == x.id) = some x → storeClosure [x.id] s.stores = [x] →
     let poisoned := x.space = .mem ∧ s.badAt .mem x.addr x.bytes.length = true
     let refused := x.toPeer = true ∧ Config.linkAnswer s.clk x.addr = 1
     ∃ t, exec (.storeAck x.id) s = .next t ∧ t.stores = s.stores.filter (fun y => y.id != x.id) ∧
       (¬ poisoned → ¬ refused →
         t.readBytes x.space x.addr x.bytes.length = (x.bytes.zip (s.readBytes x.space x.addr x.bytes.length)).map (fun p => maskByte p.2 p.1.1 p.1.2) ∧
         s.SameBut t x.space x.addr x.bytes.length) ∧
       (poisoned ∨ refused → s.SameBytes t ∧ ∀ u, s.Holds x.uid u → ∃ w tr, t.getT x.uid = some w ∧ w.deferred = u.deferred ++ [tr] ∧
         tr.code = (if x.space = .mem ∧ s.badAt .mem x.addr x.bytes.length = true then .eccUe else .prot) ∧ tr.addr = x.va ∧ tr.defer = true))

/-- R162, R174, R175: ldbit and stbit name 1 to 64 bits at a cursor, that the word may advance before or after. ldbit of core scratch
delivers the bits, and of deep scratch leaves for them; stbit changes only them, in core scratch at once, in deep scratch by a posted store
that its core sees. A bit that the store has not raises BITRANGE; while a change of split on their die is under way they stall. -/
def Obligations.BitAccesses : Prop :=
  (∀ (s : State) (d k : Spec) (x : BitVec 1) (w : BitVec 6) (v : BitVec 2) (b : Nat) (k1 : BitVec 40), s.Free (.ldbit d k 1 x w v) →
    let n := w.toNat + 1
    bitPlace (s.th.cursor k) n v = some (b, k1) →
    let sp := Space.win s.th.core s.th.ctx
    let lo := b / 8
    let len := (b + n - 1) / 8 + 1 - lo
    let f := ofLe (s.readBytes sp lo len) / 2 ^ (b % 8) % 2 ^ n
    lo + len ≤ s.windowLen s.th.core s.th.ctx → rsBlocks (s.core s.th.core).sb sp lo (lo + len) false = false → s.badAt sp lo len = false →
    ∃ t, exec (.ldbit d k 1 x w v) s = .next t ∧ { t with th := s.th } = s ∧
      (s.th.setCursor k k1).Done t.th d (if x = 1 then (BitVec.ofNat n f).signExtend 64 else BitVec.ofNat 64 f) s.th.ffl s.th.dz s.th.srnd) ∧
  (∀ (s : State) (p k : Spec) (w : BitVec 6) (v : BitVec 2) (b : Nat) (k1 : BitVec 40), s.Free (.stbit p k 1 w v) →
    let n := w.toNat + 1
    bitPlace (s.th.cursor k) n v = some (b, k1) →
    let sp := Space.win s.th.core s.th.ctx
    let lo := b / 8
    let len := (b + n - 1) / 8 + 1 - lo
    lo + len ≤ s.windowLen s.th.core s.th.ctx → rsBlocks (s.core s.th.core).sb sp lo (lo + len) true = false →
    s.badPartial sp lo len (decide (b % 8 = 0 ∧ n % 8 = 0)) = false →
    ∃ t, exec (.stbit p k 1 w v) s = .next t ∧ s.SameBut t sp lo len ∧
      (∀ j < 8 * len, (ofLe (t.readBytes sp lo len)).testBit j =
        if b % 8 ≤ j ∧ j < b % 8 + n then (s.th.read p).toNat.testBit (j - b % 8) else (ofLe (s.readBytes sp lo len)).testBit j) ∧
      (s.th.setCursor k k1).Done t.th 0 0 s.th.ffl s.th.dz s.th.srnd) ∧
  (∀ (s : State) (d k : Spec) (x : BitVec 1) (w : BitVec 6) (v : BitVec 2) (b : Nat) (k1 : BitVec 40), s.Free (.ldbit d k 2 x w v) →
    let n := w.toNat + 1
    bitPlace (s.th.cursor k) n v = some (b, k1) →
    let sp := Space.deep s.th.ctx
    let lo := b / 8
    let len := (b + n - 1) / 8 + 1 - lo
    (s.splitWaits s.th 2 lo len = true → exec (.ldbit d k 2 x w v) s = .next s.stallAt) ∧
    (s.splitWaits s.th 2 lo len = false → s.bitSpace s.th 2 lo len = some sp → s.mustWait s.th sp lo len false = false →
      s.badAt sp lo len = false → s.misses s.th.core < Config.missLimit →
      ∃ t, exec (.ldbit d k 2 x w v) s = .next t ∧ ({ s with th := s.th.setCursor k k1 } : State).LeftFor t d none
        { space := sp, addr := lo, size := len, sgn := x == 1, bits := some (b % 8, n) })) ∧
  (∀ (s : State) (p k : Spec) (w : BitVec 6) (v : BitVec 2) (b : Nat) (k1 : BitVec 40), s.Free (.stbit p k 2 w v) →
    let n := w.toNat + 1
    bitPlace (s.th.cursor k) n v = some (b, k1) →
    let sp := Space.deep s.th.ctx
    let lo := b / 8
    let len := (b + n - 1) / 8 + 1 - lo
    (s.splitWaits s.th 2 lo len = true → exec (.stbit p k 2 w v) s = .next s.stallAt) ∧
    (s.splitWaits s.th 2 lo len = false → s.bitSpace s.th 2 lo len = some sp →
      storeCheck s (BitVec.ofNat 64 lo) (.at sp lo) len (decide (b % 8 = 0 ∧ n % 8 = 0)) = none →
      ∃ t x, exec (.stbit p k 2 w v) s = .next t ∧ s.SameBytes t ∧ t.stores = s.stores ++ [x] ∧ x.uid = s.th.uid ∧ x.core = s.th.core ∧
        x.space = sp ∧ x.addr = lo ∧ x.bytes.length = len ∧
        (∀ j < 8 * len, (ofLe (t.viewBytes s.th.core sp lo len)).testBit j =
          if b % 8 ≤ j ∧ j < b % 8 + n then (s.th.read p).toNat.testBit (j - b % 8) else (ofLe (s.viewBytes s.th.core sp lo len)).testBit j) ∧
        ((s.landOverlap s.th sp lo len).setCursor k k1).Done t.th 0 0 s.th.ffl s.th.dz s.th.srnd)) ∧
  (∀ (s : State) (i : Instr) (k : Spec) (c : BitVec 2) (w : BitVec 6) (v : BitVec 2),
    ((∃ d x, i = .ldbit d k c x w v) ∨ (∃ p, i = .stbit p k c w v)) → s.Free i →
    (∀ b k1, bitPlace (s.th.cursor k) (w.toNat + 1) v = some (b, k1) → s.splitWaits s.th c (b / 8) ((b + w.toNat) / 8 + 1 - b / 8) = false) →
    (∀ b k1, bitPlace (s.th.cursor k) (w.toNat + 1) v = some (b, k1) → s.bitSpace s.th c (b / 8) ((b + w.toNat) / 8 + 1 - b / 8) = none) →
    s.Traps i { code := .bitrange, addr := (s.th.cursor k).setWidth 64 })

/-- R176, R188, R193, R200, R201: ld.acq reads when it issues, and at scope core or wider covers from then on the stores that its core has
acknowledged; st.rel and fence land the thread's loads first, at scope core have its posted stores acknowledged there, and at scope region
or wider perform them; st.rel then posts its own store, or writes core scratch at once. pref does nothing else than complete (log entry
38). -/
def Obligations.AcquireReleaseFence : Prop :=
  (∀ (s s1 : State) (d b : Spec) (c z : BitVec 2) (p : BitVec 3) (o : BitVec 6) (sp : Space) (a : Nat), s.Free (.ldAcq d b c z p o) →
    let size := 2 ^ z.toNat
    let ea := addrOf s.th b o.toInt size
    ea.toNat % size = 0 → s.splitWaits s.th c ea.toNat size = false → s.resolve s.th c ea size .rd = .ok (.at sp a, s1) →
    s1.mustWait s.th sp a size false = false → s1.badAt sp a size = false → (sp = .win s.th.core s.th.ctx ∨ s1.misses s.th.core < Config.missLimit) →
    ∃ t, exec (.ldAcq d b c z p o) s = .next t ∧ s.SameBytes t ∧ t.stores = s.stores ∧
      (∀ x ∈ s.stores, x.core = s.th.core → x.uid ≠ s.th.uid → (x.overlaps sp a size = true ∨ (p ≠ 0 ∧ x.rel = true)) → x.id ∈ t.th.seen) ∧
      ({ s1.landOverlap s.th sp a size with seen := t.th.seen } : Thread).Done t.th d (extended true (s.viewBytes s.th.core sp a size))
        s.th.ffl s.th.dz s.th.srnd) ∧
  (∀ (s s1 : State) (v b : Spec) (c z : BitVec 2) (p : BitVec 3) (o : BitVec 6) (sp : Space) (a : Nat), s.Free (.stRel v b c z p o) →
    let size := 2 ^ z.toNat
    let ea := addrOf s.th b o.toInt size
    let bs := leBytes size (s.th.read v).toNat
    let landed (t : State) : Prop := t.th.y0 = 0 ∧ ∀ f ∈ t.th.inflight, f.late = .status
    ea.toNat % size = 0 → s.splitWaits s.th c ea.toNat size = false → s.resolve s.th c ea size .wr = .ok (.at sp a, s1) →
    storeCheck s1 ea (.at sp a) size true = none → s.bad = [] → s.th.deferred = [] → (∀ x ∈ s.stores, x.toPeer = false) →
    (sp ≠ .win s.th.core s.th.ctx → ∃ t x l, exec (.stRel v b c z p o) s = .next t ∧ x.space = sp ∧ x.addr = a ∧ x.bytes = full bs ∧
      x.uid = s.th.uid ∧ x.core = s.th.core ∧ t.stores = l ++ [x] ∧ landed t ∧
      (2 ≤ p.toNat → ∀ y ∈ l, ¬ (y.uid = s.th.uid ∧ y.core = s.th.core)) ∧
      (p = 1 → s.SameBytes t ∧ s.Acked { t with stores := l } s.th) ∧ (p = 0 → s.SameBytes t ∧ l = s.stores)) ∧
    (sp = .win s.th.core s.th.ctx → ∃ t, exec (.stRel v b c z p o) s = .next t ∧ t.readBytes sp a size = bs ∧ landed t ∧
      (2 ≤ p.toNat → ∀ y ∈ t.stores, ¬ (y.uid = s.th.uid ∧ y.core = s.th.core)) ∧
      (p = 1 → s.SameBut t sp a size ∧ s.Acked t s.th) ∧ (p = 0 → s.SameBut t sp a size ∧ t.stores = s.stores))) ∧
  (∀ (s : State) (p : BitVec 3), s.Free (.fence p) → s.bad = [] → s.th.deferred = [] → (∀ x ∈ s.stores, x.toPeer = false) →
    ∃ t, exec (.fence p) s = .next t ∧ (∀ f ∈ t.th.inflight, f.late = .status) ∧
      (2 ≤ p.toNat → ∀ y ∈ t.stores, ¬ (y.uid = s.th.uid ∧ y.core = s.th.core)) ∧
      (p = 1 → s.SameBytes t ∧ s.Acked t s.th) ∧ (p = 0 → t.stores = s.stores ∧ s.SameBytes t) ∧
      t.fences = s.fences + (if p = 0 then 0 else 1) ∧
      ({ s.landAll s.th with seen := t.th.seen } : Thread).Done t.th 0 0 s.th.ffl s.th.dz s.th.srnd) ∧
  (∀ (s : State) (h b : Spec) (c : BitVec 2) (o : BitVec 9), s.Free (.pref h b c o) →
    ∃ t, exec (.pref h b c o) s = .next t ∧ s.Plain t 0 0)

/-- R203, R204: an atomic whose home is the thread's own core is performed there, and its word completes with the old value, sign-extended.
Another goes to its home: its thread enters that core's arrival queue, or where it has an engine pinned, or the home grants its context no
slot, stays and waits for the answer to a message. The home's step performs one that came by message or with its thread. A misaligned
address raises ALIGN. -/
def Obligations.Atomics : Prop :=
  (∀ (s s1 : State) (i : Instr) (op : BitVec 4) (d a b : Spec) (w : BitVec 1) (o : BitVec 2) (c : BitVec 1) (pa : Nat),
    amoWord i = some (op, d, a, b, w, o, c) → s.Free i →
    let n := if w = 1 then 8 else 4
    let ea := s.th.read a
    (ea.toNat % n ≠ 0 → s.Traps i { code := .align, addr := ea }) ∧
    (ea.toNat % n = 0 → s.resolve s.th 0 ea n .amo = .ok (.at .mem pa, s1) → s1.homeCore s.th.core pa = some s.th.core → s.th.peng = 7 →
      s.Calm → ∃ t, exec i s = .next t ∧ ({ s with th := { s.th with seen := t.th.seen } } : State).Atomic t s.th.uid op.toNat n pa (s.th.read b) (s.th.read d) d) ∧
    (ea.toNat % n = 0 → s.resolve s.th 0 ea n .amo = .ok (.at .mem pa, s1) → s.Calm →
      let home := s1.homeCore s.th.core pa
      let req : AmoReq := { op := op, wide := w == 1, ord := o, sys := c == 1, d := d, va := ea, pa := pa, v := s.th.read b, c := s.th.read d }
      (¬ (home = some s.th.core ∧ s.th.peng = 7) →
        (s.th.peng ≠ 7 ∨ home = some s.th.core ∨ home = none ∨ ∃ h, home = some h ∧ s.grantsAny h s.th.ctx = false) →
        ∃ t, exec i s = .next t ∧ t.th.mode = .waiting ∧ t.th.wait = .amo req ∧ t.th.place = s.th.place ∧ t.th.pc = s.th.pc ∧ s.SameBytes t) ∧
      (∀ h, home = some h → h ≠ s.th.core → s.th.peng = 7 → s.grantsAny h s.th.ctx = true → s.hasCmds s.th = false →
        s.sendHeld s.th h = false → (s.core s.th.core).queue = [] →
        ∃ t, exec i s = .next t ∧ t.th.uid = s.th.uid ∧ t.th.core = h ∧ t.th.place = .queue ∧ t.th.mode = .waiting ∧ t.th.wait = .amo req ∧
          t.th.pc = s.th.pc ∧ s.th.Kept t.th ∧ (t.core h).queue = (s.core h).queue ++ [s.th.uid] ∧ s.SameBytes t))) ∧
  (∀ (s : State) (u : Nat) (t : Thread) (r : AmoReq), s.getT u = some t → t.wait = .amo r → t.place = .slot → t.mode = .waiting → s.Calm →
    r.op.toNat ≤ 9 →
    ∃ s1, exec (.amoAtHome u) s = .next s1 ∧ s.Atomic s1 u r.op.toNat r.size r.pa r.v r.c r.d)

/-- R202: publ of a record that no command waits for flips it, and so does the step that ends its wait; a record out of range raises
PROT, and one that is not valid XLATE. -/
def Obligations.Publications : Prop :=
  (∀ (s : State) (d a : Spec) (p : BitVec 3) (c : Ctx), s.Free (.publ d a p) → s.ctx? s.th.ctx = some c →
    let x := (s.th.read a).toNat
    (4096 ≤ x ∨ c.pubCnt ≤ x → s.Traps (.publ d a p) { code := .prot }) ∧
    (x < 4096 → x < c.pubCnt → s.bad = [] → s.pubRec c x = none → s.Traps (.publ d a p) { code := .xlate, retry := true }) ∧
    (∀ r, x < 4096 → x < c.pubCnt → s.pubRec c x = some r →
      s.publWaits x ((s.engines.flatMap (fun e => e.fifo.filter (fun k => k.ctx == s.th.ctx))).map Cmd.id) = false → s.Calm →
      ∃ t, exec (.publ d a p) s = .next t ∧ s.Flipped t s.th.uid c x r d)) ∧
  (∀ (s : State) (u : Nat) (t : Thread) (d : Spec) (x p : Nat) (cmds : List Nat) (c : Ctx) (r : PubRec), s.getT u = some t →
    t.wait = .publ d x p cmds → t.mode = .waiting → s.publWaits x cmds = false → s.ctx? t.ctx = some c → s.pubRec c x = some r → s.Calm →
    ∃ s1, exec (.publComplete u) s = .next s1 ∧ s.Flipped s1 u c x r d)

/-- R178, R193, R205, R363: a load, a load-acquire or an atomic behind a link goes out as a request, and its thread waits for the completion;
with 768 requests outstanding at the host it stalls. A host takes the atomics add, swap and cas only, and another raises PROT with nothing
sent. The completion's data complete the word: a load of 1 to 8 bytes extended, an ldp in both its registers, an atomic with the old value
sign-extended; that of an acquire covers from then on the stores that its core has acknowledged. An Unsupported Request or Completer
Abort raises PROT, and poisoned data ECC_UE. -/
def Obligations.LinkAccesses : Prop :=
  (∀ (s s1 : State) (i : Instr) (d : Spec) (d2 : Option Spec) (b : Spec) (c : BitVec 2) (size : Nat) (sgn : Bool) (o : Int) (pa : Nat),
    loadWord i = some (d, d2, b, c, size, sgn, o) → s.Free i → s.stores = [] →
    let ea := addrOf s.th b o size
    ea.toNat % size = 0 → s.splitWaits s.th c ea.toNat size = false → s.resolve s.th c ea size .rd = .ok (.link pa, s1) →
    s1.misses s.th.core < Config.missLimit →
    (s1.linkFull pa = true → exec i s = .next s1.stallAt) ∧
    (s1.linkFull pa = false →
      ∃ t, exec i s = .next t ∧ t.th.mode = .waiting ∧ t.th.wait = .link s.nextId ∧ t.th.pc = s.th.pc ∧ s.SameBytes t ∧
      ∃ q, t.links = s.links ++ [q] ∧ q.id = s.nextId ∧ q.uid = s.th.uid ∧ q.ctx = s.th.ctx ∧ q.va = ea ∧
        q.op = .load d d2 { space := .mem, addr := pa, size := size, sgn := sgn } false)) ∧
  (∀ (s s1 : State) (d b : Spec) (c z : BitVec 2) (p : BitVec 3) (o : BitVec 6) (pa : Nat), s.Free (.ldAcq d b c z p o) → s.stores = [] →
    let size := 2 ^ z.toNat
    let ea := addrOf s.th b o.toInt size
    ea.toNat % size = 0 → s.splitWaits s.th c ea.toNat size = false → s.resolve s.th c ea size .rd = .ok (.link pa, s1) →
    s1.misses s.th.core < Config.missLimit → s1.linkFull pa = false →
    ∃ t, exec (.ldAcq d b c z p o) s = .next t ∧ t.th.mode = .waiting ∧ t.th.wait = .link s.nextId ∧ t.th.pc = s.th.pc ∧ s.SameBytes t ∧
      ∃ q, t.links = s.links ++ [q] ∧ q.id = s.nextId ∧ q.uid = s.th.uid ∧ q.ctx = s.th.ctx ∧ q.va = ea ∧
        q.op = .load d none { space := .mem, addr := pa, size := size, sgn := true } (decide (p ≠ 0))) ∧
  (∀ (s s1 : State) (i : Instr) (op : BitVec 4) (d a b : Spec) (w : BitVec 1) (o : BitVec 2) (c : BitVec 1) (pa : Nat),
    amoWord i = some (op, d, a, b, w, o, c) → s.Free i → s.Calm →
    let n := if w = 1 then 8 else 4
    let ea := s.th.read a
    ea.toNat % n = 0 → s.resolve s.th 0 ea n .amo = .ok (.link pa, s1) →
    (target pa = .host ∧ op ≠ 0 ∧ op ≠ 8 ∧ op ≠ 9 →
      exec i s = .next (s1.takeFault s.th { code := .prot, addr := ea } (encode i))) ∧
    (¬ (target pa = .host ∧ op ≠ 0 ∧ op ≠ 8 ∧ op ≠ 9) → s1.linkFull pa = true → exec i s = .next s1.stallAt) ∧
    (¬ (target pa = .host ∧ op ≠ 0 ∧ op ≠ 8 ∧ op ≠ 9) → s1.linkFull pa = false →
      ∃ t, exec i s = .next t ∧ t.th.mode = .waiting ∧ t.th.wait = .link s.nextId ∧ t.th.pc = s.th.pc ∧ s.SameBytes t ∧
        ∃ q, t.links = s.links ++ [q] ∧ q.id = s.nextId ∧ q.uid = s.th.uid ∧ q.va = ea ∧
          q.op = .amo { op := op, wide := w == 1, ord := o, sys := c == 1, d := d, va := ea, pa := pa, v := s.th.read b, c := s.th.read d })) ∧
  (∀ (s : State) (i : Nat) (st : BitVec 2) (data : BitVec 128) (q : LinkReq) (t : Thread), s.links.find? (fun r => r.id == i) = some q →
    s.getT q.uid = some t → t.wait = .link q.id → t.mode = .waiting →
    let s0 : State := { s with links := s.links.filter (fun r => r.id != i) }
    ∃ s1, exec (.linkCompletion i st data) s = .next s1 ∧ (∀ r ∈ s1.links, r.id ≠ i) ∧
      (∀ d d2 r acq, st = 0 → q.op = .load d d2 r acq → r.bits = none →
        (d2 = none ∧ (r.size = 1 ∨ r.size = 2 ∨ r.size = 4 ∨ r.size = 8) ∨ (d2 = some (d + 1) ∧ r.size = 16)) → ∃ w, s1.getT q.uid = some w ∧
        (wroteSecond ({ t with seen := w.seen } : Thread) d2 (BitVec.ofNat 64 (data.toNat / 2 ^ 64))).Done w d
          (extended r.sgn (leBytes (Nat.min r.size 8) data.toNat)) t.ffl t.dz t.srnd ∧
        (acq = false → w.seen = t.seen) ∧
        (acq = true → ∀ x ∈ s.stores, x.core = t.core → x.rel = true → x.uid ≠ t.uid → x.id ∈ w.seen)) ∧
      (∀ r, st = 0 → q.op = .amo r → ∃ w, s1.getT q.uid = some w ∧
        ({ t with seen := w.seen } : Thread).Done w r.d ((BitVec.ofNat (8 * r.size) data.toNat).signExtend 64) t.ffl t.dz t.srnd ∧
        (r.ord.getLsbD 0 = true → ∀ x ∈ s.stores, x.core = t.core → x.rel = true → x.uid ≠ t.uid → x.id ∈ w.seen)) ∧
      (st = 1 → s1 = (s0.takeFault t { code := .prot, addr := q.va } t.word).unstall) ∧
      (2 ≤ st.toNat → ∃ row, s1 = (s0.takeFault t { code := .eccUe, addr := q.va, detail := row } t.word).unstall))

/-- R183, R185, R186: a completed walk fills the core's translation cache, which then answers with the walk's address, and the cache of the
walker of its stripe; a failed one leaves nothing. Both caches hold the newest entry first and give up the oldest (log entry 7). -/
def Obligations.WalkFillsCache : Prop :=
  ∀ (s : State) (core ctx : Nat) (va : Word) (acc : BitVec 2) (k : Acc),
    k = (if acc = 0 then .rd else if acc = 1 then .wr else if acc = 2 then .amo else .ex) →
    (∀ e, s.walk ctx va k true = .error e → exec (.walkDone core ctx va acc) s = .next s.unstall) ∧
    (∀ e, s.walk ctx va k true = .ok e → ∃ t, exec (.walkDone core ctx va acc) s = .next t ∧
      t.translate core ctx va k true = .ok (e.paOf va.toNat, t) ∧ (∀ c, c ≠ core → t.core c = s.core c) ∧ s.SameBytes t ∧
      (t.core core).tlb.length ≤ Config.tlbSize ∧ (t.walker (core / 16)).head? = some e ∧
      (t.walker (core / 16)).length ≤ Config.walkerSize)

/-- R137, R139: branches, jumps and calls. A branch that is not taken goes on in sequence; call writes g31 and callr its destination; a
misaligned register target raises ALIGN. -/
def Obligations.ControlTransfers : Prop :=
  (∀ (s : State) (i : Instr) (a b : Spec) (d : BitVec 10) (c : Word → Word → Prop), branchWord i = some (a, b, d, c) → s.Free i →
    (c (s.th.read a) (s.th.read b) → ∃ t, exec i s = .next t ∧ s.OnlyThread t ∧ s.th.Kept t.th ∧
      s.th.Went t.th 0 (s.th.pc + BitVec.ofInt 64 (d.toInt * 4)) true) ∧
    (¬ c (s.th.read a) (s.th.read b) → ∃ t, exec i s = .next t ∧ s.Plain t 0 0)) ∧
  (∀ (s : State) (d : BitVec 26), s.Free (.jmp d) → ∃ t, exec (.jmp d) s = .next t ∧ s.OnlyThread t ∧ s.th.Kept t.th ∧
    s.th.Went t.th 0 (s.th.pc + BitVec.ofInt 64 (d.toInt * 4)) true) ∧
  (∀ (s : State) (d : BitVec 26), s.Free (.call d) → ∃ t, exec (.call d) s = .next t ∧ s.OnlyThread t ∧ s.th.Wrote t.th 31 (s.th.pc + 4) ∧
    s.th.Went t.th (s.th.pc + 4) (s.th.pc + BitVec.ofInt 64 (d.toInt * 4)) false) ∧
  (∀ (s : State) (i : Instr) (a : Spec), (i = .jr a ∨ i = .ret a) → s.Free i →
    ((s.th.read a).toNat % 4 ≠ 0 → s.Traps i { code := .align, addr := s.th.read a }) ∧
    ((s.th.read a).toNat % 4 = 0 → ∃ t, exec i s = .next t ∧ s.OnlyThread t ∧ s.th.Kept t.th ∧ s.th.Went t.th 0 (s.th.read a) true)) ∧
  (∀ (s : State) (d a : Spec), s.Free (.callr d a) →
    ((s.th.read a).toNat % 4 ≠ 0 → s.Traps (.callr d a) { code := .align, addr := s.th.read a }) ∧
    ((s.th.read a).toNat % 4 = 0 → ∃ t, exec (.callr d a) s = .next t ∧ s.OnlyThread t ∧ s.th.Wrote t.th d (s.th.pc + 4) ∧
      s.th.Went t.th (s.th.pc + 4) (s.th.read a) false))

/-- R69, R138: loop words set LS, LE, LC and TS.LA; a count of 0 skips the body, a length of 0 raises ZERO_LOOP. -/
def Obligations.HardwareLoops : Prop :=
  ∀ (s : State) (i : Instr) (n : BitVec 32) (l : BitVec 13),
    ((∃ c : BitVec 12, i = .loopi c l ∧ n = c.setWidth 32) ∨ (∃ a, i = .loop a l ∧ n = (s.th.read a).setWidth 32)) → s.Free i →
    (l = 0 → s.Traps i { code := .zeroLoop }) ∧
    (l ≠ 0 → ∃ t, exec i s = .next t ∧ { t with th := s.th } = s ∧ s.th.Kept t.th ∧ s.th.Shifted t.th 0 ∧
      t.th.ls = maskLoopAddr (s.th.pc + 4) ∧ t.th.le = maskLoopAddr (s.th.pc + 4 + BitVec.ofNat 64 (4 * l.toNat)) ∧ t.th.lc = n ∧
      t.th.la = decide (n ≠ 0) ∧ t.th.pc = (if n = 0 then s.th.pc + 4 + BitVec.ofNat 64 (4 * l.toNat) else s.th.pc + 4) ∧
      t.th.ffl = s.th.ffl ∧ t.th.dz = s.th.dz ∧ t.th.srnd = s.th.srnd ∧
      ({ t.th with ls := s.th.ls, le := s.th.le } : Thread).rest = s.th.rest)

/-- R75, R76, R78, R79: a prefix word makes its payload pending and changes neither y0 nor y1; a second one of its kind, a bad payload,
or one as the last word of a loop body raises PREFIX. -/
def Obligations.PrefixWords : Prop :=
  (∀ (s : State) (a b d : BitVec 4) (r : BitVec 3) (f : BitVec 6), s.th.mode = .ready →
    let ok := a.toNat < 14 ∧ b.toNat < 14 ∧ d.toNat < 14 ∧ r.toNat ≠ 6 ∧ s.th.fv = false ∧ ¬ (s.th.la = true ∧ s.th.pc + 4 = s.th.le)
    (¬ ok → s.Traps (.pfxFmt a b d r f) { code := .pfx }) ∧
    (ok → ∃ t, exec (.pfxFmt a b d r f) s = .next t ∧ { t with th := s.th } = s ∧
      { t.th with pc := s.th.pc, fv := s.th.fv, fmt := s.th.fmt, retry := s.th.retry } = s.th ∧ t.th.pc = s.th.pc + 4 ∧
      t.th.fmtPfx = { fa := a.toNat, fb := b.toNat, fd := d.toNat, rnd := r.toNat, frac := f.toNat } ∧ t.th.pxs.getLsbD 24 = true)) ∧
  (∀ (s : State) (g : BitVec 2) (r : BitVec 6) (i : BitVec 1) (c : BitVec 8), s.th.mode = .ready →
    let ok := (g = 1 ∨ g = 2) ∧ r.toNat < 42 ∧ (i = 1 → r = 0) ∧ (i = 0 → c = 0) ∧ s.th.sv = false ∧
      ¬ (s.th.la = true ∧ s.th.pc + 4 = s.th.le)
    (¬ ok → s.Traps (.pfxScl g r i c) { code := .pfx }) ∧
    (ok → ∃ t, exec (.pfxScl g r i c) s = .next t ∧ { t with th := s.th } = s ∧
      { t.th with pc := s.th.pc, sv := s.th.sv, scl := s.th.scl, retry := s.th.retry } = s.th ∧ t.th.pc = s.th.pc + 4 ∧
      t.th.sclPfx = some { g := g.toNat, sr := r, imm := i == 1, sc := c.toNat } ∧ t.th.pxs.getLsbD 49 = true))

/-- R58, R74, R77, R81: a word of an unassigned major decodes to no instruction and raises ILLEGAL; so does one of an assigned major that
encodes no instruction, but in the prefixes' major, where it raises PREFIX. A word that takes such a fault changes nothing but what the
fault changes. So does an instruction with a reserved field or specifier: it raises ILLEGAL. An instruction that may not take a pending
prefix raises PREFIX too. A scalar instruction has no meaning but as the word of a thread that is ready: without one exec stops with the
fault noReadyThread (log entry 14). -/
def Obligations.WordsThatAreNoInstruction : Prop :=
  (∀ (w : Word32), (majorAssigned (w.extractLsb' 26 6) = false → decode w = .illegalWord w) ∧
    (majorAssigned (w.extractLsb' 26 6) = true → (∀ v, decode w ≠ .illegalWord v) ∧ ∀ v, decode w = .unassignedFnWord v → v = w ∧
      ∀ i : Instr, i.isScalar = true → i.wf = true → encode i = w → (∀ x, i ≠ .illegalWord x) → (∀ x, i ≠ .unassignedFnWord x) → False)) ∧
  (∀ (s : State) (w : Word32), s.th.mode = .ready → s.Traps (.illegalWord w) { code := .illegal }) ∧
  (∀ (s : State) (w : Word32), s.th.mode = .ready →
    s.Traps (.unassignedFnWord w) { code := if w.toNat / 2 ^ 26 = 0x30 then .pfx else .illegal }) ∧
  (∀ (s : State) (i : Instr), s.th.mode = .ready → i.isScalar = true → i.wf = false → (∀ a b d r f, i ≠ .pfxFmt a b d r f) →
    (∀ g r c k, i ≠ .pfxScl g r c k) → (∀ w, i ≠ .illegalWord w) → (∀ w, i ≠ .unassignedFnWord w) → s.Traps i { code := .illegal }) ∧
  (∀ (p : BitVec 3) (d a b : Spec) (x : BitVec 9), Instr.wf (.fence 7) = false ∧ Instr.wf (.publ d a 7) = false ∧
    (∀ c, Instr.wf (.ldn d b c 3 x) = false) ∧ (d.toNat % 2 = 1 → ∀ c, Instr.wf (.ldp d b c x) = false ∧ Instr.wf (.stp d b c x) = false) ∧
    (5 ≤ p.toNat → Instr.wf (.pin p) = false ∧ Instr.wf (.unpin p) = false) ∧
    (3 ≤ d.toNat → ∀ c, Instr.wf (.pref d b c x) = false) ∧
    (4 ≤ b.toNat → ∀ c y w v, Instr.wf (.ldbit d b c y w v) = false ∧ Instr.wf (.stbit d b c w v) = false) ∧
    (∀ r w s, Instr.wf (.cvt d a r w 0xA s) = false ∧ Instr.wf (.cvt d a 6 w 1 s) = false)) ∧
  (∀ (s : State) (i : Instr), s.th.mode = .ready → i.isScalar = true → i.wf = true → (∀ a b d r f, i ≠ .pfxFmt a b d r f) →
    (∀ g r c k, i ≠ .pfxScl g r c k) →
    ((s.th.fv = true ∧ takesFmt i = false) ∨ (s.th.sv = true ∧ takesScl i = false)) → s.Traps i { code := .pfx }) ∧
  (∀ (s : State) (i : Instr), i.isScalar = true → s.th.mode ≠ .ready → exec i s = .fault .noReadyThread)

/-- R153, R154, R345, R347 to R350: trap, and a word that is no instruction, enter the handler that the thread's bind record names. The fault
record and the context of 512 bytes are written at their places; g1 and g2 name them, the other registers are 0, the thread is privileged at
the handler's entry (whose two low bits read as 0, log entry 48), and FFL, FRM, SRND, TS.DZ and TS.PENG stand. The saved program counter is
that of the word after a trap, and of the word itself where it is no instruction. Without a handler the record goes to the context's fault
log, with FATAL, the thread ends, and its launch is to be aborted; a retryable fault leaves a record with RETRY, and the thread is
descheduled with its context saved, once more where the fault meets its retry again, then without a record. -/
def Obligations.TrapEntersHandler : Prop :=
  (∀ (s s1 s2 : State) (i : Instr) (code n : Nat) (saved : Word) (b : Bind) (c : Ctx) (pr0 pc0 pr pc : Nat),
    ((∃ m : BitVec 6, i = .trap m ∧ s.Free i ∧ code = 0x10 ∧ n = m.toNat ∧ saved = s.th.pc + 4) ∨
     (∃ w, i = .illegalWord w ∧ s.th.mode = .ready ∧ code = 1 ∧ n = 0 ∧ saved = s.th.pc) ∨
     (∃ w, i = .unassignedFnWord w ∧ s.th.mode = .ready ∧ code = (if w.toNat / 2 ^ 26 = 0x30 then 2 else 1) ∧ n = 0 ∧ saved = s.th.pc)) →
    s.hasCmds s.th = false → s.th.inflight = [] → s.stores = [] →
    s.grant s.th.core s.th.ctx s.th.slot = some b → s.ctx? s.th.ctx = some c → b.handler ≠ 0 → c.hsave ≠ 0 → s.th.inHandler = false →
    let save := c.hsave + BitVec.ofNat 64 (512 * (16 * s.th.core + s.th.slot))
    let rec' := c.hsave + BitVec.ofNat 64 (0xC00000 + 64 * (16 * s.th.core + s.th.slot))
    rec'.toNat % 4096 + 64 ≤ 4096 → save.toNat % 4096 + 512 ≤ 4096 →
    s.translate s.th.core s.th.ctx rec' .wr true = .ok (pr0, s1) → s1.reachPa rec' .wr pr0 = .ok pr →
    s1.translate s.th.core s.th.ctx save .wr true = .ok (pc0, s2) → s2.reachPa save .wr pc0 = .ok pc →
    s.bad = [] → (pr + 64 ≤ pc ∨ pc + 512 ≤ pr) →
    ∃ t, exec i s = .next t ∧
      t.th.g.toList = 0 :: save :: rec' :: List.replicate 29 0 ∧ t.th.q.toList = List.replicate 8 0 ∧ t.th.k.toList = List.replicate 4 0 ∧
      t.th.y0 = 0 ∧ t.th.y1 = 0 ∧ t.th.pc = b.handler &&& ~~~3#64 ∧ t.th.prv = true ∧ t.th.inHandler = true ∧ t.th.savea = save ∧ t.th.mode = .ready ∧
      t.th.fv = false ∧ t.th.sv = false ∧ t.th.lc = 0 ∧ t.th.ls = 0 ∧ t.th.le = 0 ∧ t.th.la = false ∧
      t.th.ffl = s.th.ffl ∧ t.th.frm = s.th.frm ∧ t.th.srnd = s.th.srnd ∧ t.th.dz = s.th.dz ∧ t.th.peng = s.th.peng ∧
      t.readBytes .mem pc 512 = wordBytes (s.th.image saved) ∧
      t.readNat .mem pr 1 = code ∧ t.readNat .mem (pr + 1) 1 = 1 ∧ t.readNat .mem (pr + 3) 1 = n ∧
      t.readNat .mem (pr + 8) 8 = saved.toNat ∧ t.readNat .mem (pr + 24) 4 = (encode i).toNat ∧
      (∀ x, ¬ (pr ≤ x ∧ x < pr + 64) → ¬ (pc ≤ x ∧ x < pc + 512) → t.readByte .mem x = s.readByte .mem x)) ∧
  (∀ (s : State) (i : Instr) (code : Nat) (saved : Word) (b : Bind) (c : Ctx),
    ((∃ m : BitVec 6, i = .trap m ∧ s.Free i ∧ code = 0x10 ∧ saved = s.th.pc + 4) ∨
     (∃ w, i = .illegalWord w ∧ s.th.mode = .ready ∧ code = 1 ∧ saved = s.th.pc) ∨
     (∃ w, i = .unassignedFnWord w ∧ s.th.mode = .ready ∧ code = (if w.toNat / 2 ^ 26 = 0x30 then 2 else 1) ∧ saved = s.th.pc)) →
    s.hasCmds s.th = false → s.grant s.th.core s.th.ctx s.th.slot = some b → s.ctx? s.th.ctx = some c → s.LogFresh c →
    (b.handler = 0 ∨ c.hsave = 0 ∨ s.th.inHandler = true) → s.th.ticket.getLsbD 63 = false → s.th.escape = none → s.th.peng = 7 →
    (s.threads.map Thread.uid).Nodup →
    ∃ t, exec i s = .next t ∧ s.Appended t c code 1 1 saved 0 ∧ s.th.origin ∈ t.dying ∧ ∀ x ∈ t.threads, x.uid ≠ s.th.uid) ∧
  (∀ (s : State) (tr : Trap) (word : Word32) (c : Ctx) (k : Nat),
    s.hasCmds s.th = false → s.handled s.th = false → s.th.inHandler = false → s.th.mode = .ready → s.th.wait = .none → s.th.inflight = [] →
    tr.retry = true → tr.code ≠ .trapCode → tr.code ≠ .eccUe → tr.clk = none → tr.logged = false → s.ctx? s.th.ctx = some c → s.LogFresh c →
    s.storeSlot s.th.ctx none = some k → (s.core s.th.core).queue = [] → (s.threads.map Thread.uid).Nodup →
    let kept (r : Retry) : Prop := { r.trap with clk := none } = tr ∧ r.trap.clk = some s.clk ∧ r.word = word ∧ r.first = s.reg.ticks ∧
      r.last = s.reg.ticks
    let saved (t : State) (u : Thread) : Prop := t.getT s.th.uid = some u ∧ u.mode = .descheduled ∧ u.place = .saved ∧ u.saveAt = some k ∧
      u.pc = s.th.pc
    (s.th.retry = none → ∃ u r, saved (s.takeFault s.th tr word) u ∧ u.retry = some r ∧ kept r ∧
      s.Appended (s.takeFault s.th tr word) c tr.code.num 1 (2 + (if tr.remote then 4 else 0) + (if tr.defer then 8 else 0)) s.th.pc tr.addr) ∧
    (∀ r, s.th.retry = some r → r.trap.code = tr.code → r.trap.addr = tr.addr → ∃ u, saved (s.takeFault s.th tr word) u ∧ u.retry = some r ∧
      (s.takeFault s.th tr word).readBytes .mem c.saveBase 0x10000 = s.readBytes .mem c.saveBase 0x10000))

/-- R71, R154, R136: eret without privilege raises PRIV and outside a handler ILLEGAL; else it reloads the context at SAVEA. -/
def Obligations.ReturnFromHandler : Prop :=
  ∀ (s s1 : State) (pa0 pa : Nat), s.Free .eret →
    (s.th.prv = false → s.Traps .eret { code := .priv }) ∧
    (s.th.prv = true → s.th.inHandler = false → s.Traps .eret { code := .illegal }) ∧
    (s.th.prv = true → s.th.inHandler = true → s.th.savea.toNat % 4096 + 512 ≤ 4096 → s.stores = [] →
      s.translate s.th.core s.th.ctx s.th.savea .rd true = .ok (pa0, s1) → s1.reachPa s.th.savea .rd pa0 = .ok pa → s.bad = [] →
      s.th.inflight = [] →
      let back : Word := BitVec.ofNat 64 (s.readNat .mem (pa + 368) 8)
      (back.toNat % 4 ≠ 0 → s.Traps .eret { code := .align, addr := back }) ∧
      (back.toNat % 4 = 0 → ∃ t, exec .eret s = .next t ∧ s.SameBytes t ∧ s.Reloads pa t.th ∧
        t.th.prv = s.th.bornPrv ∧ t.th.peng = s.th.peng ∧ t.th.inHandler = false ∧ t.th.mode = .ready ∧ t.th.wait = .none))

/-- R113, R117, R136: a context image restores every register that it holds; PRV and PENG are not taken from it. -/
def Obligations.ContextImageRestores : Prop :=
  ∀ (t u : Thread) (pc : Word), t.g[0] = 0 → maskLoopAddr t.ls = t.ls → maskLoopAddr t.le = t.le →
    let r := u.restore (fun i => (t.image pc).getD i 0)
    (t.image pc).length = 64 ∧ r.g = t.g ∧ r.q = t.q ∧ r.y0 = t.y0 ∧ r.y1 = t.y1 ∧ r.k = t.k ∧ r.pc = pc ∧ r.dz = t.dz ∧ r.la = t.la ∧
    r.fv = t.fv ∧ r.fmt = t.fmt ∧ r.sv = t.sv ∧ r.scl = t.scl ∧ r.ffl = t.ffl ∧ r.frm = t.frm ∧ r.srnd = t.srnd ∧ r.lc = t.lc ∧
    r.ls = t.ls ∧ r.le = t.le ∧ r.join = t.join ∧ r.parent = t.parent ∧ r.ticket = t.ticket ∧ r.wres = t.wres ∧
    r.wresValid = t.wresValid ∧ r.deadline = t.deadline ∧ r.savea = t.savea ∧ r.wakePending = t.wakePending ∧ r.prv = u.prv ∧ r.peng = u.peng

/-- R140: spawn. Without a free slot it answers all ones and does nothing else; with one it creates a ready thread there, with its
argument, its join counter counted up at its home, and its parent named. Misaligned addresses raise ALIGN. -/
def Obligations.SpawnCreatesThread : Prop :=
  ∀ (s : State) (d a b : Spec), s.Free (.spawn d a b) →
    let j := s.th.read d
    let e := s.th.read a
    let v := s.th.read b
    let noQueue := (s.core s.th.core).queue = []
    (e.toNat % 4 ≠ 0 → s.Traps (.spawn d a b) { code := .align, addr := e }) ∧
    (e.toNat % 4 = 0 → j.toNat % 8 ≠ 0 → s.Traps (.spawn d a b) { code := .align, addr := j }) ∧
    (e.toNat % 4 = 0 → j = 0 → noQueue → s.freeSlot s.th.core s.th.ctx = none →
      ∃ t, exec (.spawn d a b) s = .next t ∧ s.Plain t d (BitVec.allOnes 64)) ∧
    (∀ slot pa s1, e.toNat % 4 = 0 → j.toNat % 8 = 0 → noQueue → s.freeSlot s.th.core s.th.ctx = some slot → s.Calm →
      (j ≠ 0 → s.joinPlace s.th j = .ok (pa, s1)) →
      ∃ t k, exec (.spawn d a b) s = .next t ∧ k ∈ t.others ∧ k.uid = s.nextId ∧ k.ctx = s.th.ctx ∧ k.core = s.th.core ∧ k.slot = slot ∧
        k.place = .slot ∧ k.mode = .ready ∧ k.pc = e ∧ k.g.toList = 0 :: v :: j :: List.replicate 29 0 ∧ k.join = j ∧ k.prv = s.th.prv ∧
        k.parent = BitVec.ofNat 64 (2 ^ 63 + s.th.slot * 2 ^ 16 + s.th.core) ∧ k.y0 = 0 ∧ k.y1 = 0 ∧
        t.others.length = s.others.length + 1 ∧ t.nextId = s.nextId + 1 ∧
        (j ≠ 0 → t.readNat .mem pa 8 = (s.readNat .mem pa 8 + 1) % 2 ^ 64 ∧ s.SameBut t .mem pa 8) ∧ (j = 0 → s.SameBytes t) ∧
        ({ s.th with seen := [] } : Thread).Done t.th d (BitVec.ofNat 64 slot) s.th.ffl s.th.dz s.th.srnd)

/-- R141, R150, R151, R333: exit, with no copies in flight, takes the thread out of the module; a join counter that reaches 0 sends a wake
to the parent, the value goes to the caller of a callx callee, an engine that the thread holds passes to its oldest waiter, and the exit
code of a thread of a bind record counts toward its launch's completion. -/
def Obligations.ExitEndsThread : Prop :=
  ∀ (s : State) (a : Spec), s.Free (.exit a) → s.hasCmds s.th = false → s.th.escape = none → s.exits = [] → s.Calm →
    let x := s.th.read a
    let gone (t : State) : Prop := ∀ y ∈ t.threads, y.uid ≠ s.th.uid
    let plain := s.th.ticket.getLsbD 63 = false ∧ s.th.byBind = none ∧ s.reg.launches = []
    (plain → s.th.peng = 7 → s.th.join = 0 → ∃ t, exec (.exit a) s = .next t ∧ gone t ∧ s.SameBytes t ∧ t.wakes = s.wakes ∧
      t.answers = s.answers) ∧
    (∀ pa s1 c, plain → s.th.peng = 7 → s.th.join ≠ 0 → s.joinPlace s.th s.th.join = .ok (pa, s1) → s.th.parent.getLsbD 63 = true →
      (∀ y ∈ (s.core s.th.core).names, y.1 ≠ s.th.parent.toNat % 2 ^ 16) → s.catalogue (s.th.parent.toNat % 2 ^ 16) = some c →
      ∃ t, exec (.exit a) s = .next t ∧ gone t ∧
        t.readNat .mem pa 8 = (s.readNat .mem pa 8 + (2 ^ 64 - 1)) % 2 ^ 64 ∧ s.SameBut t .mem pa 8 ∧
        t.wakes = s.wakes ++ (if s.readNat .mem pa 8 = 1 then
          [{ id := s.nextId, ctx := s.th.ctx, core := c, slot := s.th.parent.toNat / 2 ^ 16 % 16 }] else [])) ∧
    (s.th.ticket.getLsbD 63 = true → s.reg.launches = [] → s.th.peng = 7 → ∃ t, exec (.exit a) s = .next t ∧ gone t ∧ s.SameBytes t ∧
      t.wakes = s.wakes ∧ t.answers = s.answers ++ [{ uid := s.th.ticket.toNat % 2 ^ 63, value := x, fault := none }]) ∧
    (let e := s.th.peng.toNat
     let u := s.heldUnit e s.th
     let g := s.engine e u
     plain → e < 5 → s.th.join = 0 → (s.core s.th.core).queue = [] →
      (g.waiters = [] → ∃ t, exec (.exit a) s = .next t ∧ gone t ∧ s.SameBytes t ∧ (t.engine e u).holder = none ∧
        (t.engine e u).geom = g.geom.map (fun _ => 0)) ∧
      (∀ w ws k, g.waiters = w :: ws → w ≠ s.th.uid → s.Holds w k → ∃ t k1, exec (.exit a) s = .next t ∧ gone t ∧ t.getT w = some k1 ∧
        (t.engine e u).holder = some w ∧ (t.engine e u).geom = g.geom.map (fun _ => 0) ∧
        ({ k with peng := s.th.peng } : Thread).Done k1 0 0 k.ffl k.dz k.srnd)) ∧
    (∀ rank l, s.th.ticket.getLsbD 63 = false → s.th.byBind = some rank → s.th.peng = 7 → s.th.join = 0 → s.reg.launches = [l] →
      l.ticket = s.th.origin → 2 ≤ l.left →
      let code := x.toNat % 2 ^ 32
      ∃ t, exec (.exit a) s = .next t ∧ gone t ∧ s.SameBytes t ∧ t.exits = [] ∧
        t.reg.launches = [{ l with left := l.left - 1, nnz := l.nnz + (if code = 0 then 0 else 1), xmax := Nat.max l.xmax code }])

/-- R142 to R144: yield skips for the other ready threads of its core, for 15 clk that are not gated; sleep takes a pending wake or sleeps
until a wake or its deadline; wake sends one to the named thread; the wake ends a sleep with 1, also in the clk of its deadline, the
deadline with 0, and a thread that is not asleep keeps the wake. -/
def Obligations.YieldSleepWake : Prop :=
  (∀ (s : State), s.Free .yield →
    let others := s.threads.filter (fun u => u.core == s.th.core && u.place == .slot && u.mode == .ready && u.uid != s.th.uid)
    ∃ t, exec .yield s = .next t ∧ { t with th := s.th } = s ∧
      ({ s.th with skip := others.map Thread.slot, skipTo := s.clk + (if s.tlf then 30 else 15) } : Thread).Done t.th 0 0 s.th.ffl s.th.dz
        s.th.srnd) ∧
  (∀ (s : State) (a : Spec), s.Free (.sleep a) →
    (s.th.wakePending = true → ∃ t, exec (.sleep a) s = .next t ∧ { t with th := s.th } = s ∧
      ({ s.th with wakePending := false, deadline := 0, sleepTo := 0 } : Thread).Done t.th 0 1 s.th.ffl s.th.dz s.th.srnd) ∧
    (s.th.wakePending = false → s.th.deadline = 0 → ∃ t, exec (.sleep a) s = .next t ∧ t.th.mode = .sleeping ∧ t.th.pc = s.th.pc ∧
      t.th.deadline = (if s.th.read a = 0 then 0 else BitVec.ofNat 64 s.clk + s.th.read a) ∧
      t.th.sleepTo = (if s.th.read a = 0 then 0 else s.clk + (s.th.read a).toNat) ∧ { t with th := s.th } = s)) ∧
  (∀ (s : State) (a : Spec) (c : Nat), s.Free (.wake a) → s.Calm → (∀ x ∈ (s.core s.th.core).names, x.1 ≠ (s.th.read a).toNat % 2 ^ 16) →
    (s.catalogue ((s.th.read a).toNat % 2 ^ 16) = none → s.Traps (.wake a) { code := .nameUnmapped, retry := true }) ∧
    (s.catalogue ((s.th.read a).toNat % 2 ^ 16) = some c → ∃ t, exec (.wake a) s = .next t ∧
      t.wakes = s.wakes ++ [{ id := s.nextId, ctx := s.th.ctx, core := c, slot := (s.th.read a).toNat / 2 ^ 16 % 16 }] ∧
      s.SameBytes t ∧ ({ s.th with seen := [] } : Thread).Done t.th 0 0 s.th.ffl s.th.dz s.th.srnd)) ∧
  (∀ (s : State) (m : WakeMsg) (t : Thread), s.wakes.find? (fun x => x.id == m.id) = some m → s.Holds t.uid t →
    s.threads.find? (fun x => x.ctx == m.ctx && x.core == m.core && x.slot == m.slot && x.place == .slot) = some t →
    ∃ s1, exec (.wakeArrival m.id) s = .next s1 ∧ s1.wakes = s.wakes.filter (fun x => x.id != m.id) ∧
      (t.mode = .sleeping → (t.sleepTo = 0 ∨ s.clk ≤ t.sleepTo) → ∃ w, s1.getT t.uid = some w ∧
        ({ t with deadline := 0, sleepTo := 0 } : Thread).Done w 0 1 t.ffl t.dz t.srnd) ∧
      (t.mode = .sleeping → t.sleepTo ≠ 0 → t.sleepTo < s.clk → ∃ w, s1.getT t.uid = some w ∧
        ({ t with deadline := 0, sleepTo := 0, wakePending := true } : Thread).Done w 0 0 t.ffl t.dz t.srnd) ∧
      (t.mode ≠ .sleeping → ∃ w, s1.getT t.uid = some w ∧ w.wakePending = true ∧ w.pc = t.pc ∧ w.y0 = t.y0)) ∧
  (∀ (s : State) (u : Nat) (t : Thread), s.Holds u t → t.mode = .sleeping → t.sleepTo ≠ 0 → t.sleepTo < s.clk →
    ∃ s1 w, exec (.sleepDeadline u) s = .next s1 ∧ s1.getT u = some w ∧
      ({ t with deadline := 0, sleepTo := 0 } : Thread).Done w 0 0 t.ffl t.dz t.srnd)

/-- R145, R188, R193: semp takes a count or waits in order; semv has the thread's posted stores acknowledged at its core, then completes
the oldest waiter, which covers those stores from then on, or counts up; without the grant both raise PRIV. -/
def Obligations.Semaphores : Prop :=
  ∀ (s : State) (n : BitVec 4), s.th.inflight = [] →
    let x := (s.core s.th.core).sems.toList.getD n.toNat Sem.initial
    let after (t : State) : Sem := (t.core s.th.core).sems.toList.getD n.toNat Sem.initial
    (x.grant ≠ some s.th.ctx → (s.Free (.semp n) → s.Traps (.semp n) { code := .priv }) ∧ (s.Free (.semv n) → s.Traps (.semv n) { code := .priv })) ∧
    (x.grant = some s.th.ctx → s.Free (.semp n) → 0 < x.count → ∃ t, exec (.semp n) s = .next t ∧ after t = { x with count := x.count - 1 } ∧
      { t with th := s.th, cores := s.cores } = s ∧ ({ s.th with seen := t.th.seen } : Thread).Done t.th 0 0 s.th.ffl s.th.dz s.th.srnd) ∧
    (x.grant = some s.th.ctx → s.Free (.semp n) → x.count = 0 → ∃ t, exec (.semp n) s = .next t ∧
      after t = { x with waiters := x.waiters ++ [s.th.uid] } ∧ t.th.mode = .waiting ∧ t.th.wait = .sem n.toNat ∧ t.th.pc = s.th.pc) ∧
    (x.grant = some s.th.ctx → s.Free (.semv n) → x.waiters = [] → ∃ t, exec (.semv n) s = .next t ∧
      after t = { x with count := if x.count < 2 ^ 32 - 1 then x.count + 1 else x.count } ∧
      { t with th := s.th, cores := s.cores, stores := s.stores } = s ∧ s.Acked t s.th ∧
      s.th.Done t.th 0 0 s.th.ffl s.th.dz s.th.srnd) ∧
    (∀ w ws u, x.grant = some s.th.ctx → s.Free (.semv n) → x.waiters = w :: ws → w ≠ s.th.uid → s.Holds w u →
      ∃ t k, exec (.semv n) s = .next t ∧ after t = { x with waiters := ws } ∧ t.getT w = some k ∧ s.Acked t s.th ∧
        { t with th := s.th, others := s.others, cores := s.cores, stores := s.stores } = s ∧
        ({ u with seen := k.seen } : Thread).Done k 0 0 u.ffl u.dz u.srnd ∧
        (u.core = s.th.core → ∀ y ∈ s.stores, y.uid = s.th.uid → y.core = s.th.core → y.id ∈ k.seen) ∧
        s.th.Done t.th 0 0 s.th.ffl s.th.dz s.th.srnd)

/-- R146, R147: barr and bcast arrive at the bus, id and context that their control word names. A count above 256 raises ILLEGAL, and a
65th instance on one bus stalls. An arrival waits until the count of the first is reached; the last one releases every participant: barr
answers how often the key was released before, with bit 63 set for a count that was not the first one's, bcast the value of the first
root to arrive, or 0; the instance is gone and the key counts one release more. A participant whose release came while it was
descheduled completes with the value that was kept for it. -/
def Obligations.BusBarriers : Prop :=
  ∀ (s : State) (i : Instr) (dst : Option Spec) (cw v : Word),
    ((∃ a, i = .barr a ∧ dst = none ∧ cw = s.th.read a ∧ v = 0) ∨ (∃ d a, i = .bcast d a ∧ dst = some d ∧ cw = s.th.read d ∧ v = s.th.read a)) →
    s.Free i →
    (s.th.wresValid = true → ∃ t, exec i s = .next t ∧ { t with th := s.th } = s ∧
      ({ s.th with wresValid := false, wres := 0 } : Thread).Done t.th (dst.getD 0) s.th.wres s.th.ffl s.th.dz s.th.srnd) ∧
    (s.th.wresValid = false →
    let cnt := fieldOf cw 16 9
    let bid := fieldOf cw 0 4
    let bus := busOf s.th.core (cw.getLsbD 4)
    let key (b : BusInst) : Bool := b.bus == bus && b.bid == bid && b.ctx == s.th.ctx
    let base : Thread := { s.th with seen := [] }
    let before := s.busCount bus bid s.th.ctx
    let rest := s.buses.filter (fun b => !key b)
    let mine (n : Nat) : Arrival :=
      { uid := s.th.uid, coord := coreCoord s.th.core, slot := s.th.slot, root := dst.isSome && cw.getLsbD 8, value := v, mismatch := cnt + 1 != n }
    let waits (t : State) : Prop := t.th.mode = .waiting ∧ t.th.wait = .bus dst (fieldOf cw 0 5) ∧ t.th.pc = s.th.pc ∧ s.th.Kept t.th ∧
      s.SameBytes t ∧ t.busCount bus bid s.th.ctx = before
    let answer (as : List Arrival) (d : Option Spec) (odd : Bool) : Word :=
      if d.isSome then (match as.find? Arrival.root with | some a => a.value | none => 0)
      else BitVec.ofNat 64 (before + (if odd then 2 ^ 63 else 0))
    (255 < cnt → s.Traps i { code := .illegal }) ∧
    (cnt ≤ 255 → s.buses.find? key = none → 64 ≤ (s.buses.filter (fun b => b.bus == bus)).length → exec i s = .next s.stallAt) ∧
    (cnt ≤ 255 → s.Calm → s.buses.find? key = none → (s.buses.filter (fun b => b.bus == bus)).length < 64 →
      (0 < cnt → ∃ t, exec i s = .next t ∧ waits t ∧
        t.buses = s.buses ++ [{ bus := bus, bid := bid, ctx := s.th.ctx, count := cnt + 1, arrivals := [mine (cnt + 1)] }]) ∧
      (cnt = 0 → ∃ t, exec i s = .next t ∧ t.buses = s.buses ∧ t.busCount bus bid s.th.ctx = (before + 1) % 2 ^ 32 ∧ s.SameBytes t ∧
        base.Done t.th (dst.getD 0) (answer [mine 1] dst false) s.th.ffl s.th.dz s.th.srnd)) ∧
    (∀ b, cnt ≤ 255 → s.Calm → s.buses.find? key = some b →
      (b.arrivals.length + 1 < b.count → ∃ t, exec i s = .next t ∧ waits t ∧
        t.buses = rest ++ [{ b with arrivals := b.arrivals ++ [mine b.count] }]) ∧
      (b.count ≤ b.arrivals.length + 1 → (b.arrivals.map Arrival.uid).Nodup →
        (∀ a ∈ b.arrivals, a.uid ≠ s.th.uid ∧ ∃ u d k, s.Holds a.uid u ∧ u.wait = .bus d k ∧ u.mode = .waiting) →
        ∃ t, exec i s = .next t ∧ t.buses = rest ∧ t.busCount bus bid s.th.ctx = (before + 1) % 2 ^ 32 ∧ s.SameBytes t ∧
          base.Done t.th (dst.getD 0) (answer (b.arrivals ++ [mine b.count]) dst (decide (cnt + 1 ≠ b.count))) s.th.ffl s.th.dz s.th.srnd ∧
          ∀ a ∈ b.arrivals, ∀ u d k, s.getT a.uid = some u → u.wait = .bus d k → ∃ w, t.getT a.uid = some w ∧
            u.Done w (d.getD 0) (answer (b.arrivals ++ [mine b.count]) d a.mismatch) u.ffl u.dz u.srnd)))

/-- R150, R346, R356: callx sends its request to the named core's arrival queue and waits; a caller that finds its answer kept for it
completes with that; a full queue stalls it. reply answers and frees its slot; the answer completes the caller's word with its value, is
kept for a descheduled caller, and raises the callee's fault in the caller where it is one. A catalogue walk fills the core's name
cache. -/
def Obligations.CallsToOtherCores : Prop :=
  (∀ (s : State) (d a b : Spec), s.Free (.callx d a b) → s.th.wresValid = true → ∃ t, exec (.callx d a b) s = .next t ∧
    { t with th := s.th } = s ∧ ({ s.th with wresValid := false, wres := 0 } : Thread).Done t.th d s.th.wres s.th.ffl s.th.dz s.th.srnd) ∧
  (∀ (s : State) (d a b : Spec) (c : Nat), s.Free (.callx d a b) → s.th.wresValid = false →
    let e := s.th.read a
    let name := (s.th.read d).toNat % 2 ^ 16
    (e.toNat % 4 ≠ 0 → s.Traps (.callx d a b) { code := .align, addr := e }) ∧
    (e.toNat % 4 = 0 → (∀ x ∈ (s.core s.th.core).names, x.1 ≠ name) → s.catalogue name = none →
      s.Traps (.callx d a b) { code := .nameUnmapped, retry := true }) ∧
    (e.toNat % 4 = 0 → (∀ x ∈ (s.core s.th.core).names, x.1 ≠ name) → s.catalogue name = some c →
      s.sendHeld s.th c = false → s.Calm →
      ∃ t k, exec (.callx d a b) s = .next t ∧ t.th.mode = .waiting ∧ t.th.wait = .callx d ∧ t.th.pc = s.th.pc ∧ k ∈ t.others ∧
        k.uid = s.nextId ∧ k.ctx = s.th.ctx ∧ k.core = c ∧ k.place = .queue ∧ k.pc = e ∧ k.prv = s.th.prv ∧
        k.g.toList = 0 :: s.th.read b :: List.replicate 30 0 ∧ k.ticket = BitVec.ofNat 64 (2 ^ 63 + s.th.uid) ∧
        (t.core c).queue = (s.core c).queue ++ [s.nextId] ∧ s.SameBytes t) ∧
    (e.toNat % 4 = 0 → (∀ x ∈ (s.core s.th.core).names, x.1 ≠ name) → s.catalogue name = some c → s.sendHeld s.th c = true →
      ∃ t, exec (.callx d a b) s = .next t ∧ t.th.mode = .stalled ∧ { t.th with mode := s.th.mode } = s.th ∧ t.others = s.others ∧
        (t.core c).queue = (s.core c).queue ∧ s.SameBytes t)) ∧
  (∀ (s : State) (a : Spec), s.Free (.reply a) →
    (s.th.ticket.getLsbD 63 = false → s.Traps (.reply a) { code := .illegal }) ∧
    (s.th.ticket.getLsbD 63 = true → s.hasCmds s.th = false → s.th.peng = 7 → s.Calm →
      ∃ t, exec (.reply a) s = .next t ∧ t.answers = s.answers ++ [{ uid := s.th.ticket.toNat % 2 ^ 63, value := s.th.read a, fault := none }] ∧
        (∀ x ∈ t.threads, x.uid ≠ s.th.uid) ∧ s.SameBytes t)) ∧
  (∀ (s : State) (u : Nat) (t : Thread) (d : Spec) (v : Word), s.answers = [{ uid := u, value := v, fault := none }] → s.Holds u t →
    t.wait = .callx d →
    (t.mode = .waiting → ∃ s1 w, exec (.callxAnswer u) s = .next s1 ∧ s1.answers = [] ∧ s1.getT u = some w ∧ t.Done w d v t.ffl t.dz t.srnd) ∧
    (t.mode = .descheduled → ∃ s1 w, exec (.callxAnswer u) s = .next s1 ∧ s1.answers = [] ∧ s1.getT u = some w ∧
      { w with wres := t.wres, wresValid := t.wresValid } = t ∧ w.wres = v ∧ w.wresValid = true)) ∧
  (∀ (s : State) (u : Nat) (t : Thread) (d : Spec) (tr : Trap), s.answers = [{ uid := u, value := 0, fault := some tr }] → s.Holds u t →
    t.wait = .callx d → t.mode = .waiting →
    exec (.callxAnswer u) s = .next (({ s with answers := [] } : State).takeFault t tr t.word).unstall) ∧
  (∀ (s : State) (core : Nat) (name : BitVec 16) (c : Nat), (∀ x ∈ (s.core core).names, x.1 ≠ name.toNat) →
    s.catalogue name.toNat = some c → (s.core core).names.length < 64 →
    ∃ t, exec (.nameWalkDone core name) s = .next t ∧ assoc (t.core core).names name.toNat = some c ∧ s.SameBytes t ∧
      t.resolveName core name.toNat = some (c, t))

/-- R148, R149: migr to the own core does nothing else; to another it completes and its thread enters that core's arrival queue. An unmapped
name raises NAME_UNMAPPED and a pinned thread takes PRIV; copies or commands in flight, a full queue, or a sender held back before it
stall the word. A core gives its lowest free granted slot to the oldest arrival, and an arrival waits where it has none; a sender held
back tries again; an entry that has waited a quantum moves to the save area with its context (where in it: log entry 47). -/
def Obligations.Migration : Prop :=
  (∀ (s : State) (a : Spec), s.Free (.migr a) →
    let name := (s.th.read a).toNat % 2 ^ 16
    (s.resolveName s.th.core name = none → s.Traps (.migr a) { code := .nameUnmapped, retry := true }) ∧
    ∀ c s1, s.resolveName s.th.core name = some (c, s1) →
      (c = s.th.core → ∃ t, exec (.migr a) s = .next t ∧ s.th.Done t.th 0 0 s.th.ffl s.th.dz s.th.srnd ∧ { t with th := s.th, cores := s.cores } = s) ∧
      (c ≠ s.th.core → s.th.peng ≠ 7 → exec (.migr a) s = .next (s1.takeFault s.th { code := .priv } (encode (.migr a)))) ∧
      (c ≠ s.th.core → s.th.peng = 7 → s.hasCmds s.th = true → exec (.migr a) s = .next s1.stallAt) ∧
      (c ≠ s.th.core → s.th.peng = 7 → s.hasCmds s.th = false → s.sendHeld s.th c = true →
        exec (.migr a) s = .next (s1.holdBack s.th c).stallAt) ∧
      (c ≠ s.th.core → s.th.peng = 7 → s.hasCmds s.th = false → s.sendHeld s.th c = false → (s.core s.th.core).queue = [] → s.Calm →
        ∃ t, exec (.migr a) s = .next t ∧ t.th.uid = s.th.uid ∧ t.th.core = c ∧ t.th.place = .queue ∧ t.th.mode = .waiting ∧
          t.th.wait = .arrival ∧ s.th.Kept t.th ∧ t.th.y0 = 0 ∧ t.th.y1 = s.th.y0 ∧ s.th.Advanced t.th ∧
          (t.core c).queue = (s.core c).queue ++ [s.th.uid] ∧ s.SameBytes t)) ∧
  (∀ (s : State) (u : Nat) (t : Thread), (s.core s.unit).queue = [u] → s.Holds u t → t.mode = .waiting →
    (s.freeSlot s.unit t.ctx = none → exec .migrationArrival s = .next s.unstall) ∧
    ∀ j, s.freeSlot s.unit t.ctx = some j →
      ∃ s1 w, exec .migrationArrival s = .next s1 ∧ (s1.core s.unit).queue = [] ∧ s1.getT u = some w ∧ w.core = s.unit ∧ w.slot = j ∧
        w.place = .slot ∧ w.pc = t.pc ∧ w.g = t.g ∧ w.q = t.q ∧ s.SameBytes s1 ∧
        (t.wait = .arrival → w.mode = .ready ∧ w.wait = .none) ∧ (∀ r, t.wait = .amo r → w.mode = .waiting ∧ w.wait = .amo r)) ∧
  (∀ (s : State) (u : Nat) (t : Thread), s.Holds u t → t.mode = .stalled →
    ∃ s1 w, exec (.arrivalSendRetry u) s = .next s1 ∧ s1.getT u = some w ∧ { w with mode := .stalled } = t ∧ w.mode = .ready ∧ s.SameBytes s1) ∧
  (∀ (s : State) (u k : Nat) (us : List Nat) (t : Thread) (c : Ctx), (s.core s.unit).queue = u :: us → s.Holds u t →
    t.since + Config.quantum ≤ s.clk → s.ctx? t.ctx = some c → s.storeSlot t.ctx none = some k → u ∉ us →
    ∃ s1 w, exec .arrivalRelief s = .next s1 ∧ (s1.core s.unit).queue = us ∧ s1.getT u = some w ∧ w.mode = .descheduled ∧ w.place = .saved ∧
      w.saveAt = some k ∧ w.pc = t.pc ∧ s.Stored s1 .mem (c.storeAt k) (wordBytes (w.image t.pc)))

/-- R151: pin takes a free engine or waits, unpin gives it up once its holder's commands have ended, and the engine, its geometry 0, passes
to its oldest waiter, whose pin completes. -/
def Obligations.EnginePins : Prop :=
  (∀ (s : State) (e : BitVec 3), s.Free (.pin e) →
    let u := engineUnit e.toNat s.th.core
    let x := s.engine e.toNat u
    (s.th.peng ≠ 7 → s.Traps (.pin e) { code := .priv }) ∧
    (s.th.peng = 7 → x.holder = none → x.waiters = [] → ∃ t, exec (.pin e) s = .next t ∧ t.engine e.toNat u = { x with holder := some s.th.uid } ∧
      ({ s.th with peng := e } : Thread).Done t.th 0 0 s.th.ffl s.th.dz s.th.srnd ∧ { t with th := s.th, engines := s.engines } = s) ∧
    (s.th.peng = 7 → (x.holder ≠ none ∨ x.waiters ≠ []) → ∃ t, exec (.pin e) s = .next t ∧ t.engine e.toNat u = { x with waiters := x.waiters ++ [s.th.uid] } ∧
      t.th.mode = .waiting ∧ t.th.wait = .pin e.toNat ∧ t.th.pc = s.th.pc)) ∧
  (∀ (s : State) (e : BitVec 3), s.Free (.unpin e) →
    let u := s.heldUnit e.toNat s.th
    let x := s.engine e.toNat u
    (s.th.peng ≠ e → s.Traps (.unpin e) { code := .priv }) ∧
    (s.th.peng = e → (∀ c ∈ x.fifo, c.uid ≠ s.th.uid) → x.waiters = [] → ∃ t, exec (.unpin e) s = .next t ∧
      (t.engine e.toNat u).holder = none ∧ (t.engine e.toNat u).geom = x.geom.map (fun _ => 0) ∧
      ({ s.th with peng := 7 } : Thread).Done t.th 0 0 s.th.ffl s.th.dz s.th.srnd) ∧
    (∀ w ws k, s.th.peng = e → (∀ c ∈ x.fifo, c.uid ≠ s.th.uid) → x.waiters = w :: ws → w ≠ s.th.uid → s.Holds w k →
      ∃ t k1, exec (.unpin e) s = .next t ∧ t.getT w = some k1 ∧ (t.engine e.toNat u).holder = some w ∧ (t.engine e.toNat u).waiters = ws ∧
        (t.engine e.toNat u).geom = x.geom.map (fun _ => 0) ∧ ({ k with peng := e } : Thread).Done k1 0 0 k.ffl k.dz k.srnd ∧
        ({ s.th with peng := 7 } : Thread).Done t.th 0 0 s.th.ffl s.th.dz s.th.srnd) ∧
    (s.th.peng = e → (∃ c ∈ x.fifo, c.uid = s.th.uid) → ∃ t, exec (.unpin e) s = .next t ∧ t.th.mode = .waiting ∧
      t.th.wait = .unpin e.toNat ∧ t.th.pc = s.th.pc)) ∧
  (∀ (s : State) (e : BitVec 3) (unit h w : Nat) (ws : List Nat) (t k : Thread), e.toNat ≤ 4 →
    (s.engine e.toNat unit).holder = some h → (s.engine e.toNat unit).waiters = w :: ws → s.Holds h t → s.Holds w k → h ≠ w →
    t.wait = .unpin e.toNat → t.mode = .waiting → (∀ c ∈ (s.engine e.toNat unit).fifo, c.uid ≠ h) →
    ∃ s1 t1 k1, exec (.pinHandoff e unit) s = .next s1 ∧ s1.getT h = some t1 ∧ s1.getT w = some k1 ∧
      ({ t with peng := 7 } : Thread).Done t1 0 0 t.ffl t.dz t.srnd ∧ ({ k with peng := e } : Thread).Done k1 0 0 k.ffl k.dz k.srnd ∧
      (s1.engine e.toNat unit).holder = some w ∧ (s1.engine e.toNat unit).waiters = ws ∧
      (s1.engine e.toNat unit).geom = (s.engine e.toNat unit).geom.map (fun _ => 0))

/-- R152, R339: waitl completes with 0 on a free lock word and waits on a held one; a write to the word ends the wait, and the word
completes with what it then reads; a waiter of higher priority lends its slot to the descheduled holder, which counts at that priority,
until the word is written, when the waiter takes a slot again and runs its word again. A misaligned address raises ALIGN. -/
def Obligations.LockWords : Prop :=
  (∀ (s s1 : State) (a : Spec) (pa : Nat), s.Free (.waitl a) →
    let l := s.th.read a
    let v := BitVec.ofNat 64 (s.readNat .mem pa 8)
    (l.toNat % 8 ≠ 0 → s.Traps (.waitl a) { code := .align, addr := l }) ∧
    (l.toNat % 8 = 0 → s.resolve s.th 0 l 8 .rd = .ok (.at .mem pa, s1) → s.Calm →
      (v = 0 → ∃ t, exec (.waitl a) s = .next t ∧ s.th.Done t.th 0 0 s.th.ffl s.th.dz s.th.srnd ∧ s.SameBytes t) ∧
      (v ≠ 0 → ∃ t, exec (.waitl a) s = .next t ∧ t.th.mode = .waiting ∧ t.th.wait = .lock l pa false ∧ t.th.pc = s.th.pc ∧ s.SameBytes t))) ∧
  (∀ (s : State) (u pa : Nat) (t : Thread) (va : Word), s.Holds u t → t.wait = .lock va pa true → t.mode = .waiting → s.Calm →
    ∃ s1 w, exec (.waitlEnd u) s = .next s1 ∧ s1.getT u = some w ∧ t.Done w 0 (BitVec.ofNat 64 (s.readNat .mem pa 8)) t.ffl t.dz t.srnd) ∧
  (∀ (s : State) (sp : Space) (a : Nat) (bs : List Byte) (va : Word) (pa : Nat), s.th.wait = .lock va pa false → sp = .mem → a < pa + 8 →
    pa < a + bs.length → (s.put sp a bs).th.wait = .lock va pa true) ∧
  (∀ (s s2 : State) (u pa j : Nat) (w h : Thread) (va : Word), s.Holds u w → w.mode = .waiting → w.wait = .lock va pa false →
    w.place = .slot → s.holderOf w (s.readNat .mem pa 8) = some h → s.Holds h.uid h → h.uid ≠ u → s.threadPri h < s.threadPri w →
    s.resumable h = true → s.saveThread w none = some s2 → s2.freeSlot h.core h.ctx = some j → h.wait = .none →
    ∃ s1 w1 h1, exec (.lockLend u) s = .next s1 ∧ s1.getT u = some w1 ∧ w1.mode = .descheduled ∧ w1.place = .saved ∧ w1.wait = .lock va pa false ∧
      s1.getT h.uid = some h1 ∧ h1.place = .slot ∧ h1.slot = j ∧ h1.mode = .ready ∧ h1.pc = (s2.unstow h).pc ∧ h1.g = (s2.unstow h).g ∧
      { holder := h.uid, waiter := u, pri := s.threadPri w, pa := pa } ∈ s1.reg.lends) ∧
  (∀ (s : State) (u pa j : Nat) (t : Thread) (va : Word), s.Holds u t → t.wait = .lock va pa true → t.mode = .descheduled →
    s.freeSlot t.core t.ctx = some j →
    ∃ s1 w, exec (.waitlEnd u) s = .next s1 ∧ s1.getT u = some w ∧ w.place = .slot ∧ w.slot = j ∧ w.mode = .ready ∧ w.wait = .none ∧
      w.pc = (s.unstow t).pc ∧ ∀ e ∈ s1.reg.lends, e.waiter ≠ u)

/-- R72, R299, R303 to R307: a thread that has pinned the engine where it stands commands it; the command is queued with its block and
geometry, takes a scoreboard entry for its scratch sides, and its status is in flight for d; a full queue or scoreboard, or a destination
in flight, stalls it. Without the pin, or with a semaphore that is not granted, the word raises PRIV; a block that is not legal raises
ILLEGAL. -/
def Obligations.EngineCommandsAccepted : Prop :=
  ∀ (s : State) (i : Instr) (e op n : Nat) (d a : Spec), engineWord i = some (e, op, n, d, a) → s.Free i →
    let t := s.th
    let u := engineUnit e t.core
    let x := s.engine e u
    let ws := t.block a n
    let w0 := wordAt ws 0
    let sd := blockSides i ws x
    let pinned := t.peng.toNat = e ∧ x.holder = some t.uid
    let granted := n ≠ 0 → w0.getLsbD 48 = true → s.semGranted t (fieldOf w0 44 4) = true
    let landed := ∀ r ∈ regBlock a n, t.busy r = false
    let channel := ∀ d a, i = .nblPairs d a → ∃ c, s.chan? t.ctx (fieldOf w0 0 12) = some c ∧ c.prod = 2
    let legal := commandLegal i e ws x
    let entry := ¬ (e ≠ 0 ∧ scratchSides (sd.1 ++ sd.2) = [])
    let full := (if e = 0 then 32 else 8) ≤ x.fifo.length ∨ (entry ∧ 32 ≤ (s.core t.core).sb.length) ∨ t.busy d = true
    let old (k : Cmd) : Prop := k.id = s.nextId ∧ k.uid = t.uid ∧ k.ctx = t.ctx ∧ k.core = t.core ∧ k.op = op ∧ k.regs = ws ∧ k.geom = x.geom ∧
      k.pubRec = none ∧ k.status = none ∧ k.toks = []
    (¬ pinned → s.Traps i { code := .priv }) ∧
    (pinned → n ≠ 0 → blockOk n a = false → e ≠ 0 → s.Traps i { code := .illegal }) ∧
    (pinned → (n ≠ 0 → blockOk n a = true) → landed → legal = false → s.Traps i { code := .illegal }) ∧
    (pinned → (n ≠ 0 → blockOk n a = true) → landed → legal = true → ¬ granted → s.Traps i { code := .priv }) ∧
    (pinned → (n ≠ 0 → blockOk n a = true) → landed → legal = true → granted → ¬ channel → s.Traps i { code := .prot }) ∧
    (pinned → (n ≠ 0 → blockOk n a = true) → landed → legal = true → granted → channel → full → exec i s = .next s.stallAt) ∧
    (pinned → (n ≠ 0 → blockOk n a = true) → landed → legal = true → granted → channel → ¬ full →
      ∃ v k, exec i s = .next v ∧ v.engine e u = { x with fifo := x.fifo ++ [k] } ∧ old k ∧
        (k.deep = true ↔ ∃ y ∈ scratchSides (sd.1 ++ sd.2), y.cls = 2) ∧
        (v.core t.core).sb = (s.core t.core).sb ++ (if e ≠ 0 ∧ scratchSides (sd.1 ++ sd.2) = [] then [] else
          [{ cmd := s.nextId, dst := hull t.core t.ctx sd.1, src := hull t.core t.ctx sd.2 }]) ∧
        t.Launched v.th s.nextId d ∧ v.nextId = s.nextId + 1 ∧
        { v with th := s.th, cores := s.cores, nextId := s.nextId, engines := s.engines } = s)

/-- R302, R305: the head command of an engine that has ended retires: it leaves the engine, its status lands in the destination and in y0
where that still names it, its semaphore is signalled, and its scoreboard entry is free. -/
def Obligations.CommandsRetire : Prop :=
  ∀ (s : State) (i : Instr) (e unit : Nat) (c : Cmd) (cs : List Cmd) (v : Word) (t : Thread) (f : InFlight),
    ((∃ b : BitVec 3, i = .engineRetire b unit ∧ e = b.toNat) ∨ (i = .copyRetire ∧ e = 0 ∧ unit = s.unit)) →
    (s.engine e unit).fifo = c :: cs → c.status = some v → c.toks = [] → s.Holds c.uid t → t.mode = .ready →
    t.inflight.find? (fun g => g.id == c.id) = some f → f.dst2 = none →
    let w0 := wordAt c.regs 0
    let sem (x : State) : Sem := (x.core c.core).sems.toList.getD (fieldOf w0 44 4) Sem.initial
    (w0.getLsbD 48 = true → (sem s).waiters = []) →
    ∃ s1 w, exec i s = .next s1 ∧ (s1.engine e unit).fifo = cs ∧ s1.getT c.uid = some w ∧ w.pc = t.pc ∧ w.mode = .ready ∧
      (∀ x, f.dst = some x → 0 < x.toNat → x.toNat < 40 → w.read x = v) ∧
      (∀ x : Spec, x.toNat < 40 → f.dst ≠ some x → w.read x = t.read x) ∧
      (t.y0Id = some c.id → w.y0 = v ∧ w.y0Id = none) ∧ (t.y0Id ≠ some c.id → w.y0 = t.y0 ∧ w.y0Id = t.y0Id) ∧
      (∀ g ∈ w.inflight, g.id ≠ c.id) ∧
      (w0.getLsbD 48 = true → sem s1 = { sem s with count := if (sem s).count < 2 ^ 32 - 1 then (sem s).count + 1 else (sem s).count }) ∧
      (s1.core c.core).sb = (s.core c.core).sb.filter (fun y => y.cmd != c.id) ∧ s.SameBytes s1

/-- R300, R305: an engine's step runs the head command to its end, for a copy all the lines that are left of it (log entry 9): the command
holds a status word then, and nothing else of it changes but the publication record that it resolved and the tokens that an nbl.pairs has
still to put. The commands behind it stand. -/
def Obligations.EngineCommandsEnd : Prop :=
  ∀ (s : State) (i : Instr) (e : Nat) (c : Cmd) (cs : List Cmd), s.Runs i e c cs →
    ∃ t v, exec i s = .next t ∧ t.Ended e c cs v ∧ t.binds = s.binds ∧ t.nextId = s.nextId ∧ t.stores = [] ∧
      (i ≠ .nblPairsExec → ∀ x : Spec, x.toNat < 40 → t.th.read x = s.th.read x) ∧ (i ≠ .nblPairsExec → t.th.pc = s.th.pc)

/-- R300, R301: in the windows of its core and in deep scratch, or between the two, a linear copy moves its bytes, and a gather of one row the
row that its index names, or with ZF zeros for an index out of range; no other byte changes, and the status counts bytes and indices out of
range. The step moves the whole copy, or where it names one source line the bytes of that line, and the copy goes on behind them (log entry
9). -/
def Obligations.CopiesMoveBytes : Prop :=
  ∀ (s : State) (c : Cmd) (cs : List Cmd) (q : CopyReq), s.Runs .copyStart 0 c cs → q = copyReq c.regs c.geom →
    c.pos = 0 → c.bytes = 0 → c.oob = 0 → c.idx = none → (q.scls = 1 ∨ q.scls = 2) → (q.dcls = 1 ∨ q.dcls = 2) →
    let place (cls : Nat) : Space := if cls = 1 then .win c.core c.ctx else .deep c.ctx
    let has (cls a n : Nat) : Prop := if cls = 1 then a + n ≤ s.windowLen c.core c.ctx else s.DeepHas c.ctx a n
    let sp := place q.scls
    let dp := place q.dcls
    let src := q.w1.toNat
    let dst := q.w2.toNat
    let n := q.w3.toNat
    (q.op = 0 → has q.scls src n → has q.dcls dst n → ¬ (q.scls = q.dcls ∧ src < dst ∧ dst < src + n) →
      (∃ t, exec .copyStart s = .next t ∧ s.Stored t dp dst (s.readBytes sp src n) ∧ t.Ended 0 c cs (BitVec.ofNat 64 (n % 2 ^ 40))) ∧
      (let k := 64 - src % 64
       k < n → ∃ t c1, exec .copyStart { s with unit := s.unit + 2048 } = .next t ∧ s.Stored t dp dst (s.readBytes sp src k) ∧
         (t.engine 0 s.unit).fifo = c1 :: cs ∧ c1.status = none ∧ c1.pos = k ∧ c1.bytes = k ∧
         { c1 with pos := 0, bytes := 0, resolved := c.resolved } = c)) ∧
    (∀ x : Int, q.op = 1 → q.nrows = 1 → q.swz = 0 → q.rsz ≠ 0 → s.copyIndex c q 0 = .ok x → has q.dcls dst q.row →
      (0 ≤ x → x < q.nrow → has q.scls (src + x.toNat * q.row) q.row →
        (q.scls ≠ q.dcls ∨ src + x.toNat * q.row + q.row ≤ dst ∨ dst + q.row ≤ src + x.toNat * q.row) →
        ∃ t, exec .copyStart s = .next t ∧ s.Stored t dp dst (s.readBytes sp (src + x.toNat * q.row) q.row) ∧
          t.Ended 0 c cs (BitVec.ofNat 64 q.row)) ∧
      ((x < 0 ∨ (q.nrow : Int) ≤ x) → q.zf = true → ∃ t, exec .copyStart s = .next t ∧ s.Stored t dp dst (List.replicate q.row 0) ∧
        t.Ended 0 c cs (BitVec.ofNat 64 (2 ^ 40 + q.row))) ∧
      ((x < 0 ∨ (q.nrow : Int) ≤ x) → q.zf = false → ∃ t, exec .copyStart s = .next t ∧ s.SameBytes t ∧
        t.Ended 0 c cs (BitVec.ofNat 64 (2 ^ 40))))

/-- R309 to R314: nbl.box writes the header of the bin area, or ends with BADARG; nbl.bin ends with BADARG or BADBOX on bad numbers, else
it bins every particle and makes the area valid, or ends with OVERFLOW; nbl.pairs puts the pairs on its channel; nbl.stat reports the
last run. -/
def Obligations.NeighbourLists : Prop :=
  (∀ (s : State) (c : Cmd) (cs : List Cmd), s.Runs .nblBoxExec 1 c cs →
    let w0 := wordAt c.regs 0
    let w1 := wordAt c.regs 1
    let w2 := wordAt c.regs 2
    let len := [fieldOf w1 0 32, fieldOf w1 32 32, fieldOf w2 0 32].map f32.decode
    let rc := f32.decode (fieldOf w2 32 32)
    let skin := f32.decode (fieldOf w0 0 32)
    let n := len.map (fun l => Nat.max 1 (FV.floorDiv l (FV.add 0 rc skin).1))
    let bad := boxBad len rc skin (fieldOf w0 32 3) = true ∨ (∃ k ∈ n, 1024 < k) ∨ 2 ^ 20 < n.getD 0 1 * n.getD 1 1 * n.getD 2 1
    let g := wordAt c.geom 1
    let a := (eAddr g).toNat
    (bad → ∃ t, exec .nblBoxExec s = .next t ∧ s.SameBytes t ∧ t.Ended 1 c cs (BitVec.ofNat 64 (5 * 2 ^ 48))) ∧
    (¬ bad → eCls g = 2 → s.DeepHas c.ctx a 64 → ∃ t, exec .nblBoxExec s = .next t ∧ s.SameBut t (.deep c.ctx) a 64 ∧
      t.readNat (.deep c.ctx) a 4 = fieldOf w1 0 32 ∧ t.readNat (.deep c.ctx) (a + 4) 4 = fieldOf w1 32 32 ∧
      t.readNat (.deep c.ctx) (a + 8) 4 = fieldOf w2 0 32 ∧ t.readNat (.deep c.ctx) (a + 12) 4 = fieldOf w2 32 32 ∧
      t.readNat (.deep c.ctx) (a + 16) 4 = fieldOf w0 0 32 ∧ (∀ k < 3, t.readNat (.deep c.ctx) (a + 20 + 2 * k) 2 = n.getD k 1) ∧
      t.readNat (.deep c.ctx) (a + 26) 1 = fieldOf w0 32 3 ∧ t.readNat (.deep c.ctx) (a + 34) 1 = 0 ∧
      t.Ended 1 c cs (BitVec.ofNat 64 (n.getD 0 1 * n.getD 1 1 * n.getD 2 1)))) ∧
  (∀ (s : State) (i : Instr) (c : Cmd) (cs : List Cmd), s.Runs i 1 c cs → (i = .nblBinExec ∨ i = .nblPairsExec) →
    let g := wordAt c.geom 1
    let a := (eAddr g).toNat
    let h := nblHeader (s.readBytes (.deep c.ctx) a 64)
    (nblBadArg c.geom = true → ∃ t, exec i s = .next t ∧ s.SameBytes t ∧ t.Ended 1 c cs (BitVec.ofNat 64 (5 * 2 ^ 48)) ∧
      (t.engine 1 s.unit).stat.engst = 5) ∧
    (nblBadArg c.geom = false → eCls g = 2 → s.DeepHas c.ctx a 64 → h.bad = true → ∃ t, exec i s = .next t ∧ s.SameBytes t ∧
      t.Ended 1 c cs (BitVec.ofNat 64 (3 * 2 ^ 48)) ∧ (t.engine 1 s.unit).stat.engst = 3)) ∧
  (∀ (s : State) (c : Cmd) (cs : List Cmd) (xs : List (List Nat)), s.Runs .nblBinExec 1 c cs →
    let g := wordAt c.geom 1
    let a := (eAddr g).toNat
    let h := nblHeader (s.readBytes (.deep c.ctx) a 64)
    let n := nblPart c.geom
    let cap := nblCap c.geom
    nblBadArg c.geom = false → eCls g = 2 → s.DeepHas c.ctx a (refsAt h.box.count cap + 16 * n) → h.bad = false →
    s.positions c (wordAt c.geom 0) 0 n 0 = .ok xs → allFinite xs = true →
    ∃ t ovn, exec .nblBinExec s = .next t ∧ ovn ≤ 4096 ∧ s.SameBut t (.deep c.ctx) a (refsAt h.box.count cap + 16 * n) ∧
      (t.engine 1 s.unit).stat.ovn = ovn ∧
      ((t.readNat (.deep c.ctx) (a + 34) 1 = 0 ∧ t.Ended 1 c cs (BitVec.ofNat 64 (4 * 2 ^ 48 + ovn))) ∨
       (t.readNat (.deep c.ctx) (a + 34) 1 = 1 ∧ t.readNat (.deep c.ctx) (a + 27) 1 = cap ∧ t.readNat (.deep c.ctx) (a + 28) 4 = n ∧
        t.readNat (.deep c.ctx) (a + 32) 2 = ovn ∧ t.Ended 1 c cs (BitVec.ofNat 64 ((if 0 < ovn then 2 ^ 48 else 0) + ovn))))) ∧
  (∀ (s : State) (c : Cmd) (cs : List Cmd) (ps refs : List (List Nat)) (bin : List (Nat × Nat)) (x : Chan),
    s.Runs .nblPairsExec 1 c cs →
    let g := wordAt c.geom 1
    let a := (eAddr g).toNat
    let h := nblHeader (s.readBytes (.deep c.ctx) a 64)
    let n := nblPart c.geom
    let cap := nblCap c.geom
    let ch := fieldOf (wordAt c.regs 0) 0 12
    let etag := fieldOf (wordAt c.regs 0) 16 3
    let pv := ps.map (fun p => p.map f32.decode)
    let rv := refs.map (fun p => p.map f32.decode)
    let pairs := neighbourPairs h bin pv rv
    let toks := pairTokens pairs.length pairs ++ (if etag = 0 then [] else [marker etag])
    let half := FV.scale (-1) h.box.skin
    nblBadArg c.geom = false → eCls g = 2 → s.DeepHas c.ctx a 64 → h.bad = false → h.valid = 1 → h.npart = n → h.cap = cap →
    s.positions c (wordAt c.geom 0) 0 n 0 = .ok ps → s.positions c g (refsAt h.box.count cap) n 0 = .ok refs →
    s.binned c h cap n = .ok bin → allFinite ps = true → allFinite refs = true →
    (∀ p ∈ pv.zip rv, FV.lt (FV.mul half half).1 (dsq (h.box.disp p.2 p.1)) = false) → s.chan? c.ctx ch = some x → x.run = none →
    x.fault = none → x.ring.ccount = 0 → x.ring.q.length + toks.length ≤ x.ring.slots → 0 < x.ring.slots →
    ∃ t, exec .nblPairsExec s = .next t ∧ s.SameBytes t ∧
      t.Ended 1 c cs (BitVec.ofNat 64 ((if 0 < h.ovn then 2 ^ 48 else 0) + pairs.length % 2 ^ 48)) ∧
      t.chan? c.ctx ch = some { x with ring := { x.ring with q := x.ring.q ++ toks } }) ∧
  (∀ (s : State) (c : Cmd) (cs : List Cmd), s.Runs .nblStatExec 1 c cs →
    let x := (s.engine 1 s.unit).stat
    ∃ t, exec .nblStatExec s = .next t ∧ s.SameBytes t ∧ t.Ended 1 c cs
      (BitVec.ofNat 64 (x.engst * 2 ^ 48 + x.ovn % 2 ^ 13 * 2 ^ 35 + x.maxocc % 2 ^ 8 * 2 ^ 27 + x.stalen % 2 ^ 27)))

/-- R316, R317: in deep scratch pgs.sum writes the summary of every page, and pgs.sel lists the best pages by descending score, filled up
with all ones; a range that runs over ends with BADARG. -/
def Obligations.PageSelection : Prop :=
  (∀ (s : State) (c : Cmd) (cs : List Cmd), s.Runs .pgsSumExec 2 c cs →
    let w0 := wordAt c.regs 0
    let dim := pgsDim w0
    let first := fieldOf w0 0 32
    let n := fieldOf (wordAt c.regs 1) 0 32
    let keys := (eAddr (wordAt c.geom 0)).toNat
    let sums := (eAddr (wordAt c.geom 2)).toNat
    (0xFFFFFFFF < first + n → ∃ t, exec .pgsSumExec s = .next t ∧ s.SameBytes t ∧ t.Ended 2 c cs (BitVec.ofNat 64 (5 * 2 ^ 48))) ∧
    (first + n ≤ 0xFFFFFFFF → eCls (wordAt c.geom 0) = 2 → eCls (wordAt c.geom 2) = 2 →
      s.DeepHas c.ctx (keys + 32 * dim * first) (32 * dim * n) → s.DeepHas c.ctx (sums + 2 * dim * first) (2 * dim * n) →
      (keys + 32 * dim * (first + n) ≤ sums + 2 * dim * first ∨ sums + 2 * dim * (first + n) ≤ keys + 32 * dim * first) →
      ∃ t v, exec .pgsSumExec s = .next t ∧ t.Ended 2 c cs v ∧ v.toNat % 2 ^ 43 = n ∧ v.toNat < 2 ^ 48 ∧
        s.SameBut t (.deep c.ctx) (sums + 2 * dim * first) (2 * dim * n) ∧
        ∀ p, first ≤ p → p < first + n → ∀ j < dim, t.readNat (.deep c.ctx) (sums + 2 * dim * p + 2 * j) 2 =
          summaryOf ((List.range 16).map (fun k => s.readNat (.deep c.ctx) (keys + 32 * dim * p + 2 * dim * k + 2 * j) 2)) % 2 ^ 16)) ∧
  (∀ (s : State) (c : Cmd) (cs : List Cmd), s.Runs .pgsSelExec 2 c cs →
    let w0 := wordAt c.regs 0
    let dim := pgsDim w0
    let k := fieldOf w0 0 7
    let first := fieldOf (wordAt c.regs 4) 0 32
    let n := fieldOf (wordAt c.regs 4) 32 32
    let q := (eAddr (wordAt c.regs 1)).toNat
    let list := (eAddr (wordAt c.regs 2)).toNat
    let sums := (eAddr (wordAt c.geom 2)).toNat
    let sp := Space.deep c.ctx
    let row (a : Nat) : List Nat := (List.range dim).map (fun j => s.readNat sp (a + 2 * j) 2)
    let score (p : Nat) : FV := f32.decode (scoreOf (row q) (row (sums + 2 * dim * p)))
    let best := ((List.range' first n).filter (fun p => !((score p).isNan || score p == .inf true))).foldl (fun l p => insertPage p (score p) l) []
    let chosen := (best.take k).map Prod.fst
    ((k = 0 ∨ 64 < k ∨ 0xFFFFFFFF < first + n) → ∃ t, exec .pgsSelExec s = .next t ∧ s.SameBytes t ∧
      t.Ended 2 c cs (BitVec.ofNat 64 (5 * 2 ^ 48))) ∧
    (0 < k → k ≤ 64 → first + n ≤ 0xFFFFFFFF → w0.getLsbD 39 = false → wordAt c.geom 3 = 0 → eCls (wordAt c.regs 1) = 2 →
      eCls (wordAt c.regs 2) = 2 → eCls (wordAt c.geom 2) = 2 → s.DeepHas c.ctx q (2 * dim) → s.DeepHas c.ctx list (4 * k) →
      s.DeepHas c.ctx (sums + 2 * dim * first) (2 * dim * n) →
      ∃ t v, exec .pgsSelExec s = .next t ∧ t.Ended 2 c cs v ∧ v.toNat % 2 ^ 43 = chosen.length ∧ v.toNat < 2 ^ 48 ∧
        s.SameBut t sp list (4 * k) ∧ ∀ m < k, t.readNat sp (list + 4 * m) 4 = chosen.getD m 0xFFFFFFFF))

/-- R318 to R321: sfl.tab installs or removes a table of the engine, or ends with BADARG; sfl.bag without its table ends with
BADARG, and with one an empty bag pools to zeros. wdq.grid makes or removes a grid of its context; another context's grid of that number
ends it with BADARG. wdq.ask writes the next item and its number, or all ones below bit 63's mark once the grid is handed out. -/
def Obligations.SparseTablesAndWork : Prop :=
  ((∀ (s : State) (c : Cmd) (cs : List Cmd), s.Runs .sflTabExec 3 c cs →
     let w0 := wordAt c.regs 0
     let fmt := fieldOf w0 36 4
     let elems := fieldOf w0 0 11 + 1
     let nrow := fieldOf (wordAt c.regs 2) 0 32
     let tid := fieldOf w0 40 4
     let x := s.engine 3 s.unit
     ((sflSize fmt = 0 ∨ 1024 < elems * sflSize fmt) → ∃ t, exec .sflTabExec s = .next t ∧ s.SameBytes t ∧
       t.Ended 3 c cs (BitVec.ofNat 64 (5 * 2 ^ 48)) ∧ (t.engine 3 s.unit).tabs = x.tabs) ∧
     (¬ (sflSize fmt = 0 ∨ 1024 < elems * sflSize fmt) → ∃ t, exec .sflTabExec s = .next t ∧ s.SameBytes t ∧
       t.Ended 3 c cs (BitVec.ofNat 64 nrow) ∧ (∀ y ∈ x.tabs, y.tid ≠ tid → y ∈ (t.engine 3 s.unit).tabs) ∧
       (t.engine 3 s.unit).tabs.find? (fun y => y.tid == tid) = if nrow = 0 then none else
         some { tid := tid, base := eAddr (wordAt c.regs 1), nrow := nrow, fmt := fmt, elems := elems })) ∧
   (∀ (s : State) (c : Cmd) (cs : List Cmd), s.Runs .sflBagExec 3 c cs →
     let w0 := wordAt c.regs 0
     let offs := (eAddr (wordAt c.regs 3)).toNat
     let out := (eAddr (wordAt c.geom 0)).toNat
     let sp := Space.deep c.ctx
     let find := (s.engine 3 s.unit).tabs.find? (fun y => y.tid == fieldOf w0 40 4)
     (find = none → ∃ t, exec .sflBagExec s = .next t ∧ s.SameBytes t ∧ t.Ended 3 c cs (BitVec.ofNat 64 (5 * 2 ^ 48))) ∧
     (∀ y, find = some y → fieldOf w0 0 32 = 0 → ∃ t, exec .sflBagExec s = .next t ∧ s.SameBytes t ∧ t.Ended 3 c cs 0) ∧
     (∀ y, find = some y → fieldOf w0 0 32 = 1 → 0 < y.elems → eCls (wordAt c.regs 3) = 2 → eCls (wordAt c.geom 0) = 2 → s.DeepHas c.ctx offs 8 →
       s.DeepHas c.ctx out (y.elems * sflOut c.geom) → s.readNat sp (offs + 4) 4 ≤ s.readNat sp offs 4 →
       ∃ t, exec .sflBagExec s = .next t ∧ s.Stored t sp out (List.replicate (y.elems * sflOut c.geom) 0) ∧ t.Ended 3 c cs 1))) ∧
  ((∀ (s : State) (c : Cmd) (cs : List Cmd), s.Runs .wdqGridExec 4 c cs →
     let w0 := wordAt c.regs 0
     let gid := fieldOf w0 0 4
     let x := s.engine 4 s.unit
     let g := wordAt c.geom 0
     let n : Grid := ⟨gid, c.ctx, fieldOf g 0 16 + 1, fieldOf g 16 16 + 1, fieldOf g 32 16 + 1, w0.getLsbD 4, 0⟩
     ((∃ y ∈ x.grids, y.gid = gid ∧ y.owner ≠ c.ctx) → ∃ t, exec .wdqGridExec s = .next t ∧ s.SameBytes t ∧
       (t.engine 4 s.unit).grids = x.grids ∧ t.Ended 4 c cs (BitVec.ofNat 64 (5 * 2 ^ 48))) ∧
     ((∀ y ∈ x.grids, y.gid = gid → y.owner = c.ctx) → w0.getLsbD 5 = true → ∃ t, exec .wdqGridExec s = .next t ∧ s.SameBytes t ∧
       (∀ y, y ∈ (t.engine 4 s.unit).grids ↔ y ∈ x.grids ∧ y.gid ≠ gid) ∧ t.Ended 4 c cs 0) ∧
     ((∀ y ∈ x.grids, y.gid = gid → y.owner = c.ctx) → w0.getLsbD 5 = false → ∃ t, exec .wdqGridExec s = .next t ∧ s.SameBytes t ∧
       (∀ y, y ∈ (t.engine 4 s.unit).grids ↔ (y ∈ x.grids ∧ y.gid ≠ gid) ∨ y = n) ∧
       t.Ended 4 c cs (BitVec.ofNat 64 (n.x * n.y * n.z % 2 ^ 48)))) ∧
   (∀ (s : State) (c : Cmd) (cs : List Cmd), s.Runs .wdqAskExec 4 c cs →
     let gid := fieldOf (wordAt c.regs 0) 0 4
     let w := wordAt c.regs 1
     let a := (eAddr w).toNat
     let sp := Space.deep c.ctx
     let find := (s.engine 4 s.unit).grids.find? (fun g => g.gid == gid && g.owner == c.ctx)
     (find = none → ∃ t, exec .wdqAskExec s = .next t ∧ s.SameBytes t ∧ t.Ended 4 c cs (BitVec.ofNat 64 (5 * 2 ^ 48))) ∧
     (∀ g, find = some g → eCls w = 2 → s.DeepHas c.ctx a 8 → g.x * g.y * g.z ≤ g.next → ∃ t, exec .wdqAskExec s = .next t ∧
       s.Stored t sp a (leBytes 8 (2 ^ 63)) ∧ t.Ended 4 c cs (BitVec.ofNat 64 (2 ^ 48 - 1)) ∧
       (t.engine 4 s.unit).grids = (s.engine 4 s.unit).grids) ∧
     (∀ g, find = some g → eCls w = 2 → s.DeepHas c.ctx a 8 → g.next < g.x * g.y * g.z → g.morton = false → ∃ t,
       exec .wdqAskExec s = .next t ∧
       s.Stored t sp a (leBytes 8 (g.next % g.x + g.next / g.x % g.y * 2 ^ 16 + g.next / (g.x * g.y) * 2 ^ 32)) ∧
       t.Ended 4 c cs (BitVec.ofNat 64 (g.next % 2 ^ 48)) ∧
       ∃ g1 ∈ (t.engine 4 s.unit).grids, g1 = { g with next := g.next + 1 })))

/-- R255, R270 to R273: chput puts q0 to q7 on a channel with a free slot, or waits; chget takes the oldest token into q0 to q7
with its header in d, or waits; chwin reports a channel's fill; chsync answers the tokens taken once it is empty, or waits. An operand
that names no channel of the right side raises PROT. The steps that end the waits: a token enters a channel that has room, the oldest
waiting chget takes a token or times out with bit 63, and a chsync completes when its channel is empty. -/
def Obligations.Channels : Prop :=
  ((∀ (s : State) (i : Instr) (a : Spec), ((∃ b, i = .chput a b) ∨ (∃ d b, i = .chget d a b) ∨ (∃ d, i = .chwin d a) ∨ (∃ d, i = .chsync d a)) →
     s.Free i → (∀ x : Spec, 32 ≤ x.toNat → x.toNat < 40 → s.th.busy x = false) → s.chanOf s.th.ctx (s.th.read a) = none →
     s.Traps i { code := .prot }) ∧
   (∀ (s : State) (a b : Spec) (c : Chan), s.Free (.chput a b) → (∀ x : Spec, 32 ≤ x.toNat → x.toNat < 40 → s.th.busy x = false) →
     s.chanOf s.th.ctx (s.th.read a) = some c →
     let tag := fieldOf (s.th.read b) 16 3
     let k : Token := { tag := tag, mask := fieldOf (s.th.read b) 0 16, lanes := s.th.lanes }
     let ok := c.prod = 2 ∧ (tag = 0 ∨ tag = 1 ∨ tag = 2 ∨ tag = 6)
     (¬ ok → s.Traps (.chput a b) { code := .prot }) ∧
     let first := ∀ x ∈ s.putters c.ctx c.num, s.th.placeNo ≤ x.placeNo
     (∀ e, ok → s.Calm → c.fault = some e →
       let s1 := ({ s with th := { s.th with seen := [] } } : State).setChan { c with fault := none }
       exec (.chput a b) s = .next (s1.takeFault s1.th e (encode (.chput a b)))) ∧
     (ok → c.fault = none → c.run = none → s.Calm → first → c.ring.ccount = 0 → c.ring.q.length < c.ring.slots →
       ∃ t, exec (.chput a b) s = .next t ∧ t.chan? c.ctx c.num = some { c with ring := { c.ring with q := c.ring.q ++ [k] } } ∧
       { t with th := s.th, cores := s.cores, chans := s.chans } = s ∧
       ({ s.th with seen := [] } : Thread).Done t.th 0 0 s.th.ffl s.th.dz s.th.srnd) ∧
     (∀ s2, ok → c.fault = none → c.run = none → s.Calm → first → ¬ (c.ring.ccount = 0 ∧ c.ring.q.length < c.ring.slots) →
       c.ring.ccount < c.ring.cap → s.agentStore (ctxAgent c.ctx) (c.ring.entryVa (c.ring.chead + c.ring.ccount)) k.entry = .ok s2 →
       ∃ t, exec (.chput a b) s = .next t ∧ s2.SameBytes t ∧
       t.chan? c.ctx c.num = some { c with ring := { c.ring with ccount := c.ring.ccount + 1 } } ∧
       ({ s.th with seen := [] } : Thread).Done t.th 0 0 s.th.ffl s.th.dz s.th.srnd) ∧
     (∀ u us g d dl, ok → c.fault = none → c.run = none → s.Calm → first → c.rendezvous = true → c.getters = u :: us → u ∉ us →
       s.getT u = some g → g.mode = .waiting → g.wait = .chget d c.num dl → (dl = 0 ∨ s.clk ≤ dl) → ∃ t w, exec (.chput a b) s = .next t ∧ s.SameBytes t ∧ t.getT u = some w ∧
       (g.setPayload k).Done w d (BitVec.ofNat 64 (k.mask + k.tag * 2 ^ 16)) g.ffl g.dz g.srnd ∧
       t.chan? c.ctx c.num = some { c with taken := (c.taken + 1) % 2 ^ 32, getters := us } ∧
       ({ s.th with seen := [] } : Thread).Done t.th 0 0 s.th.ffl s.th.dz s.th.srnd) ∧
     (ok → c.fault = none → s.Calm →
       (c.run.isSome = true ∨ ¬ first ∨ (c.ring.room = false ∧ (c.rendezvous = true → s.getters c = [])) ∨
         (c.rendezvous = true ∧ s.getters c = [] ∧ s.takerReady c = false)) →
       ∃ t, exec (.chput a b) s = .next t ∧ t.th.mode = .waiting ∧ t.th.wait = .chput c.num k ∧ t.th.pc = s.th.pc ∧ t.chans = s.chans)) ∧
   (∀ (s : State) (d a b : Spec) (c : Chan), s.Free (.chget d a b) → s.chanOf s.th.ctx (s.th.read a) = some c → s.th.inflight = [] →
     (c.cons ≠ 2 → s.Traps (.chget d a b) { code := .prot }) ∧
     (∀ k ks, c.cons = 2 → c.getters = [] → c.ring.q = k :: ks → ∃ t, exec (.chget d a b) s = .next t ∧
       t.chan? c.ctx c.num = some { c with ring := { c.ring with q := ks }, taken := (c.taken + 1) % 2 ^ 32 } ∧
       { t with th := s.th, cores := s.cores, chans := s.chans } = s ∧
       (∀ l : Fin 8, d.toNat ≠ 32 + l.val → t.th.q[l] = BitVec.ofNat 64 (k.lane (2 * l.val) + k.lane (2 * l.val + 1) * 2 ^ 32)) ∧
       (s.th.setPayload k).Done t.th d (BitVec.ofNat 64 (k.mask + k.tag * 2 ^ 16)) s.th.ffl s.th.dz s.th.srnd) ∧
     (∀ bs, c.cons = 2 → c.getters = [] → c.ring.q = [] → 0 < c.ring.ccount → c.ring.slots = 0 → s.chanMay c = true →
       s.agentRead (ctxAgent c.ctx) (c.ring.entryVa c.ring.chead) 72 = .ok bs →
       let k := entryToken bs
       ∃ t, exec (.chget d a b) s = .next t ∧ s.SameBytes t ∧
       t.chan? c.ctx c.num = some { c with ring := c.ring.advance, taken := (c.taken + 1) % 2 ^ 32, fault := none } ∧
       (s.th.setPayload k).Done t.th d (BitVec.ofNat 64 (k.mask + k.tag * 2 ^ 16)) s.th.ffl s.th.dz s.th.srnd) ∧
     (∀ p ps k, c.cons = 2 → c.getters = [] → c.rendezvous = true → c.ring.q = [] → c.ring.ccount = 0 → c.run = none →
       s.putters c.ctx c.num = p :: ps → p.wait = .chput c.num k → s.Holds p.uid p → ∃ t, exec (.chget d a b) s = .next t ∧
       s.Completes t p.uid 0 0 ∧ s.SameBytes t ∧ t.chan? c.ctx c.num = some { c with taken := (c.taken + 1) % 2 ^ 32 } ∧
       (s.th.setPayload k).Done t.th d (BitVec.ofNat 64 (k.mask + k.tag * 2 ^ 16)) s.th.ffl s.th.dz s.th.srnd) ∧
     (c.cons = 2 → c.rendezvous = false → (s.getters c ≠ [] ∨ (c.ring.q = [] ∧ c.ring.ccount = 0)) → ∃ t, exec (.chget d a b) s = .next t ∧
       t.th.mode = .waiting ∧ t.th.pc = s.th.pc ∧
       t.th.wait = .chget d c.num (if (s.th.read b).toNat = 0 then 0 else s.clk + (s.th.read b).toNat) ∧
       t.chan? c.ctx c.num = some { c with getters := c.getters ++ [s.th.uid] })) ∧
   (∀ (s : State) (d a : Spec) (c : Chan), s.Free (.chwin d a) → s.chanOf s.th.ctx (s.th.read a) = some c →
     ∃ t, exec (.chwin d a) s = .next t ∧
       s.Plain t d (BitVec.ofNat 64 (c.ring.q.length % 256 + c.ring.ccount % 2 ^ 32 * 2 ^ 8 + c.ring.slots % 256 * 2 ^ 40))) ∧
   (∀ (s : State) (d a : Spec) (c : Chan), s.Free (.chsync d a) → s.chanOf s.th.ctx (s.th.read a) = some c →
     (c.ring.q = [] ∧ c.ring.ccount = 0 → ∃ t, exec (.chsync d a) s = .next t ∧ s.Plain t d (BitVec.ofNat 64 c.taken)) ∧
     (¬ (c.ring.q = [] ∧ c.ring.ccount = 0) → ∃ t, exec (.chsync d a) s = .next t ∧ { t with th := s.th } = s ∧ t.th.mode = .waiting ∧
       t.th.wait = .chsync d c.num ∧ t.th.pc = s.th.pc))) ∧
  (∀ (s : State) (u : Nat) (t : Thread) (c : Chan), s.Holds u t → t.mode = .waiting → t.inflight = [] → s.chan? t.ctx c.num = some c →
     (∀ k e, t.wait = .chput c.num k → c.fault = some e → c.run = none → (s.putters t.ctx c.num).head?.map Thread.uid = some u →
       exec (.chputEnter u) s = .next ((s.setChan { c with fault := none }).takeFault t e t.word).unstall) ∧
     (∀ k, t.wait = .chput c.num k → c.fault = none → c.run = none → (s.putters t.ctx c.num).head?.map Thread.uid = some u →
       c.ring.ccount = 0 → c.ring.q.length < c.ring.slots → ∃ s1, exec (.chputEnter u) s = .next s1 ∧ s.Completes s1 u 0 0 ∧ s.SameBytes s1 ∧
       s1.chan? c.ctx c.num = some { c with ring := { c.ring with q := c.ring.q ++ [k] } }) ∧
     (∀ d dl k ks us, t.wait = .chget d c.num dl → (dl = 0 ∨ s.clk ≤ dl) → c.getters = u :: us → u ∉ us → c.ring.q = k :: ks → ∃ s1 w,
       exec (.chgetTake u) s = .next s1 ∧ s1.getT u = some w ∧ s.SameBytes s1 ∧
       (t.setPayload k).Done w d (BitVec.ofNat 64 (k.mask + k.tag * 2 ^ 16)) t.ffl t.dz t.srnd ∧
       s1.chan? c.ctx c.num = some { c with ring := { c.ring with q := ks }, taken := (c.taken + 1) % 2 ^ 32, getters := us }) ∧
     (∀ d dl, t.wait = .chget d c.num dl → dl ≠ 0 → dl ≤ s.clk →
       (dl < s.clk ∨ (c.ring.q = [] ∧ c.ring.ccount = 0 ∧ (c.rendezvous = true → s.putters c.ctx c.num = []))) → ∃ s1,
       exec (.chgetTimeout u) s = .next s1 ∧ s.Completes s1 u d (BitVec.ofNat 64 (2 ^ 63)) ∧ s.SameBytes s1 ∧
       s1.chan? c.ctx c.num = some { c with getters := c.getters.filter (fun x => x != u) }) ∧
     (∀ d, t.wait = .chsync d c.num → c.ring.q = [] → c.ring.ccount = 0 → ∃ s1,
       exec (.chsyncDrained u) s = .next s1 ∧ s.Completes s1 u d (BitVec.ofNat 64 c.taken) ∧ s1.chans = s.chans ∧ s.SameBytes s1))

/-- R274, R275: slipr reads a parked slip of the context into q0 to q7 and d; sliprep writes the answer to its entry and answers it, after
which the handle names no parked slip. A handle that names none raises PROT. -/
def Obligations.CallSlips : Prop :=
  (∀ (s : State) (d a : Spec), s.Free (.slipr d a) → s.th.inflight = [] →
    (s.slipOf s.th.ctx (s.th.read a) = none → s.Traps (.slipr d a) { code := .prot }) ∧
    (∀ r c x bs, s.slipOf s.th.ctx (s.th.read a) = some (r, c, x) → s.agentRead (ctxAgent r.ctx) (c.slipAddr x.idx) 70 = .ok bs →
      ∃ t, exec (.slipr d a) s = .next t ∧ { t with th := s.th, cores := s.cores } = s ∧
        (s.th.setPayload { tag := 0, mask := 0, lanes := lanesOf bs }).Done t.th d
          (BitVec.ofNat 64 (ofLe ((bs.drop 64).take 4) + entryTag (ofLe ((bs.drop 68).take 1)) * 2 ^ 32)) s.th.ffl s.th.dz s.th.srnd)) ∧
  (∀ (s : State) (a b : Spec), s.Free (.sliprep a b) → s.th.inflight = [] →
    let h := s.th.read b
    let tag := fieldOf h 16 3
    (s.slipOf s.th.ctx (s.th.read a) = none → s.Traps (.sliprep a b) { code := .prot }) ∧
    (∀ r c x, s.slipOf s.th.ctx (s.th.read a) = some (r, c, x) → ¬ (tag = 0 ∨ tag = 5 ∨ tag = 6) → s.Traps (.sliprep a b) { code := .prot }) ∧
    (∀ r c x s2 s3, s.slipOf s.th.ctx (s.th.read a) = some (r, c, x) → (tag = 0 ∨ tag = 5 ∨ tag = 6) → s.Calm → s.th.seen = [] →
      let k : Token := { tag := tag, mask := fieldOf h 0 16, lanes := s.th.lanes }
      s.agentStore (ctxAgent r.ctx) (c.slipAddr x.idx) (k.payload ++ leBytes 2 k.mask) = .ok s2 →
      s2.agentStore (ctxAgent r.ctx) (c.slipAddr x.idx + 68) [BitVec.ofNat 8 tag, 2] = .ok s3 →
      ∃ t, exec (.sliprep a b) s = .next t ∧ s3.SameBytes t ∧ t.slipOf s.th.ctx (s.th.read a) = none ∧
        s.th.Done t.th 0 0 s.th.ffl s.th.dz s.th.srnd))

/-- R255, R257 to R260: src and inj send their pending marker, or the next token of their channel or of their launch's ingress port, to
every end of their circuit; at a rendezvous channel they wait for one. snk takes a token, counts it, and passes it on to its channel
until it has reported. The head of a cistern moves to a free slot; where it cannot be read, a channel's next chput takes the fault. -/
def Obligations.RegionsFeedAndTake : Prop :=
  (∀ (s : State) (i : Instr) (rinst nid kind circ : Nat) (r : Region) (c : NodeCfg) (n : NodeSt), s.NodeAt rinst nid kind r c n →
    ((i = .srcSend rinst nid ∧ kind = 1) ∨ (i = .injSend rinst nid ∧ kind = 10)) → c.out0 = some circ → r.SlotFree circ →
    (∀ tag, n.inject = some tag → ∃ t, exec i s = .next t ∧ s.SameBytes t ∧
      t.region? rinst = some ((r.delivered circ (marker tag)).setNode nid (fun m => { m with inject := none }))) ∧
    (∀ x k ks, n.inject = none → n.closed = false → (kind = 1 → c.field 16 1 = 1) → s.chan? r.ctx (c.field 18 2) = some x →
      x.ring.q = k :: ks → ∃ t, exec i s = .next t ∧ s.SameBytes t ∧ t.region? rinst = some (r.delivered circ k) ∧
      t.chan? x.ctx x.num = some { x with ring := { x.ring with q := ks }, taken := (x.taken + 1) % 2 ^ 32 }) ∧
    (∀ x, n.inject = none → n.closed = false → (kind = 1 → c.field 16 1 = 1) → s.chan? r.ctx (c.field 18 2) = some x →
      x.rendezvous = true → x.ring.want = false → x.ring.q = [] → x.ring.ccount = 0 → s.putters x.ctx x.num = [] →
      ∃ t, exec i s = .next t ∧ s.SameBytes t ∧ t.region? rinst = some r ∧
      t.chan? x.ctx x.num = some { x with ring := { x.ring with want := true } }) ∧
    (∀ q q1 k, n.inject = none → n.closed = false → kind = 1 → c.field 16 1 ≠ 1 → s.queue? (r.ticket % 2 ^ 14) = some q →
      (s.refilled q).takeFor r.ticket = some (k, q1) → ∃ t, exec i s = .next t ∧ s.SameBytes t ∧
      t.region? rinst = some (r.delivered circ k) ∧ t.queue? (r.ticket % 2 ^ 14) = some q1)) ∧
  (∀ (s : State) (rinst nid j eos npois late : Nat) (rep : Bool) (r : Region) (c : NodeCfg) (n : NodeSt) (k : Token) (ks : List Token) (e : End),
    s.NodeAt rinst nid 2 r c n → n.var = .snk eos npois late rep → n.closed = false → r.Offers c 0 j k ks e →
    let eos1 := if k.tag = 1 then eos + 1 else eos
    let rep1 := rep || decide (c.field 20 2 ≤ eos1)
    let var : NodeVar := .snk eos1 (if k.tag = 5 then npois + 1 else npois) (if rep = true ∧ k.tag = 0 then late + 1 else late) rep1
    let stays := c.field 16 1 = 0 ∨ rep = true ∨ k.tag = 3 ∨ k.tag = 4
    (stays → ∃ t, exec (.snkTake rinst nid) s = .next t ∧ s.SameBytes t ∧ t.nodeVar rinst nid = some var ∧
      t.endsOf rinst = some (r.without j e ks).ends ∧ t.chans = s.chans) ∧
    (∀ x, ¬ stays → s.chan? r.ctx (c.field 18 2) = some x → x.ring.ccount = 0 → x.ring.q.length < x.ring.slots →
      ∃ t, exec (.snkTake rinst nid) s = .next t ∧ s.SameBytes t ∧ t.nodeVar rinst nid = some var ∧
        t.endsOf rinst = some (r.without j e ks).ends ∧
        t.chan? x.ctx x.num = some { x with ring := { x.ring with q := x.ring.q ++ [k] } }) ∧
    (∀ x s1, ¬ stays → s.chan? r.ctx (c.field 18 2) = some x → ¬ (x.ring.ccount = 0 ∧ x.ring.q.length < x.ring.slots) →
      x.ring.ccount < x.ring.cap →
      s.agentStore (ctxAgent x.ctx) (x.ring.entryVa (x.ring.chead + x.ring.ccount)) k.entry = .ok s1 →
      ∃ t, exec (.snkTake rinst nid) s = .next t ∧ s1.SameBytes t ∧ t.nodeVar rinst nid = some var ∧
        t.endsOf rinst = some (r.without j e ks).ends ∧
        t.chan? x.ctx x.num = some { x with ring := { x.ring with ccount := x.ring.ccount + 1 } })) ∧
  (∀ (s : State) (ctx num : Nat) (x : Chan), s.chan? ctx num = some x → 0 < x.ring.ccount → x.ring.q.length < x.ring.slots →
    s.chanMay x = true →
    (∀ bs, s.agentRead (ctxAgent ctx) (x.ring.entryVa x.ring.chead) 72 = .ok bs →
      ∃ t, exec (.cisternRefill true ctx num) s = .next t ∧ s.SameBytes t ∧ t.chan? ctx num = some { x with fault := none, ring := { x.ring with
        q := x.ring.q ++ [entryToken bs], chead := (x.ring.chead + 1) % x.ring.cap, ccount := x.ring.ccount - 1 } }) ∧
    (∀ e, s.agentRead (ctxAgent ctx) (x.ring.entryVa x.ring.chead) 72 = .error e → s.chanOwner x = none →
      ∃ t, exec (.cisternRefill true ctx num) s = .next t ∧ s.SameBytes t ∧ t.chan? ctx num = some { x with fault := some e })) ∧
  (∀ (s : State) (rinst j : Nat) (r : Region) (e : End) (bs : List Byte), s.region? rinst = some r → r.ends[j]? = some e → e.timed = false →
    (∀ m ∈ r.nodes, m.nid = r.circNode e.circ → m.may 8 = true) → 0 < e.ring.ccount → e.ring.q.length < e.ring.slots →
    s.agentRead (ctxAgent r.ctx) (e.ring.entryVa e.ring.chead) 72 = .ok bs →
    ∃ t, exec (.cisternRefill false rinst j) s = .next t ∧ s.SameBytes t ∧ t.endsOf rinst = some (r.ends.set j { e with ring := { e.ring with
      q := e.ring.q ++ [entryToken bs], chead := (e.ring.chead + 1) % e.ring.cap, ccount := e.ring.ccount - 1 } }))

/-- R168, R216, R217, R229, R230, R251, R255: in a clk in which every due firing can take place, all do, and the schedule moves one clk on;
in one in which none can, none of an older iteration either, and no row or marker leaves a drain for which another marker waits (log entry
24), the region stalls: tiles and tokens stay, and at most a consumer begins to wait at a rendezvous (log entry 21). A region that does not
run, waits for its cistern, or is gated, does not step. -/
def Obligations.RegionSchedule : Prop :=
  (∀ (s : State) (rinst : Nat) (r : Region), s.region? rinst = some r →
    (r.phase.stepping = false ∨ s.dying.contains r.ticket = true ∨ (s.tlf = true ∧ s.clk % 2 = 1) ∨ s.cisternHeld r = true) →
    exec (.regionStep rinst) s = .next s.unstall) ∧
  (∀ (s : State) (rinst : Nat) (r : Region), s.region? rinst = some r → r.phase.stepping = true → s.cisternHeld r = false →
    s.dying.contains r.ticket = false → ¬ (s.tlf = true ∧ s.clk % 2 = 1) →
    let x := tryClk s r r.stuckCircs (r.due r.sclk)
    (x.err = none → x.bad = none → x.late = [] → ∃ t r1, exec (.regionStep rinst) s = .next t ∧ t.region? rinst = some r1 ∧
      r1.sclk = r.sclk + 1 ∧ r1.tiles = x.r.tiles ∧ ((∀ n ∈ r.nodes, n.fault = none) → r1.nodes = r.nodes) ∧ r1.img = r.img ∧
      r1.phase = r.phase ∧ x.s.SameBytes t) ∧
    (r.due r.sclk = [] → ∃ t r1, exec (.regionStep rinst) s = .next t ∧ t.region? rinst = some r1 ∧ r1.sclk = r.sclk + 1 ∧
      r1.tiles = r.tiles ∧ s.SameBytes t) ∧
    (x.err = none → x.late ≠ [] → olderFrom s r r.stuckCircs r.depth [] (x.late.foldl Nat.min r.sclk) r.sclk = none →
      (∀ j ∈ x.wait, takeRow s r r.stuckCircs j = none) →
      (r.openEnds (fun e => !e.node) = [] → exec (.regionStep rinst) s = .next ({ s with free := s.free + 1 } : State).unstall) ∧
      ∃ t r1, exec (.regionStep rinst) s = .next t ∧ t.region? rinst = some r1 ∧ s.SameBytes t ∧
        { r1 with ends := r.ends } = r ∧ r1.ends.map (fun e => { e with ring := { e.ring with want := false } }) =
          r.ends.map (fun e => { e with ring := { e.ring with want := false } })))

/-- R276 to R288: agn starts its runs and emits blocks and markers, reads up to eight blocks ahead while its output has no room, and
pauses at a fault on the block that it is to emit. memg takes an index token and sends the elements that it names; mems takes index and
data and writes the elements; a marker on the second input of either is discarded before anything else is taken. A token of a node that
others are chained after first enters the compare queue (log entries 25 and 30). slh begins a pass and sends the positions of set bits. -/
def Obligations.MemoryNodes : Prop :=
  (∀ (s : State) (rinst nid : Nat) (r : Region) (c : NodeCfg) (n : NodeSt) (s0 s1 : Stream) (started : Bool),
    s.NodeAt rinst nid 3 r c n → n.var = .agn s0 s1 started →
    let of (st : Nat) : Stream := if st = 0 then s0 else s1
    let base (st : Nat) (off : Int) : Nat := ((((c.agn st).blk : Int) + off) % 2 ^ 50).toNat
    let run (st : Nat) (off : Int) (m : Option Token) : Stream :=
      if (c.agn st).used then { Stream.run (base st off) m with tr := (of st).tr } else Stream.idle
    let ends (st : Nat) (k : Token) : Stream := if (c.agn st).used then { Stream.idle with mark := some k, tr := (of st).tr } else Stream.idle
    (c.in0 = none → started = false → ∃ t, exec (.agnRunStart rinst nid) s = .next t ∧ s.SameBytes t ∧
      t.nodeVar rinst nid = some (.agn (run 0 0 (some (marker 1))) (run 1 0 (some (marker 1))) true)) ∧
    (∀ j k ks e, c.in0 ≠ none → n.closed = false → s0.done = true → s1.done = true → r.Offers c 0 j k ks e →
      let off (st : Nat) : Int := toSigned 64 (k.lane (2 * st) % 2 ^ 32 + k.lane (2 * st + 1) % 2 ^ 32 * 2 ^ 32)
      ∃ t, exec (.agnRunStart rinst nid) s = .next t ∧ s.SameBytes t ∧ t.endsOf rinst = some (r.without j e ks).ends ∧
        t.nodeVar rinst nid = some (if k.tag = 0 then .agn (run 0 (off 0) none) (run 1 (off 1) none) true else .agn (ends 0 k) (ends 1 k) true)) ∧
    (∀ st circ, (st = 0 ∧ c.out0 = some circ) ∨ (st = 1 ∧ c.out1 = some circ) → (c.agn st).used = true →
      ((c.agn st).cls = true → s.deepHeld r.ctx = false) →
      let cur := of st
      let var (y : Stream) : NodeVar := if st = 0 then .agn y s1 started else .agn s0 y started
      (r.SlotFree circ → cur.eor = true → ∃ t, exec (.agnEmit rinst nid st) s = .next t ∧ s.SameBytes t ∧
        t.endsOf rinst = some (r.delivered circ (marker 2)).ends ∧ t.nodeVar rinst nid = some (var { cur with eor := false })) ∧
      (∀ l tr s2, r.SlotFree circ → cur.eor = false → cur.active = true → cur.ahead = [] →
        s.readBlock r (c.agn st) cur ((c.agn st).block cur) = .ok (l, tr, s2) →
        ∃ t, exec (.agnEmit rinst nid st) s = .next t ∧ s.SameBytes t ∧ t.endsOf rinst = some (r.delivered circ (dataToken l)).ends ∧
          t.nodeVar rinst nid = some (var { (c.agn st).next cur with tr := tr })) ∧
      (∀ l ls, r.SlotFree circ → cur.eor = false → cur.active = true → cur.ahead = l :: ls →
        ∃ t, exec (.agnEmit rinst nid st) s = .next t ∧ s.SameBytes t ∧ t.endsOf rinst = some (r.delivered circ (dataToken l)).ends ∧
          t.nodeVar rinst nid = some (var { (c.agn st).next cur with ahead := ls })) ∧
      (∀ tr, r.SlotFree circ → cur.eor = false → cur.active = true → cur.ahead = [] →
        s.readBlock r (c.agn st) cur ((c.agn st).block cur) = .error tr →
        ∃ t, exec (.agnEmit rinst nid st) s = .next t ∧ t.nodePaused rinst nid = some { tr with clk := some s.clk } ∧
          t.nodeVar rinst nid = some (.agn { s0 with ahead := [] } { s1 with ahead := [] } started)) ∧
      (∀ y l tr s2, r.hasRoom circ = false → cur.ahead.length < 9 → (c.agn st).after cur.ahead.length cur = some y →
        s.readBlock r (c.agn st) cur ((c.agn st).block y) = .ok (l, tr, s2) →
        ∃ t, exec (.agnEmit rinst nid st) s = .next t ∧ s.SameBytes t ∧ t.endsOf rinst = some r.ends ∧
          t.nodeVar rinst nid = some (var { cur with ahead := cur.ahead ++ [l], tr := tr })) ∧
      (∀ k, r.SlotFree circ → cur.eor = false → cur.active = false → cur.mark = some k → ∃ t, exec (.agnEmit rinst nid st) s = .next t ∧
        s.SameBytes t ∧ t.endsOf rinst = some (r.delivered circ k).ends ∧ t.nodeVar rinst nid = some (var { cur with mark := none })))) ∧
  (∀ (s : State) (rinst nid circ : Nat) (r : Region) (c : NodeCfg) (n : NodeSt) (idx data guard : Option Token) (lane : Nat) (out : List Nat)
    (mask seen : Nat), s.NodeAt rinst nid 4 r c n → n.var = .mem idx data guard lane out mask seen → c.out0 = some circ → r.SlotFree circ →
    (c.mem.cls = true → s.deepHeld r.ctx = false) →
    let clean := c.g = true → guard = none → s.stray r c = none
    (∀ j k ks e, n.closed = false → c.g = true → guard = none → r.Offers c 1 j k ks e → k.tag ≠ 0 → ∃ t, exec (.memgGather rinst nid) s = .next t ∧
      s.SameBytes t ∧ t.endsOf rinst = some (r.without j e ks).ends ∧ t.nodeVar rinst nid = some n.var) ∧
    (∀ j k ks e, idx = none → n.closed = false → clean → r.Offers c 0 j k ks e → k.tag = 0 → ∃ t, exec (.memgGather rinst nid) s = .next t ∧
      s.SameBytes t ∧ t.endsOf rinst = some (r.without j e ks).ends ∧
      t.nodeVar rinst nid = some (.mem (some k) data guard 0 (List.replicate 16 0) 0 (seen + 1))) ∧
    (∀ j k ks e, idx = none → n.closed = false → clean → r.Offers c 0 j k ks e → k.tag ≠ 0 → ∃ t, exec (.memgGather rinst nid) s = .next t ∧
      s.SameBytes t ∧ t.endsOf rinst = some ((r.without j e ks).delivered circ k).ends ∧ t.nodeVar rinst nid = some n.var) ∧
    (∀ j k gk ks e, idx = some k → c.g = true → guard = none → r.Offers c 1 j gk ks e → ∃ t, exec (.memgGather rinst nid) s = .next t ∧
      s.SameBytes t ∧ t.endsOf rinst = some (r.without j e ks).ends ∧
      t.nodeVar rinst nid = some (.mem idx data (if gk.tag = 0 then some gk else none) lane out mask seen)) ∧
    (∀ k, idx = some k → (c.g = true → guard ≠ none) → r.mustEnter nid (seen - 1) = true → r.compares.length < 16 →
      ∃ t r1, exec (.memgGather rinst nid) s = .next t ∧ s.SameBytes t ∧ t.region? rinst = some r1 ∧ { r1 with compares := r.compares } = r ∧
        r1.compares = r.compares ++ [⟨nid, seen - 1, c.ranges k none guard⟩]) ∧
    (∀ k, idx = some k → (c.g = true → guard ≠ none) → r.mustEnter nid (seen - 1) = false →
      s.chainOk r c (seen - 1) (c.ranges k none guard) = true →
      let y := s.gather r c k guard { lane := lane, out := out, mask := mask, err := none }
      (y.err = none → ∃ t, exec (.memgGather rinst nid) s = .next t ∧ s.SameBytes t ∧
        t.endsOf rinst = some (r.delivered circ { tag := 0, mask := y.mask, lanes := y.out }).ends ∧
        t.nodeVar rinst nid = some (.mem none none none 0 [] 0 seen)) ∧
      (∀ tr, y.err = some tr → ∃ t, exec (.memgGather rinst nid) s = .next t ∧ t.nodePaused rinst nid = some { tr with clk := some s.clk } ∧
        t.nodeVar rinst nid = some (.mem idx data guard y.lane y.out y.mask seen)) ∧
      (lane = 0 → out = List.replicate 16 0 → mask = 0 → c.g = false → c.mem.esz ≠ 8 →
        (∀ l < 16, ∀ i, k.active l = true → c.mem.index k l = some i → ∃ v, s.agentNat (r.memAgent c.mem.cls) (c.mem.addr i) c.mem.esz = .ok v) →
        y.err = none ∧ y.out = (List.range 16).map (fun l => s.gathered r c.mem k l) ∧
        (∀ l < 16, y.mask.testBit l = (k.active l && (c.mem.index k l).isSome))))) ∧
  (∀ (s : State) (rinst nid : Nat) (r : Region) (c : NodeCfg) (n : NodeSt) (idx data guard : Option Token) (lane : Nat) (out : List Nat)
    (mask seen : Nat), s.NodeAt rinst nid 5 r c n → n.var = .mem idx data guard lane out mask seen →
    (c.mem.cls = true → s.deepHeld r.ctx = false) →
    let open' := n.closed = false ∧ (if c.g then guard else data) = none
    (∀ j k ks e, open' → r.Offers c 1 j k ks e → k.tag ≠ 0 → ∃ t, exec (.memsWrite rinst nid) s = .next t ∧
      s.SameBytes t ∧ t.endsOf rinst = some (r.without j e ks).ends ∧ t.nodeVar rinst nid = some n.var) ∧
    (∀ j k ks e, idx = none → n.closed = false → (open' → s.stray r c = none) → r.Offers c 0 j k ks e → ∃ t, exec (.memsWrite rinst nid) s = .next t ∧
      s.SameBytes t ∧ t.endsOf rinst = some (r.without j e ks).ends ∧
      t.nodeVar rinst nid = some (if k.tag = 0 then .mem (some k) none none 0 [] 0 (seen + 1) else n.var)) ∧
    (∀ j k ks e x, idx = some x → data = none → (open' → s.stray r c = none) → r.Offers c (if c.g then 0 else 1) j k ks e → k.tag = 0 →
      ∃ t, exec (.memsWrite rinst nid) s = .next t ∧ s.SameBytes t ∧ t.endsOf rinst = some (r.without j e ks).ends ∧
        t.nodeVar rinst nid = some (.mem idx (some k) guard lane out mask seen)) ∧
    (∀ j gk ks e x d, idx = some x → data = some d → c.g = true → guard = none → r.Offers c 1 j gk ks e →
      ∃ t, exec (.memsWrite rinst nid) s = .next t ∧ s.SameBytes t ∧ t.endsOf rinst = some (r.without j e ks).ends ∧
        t.nodeVar rinst nid = some (.mem idx data (if gk.tag = 0 then some gk else none) lane out mask seen)) ∧
    (∀ x d, idx = some x → data = some d → (c.g = true → guard ≠ none) → r.mustEnter nid (seen - 1) = true → r.compares.length < 16 →
      ∃ t r1, exec (.memsWrite rinst nid) s = .next t ∧ s.SameBytes t ∧ t.region? rinst = some r1 ∧ { r1 with compares := r.compares } = r ∧
        r1.compares = r.compares ++ [⟨nid, seen - 1, c.ranges x data guard⟩]) ∧
    (∀ x d, idx = some x → data = some d → (c.g = true → guard ≠ none) → r.mustEnter nid (seen - 1) = false →
      s.chainOk r c (seen - 1) (c.ranges x data guard) = true →
      let y := s.scatter r c x d guard lane
      (y.err = none → ∃ t, exec (.memsWrite rinst nid) s = .next t ∧ y.s.SameBytes t ∧ t.endsOf rinst = some r.ends ∧
        t.nodeVar rinst nid = some (.mem none none none 0 [] 0 seen)) ∧
      (∀ tr, y.err = some tr → ∃ t, exec (.memsWrite rinst nid) s = .next t ∧ t.nodePaused rinst nid = some { tr with clk := some s.clk } ∧
        t.nodeVar rinst nid = some (.mem idx data guard y.lane out mask seen)))) ∧
  (∀ (s : State) (rinst nid circ : Nat) (r : Region) (c : NodeCfg) (n : NodeSt) (pos : Option (Nat × Nat)) (started eor eos : Bool)
    (word sum : Option (Nat × Nat)), s.NodeAt rinst nid 9 r c n → n.var = .slh pos started eor eos word sum → c.out0 = some circ → r.SlotFree circ →
    let f := c.field 36 1
    (f.testBit 1 = true → s.deepHeld r.ctx = false) →
    (pos = none → eor = false → eos = false → c.in0 = none → started = false → ∃ t, exec (.slhEmit rinst nid) s = .next t ∧ s.SameBytes t ∧
      t.nodeVar rinst nid = some (.slh (some (0, Nat.min (c.field 32 4) (2 ^ 32))) true false true none none)) ∧
    (∀ j k ks e, pos = none → eor = false → eos = false → c.in0 ≠ none → n.closed = false → r.Offers c 0 j k ks e →
      let lo := k.lane 0 % 2 ^ 32
      let len := if k.lane 1 % 2 ^ 32 = 0 then c.field 32 4 else k.lane 1 % 2 ^ 32
      ∃ t, exec (.slhEmit rinst nid) s = .next t ∧ s.SameBytes t ∧
        (k.tag = 0 → t.endsOf rinst = some (r.without j e ks).ends ∧
          t.nodeVar rinst nid = some (.slh (some (lo, Nat.min (lo + len) (2 ^ 32))) true false false none none)) ∧
        (k.tag ≠ 0 → t.endsOf rinst = some ((r.without j e ks).delivered circ k).ends ∧ t.nodeVar rinst nid = some n.var)) ∧
    (∀ p hi found p1 left, pos = some (p, hi) →
      s.scanBits (r.memAgent (f.testBit 1)) (c.field 16 8) (c.field 24 8) (f.testBit 0) hi (hi / 64 + 2) { word := word, sum := sum } p [] = .ok (found, p1, left) →
      ∃ t, exec (.slhEmit rinst nid) s = .next t ∧ s.SameBytes t ∧
        t.endsOf rinst = some (if found = [] then r.ends else (r.delivered circ (maskedToken found (2 ^ found.length - 1))).ends) ∧
        t.nodeVar rinst nid = some (if hi ≤ p1 then .slh none started (f.testBit 2) eos none none
          else .slh (some (p1, hi)) started eor eos left.word left.sum)) ∧
    (∀ p hi tr, pos = some (p, hi) →
      s.scanBits (r.memAgent (f.testBit 1)) (c.field 16 8) (c.field 24 8) (f.testBit 0) hi (hi / 64 + 2) { word := word, sum := sum } p [] = .error tr →
      ∃ t, exec (.slhEmit rinst nid) s = .next t ∧ t.nodePaused rinst nid = some { tr with clk := some s.clk } ∧ t.nodeVar rinst nid = some n.var) ∧
    (pos = none → eor = true → ∃ t, exec (.slhEmit rinst nid) s = .next t ∧ s.SameBytes t ∧
      t.endsOf rinst = some (r.delivered circ (marker 2)).ends ∧ t.nodeVar rinst nid = some (.slh none started false eos none none)) ∧
    (pos = none → eor = false → eos = true → ∃ t, exec (.slhEmit rinst nid) s = .next t ∧ s.SameBytes t ∧
      t.endsOf rinst = some (r.delivered circ (marker 1)).ends ∧ t.nodeVar rinst nid = some (.slh none started false false none none)))

/-- R246, R265 to R269, R285, R286, R289 to R292, R363: while it has a free tag, sluice takes a token, performs its updates at the module's memory one by
one or sends them on their link, and sends replies; it takes completions, and one that fails raises SLUICE_OP. accn adds a token to its
sums, ends a sum at a marker and sends what is due; its draws in mode SR are free values (log entry 22). esc parks a token in a slip and
starts a thread for it, and answered slips leave, their entries free. A marker on the second input of sluice or esc is discarded. A token of
a sluice that others are chained after first enters the compare queue (log entries 25 and 30). -/
def Obligations.SluiceSumsEscapes : Prop :=
  (∀ (s : State) (rinst nid : Nat) (r : Region) (c : NodeCfg) (n : NodeSt) (tok guard : Option Token) (u : Nat) (reqs : List SluiceReq)
    (replies : List Reply) (seen : Nat), s.NodeAt rinst nid 8 r c n → n.var = .sluice tok guard u reqs replies seen →
    let q := c.sluice
    let waits := ∀ y ys, replies = y :: ys → ¬ (y.closed = true ∧ y.left = 0)
    let clean := c.g = true → guard = none → s.stray r c = none
    (∀ j k ks e, waits → freeTag q reqs ≠ none → n.closed = false → c.g = true → guard = none → r.Offers c 1 j k ks e → k.tag ≠ 0 →
      ∃ t, exec (.sluiceSend rinst nid) s = .next t ∧ s.SameBytes t ∧ t.endsOf rinst = some (r.without j e ks).ends ∧
        t.nodeVar rinst nid = some n.var) ∧
    (∀ j k ks e, waits → freeTag q reqs ≠ none → tok = none → n.closed = false → clean → r.Offers c 0 j k ks e →
      ∃ t, exec (.sluiceSend rinst nid) s = .next t ∧ s.SameBytes t ∧ t.endsOf rinst = some (r.without j e ks).ends ∧
        t.nodeVar rinst nid = some (if k.tag = 0 then .sluice (some k) none 0 reqs
            (if q.ret then replies ++ [⟨seen, { tag := 0, mask := 0, lanes := k.lanes }, 0, false⟩] else replies) (seen + 1)
          else .sluice none none 0 reqs (replies ++ [⟨seen, k, 0, true⟩]) seen)) ∧
    (∀ j k gk ks e, waits → freeTag q reqs ≠ none → tok = some k → c.g = true → guard = none → r.Offers c 1 j gk ks e →
      ∃ t, exec (.sluiceSend rinst nid) s = .next t ∧ s.SameBytes t ∧ t.endsOf rinst = some (r.without j e ks).ends ∧
        t.nodeVar rinst nid = some (.sluice tok (if gk.tag = 0 then some gk else none) u reqs replies seen)) ∧
    (∀ k tag, waits → tok = some k → (c.g = true → guard ≠ none) → freeTag q reqs = some tag → r.mustEnter nid (seen - 1) = false →
      s.chainOk r c (seen - 1) (c.updates k guard) = true →
      let more := replies.map (fun y => if y.id = seen - 1 ∧ y.tok.tag = 0 then { y with left := y.left + 1 } else y)
      (16 / q.layout.1 ≤ u → ∃ t, exec (.sluiceSend rinst nid) s = .next t ∧ s.SameBytes t ∧
        t.nodeVar rinst nid = some (.sluice none none 0 reqs (replies.map (fun y => if y.id = seen - 1 then { y with closed := true } else y)) seen)) ∧
      (u < 16 / q.layout.1 → q.acts c.g k guard u = none → ∃ t, exec (.sluiceSend rinst nid) s = .next t ∧ s.SameBytes t ∧
        t.nodeVar rinst nid = some (.sluice tok guard (u + 1) reqs replies seen)) ∧
      (∀ i pa, u < 16 / q.layout.1 → q.acts c.g k guard u = some i →
        let va := q.vbase + i * q.size
        (∀ y ∈ reqs, y.va ≠ va) → s.sluicePlace r q va = .ok pa →
        let m := 2 ^ (8 * q.size)
        let v := q.value k (q.layout.1 * u + q.layout.2.2) % m
        let x := q.value k (q.layout.1 * u + q.layout.2.1) % m
        (q.tgt = 2 → q.op ≤ 9 → ∃ t, exec (.sluiceSend rinst nid) s = .next t ∧ s.SameBut t .mem pa q.size ∧
          t.readNat .mem pa q.size = amoOf q.op q.size (s.readNat .mem pa q.size) v x ∧
          t.nodeVar rinst nid = some (.sluice tok guard (u + 1) (reqs ++ [⟨tag, va, seen - 1, u, some (s.readNat .mem pa q.size), s.peerPort pa⟩])
            more seen)) ∧
        (q.tgt ≠ 2 → s.linkFull pa = false → ∃ t, exec (.sluiceSend rinst nid) s = .next t ∧ s.SameBytes t ∧
          t.nodeVar rinst nid = some (.sluice tok guard (u + 1) (reqs ++ [⟨tag, va, seen - 1, u, none, s.peerPort pa⟩]) more seen)))) ∧
    (∀ k, waits → tok = some k → (c.g = true → guard ≠ none) → freeTag q reqs ≠ none → r.mustEnter nid (seen - 1) = true →
      r.compares.length < 16 →
      ∃ t r1, exec (.sluiceSend rinst nid) s = .next t ∧ s.SameBytes t ∧ t.region? rinst = some r1 ∧ { r1 with compares := r.compares } = r ∧
        r1.compares = r.compares ++ [⟨nid, seen - 1, c.updates k guard⟩]) ∧
    (∀ y tag st old, reqs.find? (fun z => z.tag == tag) = some y → (y.old ≠ none ∨ st = 0) →
      let v := y.old.getD old.toNat % 2 ^ (8 * q.size)
      ∃ t, exec (.sluiceCompletion rinst nid tag st old) s = .next t ∧ s.SameBytes t ∧
        t.nodeVar rinst nid = some (.sluice tok guard u (reqs.filter (fun z => z.tag != tag)) (replies.map (fun z =>
          if z.id = y.reply ∧ z.tok.tag = 0 then
            { z with tok := { q.reply z.tok y.u v with mask := (q.reply z.tok y.u v).mask ||| q.replyMask y.u }, left := z.left - 1 }
          else z)) seen)) ∧
    (∀ y tag st old, reqs.find? (fun z => z.tag == tag) = some y → y.old = none → st ≠ 0 →
      ∃ t, exec (.sluiceCompletion rinst nid tag st old) s = .next t ∧
        t.nodePaused rinst nid = some { code := .sluiceOp, addr := BitVec.ofNat 64 y.va, clk := some s.clk } ∧
        t.nodeVar rinst nid = some (.sluice tok guard u (reqs.filter (fun z => z.tag != tag)) replies seen)) ∧
    (∀ y ys circ, replies = y :: ys → y.closed = true → y.left = 0 → freeTag q reqs ≠ none → (y.tok.tag ≠ 3 ∨ reqs = []) →
      c.out0 = some circ → r.SlotFree circ → ∃ t, exec (.sluiceSend rinst nid) s = .next t ∧ s.SameBytes t ∧
        t.endsOf rinst = some (r.delivered circ y.tok).ends ∧ t.nodeVar rinst nid = some (.sluice tok guard u reqs ys seen))) ∧
  (∀ (s : State) (rinst nid : Nat) (r : Region) (c : NodeCfg) (n : NodeSt) (sums : List Nat) (got count : Nat) (turn e0 e1 : Bool)
    (out : List Token) (flg : BitVec 5) (latch : Option Token) (draws : Nat), s.NodeAt rinst nid 6 r c n →
    n.var = .accn sums got count turn e0 e1 out flg latch draws →
    let ifmt := c.field 16 1 % 16
    let ofmt := c.field 16 1 / 16
    let rnd := c.field 17 1 % 8
    let every := c.field 18 2
    let two := c.kfl.testBit 0
    let draw := r.accnDraw nid draws
    let res := accnResult draw ifmt ofmt rnd sums got
    let zeros := List.replicate 16 0
    (∀ k ks circ, out = k :: ks → c.out0 = some circ → r.SlotFree circ → ∃ t, exec (.accnSum rinst nid) s = .next t ∧
      s.SameBytes t ∧ t.endsOf rinst = some (r.delivered circ k).ends ∧
      t.nodeVar rinst nid = some (.accn sums got count turn e0 e1 ks flg latch draws)) ∧
    (∀ j k ks e,
      let port := if turn = true ∨ (two = true ∧ e0 = true ∧ e1 = false) then 1 else 0
      out = [] → n.closed = false → r.Offers c port j k ks e → (k.tag = 4 → latch = none) →
      let a := accnAdd draw ifmt rnd ((c.field 17 1).testBit 3) sums got k
      let count1 := if port = 0 then count + 1 else count
      let sum := accnResult draw ifmt ofmt rnd a.1 a.2.1
      let due := every ≠ 0 ∧ (two = false ∨ (port = 1 ∧ turn = true) ∨ (port = 0 ∧ e1 = true)) ∧ count1 % every = 0
      let f0 := e0 || decide (port = 0)
      let f1 := e1 || decide (port = 1)
      ∃ t, exec (.accnSum rinst nid) s = .next t ∧ s.SameBytes t ∧ t.endsOf rinst = some (r.without j e ks).ends ∧
        (k.tag = 0 → t.nodeVar rinst nid = some (.accn a.1 a.2.1 count1 (two && decide (port = 0) && !e1) e0 e1 (if due then [sum.1] else [])
          (flg ||| a.2.2 ||| (if due then sum.2 else 0)) latch (draws + 1))) ∧
        (k.tag = 2 → two = true → (f0 && f1) = false → t.nodeVar rinst nid = some (.accn sums got count false f0 f1 [] flg latch draws)) ∧
        (k.tag = 2 → (two = true → (f0 && f1) = true) → t.nodeVar rinst nid = some (.accn zeros 0 0 false false false
          ([res.1, marker 2] ++ latch.toList) (flg ||| res.2) none (draws + 1))) ∧
        (k.tag = 1 ∨ k.tag = 3 → t.nodeVar rinst nid = some (.accn zeros 0 0 false false false
          ((if got = 0 then [] else [res.1]) ++ [k] ++ latch.toList) (flg ||| res.2) none (draws + 1))) ∧
        (k.tag = 4 → t.nodeVar rinst nid = some (if got = 0 ∧ count = 0 ∧ e0 = false ∧ e1 = false then
          .accn sums got count turn e0 e1 [k] flg latch draws else .accn sums got count turn e0 e1 [] flg (some k) draws)) ∧
        (5 ≤ k.tag → t.nodeVar rinst nid = some (.accn sums got count turn e0 e1 [k] flg latch draws)))) ∧
  (∀ (s : State) (rinst nid : Nat) (r : Region) (c : NodeCfg) (n : NodeSt) (seq : Nat) (slips : List Slip) (starts : List Nat) (last : Nat),
    s.NodeAt rinst nid 7 r c n → n.var = .esc seq slips starts last →
    (∀ j k ks e s1, starts = [] → n.closed = false → r.Offers c 0 j k ks e → k.tag = 0 → c.g = false → (∀ y ∈ slips, y.idx ≠ seq % c.slips) →
      s.agentStore (ctxAgent r.ctx) (c.slipAddr (seq % c.slips)) (slipEntry k 0xFFFF 1) = .ok s1 →
      let y (uid : Option Nat) : Slip := ⟨seq % c.slips, uid, 1, s.clk, k⟩
      ∃ t, exec (.escTake rinst nid) s = .next t ∧ s1.SameBytes t ∧ t.endsOf rinst = some (r.without j e ks).ends ∧
        (s1.startEscape (r.without j e ks) c (seq % c.slips) last = none →
          t.nodeVar rinst nid = some (.esc (seq + 1) (slips ++ [y none]) [seq % c.slips] last)) ∧
        (∀ s2 uid core, (∀ x ∈ s.threads, x.uid ≠ s.nextId) →
          s1.startEscape (r.without j e ks) c (seq % c.slips) last = some (s2, uid, core) →
          t.nodeVar rinst nid = some (.esc (seq + 1) (slips ++ [y (some s.nextId)]) [] core) ∧
          ∃ th ∈ t.threads, th.uid = s.nextId ∧ th.ctx = r.ctx ∧ th.pc = BitVec.ofNat 64 (c.field 16 8) ∧
            th.g.toList.getD 1 0 = slipHandle r.rinst c.nid (seq % c.slips) ∧ th.g.toList.getD 2 0 = BitVec.ofNat 64 (c.field 24 8))) ∧
    (∀ j k ks e s1, starts = [] → n.closed = false → r.Offers c 0 j k ks e → k.tag ≠ 0 → c.g = false → (∀ y ∈ slips, y.idx ≠ seq % c.slips) →
      s.agentStore (ctxAgent r.ctx) (c.slipAddr (seq % c.slips)) (slipEntry k 0xFFFF 4) = .ok s1 →
      ∃ t, exec (.escTake rinst nid) s = .next t ∧ s1.SameBytes t ∧ t.endsOf rinst = some (r.without j e ks).ends ∧
        t.nodeVar rinst nid = some (.esc (seq + 1) (slips ++ [⟨seq % c.slips, none, 4, s.clk, k⟩]) [] last)) ∧
    (∀ j k ks e, c.g = true → r.Offers c 1 j k ks e → k.tag ≠ 0 → ∃ t, exec (.escTake rinst nid) s = .next t ∧ s.SameBytes t ∧
      t.endsOf rinst = some (r.without j e ks).ends ∧ t.nodeVar rinst nid = some n.var) ∧
    (∀ y k circ s1, nextSlip (c.kfl.testBit 0) s.clk slips = some y → s.slipToken r c y = .ok k → c.out0 = some circ → r.SlotFree circ →
      s.agentStore (ctxAgent r.ctx) (c.slipAddr y.idx + 69) [0] = .ok s1 →
      ∃ t, exec (.escEmit rinst nid) s = .next t ∧ s1.SameBytes t ∧ t.endsOf rinst = some (r.delivered circ k).ends ∧
        t.nodeVar rinst nid = some (.esc seq (slips.filter (fun z => z.idx != y.idx)) starts last)) ∧
    (∀ y tr, nextSlip (c.kfl.testBit 0) s.clk slips = some y → s.slipToken r c y = .error tr → ∃ t, exec (.escEmit rinst nid) s = .next t ∧
      t.nodePaused rinst nid = some { tr with clk := some s.clk } ∧ t.nodeVar rinst nid = some n.var))

/-- R107, R165, R260 to R264, R325, R333, R335: a load that passes its checks makes the image ready in the shadow planes; it comes into
force at the switch, once the regions that held its tiles have ended, and the scratch tiles that no region of its context held are zeros.
A load that fails aborts its launch, and what was in the shadow planes is gone. A region that has drained is free, and its launch's last
one writes the completion word; a region that has checkpointed stops. A token pushed at a bound queue stands in its port or cistern, or
is counted. -/
def Obligations.RegionLifecycle : Prop :=
  (∀ (s : State) (rinst : Nat) (r : Region) (l : Launch) (c : Ctx), s.region? rinst = some r → r.phase = .loading → s.Sole l →
    l.ticket = r.ticket → l.queue = r.ticket % 2 ^ 14 → s.ctx? r.ctx = some c →
    (∀ img, r.shadowBad = false → s.checkImage r.ctx r.code.toNat (s.loadEnv c l r) = .ok img →
      ∃ t, exec (.loadFinish rinst) s = .next t ∧ s.SameBytes t ∧ t.region? rinst = some { r with phase := .checked, shadow := some img }) ∧
    (∀ pa, (r.shadowBad = true ∨ ∃ f, s.checkImage r.ctx r.code.toNat (s.loadEnv c l r) = .error f) → l.spec.region = true →
      l.spec.report = 0 → s.bad = [] → s.NoThreads l.ticket → l.spec.compl.toNat % 8 = 0 →
      s.agentPa (ctxAgent l.ctx) l.spec.compl.toNat .wr = .ok pa →
      ∃ t, exec (.loadFinish rinst) s = .next t ∧ t.reg.launches = [] ∧ (∀ o ∈ t.regions, o.ticket = r.ticket → o.phase = .idle) ∧
        (∀ o ∈ s.regions, o.ticket ≠ r.ticket → o ∈ t.regions) ∧ t.readNat .mem pa 8 / 2 ^ 56 = 3 ∧ s.SameBut t .mem pa 8)) ∧
  (∀ (s : State) (rinst : Nat) (r : Region) (img : Image), s.region? rinst = some r → r.phase = .checked → r.shadow = some img →
    r.shadowBad = false →
    ((∃ o ∈ s.regions, r.meets o = true ∧ o.phase ≠ .idle) → exec (.configSwitch rinst) s = .next s.unstall) ∧
    ((∀ o ∈ s.regions, r.meets o = true → o.phase = .idle) → ∃ t, exec (.configSwitch rinst) s = .next t ∧
      t.region? rinst = some (match r.resume with | some sv => (r.install img).restore sv | none => r.install img) ∧
      (∀ o ∈ s.regions, r.meets o = true → o ∉ t.regions) ∧
      (∀ sp a, (∀ k, sp ≠ .tile k) → t.readByte sp a = s.readByte sp a) ∧
      ∀ k a, a < 2 ^ 18 →
        let here (o : Region) : Bool := o.on (k / 256) (k % 256 / 32) (k % 32) 1 1
        t.readByte (.tile k) a = if here r = true ∧ (∀ o ∈ s.regions, o.rinst ≠ r.rinst → o.ctx = r.ctx → here o = false) then 0
          else s.readByte (.tile k) a)) ∧
  (∀ (s : State) (rinst : Nat) (r : Region) (l : Launch), s.region? rinst = some r → r.phase = .draining → r.reached 3 = true → s.Sole l →
    l.ticket = r.ticket → l.phase = .running → l.abort = false → l.spec.region = true → s.bad = [] → s.NoThreads l.ticket →
    let l1 : Launch := { l.absorb r with left := l.left - 1 }
    (1 < l.left → ∃ t, exec (.regionComplete rinst) s = .next t ∧ s.SameBytes t ∧ t.reg.launches = [l1] ∧
      (t.region? rinst).map Region.phase = some .idle) ∧
    (∀ pa, l.left = 1 → l.spec.compl.toNat % 8 = 0 → s.agentPa (ctxAgent l.ctx) l.spec.compl.toNat .wr = .ok pa →
      ∃ t, exec (.regionComplete rinst) s = .next t ∧ t.reg.launches = [] ∧ (t.region? rinst).map Region.phase = some .idle ∧
        t.readNat .mem pa 8 = l1.word false ∧ s.SameBut t .mem pa 8)) ∧
  (∀ (s : State) (rinst : Nat) (r : Region) (l : Launch) (forced : Bool), s.region? rinst = some r → r.phase = .checkpoint forced →
    (r.reached 4 = false ∨ (∃ n ∈ r.nodes, n.fault ≠ none) → exec (.checkpointComplete rinst) s = .next s.unstall) ∧
    (r.reached 4 = true → (∀ n ∈ r.nodes, n.fault = none) → s.Sole l → l.ticket = r.ticket → (l.phase = .running ∨ l.phase = .preempting) →
      (∃ o ∈ s.regions, o.ticket = r.ticket ∧ o.rinst ≠ rinst ∧ o.phase ≠ .idle ∧ o.phase ≠ .stopped) →
      ∃ t, exec (.checkpointComplete rinst) s = .next t ∧ s.SameBytes t ∧ t.region? rinst = some { r with phase := .stopped } ∧
        t.reg.launches = [l])) ∧
  (∀ (s : State) (qi : Nat) (hdr : BitVec 64) (q : Queue), s.out.booting = false → s.queue? qi = some q → q.bound = true →
    let k : Token := { tag := fieldOf hdr 16 3, mask := fieldOf hdr 0 16, lanes := lanesOf q.payload }
    (¬ (k.tag = 6 ∧ k.mask = 3) → q.awaits = false → (∀ ticket, assoc q.opened q.epoch = some ticket → s.takesTokens ticket = false) →
      ∃ t, exec (.ingressPush qi hdr) s = .next t ∧ s.SameBytes t ∧
        t.queue? qi = some { q with orphan := Nat.min (q.orphan + 1) 0xFFFF }) ∧
    (¬ (k.tag = 6 ∧ k.mask = 3) → (q.awaits = true ∨ ∃ ticket, assoc q.opened q.epoch = some ticket ∧ s.takesTokens ticket = true) →
      s.refilled q = q →
      (q.cist = [] → q.port.length + q.waiting.length < 64 → ∃ t, exec (.ingressPush qi hdr) s = .next t ∧ s.SameBytes t ∧
        t.queue? qi = some { q with port := q.port ++ [(q.epoch, k)], accept := (q.accept + 1) % 2 ^ 32 }) ∧
      (∀ i s1, ¬ (q.cist = [] ∧ q.port.length + q.waiting.length < 64) → q.spillAt = some i →
        s.agentStore (ctxAgent q.ctx) (q.cvbase + 72 * i) k.entry = .ok s1 →
        ∃ t, exec (.ingressPush qi hdr) s = .next t ∧ s1.SameBytes t ∧
          t.queue? qi = some { q with accept := (q.accept + 1) % 2 ^ 32, ctail := (i + 1) % (q.csize / 72), cist := q.cist ++
            [{ epoch := q.epoch, launch := false, ctx := q.ctx, va := q.cvbase + 72 * i }] }) ∧
      (¬ (q.cist = [] ∧ q.port.length + q.waiting.length < 64) → q.spillAt = none → ∃ t, exec (.ingressPush qi hdr) s = .next t ∧
        t.queue? qi = some { q with drop := Nat.min (q.drop + 1) 0xFFFF, dropped := true })))

/-- R337 to R339, R343, R349 to R352: enq hands its request to the registrars, whose answer lands in d; a thread that is pre-empted is saved
(where in the store: log entry 47); each tick lets a node or a thread try again once, the thread in the lowest free slot of its core (log
entry 19); a tick at which its launch does not run passes without success, and after 1,000 ticks a fault is retried no more and, when it has
met its last retry, is fatal, with a record that says so. The watchdogs give up a pre-emption, or abort a launch that does not checkpoint. -/
def Obligations.RequestsAndRetries : Prop :=
  (∀ (s : State) (d a : Spec), s.Free (.enq d a) → (∀ r ∈ regBlock a 3, s.th.busy r = false) →
    let ws := s.th.block a 3
    let w0 := wordAt ws 0
    let q := s.queueOf (fieldOf w0 16 14)
    let legal := enqLegal ws = true ∧ sidesAgree (enqSide ws) = true
    let granted := w0.getLsbD 48 = true → s.semGranted s.th (fieldOf w0 44 4) = true
    let mine := fieldOf w0 0 8 = 5 → q.bound = true ∧ q.ctx = s.th.ctx
    let full := 4 ≤ (s.reg.enqs.filter (fun e => e.core == s.th.core)).length ∨ s.th.busy d = true ∨
      (enqSide ws ≠ [] ∧ 32 ≤ (s.core s.th.core).sb.length)
    (blockOk 3 a = false ∨ ¬ legal → s.Traps (.enq d a) { code := .illegal }) ∧
    (blockOk 3 a = true → legal → ¬ granted → s.Traps (.enq d a) { code := .priv }) ∧
    (blockOk 3 a = true → legal → granted → ¬ mine → s.Traps (.enq d a) { code := .prot }) ∧
    (blockOk 3 a = true → legal → granted → mine → full → exec (.enq d a) s = .next s.stallAt) ∧
    (blockOk 3 a = true → legal → granted → mine → ¬ full → s.Calm → ∃ t, exec (.enq d a) s = .next t ∧
        t.reg = { s.reg with enqs := s.reg.enqs ++ [⟨s.nextId, s.th.uid, s.th.ctx, s.th.core, s.th.prv, ws⟩] } ∧
        ({ s.th with seen := [] } : Thread).Launched t.th s.nextId d ∧
        (t.core s.th.core).sb = (s.core s.th.core).sb ++ (match hull s.th.core s.th.ctx (enqSide ws) with
          | some x => [{ cmd := s.nextId, dst := some x, src := none }]
          | none => []) ∧
        { t with th := s.th, cores := s.cores, nextId := s.nextId, reg := s.reg } = s)) ∧
  (∀ (s s1 : State) (core i : Nat) (e : Enq) (r : Reply0) (t : Thread) (f : InFlight) (x : Spec),
    s.reg.enqs.find? (fun y => y.id == i && y.core == core) = some e → s.enqHeld e = false →
    ({ s with reg := { s.reg with enqs := s.reg.enqs.filter (fun y => y.id != i) } } : State).perform e = (r, s1) →
    s1.Holds e.uid t → t.mode = .ready → t.inflight.find? (fun g => g.id == e.id) = some f → f.dst = some x → f.dst2 = none →
    0 < x.toNat → x.toNat < 40 → (wordAt e.regs 0).getLsbD 48 = false →
    ∃ s2 w, exec (.enqRetire core i) s = .next s2 ∧ s2.getT e.uid = some w ∧ s1.SameBytes s2 ∧ w.pc = t.pc ∧
      w.read x = (match r.err with | some tr => BitVec.ofNat 64 (tr.code.num * 2 ^ 56) | none => BitVec.ofNat 64 (r.result * 2 ^ 48 + r.value)) ∧
      (∀ y : Spec, y.toNat < 40 → y ≠ x → w.read y = t.read y) ∧
      (fieldOf (wordAt e.regs 0) 0 8 = 7 → xinvOk (wordAt e.regs 1).toNat (wordAt e.regs 2).toNat = true →
        ∀ p ∈ s2.cores.map (fun p => p.2.tlb) ++ s2.walkers.map Prod.snd, ∀ z ∈ p,
        ¬ (z.ctx = e.ctx ∧ z.va < (wordAt e.regs 1).toNat + (wordAt e.regs 2).toNat ∧ (wordAt e.regs 1).toNat < z.va + 2 ^ z.bits))) ∧
  (∀ (s : State) (u k : Nat) (t x : Thread) (l : Launch) (c : Ctx), s.Holds u t → s.Sole l → t.origin = l.ticket → l.phase = .preempting →
    l.spec.region = false → t.place ≠ .saved → s.canSave t = true → t.inflight = [] → x ∈ s.threads → x.uid ≠ u → x.origin = l.ticket →
    x.place ≠ .saved → s.ctx? t.ctx = some c → s.storeSlot t.ctx (some l.ticket) = some k →
    ∃ s1 w, exec (.threadSaveComplete u) s = .next s1 ∧ s1.getT u = some w ∧
      { w with mode := t.mode, place := t.place, wait := t.wait, since := t.since, saveAt := t.saveAt } = t ∧ w.mode = .descheduled ∧
      w.place = .saved ∧ w.wait = t.wait.kept ∧ w.saveAt = some k ∧ s.SameBut s1 .mem (c.saveBase + 0x10000 + 512 * k) 512 ∧
      (∀ y : Spec, 0 < y.toNat → y.toNat < 40 →
        s1.readNat .mem (c.saveBase + 0x10000 + 512 * k + 8 * y.toNat) 8 = (t.read y).toNat) ∧
      s1.readNat .mem (c.saveBase + 0x10000 + 512 * k + 368) 8 = t.pc.toNat) ∧
  (∀ (s : State) (rinst nid : Nat) (r : Region) (c : NodeCfg) (n : NodeSt) (tr : Trap), s.region? rinst = some r →
    r.img.nodes.find? (fun x => x.nid == nid) = some c → r.nodes.find? (fun x => x.nid == nid) = some n → n.fault = some tr →
    (∃ t g m, exec (.faultRetry true rinst nid) s = .next t ∧ t.region? rinst = some g ∧ g.nodes.find? (fun x => x.nid == nid) = some m ∧
      m = (if n.last < s.reg.ticks ∧ n.last < n.first + 1000 then { n with retry := true, last := s.reg.ticks } else n) ∧ s.SameBytes t) ∧
    (n.last < n.first + 1000 ∨ n.retry = true → exec (.faultRetryLimit true rinst nid) s = .next s.unstall) ∧
    (n.first + 1000 ≤ n.last → n.retry = false → tr.retry = true → ∃ t g m, exec (.faultRetryLimit true rinst nid) s = .next t ∧ r.ticket ∈ t.dying ∧
      t.region? rinst = some g ∧ g.nodes.find? (fun x => x.nid == nid) = some m ∧ m = { n with fault := some { tr with retry := false } })) ∧
  (∀ (s : State) (u : Nat) (t : Thread) (rr : Retry), s.Holds u t → t.retry = some rr →
    (s.reg.ticks ≤ rr.last ∨ rr.first + 1000 ≤ rr.last → exec (.faultRetry false u 0) s = .next s.unstall) ∧
    (∀ j, rr.last < s.reg.ticks → rr.last < rr.first + 1000 → t.mode = .descheduled → (t.place = .saved ∧ s.freeSlot t.core t.ctx = some j) ∨ (t.place = .slot ∧ t.slot = j) → t.wait = .none →
      (∀ l, s.launch? t.origin = some l → l.phase = .running) →
      ∃ s1 w, exec (.faultRetry false u 0) s = .next s1 ∧ s.SameBytes s1 ∧ s1.getT u = some w ∧ w.place = .slot ∧ w.slot = j ∧
        w.mode = .ready ∧ w.pc = (s.unstow t).pc ∧ w.retry = some { rr with last := s.reg.ticks }) ∧
    (rr.last < s.reg.ticks → rr.last < rr.first + 1000 → t.mode = .descheduled → (∃ l, s.launch? t.origin = some l ∧ l.phase ≠ .running) →
      ∃ s1 w, exec (.faultRetry false u 0) s = .next s1 ∧ s1.getT u = some w ∧ w = { t with retry := some { rr with last := s.reg.ticks } }) ∧
    (rr.last < rr.first + 1000 ∨ t.mode ≠ .descheduled → exec (.faultRetryLimit false u 0) s = .next s.unstall) ∧
    (∀ c, rr.first + 1000 ≤ rr.last → t.mode = .descheduled → t.ticket.getLsbD 63 = false → t.escape = none → t.peng = 7 →
      (s.threads.map Thread.uid).Nodup → s.ctx? t.ctx = some c → s.LogFresh c → rr.trap.clk = some s.clk → rr.trap.retry = true →
      rr.trap.code ≠ .trapCode → rr.trap.remote = false → rr.trap.defer = false →
      ∃ s1, exec (.faultRetryLimit false u 0) s = .next s1 ∧ s.Appended s1 c rr.trap.code.num 1 3 t.pc rr.trap.addr ∧ t.origin ∈ s1.dying ∧
        ∀ x ∈ s1.threads, x.uid ≠ u)) ∧
  (∀ (s : State) (rinst : Nat) (r : Region) (l : Launch), s.region? rinst = some r → s.Sole l → l.ticket = r.ticket →
    r.since + 10 * Config.quantum ≤ s.clk → r.reached 4 = false →
    (r.phase = .checkpoint false → ∃ t, exec (.checkpointWatchdog rinst) s = .next t ∧ (t.region? rinst).map Region.phase = some .running ∧
      t.reg.launches = [{ l with phase := .running, barred := true }]) ∧
    (r.phase = .checkpoint true → ∃ t, exec (.forcedAbortWatchdog rinst) s = .next t ∧ (t.region? rinst).map Region.phase = some .idle ∧
      t.reg.launches = [])) ∧
  (∀ (s : State) (u : Nat) (t : Thread) (l : Launch), s.Holds u t → s.Sole l → t.origin = l.ticket → l.phase = .preempting →
    l.since + 10 * Config.quantum ≤ s.clk → t.place ≠ .saved → s.hasCmds t = true → ∃ s1, exec (.threadSaveWatchdog u) s = .next s1 ∧
      s1.reg.launches = [{ l with phase := .running, barred := true }])

/-! ### The host, the outside, resets -/

/-- R206, R325, R342, R363 to R365, R369, R374: writes of the ring registers, of PLIM, PORTS and CMD do what the registers' rows say, whether
they come as steps of their own or as writes of bytes at their offsets; other registers take the bytes written. Resizable BAR, Device Control
2 and the power state are written as configuration registers (log entry 36); in D3hot other writes are Unsupported Requests. A port trains
only while it is enabled, and its requests in flight, posted stores too, fail when it goes down. -/
def Obligations.RegistersAndRings : Prop :=
  (∀ (s : State) (v : BitVec 32), s.out.booting = false →
    (v.toNat < s.reg.csize → ∃ t, exec (.ctailWrite v) s = .next t ∧ t = ({ s with reg := { s.reg with ctail := v.toNat } } : State).unstall) ∧
    (s.reg.csize ≤ v.toNat → exec (.ctailWrite v) s = .next s.unstall) ∧
    (v.toNat < s.reg.qsize → s.reg.joinq = [] →
      ∃ t, exec (.qheadWrite v) s = .next t ∧ t = ({ s with reg := { s.reg with qhead := v.toNat } } : State).unstall) ∧
    (∀ x, v.toNat < s.reg.qsize → s.reg.joinq = [x] → s.reg.qbase ≠ 0 → (s.reg.qtail + 1) % s.reg.qsize ≠ v.toNat →
      ∃ t, exec (.qheadWrite v) s = .next t ∧ t.reg.joinq = [] ∧ t.reg.qtail = (s.reg.qtail + 1) % s.reg.qsize ∧
        s.Stored t .mem (hostPa (s.reg.qbase.toNat + 16 * s.reg.qtail))
          ([0xFF, 0xFF, 0, if s.reg.phase then 1 else 0] ++ leBytes 4 0 ++ leBytes 8 x.toNat)) ∧
    (s.reg.qsize ≤ v.toNat → exec (.qheadWrite v) s = .next s.unstall)) ∧
  (∀ (s : State) (v : BitVec 64), s.out.booting = false →
    let base := v &&& 0xFFFFFFFFFFFFF000#64
    let size := Nat.min (v.toNat % 16) 11
    (∃ t, exec (.cmdRingConfig v) s = .next t ∧
      t = ({ s with reg := { s.reg with cbase := base, csz := size, chead := 0, ctail := 0 } } : State).unstall) ∧
    (s.reg.joinq = [] → ∃ t, exec (.cplRingConfig v) s = .next t ∧
      t = ({ s with reg := { s.reg with qbase := base, qsz := size, qhead := 0, qtail := 0, phase := true } } : State).unstall) ∧
    (∃ t, exec (.plimWrite v) s = .next t ∧ { t with th := s.th, others := s.others, out := s.out } = s ∧
      { t.out with plim := s.out.plim } = s.out ∧
      t.out.plim = (if v.toNat % 256 < 30 then 30 else if 72 < v.toNat % 256 then 72 else v.toNat % 256)) ∧
    (s.links = [] → s.regions = [] → s.stores = [] → ∃ t, exec (.portsWrite v) s = .next t ∧ t.portsEn = fieldOf v 16 16 ∧
      (∀ p < 16, t.portsUp.testBit p = (s.portsUp.testBit p && v.toNat.testBit (16 + p))) ∧
      { t with th := s.th, others := s.others, portsEn := s.portsEn, portsUp := s.portsUp } = s)) ∧
  (∀ (s : State) (p : Nat), p < 16 →
    (s.out.powered = true → s.portsEn.testBit p = true → ∃ t, exec (.portTrained p) s = .next t ∧
      t = ({ s with portsUp := s.portsUp ||| 2 ^ p } : State).unstall) ∧
    (s.portsEn.testBit p = false → exec (.portTrained p) s = .next s.unstall) ∧
    (s.portsUp.testBit p = true → s.links = [] → s.regions = [] → s.stores = [] → ∃ t, exec (.portDown p) s = .next t ∧
      (∀ i < 16, t.portsUp.testBit i = (s.portsUp.testBit i && decide (i ≠ p))) ∧
      { t with th := s.th, others := s.others, portsUp := s.portsUp } = s) ∧
    (∀ x u, s.portsUp.testBit p = true → s.links = [] → s.regions = [] → s.stores = [x] → x.port = some p → s.Holds x.uid u →
      ∃ t w, exec (.portDown p) s = .next t ∧ t.stores = [] ∧ s.SameBytes t ∧ t.getT x.uid = some w ∧
        w.deferred = u.deferred ++ [{ code := .prot, addr := x.va, defer := true }]) ∧
    (∀ q, s.portsUp.testBit p = true → s.links = [q] → q.port = some p → s.regions = [] → s.stores = [] →
      ∃ t, exec (.portDown p) s = .next t ∧
        exec (.linkCompletion q.id 1 0) { s with portsUp := bitSet ((List.range 16).filter (fun i => s.portsUp.testBit i && i != p)) } = .next t)) ∧
  (∀ (s : State), s.out.powered = true → s.out.attBusy = false →
    (∃ t, exec (.attestCmd 1) s = .next t ∧ t = ({ s with out := { s.out with attBusy := true, attDone := false } } : State).unstall) ∧
    (∀ v : BitVec 64, v ≠ 1 → exec (.attestCmd v) s = .next s.unstall)) ∧
  (∀ (s : State) (v : BitVec 64), s.out.powered = true →
    (v.toNat % 4 = 3 → ∃ t, exec (.registerWrite 5 0 8 v) s = .next t ∧ t = ({ s with out := { s.out with d3 := true } } : State).unstall) ∧
    (v.toNat % 4 = 0 → s.out.d3 = true → exec (.registerWrite 5 0 8 v) s = exec .warmReset s) ∧
    (∀ b : BitVec 3, (b = 0 ∨ b = 2) → s.out.d3 = true → ∀ off, ∃ t, exec (.registerWrite b off 8 v) s = .next t ∧
      t = ({ s with out := { s.out with replies := (none, .unsupported) :: s.out.replies } } : State).unstall)) ∧
  (∀ (s : State) (v : BitVec 64), s.out.booting = false → s.out.powered = true → s.out.d3 = false →
    exec (.registerWrite 2 0x00 8 v) s = exec (.cmdRingConfig v) s ∧ exec (.registerWrite 2 0x08 8 v) s = exec (.cplRingConfig v) s ∧
    exec (.registerWrite 2 0x10 8 v) s = exec (.ctailWrite (v.setWidth 32)) s ∧
    exec (.registerWrite 2 0x20 8 v) s = exec (.qheadWrite (v.setWidth 32)) s ∧
    exec (.registerWrite 2 0xB010 8 v) s = exec (.plimWrite v) s ∧ exec (.registerWrite 2 0xB018 8 v) s = exec (.portsWrite v) s ∧
    (∀ q < 2 ^ 14, exec (.registerWrite 0 (4096 * q + 0x40) 8 v) s = exec (.ingressPush q v) s) ∧
    (∃ t, exec (.registerWrite 2 0x28 8 v) s = .next t ∧ t = ({ s with vec := v.toNat % 2 ^ 16 } : State).unstall) ∧
    (∃ t, exec (.registerWrite 2 0xB000 8 v) s = .next t ∧ { t with th := s.th, others := s.others, out := s.out } = s ∧
      t.out = { s.out with aperture := v &&& 0x000FFFFFC0000000#64 }) ∧
    (∃ t, exec (.registerWrite 2 0xB008 8 v) s = .next t ∧ t.out.myV = v.getLsbD 15 ∧ t.out.myIdx = v.toNat % 2 ^ 10) ∧
    (∃ t, exec (.registerWrite 7 0 8 v) s = .next t ∧ t = ({ s with out := { s.out with atomReq := v.getLsbD 6 } } : State).unstall) ∧
    (10 ≤ fieldOf v 8 6 → fieldOf v 8 6 ≤ 20 → ∃ t, exec (.registerWrite 6 0 8 v) s = .next t ∧
      t = ({ s with out := { s.out with bar4 := 20 + fieldOf v 8 6 } } : State).unstall) ∧
    (∀ i < 1024, ∃ t, exec (.registerWrite 2 (0xC000 + 4 * i) 4 v) s = .next t ∧
      assoc t.routes i = some (v.toNat % 2 ^ 16 + if v.getLsbD 31 then 2 ^ 31 else 0) ∧ ∀ j, j ≠ i → assoc t.routes j = assoc s.routes j) ∧
    (∀ i < 6, s.out.attBusy = false → s.out.nonce.length = 48 → ∃ t, exec (.registerWrite 2 (0xD000 + 8 * i) 8 v) s = .next t ∧
      t.out = { s.out with nonce := s.out.nonce.take (8 * i) ++ leBytes 8 v.toNat ++ s.out.nonce.drop (8 * i + 8) }))

/-- R363 to R365, R367, R369: the host's aperture and the requests of peers read, write and operate on HBM: reads of at most 4,096 bytes and
writes of at most 512 by the host, both of 256 by a peer. Reads and atomics are completed with their data or the old value. What lies beyond
HBM, and any option that is absent, is completed with Unsupported Request at the host and Completer Abort at a peer; so is an atomic on the
status page, and writes leave that page as it is (R367; log entry 35). Everything else that no request names is left as it is. -/
def Obligations.HostMemoryAccess : Prop :=
  (∀ (s : State) (op : BitVec 3) (off size : Nat) (v : BitVec 4096) (cmp : BitVec 64), s.out.powered = true → off + size ≤ 2 ^ s.out.bar4 →
    let pa := s.out.aperture.toNat + off
    let hit := 0 < size ∧ pa + size ≤ 0xC000000000
    let page (a : Nat) : Prop := statusPage ≤ a ∧ a < statusPage + 0x1000
    let told (s : State) (a : HostReply) : State := ({ s with out := { s.out with replies := (none, a) :: s.out.replies } } : State).unstall
    let on := s.out.booting = false ∧ s.out.d3 = false
    (¬ on ∨ ¬ hit ∨ 5 ≤ op.toNat → exec (.hostApertureAccess op off size v cmp) s = .next (told s .unsupported)) ∧
    (on → s.bad = [] → hit →
      (op = 0 → size ≤ 4096 → exec (.hostApertureAccess op off size v cmp) s = .next (told s (.data (s.readBytes .mem pa size)))) ∧
      (op = 0 → 4096 < size → exec (.hostApertureAccess op off size v cmp) s = .next (told s .unsupported)) ∧
      (op = 1 → 512 < size → exec (.hostApertureAccess op off size v cmp) s = .next s.unstall) ∧
      (op = 1 → size ≤ 512 → ∃ t, exec (.hostApertureAccess op off size v cmp) s = .next t ∧ s.SameBut t .mem pa size ∧ t.out = s.out ∧
        ∀ i < size, t.readByte .mem (pa + i) =
          if page (pa + i) then s.readByte .mem (pa + i) else BitVec.ofNat 8 (v.toNat / 256 ^ i)) ∧
      (∀ k, (op = 2 ∧ k = 0) ∨ (op = 3 ∧ k = 8) ∨ (op = 4 ∧ k = 9) →
        ((size = 4 ∨ size = 8) → pa % size = 0 → ¬ page pa →
          ∃ t, exec (.hostApertureAccess op off size v cmp) s = .next t ∧ s.SameBut t .mem pa size ∧
          t.readNat .mem pa size = amoOf k size (s.readNat .mem pa size) (v.toNat % 2 ^ (8 * size)) (cmp.toNat % 2 ^ (8 * size)) ∧
          t.out = { s.out with replies := (none, .data (s.readBytes .mem pa size)) :: s.out.replies }) ∧
        ((size ≠ 4 ∧ size ≠ 8) ∨ pa % size ≠ 0 ∨ page pa →
          exec (.hostApertureAccess op off size v cmp) s = .next (told s .unsupported))))) ∧
  (∀ (s : State) (op : BitVec 3) (off size : Nat) (v : BitVec 4096) (cmp : BitVec 64),
    (s.out.powered = false ∨ 2 ^ s.out.bar4 < off + size) → exec (.hostApertureAccess op off size v cmp) s = .next s.unstall) ∧
  (∀ (s : State) (op : BitVec 4) (a size p : Nat) (v : BitVec 2048) (cmp : BitVec 64), s.out.booting = false → p < 16 → s.unit = p →
    s.portsUp.testBit p = true →
    let pa := a % 2 ^ 40
    let hit := 0 < size ∧ pa + size ≤ 0xC000000000
    let page (a : Nat) : Prop := statusPage ≤ a ∧ a < statusPage + 0x1000
    let told (s : State) (a : HostReply) : State := ({ s with out := { s.out with replies := (some p, a) :: s.out.replies } } : State).unstall
    (s.out.fatal = true ∨ ¬ hit ∨ 12 ≤ op.toNat → exec (.peerRequest op a size v cmp) s = .next (told s .abort)) ∧
    (s.out.fatal = false → hit → s.bad = [] →
      (op.toNat ≤ 1 → 256 < size → exec (.peerRequest op a size v cmp) s = .next (told s .abort)) ∧
      (op = 0 → size ≤ 256 → exec (.peerRequest op a size v cmp) s = .next (told s (.data (s.readBytes .mem pa size)))) ∧
      (op = 1 → size ≤ 256 → ∃ t, exec (.peerRequest op a size v cmp) s = .next t ∧ s.SameBut t .mem pa size ∧
        t.out = { s.out with replies := (some p, .data []) :: s.out.replies } ∧
        ∀ i < size, t.readByte .mem (pa + i) =
          if page (pa + i) then s.readByte .mem (pa + i) else BitVec.ofNat 8 (v.toNat / 256 ^ i)) ∧
      (2 ≤ op.toNat → op.toNat ≤ 11 →
        ((size = 4 ∨ size = 8) → pa % size = 0 → ¬ page pa → ∃ t, exec (.peerRequest op a size v cmp) s = .next t ∧ s.SameBut t .mem pa size ∧
          t.readNat .mem pa size = amoOf (op.toNat - 2) size (s.readNat .mem pa size) (v.toNat % 2 ^ (8 * size)) (cmp.toNat % 2 ^ (8 * size)) ∧
          t.out = { s.out with replies := (some p, .data (s.readBytes .mem pa size)) :: s.out.replies }) ∧
        ((size ≠ 4 ∧ size ≠ 8) ∨ pa % size ≠ 0 ∨ page pa → exec (.peerRequest op a size v cmp) s = .next (told s .abort)))))

/-- R186, R323 to R327, R334, R336, R339 to R342, R368: every host command writes its completion, and what it does before that: contexts
come and go, queues are bound and unbound, a launch enters its queue, a launch is cancelled, translations are dropped and what went
through them ends, the slice map is written. A command with a CID or bytes that may not be gives BADARG, an unknown opcode BADOPC. A new
context holds as many deep-memory units of each die as it asks for (which ones: log entry 10). A tick resumes saved threads, here each
in the lowest free slot of its core (R339 names no slot: log entry 19), and ends the launches that a fatal fault aborts (R350). -/
def Obligations.RegistrarCommandsAndTicks : Prop :=
  (∀ (s : State) (i : Instr), (hostOp i ≠ none ∨ i = .badopc) →
    (s.out.booting = true ∨ s.reg.chead = s.reg.ctail ∨ (s.reg.qtail + 1) % s.reg.qsize = s.reg.qhead → exec i s = .next s.unstall) ∧
    (∀ op cid w, s.Asks op cid w → ¬ s.CleanCommand cid → hostOp i = some op → ∃ t, exec i s = .next t ∧ s.Answered t cid 3 0) ∧
    (∀ op cid w, s.Asks op cid w → cid ≠ 0xFFFF → op = 0 ∨ 8 < op → i = .badopc → ∃ t, exec i s = .next t ∧ s.Answered t cid 7 0)) ∧
  (∀ (s : State) (cid : Nat) (w : Nat → Nat), s.Asks 1 cid w → s.CleanCommand cid → s.bad = [] →
    let bs := s.readBytes .mem (w 1) 128
    let f (o n : Nat) : Nat := s.readNat .mem (w 1 + o) n
    (0xC000000000 < w 1 + 128 ∨ (∀ i, parseCtx i bs = none) → ∃ t, exec .ctxCreate s = .next t ∧ s.Answered t cid 3 0) ∧
    (∀ c, w 1 + 128 ≤ 0xC000000000 → parseCtx 0 bs = some c → s.ctxs = [] → s.out.retired = [] → f 18 2 = 0 → f 20 4 ≤ 262144 →
      ∃ t s1 : State, exec .ctxCreate s = .next t ∧ ({ s with ctxs := [c] } : State).Stored s1 .mem c.saveBase (List.replicate 64 0) ∧
        s1.Answered t cid 0 0 ∧ s1.chans = s.chans ∧
        (∃ c1, s1.ctxs = [c1] ∧ { c1 with deep := [] } = c ∧ c1.deep.Nodup ∧ (∀ u ∈ c1.deep, u < 128) ∧
          ∀ d : Fin 4, (c1.deep.filter (fun u => decide (u / 32 = d.val))).length = f 56 4 / 2 ^ (6 * d.val) % 2 ^ 6) ∧ c.idx = 0 ∧ c.ptroot = f 0 8 ∧ c.pubBase = f 8 8 ∧ c.pubCnt = f 16 2 ∧
        c.chCnt = 0 ∧ c.lslots = f 20 4 ∧ c.chBase.toNat = f 24 8 ∧ c.saveBase = f 32 8 ∧ c.saveLen = f 40 8 ∧ c.hsave.toNat = f 48 8 ∧
        c.maxPri = f 60 1 ∧ c.prvOk = decide (f 61 1 = 1) ∧
        ∀ d : Fin 4, c.splits[d] = { grant := f 56 4 / 2 ^ (6 * d.val) % 2 ^ 6, scr := 0, cch := 0, rej := false })) ∧
  (∀ (s : State) (cid : Nat) (w : Nat → Nat), s.Asks 2 cid w → s.CleanCommand cid →
    (s.ctx? (w 1) = none → ∃ t, exec .ctxDestroy s = .next t ∧ s.Answered t cid 6 0) ∧
    (∀ c, s.ctx? (w 1) = some c → w 1 < 64 → s.Quiet → (∀ t ∈ s.threads, t.ctx ≠ w 1) →
      ∃ t s1 : State, exec .ctxDestroy s = .next t ∧ s1.Answered t cid 0 0 ∧ s1.ctx? (w 1) = none ∧
        (∀ a < 2 ^ 33, s1.readByte (.deep (w 1)) a = 0) ∧ (∀ core, ∀ a < 2 ^ 18, s1.readByte (.win core (w 1)) a = 0) ∧
        (∀ b ∈ s1.binds, b.ctx ≠ w 1) ∧ (∀ x ∈ s1.chans, x.ctx ≠ w 1) ∧ (∀ r ∈ s1.regions, r.ctx ≠ w 1) ∧
        (∀ x ∈ s1.windows, x.ctx ≠ w 1) ∧ (∀ p ∈ s1.cores, ∀ e ∈ p.2.tlb, e.ctx ≠ w 1) ∧
        (∀ p ∈ s1.walkers, ∀ e ∈ p.2, e.ctx ≠ w 1) ∧
        (∀ x ∈ s1.engines, ∀ g ∈ x.grids, g.owner ≠ w 1))) ∧
  (∀ (s : State) (cid : Nat) (w : Nat → Nat), s.Asks 3 cid w → s.CleanCommand cid →
    let q := w 1 % 2 ^ 14
    let ctx := w 1 / 2 ^ 16 % 2 ^ 6
    let pri := w 1 / 2 ^ 24 % 2 ^ 3
    let old := s.queueOf q
    let fields := w 1 / 2 ^ 14 % 2 ^ 2 = 0 ∧ w 1 / 2 ^ 22 % 2 ^ 2 = 0 ∧ w 1 < 2 ^ 27
    let ring := w 2 % 4096 = 0 ∧ w 2 < 2 ^ 56 ∧ w 3 % 4096 = 0 ∧ w 3 < 2 ^ 32 ∧ (w 2 = 0 ↔ w 3 = 0)
    (s.ctx? ctx = none → ∃ t, exec .qbind s = .next t ∧ s.Answered t cid 6 0) ∧
    (∀ c, s.ctx? ctx = some c → ¬ fields ∨ c.maxPri < pri ∨ (old.bound = true ∧ old.ctx ≠ ctx) ∨ (old.bound = false ∧ ¬ ring) →
      ∃ t, exec .qbind s = .next t ∧ s.Answered t cid 3 0) ∧
    (∀ c, s.ctx? ctx = some c → fields → pri ≤ c.maxPri → old.bound = false → ring →
      ∃ t s1 : State, exec .qbind s = .next t ∧ s1.Answered t cid 0 0 ∧
        (let tail := if old.ctx = ctx ∧ old.cvbase = w 2 ∧ old.csize = w 3 then old.ctail else 0
         s1.queue? q = some { old with ctx := ctx, pri := pri, bound := true, cvbase := w 2, csize := w 3, ctail := tail }) ∧
        (∀ j, j ≠ q → s1.queue? j = s.queue? j) ∧ { s1 with reg := s.reg } = s ∧ { s1.reg with queues := s.reg.queues } = s.reg) ∧
    (∀ c, s.ctx? ctx = some c → fields → pri ≤ c.maxPri → old.bound = true → old.ctx = ctx →
      ∃ t s1 : State, exec .qbind s = .next t ∧ s1.Answered t cid 0 0 ∧ s1.queue? q = some { old with pri := pri } ∧
        s1.reg.launches = s.reg.launches.map (fun l => if l.queue = q then { l with pri := pri } else l) ∧ { s1 with reg := s.reg } = s)) ∧
  (∀ (s : State) (cid : Nat) (w : Nat → Nat), s.Asks 4 cid w → s.CleanCommand cid →
    (2 ^ 14 ≤ w 1 → ∃ t, exec .qunbind s = .next t ∧ s.Answered t cid 3 0) ∧
    (w 1 < 2 ^ 14 → (s.queueOf (w 1)).bound = false → ∃ t, exec .qunbind s = .next t ∧ s.Answered t cid 6 0) ∧
    (∀ q, w 1 < 2 ^ 14 → s.reg.queues = [q] → q.idx = w 1 → q.bound = true → s.reg.launches = [] → s.Settled →
      let lost (n : Nat) : Prop := (∃ x ∈ q.waiting, x.1 = n) ∨ ∃ e ∈ q.cist, e.launch = true ∧ e.epoch = n
      ∃ (t s1 : State) (q1 : Queue), exec .qunbind s = .next t ∧ s1.Answered t cid 0 0 ∧ s.SameBytes s1 ∧ s1.reg.queues = [q1] ∧
        { q1 with bound := true, waiting := q.waiting, epoch := q.epoch, port := q.port, cist := q.cist, orphan := q.orphan } = q ∧
        q1.bound = false ∧ q1.waiting = [] ∧ q1.epoch = q.epoch + 1 ∧
        (∀ x, x ∈ q1.port ↔ x ∈ q.port ∧ ¬ lost x.1) ∧ (∀ e, e ∈ q1.cist ↔ e ∈ q.cist ∧ e.launch = false ∧ ¬ lost e.epoch) ∧
        q1.orphan = Nat.min (Nat.min (q.orphan + (q.port.length - q1.port.length) +
            ((q.cist.filter (fun e => !e.launch)).length - q1.cist.length)) 0xFFFF +
          (q.waiting.length + (q.cist.filter Spilled.launch).length)) 0xFFFF)) ∧
  (∀ (s : State) (cid : Nat) (w : Nat → Nat), s.Asks 5 cid w → s.CleanCommand cid →
    (2 ^ 14 ≤ w 1 → ∃ t, exec .launch s = .next t ∧ s.Answered t cid 3 0) ∧
    (w 1 < 2 ^ 14 → let r := s.enter (w 1) (BitVec.ofNat 64 (w 2))
      ∃ t, exec .launch s = .next t ∧ r.2.schedule.Answered t cid r.1.result r.1.value)) ∧
  (∀ (s : State) (q : Nat) (va : Word),
    let waits := (s.reg.launches.filter (fun l => l.queue == q && l.queued)).length
    ((s.queueOf q).bound = false → s.enter q va = ({ result := 6 }, s)) ∧
    (∀ x, s.queue? q = some x → x.bound = true →
      (64 ≤ waits → s.enter q va = ({ result := 5 }, s)) ∧
      (waits < 64 → va.toNat % 128 ≠ 0 → s.enter q va = ({ result := 3 }, s)) ∧
      (∀ bs c, waits < 64 → va.toNat % 128 = 0 → s.agentRead (ctxAgent x.ctx) va.toNat 128 = .ok bs → s.ctx? x.ctx = some c →
        (launchLegal bs c.prvOk = false → s.enter q va = ({ result := 3 }, s)) ∧
        (launchLegal bs c.prvOk = true → s.everPlaced x.ctx (parseLaunch bs) = false → s.enter q va = ({ result := 4 }, s)) ∧
        (launchLegal bs c.prvOk = true → s.everPlaced x.ctx (parseLaunch bs) = true →
          let n := (assoc s.reg.counts q).getD 0
          let ticket := q + n % 2 ^ 18 * 2 ^ 14
          (s.enter q va).1 = { result := 0, value := ticket } ∧ assoc (s.enter q va).2.reg.counts q = some (n + 1) ∧
          ∃ l, (s.enter q va).2.reg.launches = s.reg.launches ++ [l] ∧ l.ticket = ticket ∧ l.queue = q ∧ l.ctx = x.ctx ∧ l.pri = x.pri ∧
            l.spec = parseLaunch bs ∧ l.phase = .queued ∧ l.prev = assoc s.reg.latest q)))) ∧
  (∀ (s : State) (cid : Nat) (w : Nat → Nat) (l : Launch), s.Asks 6 cid w → s.CleanCommand cid →
    let force := (w 1).testBit 32
    (2 ^ 33 ≤ w 1 → ∃ t, exec .cancel s = .next t ∧ s.Answered t cid 3 0) ∧
    (w 1 < 2 ^ 33 → s.launch? (w 1 % 2 ^ 32) = none → ∃ t, exec .cancel s = .next t ∧ s.schedule.Answered t cid 2 0) ∧
    (w 1 < 2 ^ 33 → s.launch? (w 1 % 2 ^ 32) = some l → l.phase ≠ .queued → force = false →
      ∃ t, exec .cancel s = .next t ∧ s.schedule.Answered t cid 1 0) ∧
    (w 1 < 2 ^ 33 → w 1 % 2 ^ 32 = l.ticket → s.Sole l → l.phase = .running → l.spec.region = false → force = true →
      ∃ t, exec .cancel s = .next t ∧
        ({ s with reg := { s.reg with launches := [{ l with abort := true }] } } : State).schedule.Answered t cid 1 0) ∧
    (∀ pa, w 1 < 2 ^ 33 → w 1 % 2 ^ 32 = l.ticket → s.Sole l → l.phase = .queued → l.spec.region = false → s.NoThreads l.ticket →
      s.bad = [] → s.regions = [] → l.spec.compl.toNat % 8 = 0 → s.agentPa (ctxAgent l.ctx) l.spec.compl.toNat .wr = .ok pa →
      ∃ t s1 : State, exec .cancel s = .next t ∧ s1.Answered t cid 0 0 ∧ s1.reg.launches = [] ∧ s1.readNat .mem pa 8 / 2 ^ 56 = 3 ∧
        s.SameBut s1 .mem pa 8)) ∧
  (∀ (s : State) (cid : Nat) (w : Nat → Nat), s.Asks 7 cid w → s.CleanCommand cid →
    let fits := w 2 % 4096 = 0 ∧ w 3 ≠ 0 ∧ w 3 % 4096 = 0
    (s.ctx? (w 1) = none → ∃ t, exec .xinv s = .next t ∧ s.Answered t cid 6 0) ∧
    (s.ctx? (w 1) ≠ none → ¬ fits → ∃ t, exec .xinv s = .next t ∧ s.Answered t cid 3 0) ∧
    (s.ctx? (w 1) ≠ none → fits →
      let s1 := s.invalidate (w 1) (w 2) (w 3)
      let stale (e : Tlb) : Prop := e.ctx = w 1 ∧ e.va < w 2 + w 3 ∧ w 2 < e.va + 2 ^ e.bits
      (∀ p ∈ s1.cores, ∀ e ∈ p.2.tlb, ¬ stale e) ∧ (∀ p ∈ s1.walkers, ∀ e ∈ p.2, ¬ stale e) ∧
      ((s.threads.map Thread.uid).Nodup → ∀ x ∈ s1.threads, x.ctx = w 1 → ∀ f ∈ x.inflight, ∀ p, f.late ≠ .load p) ∧
      (s.stores = [] → s.SameBytes s1) ∧
      (s1.linksIn (w 1) (w 2) (w 3) = false → ∃ t, exec .xinv s = .next t ∧ s1.Answered t cid 0 0) ∧
      (s1.linksIn (w 1) (w 2) (w 3) = true → ∃ t, exec .xinv s = .next t ∧
        { t with th := s1.th, others := s1.others, reg := s1.reg } = s1 ∧
        t.reg = { s1.reg with chead := (s1.reg.chead + 1) % s1.reg.csize, busy := some (s.readBytes .mem s.commandAt 64) }))) ∧
  (∀ (s : State) (cid : Nat) (w : Nat → Nat), s.Asks 8 cid w → s.CleanCommand cid →
    let coord (h : Nat) : Nat := packCoord (h / 24) (h / 4 % 6) (2 * (h % 4) + 1) 0 0
    ∃ t s1 : State, exec .slicemap s = .next t ∧ s1.Answered t cid 0 0 ∧ { s1 with th := s.th, others := s.others, mem := s.mem } = s ∧
      s.Stored s1 .mem (hostPa (w 1)) ((List.range 96).flatMap (fun n => leBytes 2 (coord (s.sliceMap.getD n n))))) ∧
  (∀ (s : State), s.clk < (s.reg.ticks + 1) * Config.quantum → exec .quantumTick s = .next s.unstall) ∧
  (∀ (s : State), (s.reg.ticks + 1) * Config.quantum ≤ s.clk →
    (s.Quiet → s.dying = [] → (∀ x ∈ s.threads, s.resumable x = false) →
      ∃ t, exec .quantumTick s = .next t ∧ t.reg.ticks = s.reg.ticks + 1 ∧ s.SameBytes t) ∧
    (∀ u x j b l, s.Sole l → l.phase = .running → l.abort = false → s.dying = [] → s.Holds u x → x.place = .saved → x.retry = none →
      x.wait = .none → x.origin = l.ticket → (∀ y ∈ s.threads, y.uid ≠ u → y.place ≠ .saved) → s.freeSlot x.core x.ctx = some j →
      s.grant x.core x.ctx j = some b → b.ticket = l.ticket →
      ∃ t y, exec .quantumTick s = .next t ∧ t.getT u = some y ∧ y.place = .slot ∧ y.slot = j ∧ y.mode = .ready ∧ y.core = x.core ∧
        y.pc = (s.unstow x).pc ∧ ∀ d : Spec, y.read d = (s.unstow x).read d) ∧
    (∀ l, s.Sole l → s.dying = [l.ticket] → s.NoThreads l.ticket → s.regions = [] →
      ∃ t, exec .quantumTick s = .next t ∧ t.reg.launches = [] ∧ t.dying = []))

/-- R179, R351, R354 to R359, R367, R368: a field joins or fails, with a join event on the status page and in the ring; the slice map
follows the fields, the next live slice standing in for one that is absent (log entry 37: the model's choice); a retirement takes effect,
and a retired core leaves every name cache; errors are counted, rows become lasting, and the third lasting row of a unit retires it. An
uncorrectable error in the accumulators or plane arrays of a running region aborts its launch. -/
def Obligations.FieldsAndRetirement : Prop :=
  (∀ (s : State) (f : Nat), s.out.powered = true → f < 24 → f ∉ s.joined → f ∉ s.out.failed → s.Quiet → s.reg.qbase = 0 →
    let joined := (List.range 24).filter (fun i => i == f || s.joined.contains i)
    (f = 0 ∨ s.out.booting = false → ∃ t, exec (.fieldJoin f) s = .next t ∧ t.joined = joined ∧
      t.out.booting = (s.out.booting && decide (f ≠ 0)) ∧
      (joined.length + s.out.failed.length < 24 → t.out.settled = s.out.settled ∧ t.out.joingen = (s.out.joingen + 1) % 2 ^ 64 ∧
        t.reg.joinq = s.reg.joinq ++ [BitVec.ofNat 64 (0x100 + f)]) ∧
      (24 ≤ joined.length + s.out.failed.length → t.out.settled = true) ∧
      t.readNat .mem (statusPage + 0x08) 8 = t.out.joingen ∧ t.readNat .mem (statusPage + 0x28) 8 = s.clk % 2 ^ 64 ∧
      (∀ i < 24, (t.readNat .mem (statusPage + 0x10) 8).testBit i = joined.contains i) ∧ s.SameButStatus t ∧
      (s.ctxs = [] → (∀ r ∈ s.out.retired, r.kind ≠ 4) → ∀ n < 96, n / 4 ∈ joined → t.sliceMap.getD n 0 = n)) ∧
    (f ≠ 0 → s.out.booting = true → exec (.fieldJoin f) s = .next s.unstall) ∧
    (f ≠ 0 → s.out.booting = false → ∃ t, exec (.fieldFail f) s = .next t ∧ t.joined = s.joined ∧
      t.out.failed = (List.range 24).filter (fun i => i == f || s.out.failed.contains i) ∧
      (s.joined.length + t.out.failed.length < 24 → t.reg.joinq = s.reg.joinq ++ [BitVec.ofNat 64 (0x200 + f)]) ∧ s.SameButStatus t)) ∧
  (∀ (s : State) (f : Nat), f ∈ s.joined ∨ f ∈ s.out.failed → exec (.fieldJoin f) s = .next s.unstall ∧ exec (.fieldFail f) s = .next s.unstall) ∧
  (∀ (s : State),
    let live (m : Nat) : Prop := m / 4 ∈ s.joined ∧ ∀ r ∈ s.out.retired, ¬ (r.kind = 4 ∧ r.unit = m)
    (s.ctxs ≠ [] → exec .liveSliceMapChange s = .next s.unstall) ∧
    (s.ctxs = [] → ∃ t, exec .liveSliceMapChange s = .next t ∧ s.SameButStatus t ∧
      ∀ n < 96, ∀ i < 96, live ((n + i) % 96) → (∀ k < i, ¬ live ((n + k) % 96)) → t.sliceMap.getD n 0 = (n + i) % 96)) ∧
  (∀ (s : State) (i : Nat) (r : Retired), s.out.retired[i]? = some r → r.effect = false →
    let bound := ∃ b ∈ s.binds, b.region = false ∧ b.unit = r.unit
    (r.kind = 4 ∨ (r.kind = 3 ∧ bound) → exec (.retirementEffect i) s = .next s.unstall) ∧
    (r.kind ≠ 4 → ¬ (r.kind = 3 ∧ bound) → ∃ t, exec (.retirementEffect i) s = .next t ∧ s.SameButStatus t ∧
      t.out.retired = s.out.retired.set i { r with effect := true } ∧
      (r.kind = 3 → t.retiredCores = r.unit :: s.retiredCores ∧ (∀ p ∈ t.cores, ∀ x ∈ p.2.names, x.2 ≠ r.unit) ∧
        ∀ p ∈ t.caches, ∀ x ∈ p.2, x.2 ≠ r.unit) ∧
      (r.kind ≠ 3 → t.retiredCores = s.retiredCores ∧ t.cores = s.cores ∧ t.caches = s.caches))) ∧
  (∀ (s : State) (store : BitVec 4) (unit row : Nat), s.out.powered = true → rowUnitOk store.toNat unit = true → row < 2 ^ 28 →
    let kind := kindOfStore store.toNat
    let die := dieOfUnit kind unit
    let e (n first : Nat) : ErrRow := { store := store.toNat, unit := unit, row := row, count := n, first := first }
    let lasts (ue : Bool) : LastRow := { store := store.toNat, unit := unit, row := row, ue := ue }
    (assoc s.out.errors die = none → ∃ t, exec (.correctedError store unit row false) s = .next t ∧
      assoc t.out.errors die = some [e 1 s.clk] ∧ t.out.lasting = s.out.lasting ∧ s.SameBytes t) ∧
    (∀ n first, assoc s.out.errors die = some [e n first] → s.clk ≤ first + 164160000000000 → n + 1 < 3 →
      ∃ t, exec (.correctedError store unit row false) s = .next t ∧ assoc t.out.errors die = some [e (n + 1) first] ∧
        t.out.lasting = s.out.lasting ∧ s.SameBytes t) ∧
    (∀ n first, assoc s.out.errors die = some [e n first] → first + 164160000000000 < s.clk →
      ∃ t, exec (.correctedError store unit row false) s = .next t ∧ assoc t.out.errors die = some [e 1 s.clk]) ∧
    (∀ first, assoc s.out.errors die = some [e 2 first] → s.clk ≤ first + 164160000000000 → s.out.lasting = [] →
      ∃ t, exec (.correctedError store unit row false) s = .next t ∧ t.out.lasting = [lasts false] ∧ t.out.retired = s.out.retired ∧
        s.SameBytes t) ∧
    let idle := store = 3 → s.regionOf unit = none
    (s.out.lasting = [] → idle → ∃ t, exec (.correctedError store unit row true) s = .next t ∧ t.out.lasting = [lasts true] ∧
      t.out.retired = s.out.retired ∧ s.SameBytes t) ∧
    (∀ r pos c, s.out.lasting = [] → store = 3 → s.regionOf unit = some (r, pos) → s.ctx? r.ctx = some c → s.LogFresh c →
      ∃ t, exec (.correctedError store unit row true) s = .next t ∧ t.out.lasting = [lasts true] ∧ r.ticket ∈ t.dying ∧
        s.Appended t c Code.eccUe.num 3 1 0 0) ∧
    (∀ x y, s.out.lasting = [x, y] → x.store = store.toNat → y.store = store.toNat → x.unit = unit → y.unit = unit → x.row ≠ row → y.row ≠ row →
      s.isRetired kind unit = false → idle → ∃ t, exec (.correctedError store unit row true) s = .next t ∧ t.out.lasting = [x, y, lasts true] ∧
        t.out.retired = s.out.retired ++ [{ kind := kind, unit := unit, effect := decide (kind = 1 ∨ kind = 2 ∨ kind = 5) }]))

/-- R12, R168, R293, R354, R362, R367, R370 to R374: a power sample moves the allowance, and a spent one, a hot sensor or more than 8.0 kW
throttles; throttling ends after its millisecond and one in which every sensor was cool. A module-fatal fault stops all that runs (what of
it the spec leaves open: log entry 41). Every reset clears the module but for the flash, and a warm one keeps HBM, CLK, ticks and launch
numbers (the ticks: log entry 34); memory that has lost its power reads 0 (log entry 1: the model's choice), and a loss of power may tear
the slot being written. A report holds the measurements and is signed with the identity key, which is open with each signature's secret
(log entry 11). A prefetch changes the lines that cores hold, and no value that an access returns. -/
def Obligations.PowerFaultsAndResets : Prop :=
  (∀ (s : State) (watts : Nat), s.out.powered = true →
    let hot := s.out.plim * 100 < watts
    ∃ t, exec (.powerMeasure watts) s = .next t ∧ s.SameButStatus t ∧ t.pwx = decide (7200 < watts) ∧
      t.out.samples = (watts :: s.out.samples).take 1000 ∧
      t.out.allow = (if hot then (if 9 ≤ s.out.above then s.out.allow - 1 else s.out.allow)
        else if 99 ≤ s.out.below then Nat.min 1000 (s.out.allow + 1) else s.out.allow) ∧
      t.out.above = (if hot then (if 9 ≤ s.out.above then 0 else s.out.above + 1) else s.out.above) ∧
      t.out.below = (if hot then s.out.below else if 99 ≤ s.out.below then 0 else s.out.below + 1) ∧
      t.out.coolSince = (if t.out.tjmax ≤ 190 then some (s.out.coolSince.getD s.clk) else none) ∧
      t.tlf = (s.tlf || decide (t.out.allow = 0) || decide (210 < t.out.tjmax) || decide (8000 < watts))) ∧
  (∀ (s : State) (hot : Bool),
    (hot = true ∨ s.out.allow = 0 → ∃ t, exec (.throttleStart hot) s = .next t ∧ t.tlf = true ∧
      { t with th := s.th, others := s.others, tlf := s.tlf, out := s.out } = s ∧
      t.out = { s.out with tlfSince := if s.tlf then s.out.tlfSince else s.clk, coolSince := if hot then none else s.out.coolSince }) ∧
    (¬ (hot = true ∨ s.out.allow = 0) → exec (.throttleStart hot) s = .next s.unstall) ∧
    (let ends := (∃ c, s.out.coolSince = some c ∧ c + 1900000 ≤ s.clk) ∧ s.out.allow = 1000 ∧ s.out.tlfSince + 1900000 ≤ s.clk
     (ends → ∃ t, exec .throttleEnd s = .next t ∧ t.tlf = false ∧ { t with th := s.th, others := s.others, tlf := s.tlf } = s) ∧
     (¬ ends → exec .throttleEnd s = .next s.unstall))) ∧
  (∀ (s : State), s.out.booting = false →
    (∀ pa, ∃ t, exec (.moduleFatal pa) s = .next t ∧ s.FellDown t ∧ s.Recorded t .eccUe) ∧
    (∃ t, exec .registrarUnresponsive s = .next t ∧ s.FellDown t ∧ s.Recorded t .watchdog)) ∧
  (∀ (s : State) (a b : Nat),
    let s1 : State := { s with out := { s.out with links := s.out.links ++ [(a, b)] } }
    (s.out.linkUp a b = false → exec (.meshLinkFail a b) s = .next s.unstall) ∧
    (a < 24 → b < 24 → s.out.linkUp a b = true → s1.meshWhole = true ∨ s.out.booting = true → ∃ t, exec (.meshLinkFail a b) s = .next t ∧
      t = s1.unstall) ∧
    (a < 24 → b < 24 → s.out.linkUp a b = true → s1.meshWhole = false → s.out.booting = false → ∃ t, exec (.meshLinkFail a b) s = .next t ∧
      s1.FellDown t ∧ s1.Recorded t .watchdog ∧ t.out.links = s.out.links ++ [(a, b)])) ∧
  (∀ (s : State) (i : Instr) (warm : Bool), (i = .coldReset ∧ warm = false) ∨ (i = .warmReset ∧ warm = true ∧ s.out.powered = true) →
    ∃ t, exec i s = .next t ∧ s.Cleared t ∧ t.out.bootcnt = (s.out.bootcnt + 1) % 2 ^ 32 ∧ t.out.powered = true ∧
      t.clk = (if warm then s.clk else 0) ∧ t.reg.counts = (if warm then s.reg.counts else []) ∧
      t.reg.ticks = (if warm then s.reg.ticks else 0) ∧
      (∀ b, s.liveBank = some b → s.logTight b = false → t.flash = s.flash) ∧
      ∀ a < 0x8000000000000, t.readByte .mem a =
        (if warm = true ∧ ¬ (statusPage ≤ a ∧ a < statusPage + 0x1000) then s.readByte .mem a else 0)) ∧
  (∀ (s : State), s.out.powered = false → exec .warmReset s = .next s.unstall) ∧
  (∀ (s : State) (done : Nat), ∃ t, exec (.powerLoss done) s = .next t ∧ s.Cleared t ∧ t.out.powered = false ∧ t.clk = 0 ∧
    (∀ a < 0x8000000000000, t.readByte .mem a = 0) ∧
    (∀ c a, s.out.lastSlot = some (c, a) → c ≠ s.clk → t.flash = s.flash) ∧ (s.out.lastSlot = none → t.flash = s.flash) ∧
    (∀ a, s.out.lastSlot = some (s.clk, a) →
      let cut := if done = 0 then 0 else if done = 1 then 59 else if done = 2 then 60 else 64
      ∀ x, t.readByte .flash x = if a + cut ≤ x ∧ x < a + 64 then 0xFF else s.readByte .flash x)) ∧
  (∀ (s : State), s.out.attBusy = true → s.out.nonce.length = 48 →
    ∃ t, exec .attestReportDone s = .next t ∧ { t with th := s.th, others := s.others, free := s.free, out := s.out } = s ∧
      t.out.attBusy = false ∧ t.out.attDone = true ∧
      let body := leBytes 4 1 ++ leBytes 4 s.out.bootcnt ++ leBytes 48 Config.romMeasure.toNat ++ leBytes 48 Config.fuseMeasure.toNat ++
        sha384 s.out.mlog ++ s.out.nonce ++ leBytes 8 s.clk
      ∃ x y : BitVec 384, (x, y) = ecdsaSign body s.free ∧
        t.out.report = body ++ leBytes 48 x.toNat ++ leBytes 48 y.toNat) ∧
  (∀ (s : State), ∃ t, exec .indirectPrefetch s = .next t ∧ s.SameBytes t ∧
    { t with th := s.th, others := s.others, cores := s.cores } = s ∧ (∀ u x, s.Holds u x → ∃ y, t.getT u = some y ∧ y.rest = x.rest) ∧
    ∀ c, { t.core c with prefetched := (s.core c).prefetched } = s.core c)

/-! ### The machine as a whole -/

/-- R8, R114, R362, R365, R371, R372: what reset leaves. No thread, context, launch, region or command is there, no field has joined, no
memory is listed, so that it reads 0 (log entry 1: the model's choice); the registers hold their reset values, bank 0 of the flash log is
live (log entry 17: the model's choice), and every byte store is in its canonical form. -/
def Obligations.ResetState : Prop :=
  let s := State.reset
  s.memOk = true ∧ s.threads = [] ∧ s.ctxs = [] ∧ s.binds = [] ∧ s.regions = [] ∧ s.engines = [] ∧ s.reg.launches = [] ∧ s.joined = [] ∧
  s.stores = [] ∧ s.bad = [] ∧ s.tlf = false ∧ s.portsUp = 0 ∧ s.portsEn = 0xFFFF ∧ s.vec = 0 ∧ s.out.plim = 72 ∧ s.out.allow = 1000 ∧
  s.out.fatal = false ∧ s.out.booting = true ∧ s.reg.chead = 0 ∧ s.reg.ctail = 0 ∧ s.reg.qhead = 0 ∧ s.reg.qtail = 0 ∧ s.reg.phase = true ∧
  (∀ a, s.readByte .mem a = 0) ∧ (∀ x : Spec, s.th.read x = 0) ∧ s.th.srnd = 1 ∧ s.th.peng = 7 ∧ s.liveBank = some 0

/-- R5: whatever step the module takes, every byte store stays in its canonical form, from every state in which it stands so. -/
def Obligations.MemoryStaysCanonical : Prop :=
  ∀ s t : State, s.memOk = true → step s = .next t → t.memOk = true

/-- R52 to R79, R81: the decoder reads back every field of every instruction that the encoder writes, and the encoder gives back every
word that there is. -/
def Obligations.DecodeInvertsEncode : Prop :=
  (∀ i : Instr, i.isScalar = true → i.wf = true → (∀ w, i ≠ .unassignedFnWord w) → decode (encode i) = i) ∧
  (∀ w : Word32, encode (decode w) = w)

/-- R53, R58, R134, R137, R168, R182, R251: a step that is planned for a core, or with nothing planned one of the selected thread's core,
runs the word at the program counter of the thread that issues next: it executes what the word decodes to, after the fetch, and a word that
has not stalled moves the rotation on. A fetch that faults takes the fault, as does a thread that stalled with one; with TLF set, no thread
to issue, or a word of that clk issued already at the core or above it, only the clk passes. A planned step of the module's own is executed.
A step ends with what it hands to waiting consumers taken, which changes nothing where no rendezvous holds a token (log entry 21). The last
clause rests on log entry 16: a test's word is placed with one thread, where no program has come to run from reset. -/
def Obligations.StepRunsDecodedWord : Prop :=
  (∀ (s s1 : State) (core : Nat) (t : Thread),
    ((∃ p ps, s.nextPlan = some (p, ps) ∧ p.move = .issue core ∧ s1 = { s with agenda := ps, clk := s.clk + p.dt, unit := p.unit }) ∨
      (s.agenda = [] ∧ core = s.th.core ∧ s1 = { s with clk := s.clk + 1 })) →
    s1.gated = false → s1.mayIssue core = true → s1.nextThread core = some t →
    let s2 := s1.turn t
    let after (o : Host.Outcome State Fault Refusal) : Host.Outcome State Fault Refusal := settled (State.afterWord t s2.nextLoad o)
    (∀ pa a s3, (∀ e, s2.th.wait ≠ .fault e) → s2.translate s2.th.core s2.th.ctx s2.th.pc .ex s2.th.prv = .ok (pa, s3) →
      s3.reachPa s2.th.pc .ex pa = .ok a → s3.badAt .mem a 4 = false →
      let w : Word32 := s3.codeNow s2.th.core a
      (∀ x ∈ (s3.core s2.th.core).icache, x.pa = a → x.word = w) →
      ∃ s4, step s = after (exec (decode w) s4) ∧ s3.CoresKept s4 ∧ { s4 with cores := s3.cores } = s3) ∧
    (∀ e, (∀ x, s2.th.wait ≠ .fault x) → s2.fetch = .error e → step s = after (.next (s2.takeFault s2.th e 0))) ∧
    (∀ e, s2.th.wait = .fault e → step s = after (.next (s2.takeFault s2.th e s2.th.word)))) ∧
  (∀ (t : Thread) (load : Option (Spec × Word × Nat × Bool)) (s : State),
    (s.th.uid = t.uid → s.th.mode = .stalled → State.afterWord t load (.next s) = .next s) ∧
    (¬ (s.th.uid = t.uid ∧ s.th.mode = .stalled) → ∃ u, State.afterWord t load (.next s) = .next u ∧ s.SameBytes u ∧
      u.issued = some (s.clk, t.core) ∧ (u.core t.core).rot = t.slot ∧ { u.th with skip := s.th.skip } = s.th ∧
      { u with th := s.th, others := s.others, cores := s.cores, issued := s.issued } = s)) ∧
  (∀ (s : State) (p : Plan) (ps : List Plan) (core : Nat), s.nextPlan = some (p, ps) → p.move = .issue core →
    let s1 : State := { s with agenda := ps, clk := s.clk + p.dt, unit := p.unit }
    (s1.gated = true ∨ s1.mayIssue core = false ∨ s1.nextThread core = none) → step s = settled (.next s1)) ∧
  (∀ (s : State) (p : Plan) (ps : List Plan) (i : Instr), s.nextPlan = some (p, ps) → p.move = .event i → i.isScalar = false →
    step s = settled (exec i { s with agenda := ps, clk := s.clk + p.dt, unit := p.unit })) ∧
  (∀ (s : State) (p : Plan) (ps : List Plan), s.agenda = p :: ps → (∀ q ∈ ps.takeWhile (fun q => q.dt == 0), s.before q p = false) →
    s.nextPlan = some (p, ps)) ∧
  (∀ (s : State), s.handedEnds = [] → s.handedChans = [] → settled (.next s) = .next s) ∧
  (∀ (e : Fault) (r : Refusal), settled (.fault e) = .fault e ∧ settled (.refused r) = .refused r) ∧
  (∀ (w : Nat), ∃ t load s1, step (State.reset.withFetchWord 32 w) = settled (State.afterWord t load (exec (decode (BitVec.ofNat 32 w)) s1)) ∧
    s1.th.mode = .ready ∧ s1.th.pc = 0x1000 ∧ s1.th.prv = true ∧ s1.clk = 1)

/-- R59 to R76: what some words written out from the encodings stand for. -/
def Obligations.DecodedWords : Prop :=
  decode 0x04110F00#32 = .add 1 4 15 ∧ decode 0x08208541#32 = .bfi32 2 2 5 ∧ decode 0x20105FFF#32 = .addi 1 1 0x1FFF ∧
  decode 0x503097FF#32 = .ld 3 2 1 3 0x1FF ∧ decode 0x6C41469D#32 = .amoCas 4 5 6 1 2 1 ∧ decode 0x810723FE#32 = .brLtn 7 8 0x3FE ∧
  decode 0x92014003#32 = .loopi 10 3 ∧ decode 0xA0000908#32 = .semp 9 ∧ decode 0xA4000500#32 = .trap 5 ∧
  decode 0xB0844200#32 = .pgsSel 4 8 ∧ decode 0xB4108301#32 = .chget 1 2 3 ∧ decode 0xC0501620#32 = .pfxFmt 5 0 1 3 4 ∧
  decode 0x10109EB1#32 = .cvt 1 2 7 2 0xB 1 ∧ decode 0x1400E002#32 = .csrs 3 2 ∧ decode 0x00000000#32 = .illegalWord 0 ∧
  decode 0x04000007#32 = .unassignedFnWord 0x04000007
end

