-- ==== Sys2Proof/Laws/State.lean ====
section
/-! SUPPORT. What each update of the state leaves: one lemma for each field. -/

namespace Sys2Proof.Machine

@[simp] theorem State.setCore_clk (s : State) (c : Nat) (x : CoreSt) : (s.setCore c x).clk = s.clk := rfl
@[simp] theorem State.setCore_agenda (s : State) (c : Nat) (x : CoreSt) : (s.setCore c x).agenda = s.agenda := rfl
@[simp] theorem State.setCore_unit (s : State) (c : Nat) (x : CoreSt) : (s.setCore c x).unit = s.unit := rfl
@[simp] theorem State.setCore_free (s : State) (c : Nat) (x : CoreSt) : (s.setCore c x).free = s.free := rfl
@[simp] theorem State.setCore_nextId (s : State) (c : Nat) (x : CoreSt) : (s.setCore c x).nextId = s.nextId := rfl
@[simp] theorem State.setCore_th (s : State) (c : Nat) (x : CoreSt) : (s.setCore c x).th = s.th := rfl
@[simp] theorem State.setCore_others (s : State) (c : Nat) (x : CoreSt) : (s.setCore c x).others = s.others := rfl
@[simp] theorem State.setCore_mem (s : State) (c : Nat) (x : CoreSt) : (s.setCore c x).mem = s.mem := rfl
@[simp] theorem State.setCore_deep (s : State) (c : Nat) (x : CoreSt) : (s.setCore c x).deep = s.deep := rfl
@[simp] theorem State.setCore_scratch (s : State) (c : Nat) (x : CoreSt) : (s.setCore c x).scratch = s.scratch := rfl
@[simp] theorem State.setCore_tiles (s : State) (c : Nat) (x : CoreSt) : (s.setCore c x).tiles = s.tiles := rfl
@[simp] theorem State.setCore_flash (s : State) (c : Nat) (x : CoreSt) : (s.setCore c x).flash = s.flash := rfl
@[simp] theorem State.setCore_bad (s : State) (c : Nat) (x : CoreSt) : (s.setCore c x).bad = s.bad := rfl
@[simp] theorem State.setCore_stores (s : State) (c : Nat) (x : CoreSt) : (s.setCore c x).stores = s.stores := rfl
@[simp] theorem State.setCore_links (s : State) (c : Nat) (x : CoreSt) : (s.setCore c x).links = s.links := rfl
@[simp] theorem State.setCore_answers (s : State) (c : Nat) (x : CoreSt) : (s.setCore c x).answers = s.answers := rfl
@[simp] theorem State.setCore_wakes (s : State) (c : Nat) (x : CoreSt) : (s.setCore c x).wakes = s.wakes := rfl
@[simp] theorem State.setCore_buses (s : State) (c : Nat) (x : CoreSt) : (s.setCore c x).buses = s.buses := rfl
@[simp] theorem State.setCore_busCounts (s : State) (c : Nat) (x : CoreSt) : (s.setCore c x).busCounts = s.busCounts := rfl
@[simp] theorem State.setCore_windows (s : State) (c : Nat) (x : CoreSt) : (s.setCore c x).windows = s.windows := rfl
@[simp] theorem State.setCore_caches (s : State) (c : Nat) (x : CoreSt) : (s.setCore c x).caches = s.caches := rfl
@[simp] theorem State.setCore_ctxs (s : State) (c : Nat) (x : CoreSt) : (s.setCore c x).ctxs = s.ctxs := rfl
@[simp] theorem State.setCore_binds (s : State) (c : Nat) (x : CoreSt) : (s.setCore c x).binds = s.binds := rfl
@[simp] theorem State.setCore_engines (s : State) (c : Nat) (x : CoreSt) : (s.setCore c x).engines = s.engines := rfl
@[simp] theorem State.setCore_joined (s : State) (c : Nat) (x : CoreSt) : (s.setCore c x).joined = s.joined := rfl
@[simp] theorem State.setCore_retiredCores (s : State) (c : Nat) (x : CoreSt) : (s.setCore c x).retiredCores = s.retiredCores := rfl
@[simp] theorem State.setCore_sliceMap (s : State) (c : Nat) (x : CoreSt) : (s.setCore c x).sliceMap = s.sliceMap := rfl
@[simp] theorem State.setCore_tlf (s : State) (c : Nat) (x : CoreSt) : (s.setCore c x).tlf = s.tlf := rfl
@[simp] theorem State.setCore_pwx (s : State) (c : Nat) (x : CoreSt) : (s.setCore c x).pwx = s.pwx := rfl
@[simp] theorem State.setCore_routes (s : State) (c : Nat) (x : CoreSt) : (s.setCore c x).routes = s.routes := rfl
@[simp] theorem State.setCore_portsUp (s : State) (c : Nat) (x : CoreSt) : (s.setCore c x).portsUp = s.portsUp := rfl
@[simp] theorem State.setCore_portsEn (s : State) (c : Nat) (x : CoreSt) : (s.setCore c x).portsEn = s.portsEn := rfl
@[simp] theorem State.setCore_msi (s : State) (c : Nat) (x : CoreSt) : (s.setCore c x).msi = s.msi := rfl
@[simp] theorem State.setCore_issued (s : State) (c : Nat) (x : CoreSt) : (s.setCore c x).issued = s.issued := rfl
@[simp] theorem State.setCore_fences (s : State) (c : Nat) (x : CoreSt) : (s.setCore c x).fences = s.fences := rfl
@[simp] theorem State.setCore_walkers (s : State) (c : Nat) (x : CoreSt) : (s.setCore c x).walkers = s.walkers := rfl
@[simp] theorem State.setCore_vec (s : State) (c : Nat) (x : CoreSt) : (s.setCore c x).vec = s.vec := rfl
@[simp] theorem State.setCore_dying (s : State) (c : Nat) (x : CoreSt) : (s.setCore c x).dying = s.dying := rfl
@[simp] theorem State.setCore_exits (s : State) (c : Nat) (x : CoreSt) : (s.setCore c x).exits = s.exits := rfl
@[simp] theorem State.setCore_chans (s : State) (c : Nat) (x : CoreSt) : (s.setCore c x).chans = s.chans := rfl
@[simp] theorem State.setCore_regions (s : State) (c : Nat) (x : CoreSt) : (s.setCore c x).regions = s.regions := rfl
@[simp] theorem State.setCore_reg (s : State) (c : Nat) (x : CoreSt) : (s.setCore c x).reg = s.reg := rfl
@[simp] theorem State.setCore_out (s : State) (c : Nat) (x : CoreSt) : (s.setCore c x).out = s.out := rfl

@[simp] theorem State.walkerFill_clk (s : State) (n : Nat) (e : Tlb) : (s.walkerFill n e).clk = s.clk := rfl
@[simp] theorem State.walkerFill_agenda (s : State) (n : Nat) (e : Tlb) : (s.walkerFill n e).agenda = s.agenda := rfl
@[simp] theorem State.walkerFill_unit (s : State) (n : Nat) (e : Tlb) : (s.walkerFill n e).unit = s.unit := rfl
@[simp] theorem State.walkerFill_free (s : State) (n : Nat) (e : Tlb) : (s.walkerFill n e).free = s.free := rfl
@[simp] theorem State.walkerFill_nextId (s : State) (n : Nat) (e : Tlb) : (s.walkerFill n e).nextId = s.nextId := rfl
@[simp] theorem State.walkerFill_th (s : State) (n : Nat) (e : Tlb) : (s.walkerFill n e).th = s.th := rfl
@[simp] theorem State.walkerFill_others (s : State) (n : Nat) (e : Tlb) : (s.walkerFill n e).others = s.others := rfl
@[simp] theorem State.walkerFill_cores (s : State) (n : Nat) (e : Tlb) : (s.walkerFill n e).cores = s.cores := rfl
@[simp] theorem State.walkerFill_mem (s : State) (n : Nat) (e : Tlb) : (s.walkerFill n e).mem = s.mem := rfl
@[simp] theorem State.walkerFill_deep (s : State) (n : Nat) (e : Tlb) : (s.walkerFill n e).deep = s.deep := rfl
@[simp] theorem State.walkerFill_scratch (s : State) (n : Nat) (e : Tlb) : (s.walkerFill n e).scratch = s.scratch := rfl
@[simp] theorem State.walkerFill_tiles (s : State) (n : Nat) (e : Tlb) : (s.walkerFill n e).tiles = s.tiles := rfl
@[simp] theorem State.walkerFill_flash (s : State) (n : Nat) (e : Tlb) : (s.walkerFill n e).flash = s.flash := rfl
@[simp] theorem State.walkerFill_bad (s : State) (n : Nat) (e : Tlb) : (s.walkerFill n e).bad = s.bad := rfl
@[simp] theorem State.walkerFill_stores (s : State) (n : Nat) (e : Tlb) : (s.walkerFill n e).stores = s.stores := rfl
@[simp] theorem State.walkerFill_links (s : State) (n : Nat) (e : Tlb) : (s.walkerFill n e).links = s.links := rfl
@[simp] theorem State.walkerFill_answers (s : State) (n : Nat) (e : Tlb) : (s.walkerFill n e).answers = s.answers := rfl
@[simp] theorem State.walkerFill_wakes (s : State) (n : Nat) (e : Tlb) : (s.walkerFill n e).wakes = s.wakes := rfl
@[simp] theorem State.walkerFill_buses (s : State) (n : Nat) (e : Tlb) : (s.walkerFill n e).buses = s.buses := rfl
@[simp] theorem State.walkerFill_busCounts (s : State) (n : Nat) (e : Tlb) : (s.walkerFill n e).busCounts = s.busCounts := rfl
@[simp] theorem State.walkerFill_windows (s : State) (n : Nat) (e : Tlb) : (s.walkerFill n e).windows = s.windows := rfl
@[simp] theorem State.walkerFill_caches (s : State) (n : Nat) (e : Tlb) : (s.walkerFill n e).caches = s.caches := rfl
@[simp] theorem State.walkerFill_binds (s : State) (n : Nat) (e : Tlb) : (s.walkerFill n e).binds = s.binds := rfl
@[simp] theorem State.walkerFill_engines (s : State) (n : Nat) (e : Tlb) : (s.walkerFill n e).engines = s.engines := rfl
@[simp] theorem State.walkerFill_joined (s : State) (n : Nat) (e : Tlb) : (s.walkerFill n e).joined = s.joined := rfl
@[simp] theorem State.walkerFill_retiredCores (s : State) (n : Nat) (e : Tlb) : (s.walkerFill n e).retiredCores = s.retiredCores := rfl
@[simp] theorem State.walkerFill_sliceMap (s : State) (n : Nat) (e : Tlb) : (s.walkerFill n e).sliceMap = s.sliceMap := rfl
@[simp] theorem State.walkerFill_tlf (s : State) (n : Nat) (e : Tlb) : (s.walkerFill n e).tlf = s.tlf := rfl
@[simp] theorem State.walkerFill_pwx (s : State) (n : Nat) (e : Tlb) : (s.walkerFill n e).pwx = s.pwx := rfl
@[simp] theorem State.walkerFill_routes (s : State) (n : Nat) (e : Tlb) : (s.walkerFill n e).routes = s.routes := rfl
@[simp] theorem State.walkerFill_portsUp (s : State) (n : Nat) (e : Tlb) : (s.walkerFill n e).portsUp = s.portsUp := rfl
@[simp] theorem State.walkerFill_portsEn (s : State) (n : Nat) (e : Tlb) : (s.walkerFill n e).portsEn = s.portsEn := rfl
@[simp] theorem State.walkerFill_msi (s : State) (n : Nat) (e : Tlb) : (s.walkerFill n e).msi = s.msi := rfl
@[simp] theorem State.walkerFill_issued (s : State) (n : Nat) (e : Tlb) : (s.walkerFill n e).issued = s.issued := rfl
@[simp] theorem State.walkerFill_fences (s : State) (n : Nat) (e : Tlb) : (s.walkerFill n e).fences = s.fences := rfl
@[simp] theorem State.walkerFill_vec (s : State) (n : Nat) (e : Tlb) : (s.walkerFill n e).vec = s.vec := rfl
@[simp] theorem State.walkerFill_dying (s : State) (n : Nat) (e : Tlb) : (s.walkerFill n e).dying = s.dying := rfl
@[simp] theorem State.walkerFill_exits (s : State) (n : Nat) (e : Tlb) : (s.walkerFill n e).exits = s.exits := rfl
@[simp] theorem State.walkerFill_chans (s : State) (n : Nat) (e : Tlb) : (s.walkerFill n e).chans = s.chans := rfl
@[simp] theorem State.walkerFill_regions (s : State) (n : Nat) (e : Tlb) : (s.walkerFill n e).regions = s.regions := rfl
@[simp] theorem State.walkerFill_reg (s : State) (n : Nat) (e : Tlb) : (s.walkerFill n e).reg = s.reg := rfl
@[simp] theorem State.walkerFill_out (s : State) (n : Nat) (e : Tlb) : (s.walkerFill n e).out = s.out := rfl
@[simp] theorem State.walkerFill_ctxs (s : State) (n : Nat) (e : Tlb) : (s.walkerFill n e).ctxs = s.ctxs := rfl

@[simp] theorem State.setCtx_clk (s : State) (c : Ctx) : (s.setCtx c).clk = s.clk := rfl
@[simp] theorem State.setCtx_agenda (s : State) (c : Ctx) : (s.setCtx c).agenda = s.agenda := rfl
@[simp] theorem State.setCtx_unit (s : State) (c : Ctx) : (s.setCtx c).unit = s.unit := rfl
@[simp] theorem State.setCtx_free (s : State) (c : Ctx) : (s.setCtx c).free = s.free := rfl
@[simp] theorem State.setCtx_nextId (s : State) (c : Ctx) : (s.setCtx c).nextId = s.nextId := rfl
@[simp] theorem State.setCtx_th (s : State) (c : Ctx) : (s.setCtx c).th = s.th := rfl
@[simp] theorem State.setCtx_others (s : State) (c : Ctx) : (s.setCtx c).others = s.others := rfl
@[simp] theorem State.setCtx_cores (s : State) (c : Ctx) : (s.setCtx c).cores = s.cores := rfl
@[simp] theorem State.setCtx_mem (s : State) (c : Ctx) : (s.setCtx c).mem = s.mem := rfl
@[simp] theorem State.setCtx_deep (s : State) (c : Ctx) : (s.setCtx c).deep = s.deep := rfl
@[simp] theorem State.setCtx_scratch (s : State) (c : Ctx) : (s.setCtx c).scratch = s.scratch := rfl
@[simp] theorem State.setCtx_tiles (s : State) (c : Ctx) : (s.setCtx c).tiles = s.tiles := rfl
@[simp] theorem State.setCtx_flash (s : State) (c : Ctx) : (s.setCtx c).flash = s.flash := rfl
@[simp] theorem State.setCtx_bad (s : State) (c : Ctx) : (s.setCtx c).bad = s.bad := rfl
@[simp] theorem State.setCtx_stores (s : State) (c : Ctx) : (s.setCtx c).stores = s.stores := rfl
@[simp] theorem State.setCtx_links (s : State) (c : Ctx) : (s.setCtx c).links = s.links := rfl
@[simp] theorem State.setCtx_answers (s : State) (c : Ctx) : (s.setCtx c).answers = s.answers := rfl
@[simp] theorem State.setCtx_wakes (s : State) (c : Ctx) : (s.setCtx c).wakes = s.wakes := rfl
@[simp] theorem State.setCtx_buses (s : State) (c : Ctx) : (s.setCtx c).buses = s.buses := rfl
@[simp] theorem State.setCtx_busCounts (s : State) (c : Ctx) : (s.setCtx c).busCounts = s.busCounts := rfl
@[simp] theorem State.setCtx_windows (s : State) (c : Ctx) : (s.setCtx c).windows = s.windows := rfl
@[simp] theorem State.setCtx_caches (s : State) (c : Ctx) : (s.setCtx c).caches = s.caches := rfl
@[simp] theorem State.setCtx_binds (s : State) (c : Ctx) : (s.setCtx c).binds = s.binds := rfl
@[simp] theorem State.setCtx_engines (s : State) (c : Ctx) : (s.setCtx c).engines = s.engines := rfl
@[simp] theorem State.setCtx_joined (s : State) (c : Ctx) : (s.setCtx c).joined = s.joined := rfl
@[simp] theorem State.setCtx_retiredCores (s : State) (c : Ctx) : (s.setCtx c).retiredCores = s.retiredCores := rfl
@[simp] theorem State.setCtx_sliceMap (s : State) (c : Ctx) : (s.setCtx c).sliceMap = s.sliceMap := rfl
@[simp] theorem State.setCtx_tlf (s : State) (c : Ctx) : (s.setCtx c).tlf = s.tlf := rfl
@[simp] theorem State.setCtx_pwx (s : State) (c : Ctx) : (s.setCtx c).pwx = s.pwx := rfl
@[simp] theorem State.setCtx_routes (s : State) (c : Ctx) : (s.setCtx c).routes = s.routes := rfl
@[simp] theorem State.setCtx_portsUp (s : State) (c : Ctx) : (s.setCtx c).portsUp = s.portsUp := rfl
@[simp] theorem State.setCtx_portsEn (s : State) (c : Ctx) : (s.setCtx c).portsEn = s.portsEn := rfl
@[simp] theorem State.setCtx_msi (s : State) (c : Ctx) : (s.setCtx c).msi = s.msi := rfl
@[simp] theorem State.setCtx_issued (s : State) (c : Ctx) : (s.setCtx c).issued = s.issued := rfl
@[simp] theorem State.setCtx_fences (s : State) (c : Ctx) : (s.setCtx c).fences = s.fences := rfl
@[simp] theorem State.setCtx_walkers (s : State) (c : Ctx) : (s.setCtx c).walkers = s.walkers := rfl
@[simp] theorem State.setCtx_vec (s : State) (c : Ctx) : (s.setCtx c).vec = s.vec := rfl
@[simp] theorem State.setCtx_dying (s : State) (c : Ctx) : (s.setCtx c).dying = s.dying := rfl
@[simp] theorem State.setCtx_exits (s : State) (c : Ctx) : (s.setCtx c).exits = s.exits := rfl
@[simp] theorem State.setCtx_chans (s : State) (c : Ctx) : (s.setCtx c).chans = s.chans := rfl
@[simp] theorem State.setCtx_regions (s : State) (c : Ctx) : (s.setCtx c).regions = s.regions := rfl
@[simp] theorem State.setCtx_reg (s : State) (c : Ctx) : (s.setCtx c).reg = s.reg := rfl
@[simp] theorem State.setCtx_out (s : State) (c : Ctx) : (s.setCtx c).out = s.out := rfl

@[simp] theorem State.addT_clk (s : State) (t : Thread) : (s.addT t).clk = s.clk := rfl
@[simp] theorem State.addT_agenda (s : State) (t : Thread) : (s.addT t).agenda = s.agenda := rfl
@[simp] theorem State.addT_unit (s : State) (t : Thread) : (s.addT t).unit = s.unit := rfl
@[simp] theorem State.addT_free (s : State) (t : Thread) : (s.addT t).free = s.free := rfl
@[simp] theorem State.addT_nextId (s : State) (t : Thread) : (s.addT t).nextId = s.nextId := rfl
@[simp] theorem State.addT_th (s : State) (t : Thread) : (s.addT t).th = s.th := rfl
@[simp] theorem State.addT_cores (s : State) (t : Thread) : (s.addT t).cores = s.cores := rfl
@[simp] theorem State.addT_mem (s : State) (t : Thread) : (s.addT t).mem = s.mem := rfl
@[simp] theorem State.addT_deep (s : State) (t : Thread) : (s.addT t).deep = s.deep := rfl
@[simp] theorem State.addT_scratch (s : State) (t : Thread) : (s.addT t).scratch = s.scratch := rfl
@[simp] theorem State.addT_tiles (s : State) (t : Thread) : (s.addT t).tiles = s.tiles := rfl
@[simp] theorem State.addT_flash (s : State) (t : Thread) : (s.addT t).flash = s.flash := rfl
@[simp] theorem State.addT_bad (s : State) (t : Thread) : (s.addT t).bad = s.bad := rfl
@[simp] theorem State.addT_stores (s : State) (t : Thread) : (s.addT t).stores = s.stores := rfl
@[simp] theorem State.addT_links (s : State) (t : Thread) : (s.addT t).links = s.links := rfl
@[simp] theorem State.addT_answers (s : State) (t : Thread) : (s.addT t).answers = s.answers := rfl
@[simp] theorem State.addT_wakes (s : State) (t : Thread) : (s.addT t).wakes = s.wakes := rfl
@[simp] theorem State.addT_buses (s : State) (t : Thread) : (s.addT t).buses = s.buses := rfl
@[simp] theorem State.addT_busCounts (s : State) (t : Thread) : (s.addT t).busCounts = s.busCounts := rfl
@[simp] theorem State.addT_windows (s : State) (t : Thread) : (s.addT t).windows = s.windows := rfl
@[simp] theorem State.addT_caches (s : State) (t : Thread) : (s.addT t).caches = s.caches := rfl
@[simp] theorem State.addT_ctxs (s : State) (t : Thread) : (s.addT t).ctxs = s.ctxs := rfl
@[simp] theorem State.addT_binds (s : State) (t : Thread) : (s.addT t).binds = s.binds := rfl
@[simp] theorem State.addT_engines (s : State) (t : Thread) : (s.addT t).engines = s.engines := rfl
@[simp] theorem State.addT_joined (s : State) (t : Thread) : (s.addT t).joined = s.joined := rfl
@[simp] theorem State.addT_retiredCores (s : State) (t : Thread) : (s.addT t).retiredCores = s.retiredCores := rfl
@[simp] theorem State.addT_sliceMap (s : State) (t : Thread) : (s.addT t).sliceMap = s.sliceMap := rfl
@[simp] theorem State.addT_tlf (s : State) (t : Thread) : (s.addT t).tlf = s.tlf := rfl
@[simp] theorem State.addT_pwx (s : State) (t : Thread) : (s.addT t).pwx = s.pwx := rfl
@[simp] theorem State.addT_routes (s : State) (t : Thread) : (s.addT t).routes = s.routes := rfl
@[simp] theorem State.addT_portsUp (s : State) (t : Thread) : (s.addT t).portsUp = s.portsUp := rfl
@[simp] theorem State.addT_portsEn (s : State) (t : Thread) : (s.addT t).portsEn = s.portsEn := rfl
@[simp] theorem State.addT_msi (s : State) (t : Thread) : (s.addT t).msi = s.msi := rfl
@[simp] theorem State.addT_issued (s : State) (t : Thread) : (s.addT t).issued = s.issued := rfl
@[simp] theorem State.addT_fences (s : State) (t : Thread) : (s.addT t).fences = s.fences := rfl
@[simp] theorem State.addT_walkers (s : State) (t : Thread) : (s.addT t).walkers = s.walkers := rfl
@[simp] theorem State.addT_vec (s : State) (t : Thread) : (s.addT t).vec = s.vec := rfl
@[simp] theorem State.addT_dying (s : State) (t : Thread) : (s.addT t).dying = s.dying := rfl
@[simp] theorem State.addT_exits (s : State) (t : Thread) : (s.addT t).exits = s.exits := rfl
@[simp] theorem State.addT_chans (s : State) (t : Thread) : (s.addT t).chans = s.chans := rfl
@[simp] theorem State.addT_regions (s : State) (t : Thread) : (s.addT t).regions = s.regions := rfl
@[simp] theorem State.addT_reg (s : State) (t : Thread) : (s.addT t).reg = s.reg := rfl
@[simp] theorem State.addT_out (s : State) (t : Thread) : (s.addT t).out = s.out := rfl

@[simp] theorem State.setChan_clk (s : State) (c : Chan) : (s.setChan c).clk = s.clk := rfl
@[simp] theorem State.setChan_agenda (s : State) (c : Chan) : (s.setChan c).agenda = s.agenda := rfl
@[simp] theorem State.setChan_unit (s : State) (c : Chan) : (s.setChan c).unit = s.unit := rfl
@[simp] theorem State.setChan_free (s : State) (c : Chan) : (s.setChan c).free = s.free := rfl
@[simp] theorem State.setChan_nextId (s : State) (c : Chan) : (s.setChan c).nextId = s.nextId := rfl
@[simp] theorem State.setChan_th (s : State) (c : Chan) : (s.setChan c).th = s.th := rfl
@[simp] theorem State.setChan_others (s : State) (c : Chan) : (s.setChan c).others = s.others := rfl
@[simp] theorem State.setChan_cores (s : State) (c : Chan) : (s.setChan c).cores = s.cores := rfl
@[simp] theorem State.setChan_mem (s : State) (c : Chan) : (s.setChan c).mem = s.mem := rfl
@[simp] theorem State.setChan_deep (s : State) (c : Chan) : (s.setChan c).deep = s.deep := rfl
@[simp] theorem State.setChan_scratch (s : State) (c : Chan) : (s.setChan c).scratch = s.scratch := rfl
@[simp] theorem State.setChan_tiles (s : State) (c : Chan) : (s.setChan c).tiles = s.tiles := rfl
@[simp] theorem State.setChan_flash (s : State) (c : Chan) : (s.setChan c).flash = s.flash := rfl
@[simp] theorem State.setChan_bad (s : State) (c : Chan) : (s.setChan c).bad = s.bad := rfl
@[simp] theorem State.setChan_stores (s : State) (c : Chan) : (s.setChan c).stores = s.stores := rfl
@[simp] theorem State.setChan_links (s : State) (c : Chan) : (s.setChan c).links = s.links := rfl
@[simp] theorem State.setChan_answers (s : State) (c : Chan) : (s.setChan c).answers = s.answers := rfl
@[simp] theorem State.setChan_wakes (s : State) (c : Chan) : (s.setChan c).wakes = s.wakes := rfl
@[simp] theorem State.setChan_buses (s : State) (c : Chan) : (s.setChan c).buses = s.buses := rfl
@[simp] theorem State.setChan_busCounts (s : State) (c : Chan) : (s.setChan c).busCounts = s.busCounts := rfl
@[simp] theorem State.setChan_windows (s : State) (c : Chan) : (s.setChan c).windows = s.windows := rfl
@[simp] theorem State.setChan_caches (s : State) (c : Chan) : (s.setChan c).caches = s.caches := rfl
@[simp] theorem State.setChan_ctxs (s : State) (c : Chan) : (s.setChan c).ctxs = s.ctxs := rfl
@[simp] theorem State.setChan_binds (s : State) (c : Chan) : (s.setChan c).binds = s.binds := rfl
@[simp] theorem State.setChan_engines (s : State) (c : Chan) : (s.setChan c).engines = s.engines := rfl
@[simp] theorem State.setChan_joined (s : State) (c : Chan) : (s.setChan c).joined = s.joined := rfl
@[simp] theorem State.setChan_retiredCores (s : State) (c : Chan) : (s.setChan c).retiredCores = s.retiredCores := rfl
@[simp] theorem State.setChan_sliceMap (s : State) (c : Chan) : (s.setChan c).sliceMap = s.sliceMap := rfl
@[simp] theorem State.setChan_tlf (s : State) (c : Chan) : (s.setChan c).tlf = s.tlf := rfl
@[simp] theorem State.setChan_pwx (s : State) (c : Chan) : (s.setChan c).pwx = s.pwx := rfl
@[simp] theorem State.setChan_routes (s : State) (c : Chan) : (s.setChan c).routes = s.routes := rfl
@[simp] theorem State.setChan_portsUp (s : State) (c : Chan) : (s.setChan c).portsUp = s.portsUp := rfl
@[simp] theorem State.setChan_portsEn (s : State) (c : Chan) : (s.setChan c).portsEn = s.portsEn := rfl
@[simp] theorem State.setChan_msi (s : State) (c : Chan) : (s.setChan c).msi = s.msi := rfl
@[simp] theorem State.setChan_issued (s : State) (c : Chan) : (s.setChan c).issued = s.issued := rfl
@[simp] theorem State.setChan_fences (s : State) (c : Chan) : (s.setChan c).fences = s.fences := rfl
@[simp] theorem State.setChan_walkers (s : State) (c : Chan) : (s.setChan c).walkers = s.walkers := rfl
@[simp] theorem State.setChan_vec (s : State) (c : Chan) : (s.setChan c).vec = s.vec := rfl
@[simp] theorem State.setChan_dying (s : State) (c : Chan) : (s.setChan c).dying = s.dying := rfl
@[simp] theorem State.setChan_exits (s : State) (c : Chan) : (s.setChan c).exits = s.exits := rfl
@[simp] theorem State.setChan_regions (s : State) (c : Chan) : (s.setChan c).regions = s.regions := rfl
@[simp] theorem State.setChan_reg (s : State) (c : Chan) : (s.setChan c).reg = s.reg := rfl
@[simp] theorem State.setChan_out (s : State) (c : Chan) : (s.setChan c).out = s.out := rfl

@[simp] theorem State.setRegion_clk (s : State) (r : Region) : (s.setRegion r).clk = s.clk := rfl
@[simp] theorem State.setRegion_agenda (s : State) (r : Region) : (s.setRegion r).agenda = s.agenda := rfl
@[simp] theorem State.setRegion_unit (s : State) (r : Region) : (s.setRegion r).unit = s.unit := rfl
@[simp] theorem State.setRegion_free (s : State) (r : Region) : (s.setRegion r).free = s.free := rfl
@[simp] theorem State.setRegion_nextId (s : State) (r : Region) : (s.setRegion r).nextId = s.nextId := rfl
@[simp] theorem State.setRegion_th (s : State) (r : Region) : (s.setRegion r).th = s.th := rfl
@[simp] theorem State.setRegion_others (s : State) (r : Region) : (s.setRegion r).others = s.others := rfl
@[simp] theorem State.setRegion_cores (s : State) (r : Region) : (s.setRegion r).cores = s.cores := rfl
@[simp] theorem State.setRegion_mem (s : State) (r : Region) : (s.setRegion r).mem = s.mem := rfl
@[simp] theorem State.setRegion_deep (s : State) (r : Region) : (s.setRegion r).deep = s.deep := rfl
@[simp] theorem State.setRegion_scratch (s : State) (r : Region) : (s.setRegion r).scratch = s.scratch := rfl
@[simp] theorem State.setRegion_tiles (s : State) (r : Region) : (s.setRegion r).tiles = s.tiles := rfl
@[simp] theorem State.setRegion_flash (s : State) (r : Region) : (s.setRegion r).flash = s.flash := rfl
@[simp] theorem State.setRegion_bad (s : State) (r : Region) : (s.setRegion r).bad = s.bad := rfl
@[simp] theorem State.setRegion_stores (s : State) (r : Region) : (s.setRegion r).stores = s.stores := rfl
@[simp] theorem State.setRegion_links (s : State) (r : Region) : (s.setRegion r).links = s.links := rfl
@[simp] theorem State.setRegion_answers (s : State) (r : Region) : (s.setRegion r).answers = s.answers := rfl
@[simp] theorem State.setRegion_wakes (s : State) (r : Region) : (s.setRegion r).wakes = s.wakes := rfl
@[simp] theorem State.setRegion_buses (s : State) (r : Region) : (s.setRegion r).buses = s.buses := rfl
@[simp] theorem State.setRegion_busCounts (s : State) (r : Region) : (s.setRegion r).busCounts = s.busCounts := rfl
@[simp] theorem State.setRegion_windows (s : State) (r : Region) : (s.setRegion r).windows = s.windows := rfl
@[simp] theorem State.setRegion_caches (s : State) (r : Region) : (s.setRegion r).caches = s.caches := rfl
@[simp] theorem State.setRegion_ctxs (s : State) (r : Region) : (s.setRegion r).ctxs = s.ctxs := rfl
@[simp] theorem State.setRegion_binds (s : State) (r : Region) : (s.setRegion r).binds = s.binds := rfl
@[simp] theorem State.setRegion_engines (s : State) (r : Region) : (s.setRegion r).engines = s.engines := rfl
@[simp] theorem State.setRegion_joined (s : State) (r : Region) : (s.setRegion r).joined = s.joined := rfl
@[simp] theorem State.setRegion_retiredCores (s : State) (r : Region) : (s.setRegion r).retiredCores = s.retiredCores := rfl
@[simp] theorem State.setRegion_sliceMap (s : State) (r : Region) : (s.setRegion r).sliceMap = s.sliceMap := rfl
@[simp] theorem State.setRegion_tlf (s : State) (r : Region) : (s.setRegion r).tlf = s.tlf := rfl
@[simp] theorem State.setRegion_pwx (s : State) (r : Region) : (s.setRegion r).pwx = s.pwx := rfl
@[simp] theorem State.setRegion_routes (s : State) (r : Region) : (s.setRegion r).routes = s.routes := rfl
@[simp] theorem State.setRegion_portsUp (s : State) (r : Region) : (s.setRegion r).portsUp = s.portsUp := rfl
@[simp] theorem State.setRegion_portsEn (s : State) (r : Region) : (s.setRegion r).portsEn = s.portsEn := rfl
@[simp] theorem State.setRegion_msi (s : State) (r : Region) : (s.setRegion r).msi = s.msi := rfl
@[simp] theorem State.setRegion_issued (s : State) (r : Region) : (s.setRegion r).issued = s.issued := rfl
@[simp] theorem State.setRegion_fences (s : State) (r : Region) : (s.setRegion r).fences = s.fences := rfl
@[simp] theorem State.setRegion_walkers (s : State) (r : Region) : (s.setRegion r).walkers = s.walkers := rfl
@[simp] theorem State.setRegion_vec (s : State) (r : Region) : (s.setRegion r).vec = s.vec := rfl
@[simp] theorem State.setRegion_dying (s : State) (r : Region) : (s.setRegion r).dying = s.dying := rfl
@[simp] theorem State.setRegion_exits (s : State) (r : Region) : (s.setRegion r).exits = s.exits := rfl
@[simp] theorem State.setRegion_chans (s : State) (r : Region) : (s.setRegion r).chans = s.chans := rfl
@[simp] theorem State.setRegion_reg (s : State) (r : Region) : (s.setRegion r).reg = s.reg := rfl
@[simp] theorem State.setRegion_out (s : State) (r : Region) : (s.setRegion r).out = s.out := rfl

@[simp] theorem State.setQueue_clk (s : State) (q : Queue) : (s.setQueue q).clk = s.clk := rfl
@[simp] theorem State.setQueue_agenda (s : State) (q : Queue) : (s.setQueue q).agenda = s.agenda := rfl
@[simp] theorem State.setQueue_unit (s : State) (q : Queue) : (s.setQueue q).unit = s.unit := rfl
@[simp] theorem State.setQueue_free (s : State) (q : Queue) : (s.setQueue q).free = s.free := rfl
@[simp] theorem State.setQueue_nextId (s : State) (q : Queue) : (s.setQueue q).nextId = s.nextId := rfl
@[simp] theorem State.setQueue_th (s : State) (q : Queue) : (s.setQueue q).th = s.th := rfl
@[simp] theorem State.setQueue_others (s : State) (q : Queue) : (s.setQueue q).others = s.others := rfl
@[simp] theorem State.setQueue_cores (s : State) (q : Queue) : (s.setQueue q).cores = s.cores := rfl
@[simp] theorem State.setQueue_mem (s : State) (q : Queue) : (s.setQueue q).mem = s.mem := rfl
@[simp] theorem State.setQueue_deep (s : State) (q : Queue) : (s.setQueue q).deep = s.deep := rfl
@[simp] theorem State.setQueue_scratch (s : State) (q : Queue) : (s.setQueue q).scratch = s.scratch := rfl
@[simp] theorem State.setQueue_tiles (s : State) (q : Queue) : (s.setQueue q).tiles = s.tiles := rfl
@[simp] theorem State.setQueue_flash (s : State) (q : Queue) : (s.setQueue q).flash = s.flash := rfl
@[simp] theorem State.setQueue_bad (s : State) (q : Queue) : (s.setQueue q).bad = s.bad := rfl
@[simp] theorem State.setQueue_stores (s : State) (q : Queue) : (s.setQueue q).stores = s.stores := rfl
@[simp] theorem State.setQueue_links (s : State) (q : Queue) : (s.setQueue q).links = s.links := rfl
@[simp] theorem State.setQueue_answers (s : State) (q : Queue) : (s.setQueue q).answers = s.answers := rfl
@[simp] theorem State.setQueue_wakes (s : State) (q : Queue) : (s.setQueue q).wakes = s.wakes := rfl
@[simp] theorem State.setQueue_buses (s : State) (q : Queue) : (s.setQueue q).buses = s.buses := rfl
@[simp] theorem State.setQueue_busCounts (s : State) (q : Queue) : (s.setQueue q).busCounts = s.busCounts := rfl
@[simp] theorem State.setQueue_windows (s : State) (q : Queue) : (s.setQueue q).windows = s.windows := rfl
@[simp] theorem State.setQueue_caches (s : State) (q : Queue) : (s.setQueue q).caches = s.caches := rfl
@[simp] theorem State.setQueue_ctxs (s : State) (q : Queue) : (s.setQueue q).ctxs = s.ctxs := rfl
@[simp] theorem State.setQueue_binds (s : State) (q : Queue) : (s.setQueue q).binds = s.binds := rfl
@[simp] theorem State.setQueue_engines (s : State) (q : Queue) : (s.setQueue q).engines = s.engines := rfl
@[simp] theorem State.setQueue_joined (s : State) (q : Queue) : (s.setQueue q).joined = s.joined := rfl
@[simp] theorem State.setQueue_retiredCores (s : State) (q : Queue) : (s.setQueue q).retiredCores = s.retiredCores := rfl
@[simp] theorem State.setQueue_sliceMap (s : State) (q : Queue) : (s.setQueue q).sliceMap = s.sliceMap := rfl
@[simp] theorem State.setQueue_tlf (s : State) (q : Queue) : (s.setQueue q).tlf = s.tlf := rfl
@[simp] theorem State.setQueue_pwx (s : State) (q : Queue) : (s.setQueue q).pwx = s.pwx := rfl
@[simp] theorem State.setQueue_routes (s : State) (q : Queue) : (s.setQueue q).routes = s.routes := rfl
@[simp] theorem State.setQueue_portsUp (s : State) (q : Queue) : (s.setQueue q).portsUp = s.portsUp := rfl
@[simp] theorem State.setQueue_portsEn (s : State) (q : Queue) : (s.setQueue q).portsEn = s.portsEn := rfl
@[simp] theorem State.setQueue_msi (s : State) (q : Queue) : (s.setQueue q).msi = s.msi := rfl
@[simp] theorem State.setQueue_issued (s : State) (q : Queue) : (s.setQueue q).issued = s.issued := rfl
@[simp] theorem State.setQueue_fences (s : State) (q : Queue) : (s.setQueue q).fences = s.fences := rfl
@[simp] theorem State.setQueue_walkers (s : State) (q : Queue) : (s.setQueue q).walkers = s.walkers := rfl
@[simp] theorem State.setQueue_vec (s : State) (q : Queue) : (s.setQueue q).vec = s.vec := rfl
@[simp] theorem State.setQueue_dying (s : State) (q : Queue) : (s.setQueue q).dying = s.dying := rfl
@[simp] theorem State.setQueue_exits (s : State) (q : Queue) : (s.setQueue q).exits = s.exits := rfl
@[simp] theorem State.setQueue_chans (s : State) (q : Queue) : (s.setQueue q).chans = s.chans := rfl
@[simp] theorem State.setQueue_regions (s : State) (q : Queue) : (s.setQueue q).regions = s.regions := rfl
@[simp] theorem State.setQueue_out (s : State) (q : Queue) : (s.setQueue q).out = s.out := rfl

@[simp] theorem State.setLaunch_clk (s : State) (l : Launch) : (s.setLaunch l).clk = s.clk := rfl
@[simp] theorem State.setLaunch_agenda (s : State) (l : Launch) : (s.setLaunch l).agenda = s.agenda := rfl
@[simp] theorem State.setLaunch_unit (s : State) (l : Launch) : (s.setLaunch l).unit = s.unit := rfl
@[simp] theorem State.setLaunch_free (s : State) (l : Launch) : (s.setLaunch l).free = s.free := rfl
@[simp] theorem State.setLaunch_nextId (s : State) (l : Launch) : (s.setLaunch l).nextId = s.nextId := rfl
@[simp] theorem State.setLaunch_th (s : State) (l : Launch) : (s.setLaunch l).th = s.th := rfl
@[simp] theorem State.setLaunch_others (s : State) (l : Launch) : (s.setLaunch l).others = s.others := rfl
@[simp] theorem State.setLaunch_cores (s : State) (l : Launch) : (s.setLaunch l).cores = s.cores := rfl
@[simp] theorem State.setLaunch_mem (s : State) (l : Launch) : (s.setLaunch l).mem = s.mem := rfl
@[simp] theorem State.setLaunch_deep (s : State) (l : Launch) : (s.setLaunch l).deep = s.deep := rfl
@[simp] theorem State.setLaunch_scratch (s : State) (l : Launch) : (s.setLaunch l).scratch = s.scratch := rfl
@[simp] theorem State.setLaunch_tiles (s : State) (l : Launch) : (s.setLaunch l).tiles = s.tiles := rfl
@[simp] theorem State.setLaunch_flash (s : State) (l : Launch) : (s.setLaunch l).flash = s.flash := rfl
@[simp] theorem State.setLaunch_bad (s : State) (l : Launch) : (s.setLaunch l).bad = s.bad := rfl
@[simp] theorem State.setLaunch_stores (s : State) (l : Launch) : (s.setLaunch l).stores = s.stores := rfl
@[simp] theorem State.setLaunch_links (s : State) (l : Launch) : (s.setLaunch l).links = s.links := rfl
@[simp] theorem State.setLaunch_answers (s : State) (l : Launch) : (s.setLaunch l).answers = s.answers := rfl
@[simp] theorem State.setLaunch_wakes (s : State) (l : Launch) : (s.setLaunch l).wakes = s.wakes := rfl
@[simp] theorem State.setLaunch_buses (s : State) (l : Launch) : (s.setLaunch l).buses = s.buses := rfl
@[simp] theorem State.setLaunch_busCounts (s : State) (l : Launch) : (s.setLaunch l).busCounts = s.busCounts := rfl
@[simp] theorem State.setLaunch_windows (s : State) (l : Launch) : (s.setLaunch l).windows = s.windows := rfl
@[simp] theorem State.setLaunch_caches (s : State) (l : Launch) : (s.setLaunch l).caches = s.caches := rfl
@[simp] theorem State.setLaunch_ctxs (s : State) (l : Launch) : (s.setLaunch l).ctxs = s.ctxs := rfl
@[simp] theorem State.setLaunch_binds (s : State) (l : Launch) : (s.setLaunch l).binds = s.binds := rfl
@[simp] theorem State.setLaunch_engines (s : State) (l : Launch) : (s.setLaunch l).engines = s.engines := rfl
@[simp] theorem State.setLaunch_joined (s : State) (l : Launch) : (s.setLaunch l).joined = s.joined := rfl
@[simp] theorem State.setLaunch_retiredCores (s : State) (l : Launch) : (s.setLaunch l).retiredCores = s.retiredCores := rfl
@[simp] theorem State.setLaunch_sliceMap (s : State) (l : Launch) : (s.setLaunch l).sliceMap = s.sliceMap := rfl
@[simp] theorem State.setLaunch_tlf (s : State) (l : Launch) : (s.setLaunch l).tlf = s.tlf := rfl
@[simp] theorem State.setLaunch_pwx (s : State) (l : Launch) : (s.setLaunch l).pwx = s.pwx := rfl
@[simp] theorem State.setLaunch_routes (s : State) (l : Launch) : (s.setLaunch l).routes = s.routes := rfl
@[simp] theorem State.setLaunch_portsUp (s : State) (l : Launch) : (s.setLaunch l).portsUp = s.portsUp := rfl
@[simp] theorem State.setLaunch_portsEn (s : State) (l : Launch) : (s.setLaunch l).portsEn = s.portsEn := rfl
@[simp] theorem State.setLaunch_msi (s : State) (l : Launch) : (s.setLaunch l).msi = s.msi := rfl
@[simp] theorem State.setLaunch_issued (s : State) (l : Launch) : (s.setLaunch l).issued = s.issued := rfl
@[simp] theorem State.setLaunch_fences (s : State) (l : Launch) : (s.setLaunch l).fences = s.fences := rfl
@[simp] theorem State.setLaunch_walkers (s : State) (l : Launch) : (s.setLaunch l).walkers = s.walkers := rfl
@[simp] theorem State.setLaunch_vec (s : State) (l : Launch) : (s.setLaunch l).vec = s.vec := rfl
@[simp] theorem State.setLaunch_dying (s : State) (l : Launch) : (s.setLaunch l).dying = s.dying := rfl
@[simp] theorem State.setLaunch_exits (s : State) (l : Launch) : (s.setLaunch l).exits = s.exits := rfl
@[simp] theorem State.setLaunch_chans (s : State) (l : Launch) : (s.setLaunch l).chans = s.chans := rfl
@[simp] theorem State.setLaunch_regions (s : State) (l : Launch) : (s.setLaunch l).regions = s.regions := rfl
@[simp] theorem State.setLaunch_out (s : State) (l : Launch) : (s.setLaunch l).out = s.out := rfl

@[simp] theorem State.unstall_clk (s : State) : (s.unstall).clk = s.clk := rfl
@[simp] theorem State.unstall_agenda (s : State) : (s.unstall).agenda = s.agenda := rfl
@[simp] theorem State.unstall_unit (s : State) : (s.unstall).unit = s.unit := rfl
@[simp] theorem State.unstall_free (s : State) : (s.unstall).free = s.free := rfl
@[simp] theorem State.unstall_nextId (s : State) : (s.unstall).nextId = s.nextId := rfl
@[simp] theorem State.unstall_cores (s : State) : (s.unstall).cores = s.cores := rfl
@[simp] theorem State.unstall_mem (s : State) : (s.unstall).mem = s.mem := rfl
@[simp] theorem State.unstall_deep (s : State) : (s.unstall).deep = s.deep := rfl
@[simp] theorem State.unstall_scratch (s : State) : (s.unstall).scratch = s.scratch := rfl
@[simp] theorem State.unstall_tiles (s : State) : (s.unstall).tiles = s.tiles := rfl
@[simp] theorem State.unstall_flash (s : State) : (s.unstall).flash = s.flash := rfl
@[simp] theorem State.unstall_bad (s : State) : (s.unstall).bad = s.bad := rfl
@[simp] theorem State.unstall_stores (s : State) : (s.unstall).stores = s.stores := rfl
@[simp] theorem State.unstall_links (s : State) : (s.unstall).links = s.links := rfl
@[simp] theorem State.unstall_answers (s : State) : (s.unstall).answers = s.answers := rfl
@[simp] theorem State.unstall_wakes (s : State) : (s.unstall).wakes = s.wakes := rfl
@[simp] theorem State.unstall_buses (s : State) : (s.unstall).buses = s.buses := rfl
@[simp] theorem State.unstall_busCounts (s : State) : (s.unstall).busCounts = s.busCounts := rfl
@[simp] theorem State.unstall_windows (s : State) : (s.unstall).windows = s.windows := rfl
@[simp] theorem State.unstall_caches (s : State) : (s.unstall).caches = s.caches := rfl
@[simp] theorem State.unstall_ctxs (s : State) : (s.unstall).ctxs = s.ctxs := rfl
@[simp] theorem State.unstall_binds (s : State) : (s.unstall).binds = s.binds := rfl
@[simp] theorem State.unstall_engines (s : State) : (s.unstall).engines = s.engines := rfl
@[simp] theorem State.unstall_joined (s : State) : (s.unstall).joined = s.joined := rfl
@[simp] theorem State.unstall_retiredCores (s : State) : (s.unstall).retiredCores = s.retiredCores := rfl
@[simp] theorem State.unstall_sliceMap (s : State) : (s.unstall).sliceMap = s.sliceMap := rfl
@[simp] theorem State.unstall_tlf (s : State) : (s.unstall).tlf = s.tlf := rfl
@[simp] theorem State.unstall_pwx (s : State) : (s.unstall).pwx = s.pwx := rfl
@[simp] theorem State.unstall_routes (s : State) : (s.unstall).routes = s.routes := rfl
@[simp] theorem State.unstall_portsUp (s : State) : (s.unstall).portsUp = s.portsUp := rfl
@[simp] theorem State.unstall_portsEn (s : State) : (s.unstall).portsEn = s.portsEn := rfl
@[simp] theorem State.unstall_msi (s : State) : (s.unstall).msi = s.msi := rfl
@[simp] theorem State.unstall_issued (s : State) : (s.unstall).issued = s.issued := rfl
@[simp] theorem State.unstall_fences (s : State) : (s.unstall).fences = s.fences := rfl
@[simp] theorem State.unstall_walkers (s : State) : (s.unstall).walkers = s.walkers := rfl
@[simp] theorem State.unstall_vec (s : State) : (s.unstall).vec = s.vec := rfl
@[simp] theorem State.unstall_dying (s : State) : (s.unstall).dying = s.dying := rfl
@[simp] theorem State.unstall_exits (s : State) : (s.unstall).exits = s.exits := rfl
@[simp] theorem State.unstall_chans (s : State) : (s.unstall).chans = s.chans := rfl
@[simp] theorem State.unstall_regions (s : State) : (s.unstall).regions = s.regions := rfl
@[simp] theorem State.unstall_reg (s : State) : (s.unstall).reg = s.reg := rfl
@[simp] theorem State.unstall_out (s : State) : (s.unstall).out = s.out := rfl

@[simp] theorem State.setT_clk (s : State) (t : Thread) : (s.setT t).clk = s.clk := by unfold State.setT; split <;> rfl
@[simp] theorem State.setT_agenda (s : State) (t : Thread) : (s.setT t).agenda = s.agenda := by unfold State.setT; split <;> rfl
@[simp] theorem State.setT_unit (s : State) (t : Thread) : (s.setT t).unit = s.unit := by unfold State.setT; split <;> rfl
@[simp] theorem State.setT_free (s : State) (t : Thread) : (s.setT t).free = s.free := by unfold State.setT; split <;> rfl
@[simp] theorem State.setT_nextId (s : State) (t : Thread) : (s.setT t).nextId = s.nextId := by unfold State.setT; split <;> rfl
@[simp] theorem State.setT_cores (s : State) (t : Thread) : (s.setT t).cores = s.cores := by unfold State.setT; split <;> rfl
@[simp] theorem State.setT_mem (s : State) (t : Thread) : (s.setT t).mem = s.mem := by unfold State.setT; split <;> rfl
@[simp] theorem State.setT_deep (s : State) (t : Thread) : (s.setT t).deep = s.deep := by unfold State.setT; split <;> rfl
@[simp] theorem State.setT_scratch (s : State) (t : Thread) : (s.setT t).scratch = s.scratch := by unfold State.setT; split <;> rfl
@[simp] theorem State.setT_tiles (s : State) (t : Thread) : (s.setT t).tiles = s.tiles := by unfold State.setT; split <;> rfl
@[simp] theorem State.setT_flash (s : State) (t : Thread) : (s.setT t).flash = s.flash := by unfold State.setT; split <;> rfl
@[simp] theorem State.setT_bad (s : State) (t : Thread) : (s.setT t).bad = s.bad := by unfold State.setT; split <;> rfl
@[simp] theorem State.setT_stores (s : State) (t : Thread) : (s.setT t).stores = s.stores := by unfold State.setT; split <;> rfl
@[simp] theorem State.setT_links (s : State) (t : Thread) : (s.setT t).links = s.links := by unfold State.setT; split <;> rfl
@[simp] theorem State.setT_answers (s : State) (t : Thread) : (s.setT t).answers = s.answers := by unfold State.setT; split <;> rfl
@[simp] theorem State.setT_wakes (s : State) (t : Thread) : (s.setT t).wakes = s.wakes := by unfold State.setT; split <;> rfl
@[simp] theorem State.setT_buses (s : State) (t : Thread) : (s.setT t).buses = s.buses := by unfold State.setT; split <;> rfl
@[simp] theorem State.setT_busCounts (s : State) (t : Thread) : (s.setT t).busCounts = s.busCounts := by unfold State.setT; split <;> rfl
@[simp] theorem State.setT_windows (s : State) (t : Thread) : (s.setT t).windows = s.windows := by unfold State.setT; split <;> rfl
@[simp] theorem State.setT_caches (s : State) (t : Thread) : (s.setT t).caches = s.caches := by unfold State.setT; split <;> rfl
@[simp] theorem State.setT_ctxs (s : State) (t : Thread) : (s.setT t).ctxs = s.ctxs := by unfold State.setT; split <;> rfl
@[simp] theorem State.setT_binds (s : State) (t : Thread) : (s.setT t).binds = s.binds := by unfold State.setT; split <;> rfl
@[simp] theorem State.setT_engines (s : State) (t : Thread) : (s.setT t).engines = s.engines := by unfold State.setT; split <;> rfl
@[simp] theorem State.setT_joined (s : State) (t : Thread) : (s.setT t).joined = s.joined := by unfold State.setT; split <;> rfl
@[simp] theorem State.setT_retiredCores (s : State) (t : Thread) : (s.setT t).retiredCores = s.retiredCores := by unfold State.setT; split <;> rfl
@[simp] theorem State.setT_sliceMap (s : State) (t : Thread) : (s.setT t).sliceMap = s.sliceMap := by unfold State.setT; split <;> rfl
@[simp] theorem State.setT_tlf (s : State) (t : Thread) : (s.setT t).tlf = s.tlf := by unfold State.setT; split <;> rfl
@[simp] theorem State.setT_pwx (s : State) (t : Thread) : (s.setT t).pwx = s.pwx := by unfold State.setT; split <;> rfl
@[simp] theorem State.setT_routes (s : State) (t : Thread) : (s.setT t).routes = s.routes := by unfold State.setT; split <;> rfl
@[simp] theorem State.setT_portsUp (s : State) (t : Thread) : (s.setT t).portsUp = s.portsUp := by unfold State.setT; split <;> rfl
@[simp] theorem State.setT_portsEn (s : State) (t : Thread) : (s.setT t).portsEn = s.portsEn := by unfold State.setT; split <;> rfl
@[simp] theorem State.setT_msi (s : State) (t : Thread) : (s.setT t).msi = s.msi := by unfold State.setT; split <;> rfl
@[simp] theorem State.setT_issued (s : State) (t : Thread) : (s.setT t).issued = s.issued := by unfold State.setT; split <;> rfl
@[simp] theorem State.setT_fences (s : State) (t : Thread) : (s.setT t).fences = s.fences := by unfold State.setT; split <;> rfl
@[simp] theorem State.setT_walkers (s : State) (t : Thread) : (s.setT t).walkers = s.walkers := by unfold State.setT; split <;> rfl
@[simp] theorem State.setT_vec (s : State) (t : Thread) : (s.setT t).vec = s.vec := by unfold State.setT; split <;> rfl
@[simp] theorem State.setT_dying (s : State) (t : Thread) : (s.setT t).dying = s.dying := by unfold State.setT; split <;> rfl
@[simp] theorem State.setT_exits (s : State) (t : Thread) : (s.setT t).exits = s.exits := by unfold State.setT; split <;> rfl
@[simp] theorem State.setT_chans (s : State) (t : Thread) : (s.setT t).chans = s.chans := by unfold State.setT; split <;> rfl
@[simp] theorem State.setT_regions (s : State) (t : Thread) : (s.setT t).regions = s.regions := by unfold State.setT; split <;> rfl
@[simp] theorem State.setT_reg (s : State) (t : Thread) : (s.setT t).reg = s.reg := by unfold State.setT; split <;> rfl
@[simp] theorem State.setT_out (s : State) (t : Thread) : (s.setT t).out = s.out := by unfold State.setT; split <;> rfl

@[simp] theorem State.delT_clk (s : State) (u : Nat) : (s.delT u).clk = s.clk := by unfold State.delT; split <;> rfl
@[simp] theorem State.delT_agenda (s : State) (u : Nat) : (s.delT u).agenda = s.agenda := by unfold State.delT; split <;> rfl
@[simp] theorem State.delT_unit (s : State) (u : Nat) : (s.delT u).unit = s.unit := by unfold State.delT; split <;> rfl
@[simp] theorem State.delT_free (s : State) (u : Nat) : (s.delT u).free = s.free := by unfold State.delT; split <;> rfl
@[simp] theorem State.delT_nextId (s : State) (u : Nat) : (s.delT u).nextId = s.nextId := by unfold State.delT; split <;> rfl
@[simp] theorem State.delT_cores (s : State) (u : Nat) : (s.delT u).cores = s.cores := by unfold State.delT; split <;> rfl
@[simp] theorem State.delT_mem (s : State) (u : Nat) : (s.delT u).mem = s.mem := by unfold State.delT; split <;> rfl
@[simp] theorem State.delT_deep (s : State) (u : Nat) : (s.delT u).deep = s.deep := by unfold State.delT; split <;> rfl
@[simp] theorem State.delT_scratch (s : State) (u : Nat) : (s.delT u).scratch = s.scratch := by unfold State.delT; split <;> rfl
@[simp] theorem State.delT_tiles (s : State) (u : Nat) : (s.delT u).tiles = s.tiles := by unfold State.delT; split <;> rfl
@[simp] theorem State.delT_flash (s : State) (u : Nat) : (s.delT u).flash = s.flash := by unfold State.delT; split <;> rfl
@[simp] theorem State.delT_bad (s : State) (u : Nat) : (s.delT u).bad = s.bad := by unfold State.delT; split <;> rfl
@[simp] theorem State.delT_stores (s : State) (u : Nat) : (s.delT u).stores = s.stores := by unfold State.delT; split <;> rfl
@[simp] theorem State.delT_links (s : State) (u : Nat) : (s.delT u).links = s.links := by unfold State.delT; split <;> rfl
@[simp] theorem State.delT_answers (s : State) (u : Nat) : (s.delT u).answers = s.answers := by unfold State.delT; split <;> rfl
@[simp] theorem State.delT_wakes (s : State) (u : Nat) : (s.delT u).wakes = s.wakes := by unfold State.delT; split <;> rfl
@[simp] theorem State.delT_buses (s : State) (u : Nat) : (s.delT u).buses = s.buses := by unfold State.delT; split <;> rfl
@[simp] theorem State.delT_busCounts (s : State) (u : Nat) : (s.delT u).busCounts = s.busCounts := by unfold State.delT; split <;> rfl
@[simp] theorem State.delT_windows (s : State) (u : Nat) : (s.delT u).windows = s.windows := by unfold State.delT; split <;> rfl
@[simp] theorem State.delT_caches (s : State) (u : Nat) : (s.delT u).caches = s.caches := by unfold State.delT; split <;> rfl
@[simp] theorem State.delT_ctxs (s : State) (u : Nat) : (s.delT u).ctxs = s.ctxs := by unfold State.delT; split <;> rfl
@[simp] theorem State.delT_binds (s : State) (u : Nat) : (s.delT u).binds = s.binds := by unfold State.delT; split <;> rfl
@[simp] theorem State.delT_engines (s : State) (u : Nat) : (s.delT u).engines = s.engines := by unfold State.delT; split <;> rfl
@[simp] theorem State.delT_joined (s : State) (u : Nat) : (s.delT u).joined = s.joined := by unfold State.delT; split <;> rfl
@[simp] theorem State.delT_retiredCores (s : State) (u : Nat) : (s.delT u).retiredCores = s.retiredCores := by unfold State.delT; split <;> rfl
@[simp] theorem State.delT_sliceMap (s : State) (u : Nat) : (s.delT u).sliceMap = s.sliceMap := by unfold State.delT; split <;> rfl
@[simp] theorem State.delT_tlf (s : State) (u : Nat) : (s.delT u).tlf = s.tlf := by unfold State.delT; split <;> rfl
@[simp] theorem State.delT_pwx (s : State) (u : Nat) : (s.delT u).pwx = s.pwx := by unfold State.delT; split <;> rfl
@[simp] theorem State.delT_routes (s : State) (u : Nat) : (s.delT u).routes = s.routes := by unfold State.delT; split <;> rfl
@[simp] theorem State.delT_portsUp (s : State) (u : Nat) : (s.delT u).portsUp = s.portsUp := by unfold State.delT; split <;> rfl
@[simp] theorem State.delT_portsEn (s : State) (u : Nat) : (s.delT u).portsEn = s.portsEn := by unfold State.delT; split <;> rfl
@[simp] theorem State.delT_msi (s : State) (u : Nat) : (s.delT u).msi = s.msi := by unfold State.delT; split <;> rfl
@[simp] theorem State.delT_issued (s : State) (u : Nat) : (s.delT u).issued = s.issued := by unfold State.delT; split <;> rfl
@[simp] theorem State.delT_fences (s : State) (u : Nat) : (s.delT u).fences = s.fences := by unfold State.delT; split <;> rfl
@[simp] theorem State.delT_walkers (s : State) (u : Nat) : (s.delT u).walkers = s.walkers := by unfold State.delT; split <;> rfl
@[simp] theorem State.delT_vec (s : State) (u : Nat) : (s.delT u).vec = s.vec := by unfold State.delT; split <;> rfl
@[simp] theorem State.delT_dying (s : State) (u : Nat) : (s.delT u).dying = s.dying := by unfold State.delT; split <;> rfl
@[simp] theorem State.delT_exits (s : State) (u : Nat) : (s.delT u).exits = s.exits := by unfold State.delT; split <;> rfl
@[simp] theorem State.delT_chans (s : State) (u : Nat) : (s.delT u).chans = s.chans := by unfold State.delT; split <;> rfl
@[simp] theorem State.delT_regions (s : State) (u : Nat) : (s.delT u).regions = s.regions := by unfold State.delT; split <;> rfl
@[simp] theorem State.delT_reg (s : State) (u : Nat) : (s.delT u).reg = s.reg := by unfold State.delT; split <;> rfl
@[simp] theorem State.delT_out (s : State) (u : Nat) : (s.delT u).out = s.out := by unfold State.delT; split <;> rfl

@[simp] theorem State.setEngine_clk (s : State) (x : Engine) : (s.setEngine x).clk = s.clk := by unfold State.setEngine; split <;> rfl
@[simp] theorem State.setEngine_agenda (s : State) (x : Engine) : (s.setEngine x).agenda = s.agenda := by unfold State.setEngine; split <;> rfl
@[simp] theorem State.setEngine_unit (s : State) (x : Engine) : (s.setEngine x).unit = s.unit := by unfold State.setEngine; split <;> rfl
@[simp] theorem State.setEngine_free (s : State) (x : Engine) : (s.setEngine x).free = s.free := by unfold State.setEngine; split <;> rfl
@[simp] theorem State.setEngine_nextId (s : State) (x : Engine) : (s.setEngine x).nextId = s.nextId := by unfold State.setEngine; split <;> rfl
@[simp] theorem State.setEngine_th (s : State) (x : Engine) : (s.setEngine x).th = s.th := by unfold State.setEngine; split <;> rfl
@[simp] theorem State.setEngine_others (s : State) (x : Engine) : (s.setEngine x).others = s.others := by unfold State.setEngine; split <;> rfl
@[simp] theorem State.setEngine_cores (s : State) (x : Engine) : (s.setEngine x).cores = s.cores := by unfold State.setEngine; split <;> rfl
@[simp] theorem State.setEngine_mem (s : State) (x : Engine) : (s.setEngine x).mem = s.mem := by unfold State.setEngine; split <;> rfl
@[simp] theorem State.setEngine_deep (s : State) (x : Engine) : (s.setEngine x).deep = s.deep := by unfold State.setEngine; split <;> rfl
@[simp] theorem State.setEngine_scratch (s : State) (x : Engine) : (s.setEngine x).scratch = s.scratch := by unfold State.setEngine; split <;> rfl
@[simp] theorem State.setEngine_tiles (s : State) (x : Engine) : (s.setEngine x).tiles = s.tiles := by unfold State.setEngine; split <;> rfl
@[simp] theorem State.setEngine_flash (s : State) (x : Engine) : (s.setEngine x).flash = s.flash := by unfold State.setEngine; split <;> rfl
@[simp] theorem State.setEngine_bad (s : State) (x : Engine) : (s.setEngine x).bad = s.bad := by unfold State.setEngine; split <;> rfl
@[simp] theorem State.setEngine_stores (s : State) (x : Engine) : (s.setEngine x).stores = s.stores := by unfold State.setEngine; split <;> rfl
@[simp] theorem State.setEngine_links (s : State) (x : Engine) : (s.setEngine x).links = s.links := by unfold State.setEngine; split <;> rfl
@[simp] theorem State.setEngine_answers (s : State) (x : Engine) : (s.setEngine x).answers = s.answers := by unfold State.setEngine; split <;> rfl
@[simp] theorem State.setEngine_wakes (s : State) (x : Engine) : (s.setEngine x).wakes = s.wakes := by unfold State.setEngine; split <;> rfl
@[simp] theorem State.setEngine_buses (s : State) (x : Engine) : (s.setEngine x).buses = s.buses := by unfold State.setEngine; split <;> rfl
@[simp] theorem State.setEngine_busCounts (s : State) (x : Engine) : (s.setEngine x).busCounts = s.busCounts := by unfold State.setEngine; split <;> rfl
@[simp] theorem State.setEngine_windows (s : State) (x : Engine) : (s.setEngine x).windows = s.windows := by unfold State.setEngine; split <;> rfl
@[simp] theorem State.setEngine_caches (s : State) (x : Engine) : (s.setEngine x).caches = s.caches := by unfold State.setEngine; split <;> rfl
@[simp] theorem State.setEngine_ctxs (s : State) (x : Engine) : (s.setEngine x).ctxs = s.ctxs := by unfold State.setEngine; split <;> rfl
@[simp] theorem State.setEngine_binds (s : State) (x : Engine) : (s.setEngine x).binds = s.binds := by unfold State.setEngine; split <;> rfl
@[simp] theorem State.setEngine_joined (s : State) (x : Engine) : (s.setEngine x).joined = s.joined := by unfold State.setEngine; split <;> rfl
@[simp] theorem State.setEngine_retiredCores (s : State) (x : Engine) : (s.setEngine x).retiredCores = s.retiredCores := by unfold State.setEngine; split <;> rfl
@[simp] theorem State.setEngine_sliceMap (s : State) (x : Engine) : (s.setEngine x).sliceMap = s.sliceMap := by unfold State.setEngine; split <;> rfl
@[simp] theorem State.setEngine_tlf (s : State) (x : Engine) : (s.setEngine x).tlf = s.tlf := by unfold State.setEngine; split <;> rfl
@[simp] theorem State.setEngine_pwx (s : State) (x : Engine) : (s.setEngine x).pwx = s.pwx := by unfold State.setEngine; split <;> rfl
@[simp] theorem State.setEngine_routes (s : State) (x : Engine) : (s.setEngine x).routes = s.routes := by unfold State.setEngine; split <;> rfl
@[simp] theorem State.setEngine_portsUp (s : State) (x : Engine) : (s.setEngine x).portsUp = s.portsUp := by unfold State.setEngine; split <;> rfl
@[simp] theorem State.setEngine_portsEn (s : State) (x : Engine) : (s.setEngine x).portsEn = s.portsEn := by unfold State.setEngine; split <;> rfl
@[simp] theorem State.setEngine_msi (s : State) (x : Engine) : (s.setEngine x).msi = s.msi := by unfold State.setEngine; split <;> rfl
@[simp] theorem State.setEngine_issued (s : State) (x : Engine) : (s.setEngine x).issued = s.issued := by unfold State.setEngine; split <;> rfl
@[simp] theorem State.setEngine_fences (s : State) (x : Engine) : (s.setEngine x).fences = s.fences := by unfold State.setEngine; split <;> rfl
@[simp] theorem State.setEngine_walkers (s : State) (x : Engine) : (s.setEngine x).walkers = s.walkers := by unfold State.setEngine; split <;> rfl
@[simp] theorem State.setEngine_vec (s : State) (x : Engine) : (s.setEngine x).vec = s.vec := by unfold State.setEngine; split <;> rfl
@[simp] theorem State.setEngine_dying (s : State) (x : Engine) : (s.setEngine x).dying = s.dying := by unfold State.setEngine; split <;> rfl
@[simp] theorem State.setEngine_exits (s : State) (x : Engine) : (s.setEngine x).exits = s.exits := by unfold State.setEngine; split <;> rfl
@[simp] theorem State.setEngine_chans (s : State) (x : Engine) : (s.setEngine x).chans = s.chans := by unfold State.setEngine; split <;> rfl
@[simp] theorem State.setEngine_regions (s : State) (x : Engine) : (s.setEngine x).regions = s.regions := by unfold State.setEngine; split <;> rfl
@[simp] theorem State.setEngine_reg (s : State) (x : Engine) : (s.setEngine x).reg = s.reg := by unfold State.setEngine; split <;> rfl
@[simp] theorem State.setEngine_out (s : State) (x : Engine) : (s.setEngine x).out = s.out := by unfold State.setEngine; split <;> rfl

@[simp] theorem State.setCells_clk (s : State) (sp : Space) (l : List Host.Cell) : (s.setCells sp l).clk = s.clk := by cases sp <;> rfl
@[simp] theorem State.setCells_agenda (s : State) (sp : Space) (l : List Host.Cell) : (s.setCells sp l).agenda = s.agenda := by cases sp <;> rfl
@[simp] theorem State.setCells_unit (s : State) (sp : Space) (l : List Host.Cell) : (s.setCells sp l).unit = s.unit := by cases sp <;> rfl
@[simp] theorem State.setCells_free (s : State) (sp : Space) (l : List Host.Cell) : (s.setCells sp l).free = s.free := by cases sp <;> rfl
@[simp] theorem State.setCells_nextId (s : State) (sp : Space) (l : List Host.Cell) : (s.setCells sp l).nextId = s.nextId := by cases sp <;> rfl
@[simp] theorem State.setCells_th (s : State) (sp : Space) (l : List Host.Cell) : (s.setCells sp l).th = s.th := by cases sp <;> rfl
@[simp] theorem State.setCells_others (s : State) (sp : Space) (l : List Host.Cell) : (s.setCells sp l).others = s.others := by cases sp <;> rfl
@[simp] theorem State.setCells_cores (s : State) (sp : Space) (l : List Host.Cell) : (s.setCells sp l).cores = s.cores := by cases sp <;> rfl
@[simp] theorem State.setCells_bad (s : State) (sp : Space) (l : List Host.Cell) : (s.setCells sp l).bad = s.bad := by cases sp <;> rfl
@[simp] theorem State.setCells_stores (s : State) (sp : Space) (l : List Host.Cell) : (s.setCells sp l).stores = s.stores := by cases sp <;> rfl
@[simp] theorem State.setCells_links (s : State) (sp : Space) (l : List Host.Cell) : (s.setCells sp l).links = s.links := by cases sp <;> rfl
@[simp] theorem State.setCells_answers (s : State) (sp : Space) (l : List Host.Cell) : (s.setCells sp l).answers = s.answers := by cases sp <;> rfl
@[simp] theorem State.setCells_wakes (s : State) (sp : Space) (l : List Host.Cell) : (s.setCells sp l).wakes = s.wakes := by cases sp <;> rfl
@[simp] theorem State.setCells_buses (s : State) (sp : Space) (l : List Host.Cell) : (s.setCells sp l).buses = s.buses := by cases sp <;> rfl
@[simp] theorem State.setCells_busCounts (s : State) (sp : Space) (l : List Host.Cell) : (s.setCells sp l).busCounts = s.busCounts := by cases sp <;> rfl
@[simp] theorem State.setCells_windows (s : State) (sp : Space) (l : List Host.Cell) : (s.setCells sp l).windows = s.windows := by cases sp <;> rfl
@[simp] theorem State.setCells_caches (s : State) (sp : Space) (l : List Host.Cell) : (s.setCells sp l).caches = s.caches := by cases sp <;> rfl
@[simp] theorem State.setCells_ctxs (s : State) (sp : Space) (l : List Host.Cell) : (s.setCells sp l).ctxs = s.ctxs := by cases sp <;> rfl
@[simp] theorem State.setCells_binds (s : State) (sp : Space) (l : List Host.Cell) : (s.setCells sp l).binds = s.binds := by cases sp <;> rfl
@[simp] theorem State.setCells_engines (s : State) (sp : Space) (l : List Host.Cell) : (s.setCells sp l).engines = s.engines := by cases sp <;> rfl
@[simp] theorem State.setCells_joined (s : State) (sp : Space) (l : List Host.Cell) : (s.setCells sp l).joined = s.joined := by cases sp <;> rfl
@[simp] theorem State.setCells_retiredCores (s : State) (sp : Space) (l : List Host.Cell) : (s.setCells sp l).retiredCores = s.retiredCores := by cases sp <;> rfl
@[simp] theorem State.setCells_sliceMap (s : State) (sp : Space) (l : List Host.Cell) : (s.setCells sp l).sliceMap = s.sliceMap := by cases sp <;> rfl
@[simp] theorem State.setCells_tlf (s : State) (sp : Space) (l : List Host.Cell) : (s.setCells sp l).tlf = s.tlf := by cases sp <;> rfl
@[simp] theorem State.setCells_pwx (s : State) (sp : Space) (l : List Host.Cell) : (s.setCells sp l).pwx = s.pwx := by cases sp <;> rfl
@[simp] theorem State.setCells_routes (s : State) (sp : Space) (l : List Host.Cell) : (s.setCells sp l).routes = s.routes := by cases sp <;> rfl
@[simp] theorem State.setCells_portsUp (s : State) (sp : Space) (l : List Host.Cell) : (s.setCells sp l).portsUp = s.portsUp := by cases sp <;> rfl
@[simp] theorem State.setCells_portsEn (s : State) (sp : Space) (l : List Host.Cell) : (s.setCells sp l).portsEn = s.portsEn := by cases sp <;> rfl
@[simp] theorem State.setCells_msi (s : State) (sp : Space) (l : List Host.Cell) : (s.setCells sp l).msi = s.msi := by cases sp <;> rfl
@[simp] theorem State.setCells_issued (s : State) (sp : Space) (l : List Host.Cell) : (s.setCells sp l).issued = s.issued := by cases sp <;> rfl
@[simp] theorem State.setCells_fences (s : State) (sp : Space) (l : List Host.Cell) : (s.setCells sp l).fences = s.fences := by cases sp <;> rfl
@[simp] theorem State.setCells_walkers (s : State) (sp : Space) (l : List Host.Cell) : (s.setCells sp l).walkers = s.walkers := by cases sp <;> rfl
@[simp] theorem State.setCells_vec (s : State) (sp : Space) (l : List Host.Cell) : (s.setCells sp l).vec = s.vec := by cases sp <;> rfl
@[simp] theorem State.setCells_dying (s : State) (sp : Space) (l : List Host.Cell) : (s.setCells sp l).dying = s.dying := by cases sp <;> rfl
@[simp] theorem State.setCells_exits (s : State) (sp : Space) (l : List Host.Cell) : (s.setCells sp l).exits = s.exits := by cases sp <;> rfl
@[simp] theorem State.setCells_chans (s : State) (sp : Space) (l : List Host.Cell) : (s.setCells sp l).chans = s.chans := by cases sp <;> rfl
@[simp] theorem State.setCells_regions (s : State) (sp : Space) (l : List Host.Cell) : (s.setCells sp l).regions = s.regions := by cases sp <;> rfl
@[simp] theorem State.setCells_reg (s : State) (sp : Space) (l : List Host.Cell) : (s.setCells sp l).reg = s.reg := by cases sp <;> rfl
@[simp] theorem State.setCells_out (s : State) (sp : Space) (l : List Host.Cell) : (s.setCells sp l).out = s.out := by cases sp <;> rfl

end Sys2Proof.Machine
end

