-- ==== Sys2Proof/Laws/Launches.lean ====
section
/-! SUPPORT. What schedule() does when no launch is there to be dispatched and nothing of ended launches remains: nothing moves. -/

namespace Sys2Proof.Machine

theorem grantSems_only (s : State) (c : Nat) : { s.grantSems c with cores := s.cores } = s := rfl

theorem grantSems_foldl_only (l : List Nat) (s : State) : { l.foldl State.grantSems s with cores := s.cores } = s := by
  induction l generalizing s with
  | nil => rfl
  | cons c l ih =>
    have h := ih (s.grantSems c)
    have e := congrArg (fun t : State => { t with cores := s.cores }) h
    exact e.trans (grantSems_only s c)

/-- Clearing bind records changes the records and the semaphores of cores alone. -/
theorem clearBinds_only (s : State) (p : Bind → Bool) : { s.clearBinds p with cores := s.cores, binds := s.binds } = s := by
  have h := grantSems_foldl_only (((s.binds.filter p).filter (fun b => !b.region)).map Bind.unit)
    { s with binds := s.binds.filter (fun b => !p b) }
  exact (congrArg (fun t : State => { t with binds := s.binds }) h)

theorem clearBinds_binds (s : State) (p : Bind → Bool) : (s.clearBinds p).binds = s.binds.filter (fun b => !p b) := by
  have h := grantSems_foldl_only (((s.binds.filter p).filter (fun b => !b.region)).map Bind.unit)
    { s with binds := s.binds.filter (fun b => !p b) }
  exact congrArg State.binds h

/-- With no record to clear nothing changes. -/
theorem clearBinds_none (s : State) (p : Bind → Bool) (h : ∀ b ∈ s.binds, p b = false) : s.clearBinds p = s := by
  have h1 : s.binds.filter p = [] := List.filter_eq_nil_iff.2 fun b hb => by simp [h b hb]
  have h2 : s.binds.filter (fun b => !p b) = s.binds := List.filter_eq_self.2 fun b hb => by simp [h b hb]
  simp only [State.clearBinds, h1, h2]
  rfl

/-- Ended launches have left nothing: no thread that waits to end or to be saved, no record without a launch, no pre-emption and no
lending that is over. -/
structure State.Still (s : State) : Prop where
  ended : ∀ t ∈ s.threads, s.finished t = false
  guests : ∀ t ∈ s.threads, (t.place == .slot && !t.isOf t.bindTicket && (s.launch? t.bindTicket).isNone) = false
  records : ∀ b ∈ s.binds, (s.overdue b && !s.occupied b) = false
  going : ∀ l ∈ s.reg.launches, (l.phase == .preempting) = false
  lends : ∀ e ∈ s.reg.lends, ((s.getT e.waiter).isSome && (s.getT e.holder).isSome) = true

/-- Where ended launches have left nothing there is nothing to sweep. -/
theorem sweep_still (s : State) (h : s.Still) : s.sweep = s := by
  have h1 : s.threads.filter s.finished = [] := List.filter_eq_nil_iff.2 fun t ht => by simp [h.ended t ht]
  have h2 : s.threads.filter (fun t => t.place == .slot && !t.isOf t.bindTicket && (s.launch? t.bindTicket).isNone) = [] :=
    List.filter_eq_nil_iff.2 fun t ht => by rw [h.guests t ht]; simp
  have h3 : s.clearBinds (fun b => s.overdue b && !s.occupied b) = s := clearBinds_none s _ h.records
  have h4 : s.reg.launches.filter (fun l => l.phase == .preempting) = [] :=
    List.filter_eq_nil_iff.2 fun l hl => by simp [h.going l hl]
  have h5 : s.reg.lends.filter (fun e => (s.getT e.waiter).isSome && (s.getT e.holder).isSome) = s.reg.lends :=
    List.filter_eq_self.2 fun e he => h.lends e he
  simp only [State.sweep, h1, h2, h3, h4, h5, List.foldl_nil, List.map_nil]

theorem nextReady_none (s : State) (p : Nat) (h : ∀ l ∈ s.reg.launches, l.queued = false) : s.nextReady p = none := by
  have hs : s.heads p = [] := by
    have e : s.reg.launches.filter (fun l => l.queued && l.pri == p && (s.headOf l.queue == some l)) = [] :=
      List.filter_eq_nil_iff.2 fun l hl => by simp [h l hl]
    rw [State.heads, e]
    rfl
  unfold State.nextReady
  simp [hs]

theorem sched_none (s : State) (h : ∀ l ∈ s.reg.launches, l.queued = false) (hs : s.Still) : s.sched = s := by
  have hr : ∀ p, s.nextReady p = none := fun p => nextReady_none _ p h
  have hp : ∀ p n, State.schedPri p n s = (s, false) := by
    intro p n
    cases n with
    | zero => rfl
    | succ n => simp [State.schedPri, hr]
  have hf : ∀ (m : Nat) (l : List Nat), (l.foldl (fun (acc : State × Bool) k =>
      if acc.2 then acc else State.schedPri (7 - k) m acc.1) (s, false)) = (s, false) := by
    intro m l
    induction l with
    | nil => rfl
    | cons k l ih => simp only [List.foldl_cons, Bool.false_eq_true, if_false, hp, ih]
  simp only [State.sched, sweep_still s hs, hf]

theorem letIn_none (s : State) (h : ∀ q ∈ s.reg.queues, q.waiting = [] ∧ q.behind = false) : s.letIn = s := by
  unfold State.letIn
  generalize s.reg.queues = l at h
  induction l with
  | nil => rfl
  | cons q l ih =>
    obtain ⟨hw, hb⟩ := h q (by simp)
    simp only [List.foldl_cons, hb, hw, List.foldl_nil, Bool.false_eq_true, if_false]
    exact ih fun x hx => h x (by simp [hx])

/-- schedule() with no launch that waits and no launch token in a port, where ended launches have left nothing. -/
theorem schedule_none (s : State) (h : ∀ l ∈ s.reg.launches, l.queued = false)
    (hq : ∀ q ∈ s.reg.queues, q.waiting = [] ∧ q.behind = false) (hs : s.Still) : s.schedule = s := by
  unfold State.schedule
  split
  · rfl
  · rw [sched_none s h hs, letIn_none s hq, sched_none s h hs]

end Sys2Proof.Machine
end

