-- ==== Sys2Proof/Laws/Memory.lean ====
section
/-! SUPPORT. Byte stores: what a read gives after a write, and that every write keeps the canonical form. -/

namespace Sys2Proof.Machine

/-! ### Cell lists -/

theorem cellRead_cellWrite (d b : Byte) (l : List Host.Cell) (a x : Nat) :
    cellRead d (cellWrite d l a b) x = if x = a then b else cellRead d l x := by
  induction l with
  | nil =>
    by_cases h : b = d
    · subst h; simp [cellWrite, cellRead]
    · by_cases hx : a = x
      · subst hx; simp [cellWrite, cellRead, h]
      · simp [cellWrite, cellRead, h, hx, Ne.symm hx]
  | cons c l ih =>
    obtain ⟨k, v⟩ := c
    by_cases hk : k = a
    · subst hk
      simp only [cellWrite, cellRead, if_true, ih]
      by_cases hx : k = x
      · simp [hx]
      · simp [hx, Ne.symm hx]
    · simp only [cellWrite, hk, if_false]
      split
      · simp only [cellRead]
        by_cases hx : a = x
        · simp [hx]
        · simp [hx, Ne.symm hx]
      · simp only [cellRead, ih]
        by_cases hx : x = a
        · subst hx; simp [hk]
        · simp [hx]

theorem cellsWfFrom_mono {d : Byte} {l : List Host.Cell} {lo k : Nat} (h : cellsWfFrom d k l = true) (hk : lo ≤ k) :
    cellsWfFrom d lo l = true := by
  cases l with
  | nil => rfl
  | cons c l =>
    simp only [cellsWfFrom, Bool.and_eq_true, decide_eq_true_eq] at h ⊢
    exact ⟨⟨hk.trans h.1.1, h.1.2⟩, h.2⟩

theorem cellWrite_wfFrom {d b : Byte} {l : List Host.Cell} {lo a : Nat} (h : cellsWfFrom d lo l = true) (ha : lo ≤ a) :
    cellsWfFrom d lo (cellWrite d l a b) = true := by
  induction l generalizing lo with
  | nil =>
    simp only [cellWrite]
    split <;> simp_all [cellsWfFrom]
  | cons c l ih =>
    obtain ⟨k, v⟩ := c
    simp only [cellsWfFrom, Bool.and_eq_true, decide_eq_true_eq] at h
    simp only [cellWrite]
    split
    · next e =>
      subst e
      by_cases hb : b = d
      · exact cellsWfFrom_mono (k := k) (ih (cellsWfFrom_mono h.2 (by omega)) le_rfl) ha
      · exact ih (cellsWfFrom_mono h.2 (by omega)) ha
    · split
      · next e => simp_all [cellsWfFrom]
      · next e =>
        by_cases hk : a < k
        · have hb : b = d := by_contra fun hb => e ⟨hk, hb⟩
          subst hb
          simp only [cellsWfFrom, Bool.and_eq_true, decide_eq_true_eq]
          refine ⟨h.1, ?_⟩
          rw [cellWrite_blank h.2 (by omega)]
          exact h.2
        · simp only [cellsWfFrom, Bool.and_eq_true, decide_eq_true_eq]
          exact ⟨h.1, ih h.2 (by omega)⟩
where
  cellWrite_blank {d : Byte} {l : List Host.Cell} {lo a : Nat} (h : cellsWfFrom d lo l = true) (ha : a < lo) :
      cellWrite d l a d = l := by
    induction l generalizing lo with
    | nil => simp [cellWrite]
    | cons c l ih =>
      obtain ⟨k, v⟩ := c
      simp only [cellsWfFrom, Bool.and_eq_true, decide_eq_true_eq] at h
      have : k ≠ a := by omega
      simp [cellWrite, this, ih h.2 (by omega)]

theorem cellWrite_wf {d b : Byte} {l : List Host.Cell} (a : Nat) (h : Memory.wf d l = true) : Memory.wf d (cellWrite d l a b) = true :=
  cellWrite_wfFrom h (Nat.zero_le a)

theorem filter_wfFrom {d : Byte} {l : List Host.Cell} {lo : Nat} (p : Host.Cell → Bool) (h : cellsWfFrom d lo l = true) :
    cellsWfFrom d lo (l.filter p) = true := by
  induction l generalizing lo with
  | nil => rfl
  | cons c l ih =>
    simp only [cellsWfFrom, Bool.and_eq_true, decide_eq_true_eq] at h
    rw [List.filter_cons]
    split
    · simp only [cellsWfFrom, Bool.and_eq_true, decide_eq_true_eq]
      exact ⟨h.1, ih h.2⟩
    · exact cellsWfFrom_mono (ih h.2) (by omega)

theorem filter_wf {d : Byte} {l : List Host.Cell} (p : Host.Cell → Bool) (h : Memory.wf d l = true) : Memory.wf d (l.filter p) = true :=
  filter_wfFrom p h

/-- Two lists in canonical form that read alike are equal. -/
theorem cells_ext {d : Byte} {l m : List Host.Cell} {lo : Nat} (hl : cellsWfFrom d lo l = true) (hm : cellsWfFrom d lo m = true)
    (h : ∀ x, cellRead d l x = cellRead d m x) : l = m := by
  have low : ∀ {l : List Host.Cell} {lo x : Nat}, cellsWfFrom d lo l = true → x < lo → cellRead d l x = d := by
    intro l
    induction l with
    | nil => intros; rfl
    | cons c l ih =>
      intro lo x h hx
      simp only [cellsWfFrom, Bool.and_eq_true, decide_eq_true_eq] at h
      have : c.1 ≠ x := by omega
      simp only [cellRead, this, if_false]
      exact ih h.2 (by omega)
  induction l generalizing m lo with
  | nil =>
    cases m with
    | nil => rfl
    | cons c m =>
      simp only [cellsWfFrom, Bool.and_eq_true, decide_eq_true_eq] at hm
      have := h c.1
      simp only [cellRead, if_true] at this
      exact absurd this.symm hm.1.2
  | cons c l ih =>
    simp only [cellsWfFrom, Bool.and_eq_true, decide_eq_true_eq] at hl
    cases m with
    | nil =>
      have := h c.1
      simp only [cellRead, if_true] at this
      exact absurd this hl.1.2
    | cons e m =>
      simp only [cellsWfFrom, Bool.and_eq_true, decide_eq_true_eq] at hm
      have key : c.1 = e.1 := by
        rcases Nat.lt_trichotomy c.1 e.1 with g | g | g
        · have := h c.1
          have ne : e.1 ≠ c.1 := by omega
          simp only [cellRead, if_true, ne, if_false] at this
          exact absurd (this.trans (low hm.2 (by omega))) hl.1.2
        · exact g
        · have := h e.1
          have ne : c.1 ≠ e.1 := by omega
          simp only [cellRead, if_true, ne, if_false] at this
          exact absurd (this.symm.trans (low hl.2 (by omega))) hm.1.2
      have val : c.2 = e.2 := by
        have := h c.1
        simpa only [cellRead, if_true, key] using this
      have tail : l = m := by
        refine ih hl.2 (key ▸ hm.2) fun x => ?_
        by_cases hx : x = c.1
        · subst hx
          rw [low hl.2 (by omega), low hm.2 (by omega)]
        · have := h x
          have n1 : c.1 ≠ x := fun g => hx g.symm
          have n2 : e.1 ≠ x := fun g => hx (key.trans g).symm
          simpa only [cellRead, n1, n2, if_false] using this
      rw [tail, show c = e from Prod.ext key val]

/-! ### Stores of the state -/

theorem cells_setCells (s : State) (sp sq : Space) (l : List Host.Cell) :
    (s.setCells sp l).cells sq = if sq.bank = sp.bank then l else s.cells sq := by
  cases sp <;> cases sq <;> rfl

theorem blank_bank {sp sq : Space} (h : sq.bank = sp.bank) : sq.blank = sp.blank := by
  cases sp <;> cases sq <;> first | rfl | cases h

/-- A byte after a write: the byte written at that key of that list, else the byte before. -/
theorem readByte_writeByte (s : State) (sp sq : Space) (a x : Nat) (b : Byte) :
    (s.writeByte sp a b).readByte sq x = if sq.bank = sp.bank ∧ sq.key x = sp.key a then b else s.readByte sq x := by
  simp only [State.writeByte, State.readByte, cells_setCells]
  by_cases h : sq.bank = sp.bank
  · have hc : s.cells sq = s.cells sp := by cases sp <;> cases sq <;> first | rfl | cases h
    simp only [h, if_true, true_and, blank_bank h, cellRead_cellWrite, hc]
  · simp [h]

theorem setCells_memOk {s : State} (sp : Space) {l : List Host.Cell} (h : s.memOk = true) (hl : Memory.wf sp.blank l = true) :
    (s.setCells sp l).memOk = true := by
  simp only [State.memOk, Bool.and_eq_true] at h ⊢
  cases sp <;> simp_all [State.setCells, Space.blank]

theorem memOk_cells {s : State} (h : s.memOk = true) (sp : Space) : Memory.wf sp.blank (s.cells sp) = true := by
  simp only [State.memOk, Bool.and_eq_true] at h
  cases sp <;> simp_all [State.cells, Space.blank]

theorem writeByte_memOk {s : State} (h : s.memOk = true) (sp : Space) (a : Nat) (b : Byte) : (s.writeByte sp a b).memOk = true :=
  setCells_memOk sp h (cellWrite_wf _ (memOk_cells h sp))

theorem writeBytes_memOk {s : State} (h : s.memOk = true) (sp : Space) (a : Nat) (bs : List Byte) : (s.writeBytes sp a bs).memOk = true := by
  induction bs generalizing s a with
  | nil => exact h
  | cons b bs ih => exact ih (writeByte_memOk h sp a b) (a + 1)

theorem writeMasked_memOk {s : State} (h : s.memOk = true) (sp : Space) (a : Nat) (bs : List (Byte × Byte)) :
    (s.writeMasked sp a bs).memOk = true := by
  induction bs generalizing s a with
  | nil => exact h
  | cons b bs ih => exact ih (writeByte_memOk h sp a _) (a + 1)

theorem writeNat_memOk {s : State} (h : s.memOk = true) (sp : Space) (a n v : Nat) : (s.writeNat sp a n v).memOk = true :=
  writeBytes_memOk h sp a _

/-- The canonical form depends on the byte stores alone. -/
theorem memOk_congr {s t : State} (hm : t.mem = s.mem) (hd : t.deep = s.deep) (hs : t.scratch = s.scratch) (ht : t.tiles = s.tiles)
    (hf : t.flash = s.flash) : t.memOk = s.memOk := by
  simp only [State.memOk, hm, hd, hs, ht, hf]

theorem clearBad_memOk (s : State) (sp : Space) (a n : Nat) : (s.clearBad sp a n).memOk = s.memOk := by
  cases sp <;> exact memOk_congr rfl rfl rfl rfl rfl

theorem putBytes_memOk {s : State} (h : s.memOk = true) (sp : Space) (a : Nat) (bs : List (Byte × Byte)) :
    (s.putBytes sp a bs).memOk = true := by
  have h1 := writeMasked_memOk h sp a bs
  have h2 : (if bs.all (fun p => p.2 == 0xFF) then (s.writeMasked sp a bs).clearBad sp a bs.length else s.writeMasked sp a bs).memOk = true := by
    split
    · rw [clearBad_memOk]; exact h1
    · exact h1
  unfold State.putBytes
  cases sp <;> exact h2

theorem put_memOk {s : State} (h : s.memOk = true) (sp : Space) (a : Nat) (bs : List Byte) : (s.put sp a bs).memOk = true :=
  putBytes_memOk h sp a _

theorem eraseBank_memOk {s : State} (h : s.memOk = true) (b : Nat) : (s.eraseBank b).memOk = true := by
  simp only [State.memOk, Bool.and_eq_true] at h ⊢
  exact ⟨h.1, filter_wf _ h.2⟩

@[simp] theorem unstall_memOk (s : State) : s.unstall.memOk = s.memOk := memOk_congr rfl rfl rfl rfl rfl

/-! ### Runs of bytes -/

theorem key_add (sp : Space) (a i : Nat) : sp.key (a + i) = sp.key a + i := by
  cases sp <;> simp only [Space.key] <;> omega

theorem readBytes_length (s : State) (sp : Space) (a n : Nat) : (s.readBytes sp a n).length = n := by
  induction n generalizing a with
  | zero => rfl
  | succ n ih => simp [State.readBytes, ih]

theorem readBytes_getElem (s : State) (sp : Space) (a n i : Nat) (h : i < (s.readBytes sp a n).length) :
    (s.readBytes sp a n)[i] = s.readByte sp (a + i) := by
  induction n generalizing a i with
  | zero => simp [State.readBytes] at h
  | succ n ih =>
    cases i with
    | zero => rfl
    | succ i =>
      simp only [State.readBytes, List.getElem_cons_succ]
      rw [ih]
      congr 1
      omega

/-- What a run of whole bytes leaves: each byte where it was written, and every other byte. -/
theorem readByte_writeMasked_full (s : State) (sp sq : Space) (a x : Nat) (bs : List Byte) :
    (s.writeMasked sp a (full bs)).readByte sq x =
      if sq.bank = sp.bank ∧ sp.key a ≤ sq.key x ∧ sq.key x < sp.key a + bs.length then bs.getD (sq.key x - sp.key a) 0
      else s.readByte sq x := by
  induction bs generalizing s a with
  | nil =>
    rw [if_neg (by simp)]
    rfl
  | cons b bs ih =>
    have hm : b &&& 0xFF#8 = b := BitVec.and_allOnes
    have hb : maskByte (s.readByte sp a) b 0xFF = b := by simp [maskByte, hm]
    show ((s.writeByte sp a (maskByte (s.readByte sp a) b 0xFF)).writeMasked sp (a + 1) (full bs)).readByte sq x = _
    rw [ih, key_add, hb, readByte_writeByte]
    by_cases h : sq.bank = sp.bank ∧ sp.key a + 1 ≤ sq.key x ∧ sq.key x < sp.key a + 1 + bs.length
    · rw [if_pos h, if_pos ⟨h.1, by omega, by simp only [List.length_cons]; omega⟩]
      have e : sq.key x - sp.key a = (sq.key x - (sp.key a + 1)) + 1 := by omega
      rw [e, List.getD_cons_succ]
    · rw [if_neg h]
      by_cases e : sq.bank = sp.bank ∧ sq.key x = sp.key a
      · rw [if_pos e, if_pos ⟨e.1, by omega, by simp only [List.length_cons]; omega⟩]
        rw [e.2, Nat.sub_self, List.getD_cons_zero]
      · rw [if_neg e, if_neg]
        rintro ⟨h1, h2, h3⟩
        simp only [List.length_cons] at h3
        exact h ⟨h1, by rcases Nat.eq_or_lt_of_le h2 with g | g; exacts [absurd ⟨h1, g.symm⟩ e, g], by omega⟩

theorem put_readByte (s : State) (sp sq : Space) (a x : Nat) (bs : List Byte) :
    (s.put sp a bs).readByte sq x = (s.writeMasked sp a (full bs)).readByte sq x := by
  have h (t : State) : (if (full bs).all (fun p => p.2 == 0xFF) then t.clearBad sp a (full bs).length else t).readByte sq x = t.readByte sq x := by
    split
    · cases sp <;> cases sq <;> rfl
    · rfl
  rw [← h (s.writeMasked sp a (full bs))]
  unfold State.put State.putBytes
  cases sp <;> cases sq <;> rfl

/-- All that a write of whole bytes does to the bytes of the module. -/
theorem put_stored (s : State) (sp : Space) (a : Nat) (bs : List Byte) : s.Stored (s.put sp a bs) sp a bs where
  there := by
    refine List.ext_getElem (readBytes_length ..) fun i h1 h2 => ?_
    rw [readBytes_getElem, put_readByte, readByte_writeMasked_full, if_pos ⟨rfl, by rw [key_add]; omega, by rw [key_add]; omega⟩, key_add,
      Nat.add_sub_cancel_left, List.getD_eq_getElem _ _ h2]
  elsewhere := fun sq x h => by
    rw [put_readByte, readByte_writeMasked_full, if_neg]
    exact h

/-- The state without its threads, the bytes of its stores and their errors. -/
def State.bare (s : State) : State :=
  { s with th := Thread.initial, others := [], mem := [], deep := [], scratch := [], tiles := [], flash := [], bad := [] }

theorem writeMasked_bare (s : State) (sp : Space) (a : Nat) (bs : List (Byte × Byte)) : (s.writeMasked sp a bs).bare = s.bare := by
  induction bs generalizing s a with
  | nil => rfl
  | cons b bs ih =>
    refine (ih (s.writeByte sp a _) (a + 1)).trans ?_
    cases sp <;> rfl

/-- A write of bytes changes nothing but bytes, what threads that wait for a lock word see of them, and the errors of whole units. -/
theorem putBytes_bare (s : State) (sp : Space) (a : Nat) (bs : List (Byte × Byte)) : (s.putBytes sp a bs).bare = s.bare := by
  refine Eq.trans ?_ (writeMasked_bare s sp a bs)
  unfold State.putBytes
  split <;> cases sp <;> rfl

theorem put_bare (s : State) (sp : Space) (a : Nat) (bs : List Byte) : (s.put sp a bs).bare = s.bare := putBytes_bare s sp a _

/-- The stores after reset are in their canonical form. -/
theorem reset_memOk : State.reset.memOk = true := by decide

end Sys2Proof.Machine
end

