-- ==== Sys2Proof/Laws/Ops.lean ====
section
/-! SUPPORT. What the shared operations over threads do: register writes, the completion of a word, and the issue of a word with
nothing in its way. -/

namespace Sys2Proof.Machine

/-! ### Registers (R54) -/

theorem read_zero (t : Thread) : t.read 0 = 0 := by simp [Thread.read]

theorem read_put_same (t : Thread) (x : Spec) (v : Word) (h0 : 0 < x.toNat) (h1 : x.toNat < 40) : (t.put x v).read x = v := by
  unfold Thread.put Thread.read
  by_cases h : x.toNat < 32
  · simp [h, Nat.ne_of_gt h0]
  · have h3 : x.toNat - 32 < 8 := by omega
    simp [h, h3, Nat.ne_of_gt h0]

theorem read_put_other (t : Thread) (x y : Spec) (v : Word) (h : y ≠ x) : (t.put x v).read y = t.read y := by
  have hn : y.toNat ≠ x.toNat := fun e => h (BitVec.eq_of_toNat_eq e)
  unfold Thread.put
  dsimp only
  split
  · rfl
  · split
    · unfold Thread.read
      dsimp only
      split
      · rfl
      · split
        · exact Vector.getElem_set_ne _ _ (Ne.symm hn)
        · rfl
    · split
      · unfold Thread.read
        dsimp only
        split
        · rfl
        · split
          · rfl
          · split
            · exact Vector.getElem_set_ne _ _ (by omega)
            · rfl
      · rfl

/-- The registers of a thread decide what a specifier below 40 reads. -/
theorem read_congr (t u : Thread) (x : Spec) (hg : u.g = t.g) (hq : u.q = t.q) (h : x.toNat < 40) : u.read x = t.read x := by
  unfold Thread.read
  simp only [hg, hq]
  split
  · rfl
  · split
    · rfl
    · split
      · rfl
      · omega

theorem put_eq (t : Thread) (x : Spec) (v : Word) : { t with g := (t.put x v).g, q := (t.put x v).q } = t.put x v := by
  unfold Thread.put
  dsimp only
  split
  · rfl
  · split
    · rfl
    · split <;> rfl

/-- A write changes registers and values in flight, nothing else. -/
theorem write_eq (t : Thread) (x : Spec) (v : Word) :
    { t with g := (t.write x v).g, q := (t.write x v).q, inflight := t.inflight.map (InFlight.cancel x) } = t.write x v := by
  have h : ∀ u : Thread, { t with g := u.g, q := u.q } = u →
      ({ t with g := u.g, q := u.q, inflight := t.inflight.map (InFlight.cancel x) } : Thread)
        = { u with inflight := t.inflight.map (InFlight.cancel x) } := by
    intro u hu
    rw [← hu]
  exact h (t.put x v) (put_eq t x v)

theorem read_write_same (t : Thread) (x : Spec) (v : Word) (h0 : 0 < x.toNat) (h1 : x.toNat < 40) : (t.write x v).read x = v := by
  rw [read_congr (t.put x v) (t.write x v) x rfl rfl h1]
  exact read_put_same t x v h0 h1

theorem read_write_other (t : Thread) (x y : Spec) (v : Word) (h : y ≠ x) (hy : y.toNat < 40) : (t.write x v).read y = t.read y := by
  rw [read_congr (t.put x v) (t.write x v) y rfl rfl hy]
  exact read_put_other t x y v h

/-- g0 discards writes, and no value in flight is cancelled (R54, R110). -/
theorem write_zero (t : Thread) (v : Word) : t.write 0 v = t := by
  have h : InFlight.cancel 0 = id := rfl
  have e : t.put 0 v = t := rfl
  rw [Thread.write, e, h, List.map_id]

/-- What a register write does, for a thread that keeps the registers and values in flight that the write leaves. -/
theorem wrote_of (t u : Thread) (x : Spec) (v : Word) (hg : u.g = (t.write x v).g) (hq : u.q = (t.write x v).q)
    (hf : u.inflight = (t.write x v).inflight) : t.Wrote u x v :=
  { value := fun h0 h1 => by rw [read_congr (t.write x v) u x hg hq h1]; exact read_write_same t x v h0 h1
    zero := read_zero u
    others := fun y hy hn => by rw [read_congr (t.write x v) u y hg hq hy]; exact read_write_other t x y v hn hy
    landing := hf }

/-! ### Completion (R78, R110, R139) -/

/-- The three cases of the advance (R139). -/
theorem advance_cases (t : Thread) :
    (¬ (t.la = true ∧ t.pc + 4 = t.le) ∧ t.advance = ({ t with pc := t.pc + 4 }, false)) ∨
    ((t.la = true ∧ t.pc + 4 = t.le) ∧ t.lc.toNat ≤ 1 ∧ t.advance = ({ t with lc := 0, la := false, pc := t.le }, false)) ∨
    ((t.la = true ∧ t.pc + 4 = t.le) ∧ 1 < t.lc.toNat ∧ t.advance = ({ t with lc := t.lc - 1, pc := t.ls }, true)) := by
  by_cases h : t.la = true ∧ t.pc + 4 = t.le
  · by_cases h3 : t.lc.toNat ≤ 1
    · refine Or.inr (Or.inl ⟨h, h3, ?_⟩)
      have h4 : (if t.lc = 0 then (0 : BitVec 32) else t.lc - 1) = 0 := by
        split
        · rfl
        · bv_omega
      simp only [Thread.advance, if_pos h, h4, if_true]
    · refine Or.inr (Or.inr ⟨h, by omega, ?_⟩)
      have h5 : ¬ t.lc = 0 := by intro e; simp [e] at h3
      have h4 : ¬ t.lc - 1 = 0 := by bv_omega
      simp only [Thread.advance, if_pos h, if_neg h5, if_neg h4]
  · exact Or.inl ⟨h, by simp only [Thread.advance, if_neg h]⟩

/-- The advance is that of R139. -/
theorem advance_moves (t : Thread) : t.Advanced t.advance.1 := by
  rcases advance_cases t with ⟨h, e⟩ | ⟨h, h1, e⟩ | ⟨h, h1, e⟩ <;> rw [e]
  · exact { seq := fun _ => ⟨rfl, rfl, rfl⟩, last := fun a b => absurd ⟨a, b⟩ h, back := fun a b => absurd ⟨a, b⟩ h }
  · exact { seq := fun a => absurd h a, last := fun _ _ _ => ⟨rfl, rfl, rfl⟩, back := fun _ _ c => absurd c (by omega) }
  · exact { seq := fun a => absurd h a, last := fun _ _ c => absurd c (by omega), back := fun a _ _ => ⟨rfl, rfl, a⟩ }

/-- The advance reads only the loop registers, the loop flag and the program counter. -/
theorem advance_congr (t u v : Thread) (h : v.Advanced u) (h1 : t.pc = v.pc) (h2 : t.la = v.la) (h3 : t.lc = v.lc) (h4 : t.ls = v.ls)
    (h5 : t.le = v.le) : t.Advanced u := by
  constructor
  · intro a
    rw [h1, h2, h5] at a
    rw [h1, h2, h3]
    exact h.seq a
  · intro a b c
    rw [h1, h5] at b
    rw [h5]
    exact h.last (h2 ▸ a) b (h3 ▸ c)
  · intro a b c
    rw [h1, h5] at b
    rw [h3, h4]
    exact h.back (h2 ▸ a) b (h3 ▸ c)

theorem assoc_cons {α : Type} (p : Nat × α) (l : List (Nat × α)) (j : Nat) :
    assoc (p :: l) j = if p.1 = j then some p.2 else assoc l j := by
  unfold assoc
  by_cases h : p.1 = j <;> simp [h]

theorem assoc_map_set {α : Type} (l : List (Nat × α)) (k j : Nat) (x : α) :
    assoc (l.map (fun p => if p.1 == k then (k, x) else p)) j
      = if j = k then (if l.any (fun p => p.1 == k) then some x else none) else assoc l j := by
  induction l with
  | nil => simp [assoc]
  | cons p l ih =>
    rw [List.map_cons, assoc_cons, assoc_cons, ih, List.any_cons]
    by_cases hk : p.1 = k
    · by_cases hj : j = k
      · simp [hk, hj]
      · have h1 : ¬ k = j := fun e => hj e.symm
        simp [hk, hj, h1]
    · have e1 : (p.1 == k) = false := by simp [hk]
      by_cases hj : j = k
      · subst hj
        simp only [e1, Bool.false_eq_true, if_false, Bool.false_or, hk, if_true]
      · simp only [e1, Bool.false_eq_true, if_false, hj]

/-- Reading a list of pairs after an entry is set. -/
theorem assoc_assocSet {α : Type} (l : List (Nat × α)) (k j : Nat) (x : α) :
    assoc (assocSet l k x) j = if j = k then some x else assoc l j := by
  unfold assocSet
  split
  · next h => rw [assoc_map_set, if_pos h]
  · next h =>
    unfold assoc
    rw [List.find?_append]
    by_cases hj : j = k
    · subst hj
      have : l.find? (fun p => p.1 == j) = none := by
        rw [List.find?_eq_none]
        intro q hq e
        exact h (List.any_eq_true.mpr ⟨q, hq, e⟩)
      simp [this]
    · have h1 : ¬ k = j := fun e => hj e.symm
      simp [hj, h1]

/-- A core's entry after one is set. -/
theorem core_setCore (s : State) (c k : Nat) (x : CoreSt) : (s.setCore c x).core k = if k = c then x else s.core k := by
  unfold State.core State.setCore
  rw [assoc_assocSet]
  split <;> rfl

theorem coresKept_refl (s t : State) (h : t.cores = s.cores) : s.CoresKept t := by
  intro c
  have : t.core c = s.core c := by unfold State.core; rw [h]
  rw [this]

/-- The selected thread's word completes in sequence: the thread is replaced, and where the hardware loop turns back it takes the count of
fences. -/
theorem completeWord_seq (s : State) (t : Thread) (v : Word) (late : Option Nat) (h : s.th.uid = t.uid) :
    s.completeWord t v late .seq = { s with th :=
      if t.la = true ∧ t.pc + 4 = t.le ∧ 1 < t.lc.toNat then (t.complete v late .seq).1.transferred s.fences
      else (t.complete v late .seq).1 } := by
  have hs : ∀ u : Thread, u.uid = t.uid → s.setT u = { s with th := u } := by
    intro u e
    unfold State.setT
    rw [if_pos (by rw [h, e])]
  unfold State.completeWord
  rcases advance_cases { t with y1 := t.y0, y1Id := t.y0Id, y0 := v, y0Id := late, fv := false, fmt := if t.fv then 0 else t.fmt, sv := false, scl := if t.sv then 0 else t.scl,
                                mode := .ready, wait := .none, retry := none } with ⟨c, e⟩ | ⟨c, d, e⟩ | ⟨c, d, e⟩ <;>
    dsimp only at c
  · have k : ¬ (t.la = true ∧ t.pc + 4 = t.le ∧ 1 < t.lc.toNat) := fun x => c ⟨x.1, x.2.1⟩
    simp only [Thread.complete, e, if_neg k, Bool.false_eq_true, if_false]
    exact hs _ rfl
  · have k : ¬ (t.la = true ∧ t.pc + 4 = t.le ∧ 1 < t.lc.toNat) := fun x => absurd x.2.2 (by dsimp only at d; omega)
    simp only [Thread.complete, e, if_neg k, Bool.false_eq_true, if_false]
    exact hs _ rfl
  · have k : t.la = true ∧ t.pc + 4 = t.le ∧ 1 < t.lc.toNat := ⟨c.1, c.2, d⟩
    simp only [Thread.complete, e, if_pos k, if_true]
    exact hs _ rfl

/-- What completion in sequence does to a thread that has written its destination (R78, R110, R139). -/
theorem complete_done (t w : Thread) (d : Spec) (v : Word) (hg : w.g = (t.write d v).g) (hq : w.q = (t.write d v).q)
    (hf : w.inflight = (t.write d v).inflight) (hy : w.y0 = t.y0 ∧ w.y0Id = t.y0Id)
    (hp : w.pc = t.pc ∧ w.la = t.la ∧ w.lc = t.lc ∧ w.ls = t.ls ∧ w.le = t.le) (hr : w.rest = t.rest) :
    t.Done (w.complete v none .seq).1 d v w.ffl w.dz w.srnd := by
  obtain ⟨hp1, hp2, hp3, hp4, hp5⟩ := hp
  have ha := advance_moves { w with y1 := w.y0, y1Id := w.y0Id, y0 := v, y0Id := none, fv := false, fmt := if w.fv then 0 else w.fmt, sv := false, scl := if w.sv then 0 else w.scl,
                                    mode := .ready, wait := .none, retry := none }
  rcases advance_cases { w with y1 := w.y0, y1Id := w.y0Id, y0 := v, y0Id := none, fv := false, fmt := if w.fv then 0 else w.fmt, sv := false, scl := if w.sv then 0 else w.scl,
                                mode := .ready, wait := .none, retry := none } with ⟨_, e⟩ | ⟨_, _, e⟩ | ⟨_, _, e⟩ <;>
    rw [e] at ha <;> simp only [Thread.complete, e] <;>
    exact { wrote := wrote_of t _ d v hg hq hf
            shifted := { y0 := rfl, y0Id := rfl, y1 := hy.1, y1Id := hy.2, prefixes := ⟨rfl, rfl⟩, ready := ⟨rfl, rfl⟩ }
            advanced := advance_congr t _ _ ha hp1.symm hp2.symm hp3.symm hp4.symm hp5.symm
            flags := ⟨rfl, rfl, rfl⟩
            kept := hr }

/-- The count of fences is no part of what a completed word leaves. -/
theorem done_transferred {t u : Thread} {d : Spec} {v : Word} {f : BitVec 5} {z : Bool} {r : BitVec 32} (h : t.Done u d v f z r) (n : Nat) :
    t.Done (u.transferred n) d v f z r :=
  { wrote := { value := h.wrote.value, zero := h.wrote.zero, others := h.wrote.others, landing := h.wrote.landing }
    shifted := { y0 := h.shifted.y0, y0Id := h.shifted.y0Id, y1 := h.shifted.y1, y1Id := h.shifted.y1Id,
                 prefixes := h.shifted.prefixes, ready := h.shifted.ready }
    advanced := { seq := h.advanced.seq, last := h.advanced.last, back := h.advanced.back }
    flags := h.flags
    kept := h.kept }

/-! ### Issue (R81, R110, R133) -/

/-- With nothing in its way a word does what its body says. -/
theorem issueWord_free (i : Instr) (body : State → Ex) (s : State) (h : s.Free i) :
    issueWord i body s = match body s with
      | .done s1 res late n => .next (s1.completeWord s1.th res late n)
      | .trap s1 tr => .next (s1.trapAt i tr)
      | .wait s1 => .next s1
      | .stall s1 => .next s1.stallAt
      | .stop s1 => .next s1 := by
  have h2 : ¬ ((s.th.fv = true ∧ takesFmt i = false) ∨ (s.th.sv = true ∧ takesScl i = false)) := by
    rintro (⟨a, b⟩ | ⟨a, b⟩)
    · exact absurd (h.fmt a) (by simp [b])
    · exact absurd (h.scl a) (by simp [b])
  have h3 : ¬ (i.uses.any s.th.busy = true) := by
    intro e
    obtain ⟨x, hx, hb⟩ := List.any_eq_true.mp e
    exact absurd (h.landed x hx) (by simp [hb])
  unfold issueWord
  exact (if_neg (by simp [h.ready])).trans ((if_neg (by simp [h.wf])).trans ((if_neg h2).trans (if_neg h3)))

/-- A body that only writes its destination and perhaps flags completes as `Computed` says. -/
theorem done_computed (i : Instr) (body : State → Ex) (s : State) (h : s.Free i) (d : Spec) (v : Word) (w : Thread)
    (hb : body s = .done { s with th := w } v none .seq) (hg : w.g = (s.th.write d v).g)
    (hq : w.q = (s.th.write d v).q) (hf : w.inflight = (s.th.write d v).inflight) (hy : w.y0 = s.th.y0 ∧ w.y0Id = s.th.y0Id)
    (hp : w.pc = s.th.pc ∧ w.la = s.th.la ∧ w.lc = s.th.lc ∧ w.ls = s.th.ls ∧ w.le = s.th.le) (hr : w.rest = s.th.rest)
    (hw : w.xfer = s.th.xfer) :
    ∃ t, issueWord i body s = .next t ∧ s.Computed t d v w.ffl w.dz w.srnd := by
  refine ⟨State.completeWord { s with th := w } w v none .seq, ?_, ?_⟩
  · rw [issueWord_free i body s h, hb]
  · have k := completeWord_seq { s with th := w } w v none rfl
    rw [k]
    have hx : (w.complete v none .seq).1.xfer = w.xfer := by
      rcases advance_cases { w with y1 := w.y0, y1Id := w.y0Id, y0 := v, y0Id := none, fv := false, fmt := if w.fv then 0 else w.fmt, sv := false, scl := if w.sv then 0 else w.scl,
                                    mode := .ready, wait := .none, retry := none } with ⟨_, e⟩ | ⟨_, _, e⟩ | ⟨_, _, e⟩ <;>
        simp only [Thread.complete, e]
    have hd := complete_done s.th w d v hg hq hf hy hp hr
    rw [hp.1, hp.2.1, hp.2.2.1, hp.2.2.2.2]
    refine { only := rfl, turns := ?_, thread := ?_ }
    · dsimp only
      split
      · rfl
      · rw [hx, hw]
    · dsimp only
      split
      · exact done_transferred hd _
      · exact hd

/-- What a register write leaves of a thread. -/
theorem write_rest (t : Thread) (d : Spec) (v : Word) :
    (t.write d v).rest = t.rest ∧ (t.write d v).ffl = t.ffl ∧ (t.write d v).dz = t.dz ∧ (t.write d v).srnd = t.srnd ∧
    (t.write d v).y0 = t.y0 ∧ (t.write d v).y0Id = t.y0Id ∧ (t.write d v).pc = t.pc ∧ (t.write d v).la = t.la ∧
    (t.write d v).lc = t.lc ∧ (t.write d v).ls = t.ls ∧ (t.write d v).le = t.le ∧ (t.write d v).uid = t.uid ∧
    (t.write d v).xfer = t.xfer := by
  rw [← write_eq t d v]
  exact ⟨rfl, rfl, rfl, rfl, rfl, rfl, rfl, rfl, rfl, rfl, rfl, rfl, rfl⟩

/-- A word that computes a value from the thread (R110 rule 2). -/
theorem valueWord_plain (i : Instr) (s : State) (h : s.Free i) (d : Spec) (f : Thread → Word) :
    ∃ t, issueWord i (valueWord d f) s = .next t ∧ s.Plain t d (f s.th) := by
  obtain ⟨k1, k2, k3, k4, k5, k6, k7, k8, k9, k10, k11, _, k12⟩ := write_rest s.th d (f s.th)
  have := done_computed i (valueWord d f) s h d (f s.th) (s.th.write d (f s.th)) rfl rfl rfl rfl ⟨k5, k6⟩ ⟨k7, k8, k9, k10, k11⟩ k1 k12
  rw [k2, k3, k4] at this
  exact this

end Sys2Proof.Machine
end

