-- ==== Sys2Proof/Laws/PerInstr.lean ====
section
/-! SUPPORT. For each constructor of Instr: a well-formed word decodes to the instruction that was encoded (R52 to R79), and no
word decodes to a step of the module's own. -/

namespace Sys2Proof.Laws.RoundTrip

/-- A number without its low bits. -/
def shiftRight (v lo : Nat) : Nat := v / 2 ^ lo

theorem mod_div_mod (v lo len k : Nat) : v % 2 ^ (lo + len + k) / 2 ^ lo % 2 ^ len = v / 2 ^ lo % 2 ^ len := by
  rw [Nat.add_assoc, Nat.pow_add 2 lo, Nat.mod_mul_right_div_self, Nat.pow_add 2 len, Nat.mod_mul_right_mod]

theorem fld_ofNat {v lo len : Nat} (h : lo + len ≤ 32) : fld (.ofNat 32 v) lo len = .ofNat len (shiftRight v lo) := by
  apply BitVec.eq_of_toNat_eq
  have := mod_div_mod v lo len (32 - (lo + len))
  rw [Nat.add_sub_cancel' h] at this
  simpa only [fld, BitVec.extractLsb'_toNat, Nat.shiftRight_eq_div_pow, BitVec.toNat_ofNat, shiftRight] using this

theorem shiftRight_pk {n lo hi : Nat} (x : BitVec n) (h : n ≤ lo) : shiftRight (pk hi x) lo = shiftRight hi (lo - n) := by
  obtain ⟨k, rfl⟩ := Nat.exists_eq_add_of_le h
  rw [shiftRight, Nat.pow_add, ← Nat.div_div_eq_div_mul, pk, Nat.mul_comm, Nat.mul_add_div (Nat.two_pow_pos n),
    Nat.div_eq_of_lt x.isLt]
  simp [shiftRight]

theorem pk_low {n hi : Nat} (x : BitVec n) : BitVec.ofNat n (pk hi x) = x := by
  apply BitVec.eq_of_toNat_eq
  simp [pk, Nat.mul_comm hi, Nat.mod_eq_of_lt x.isLt]

theorem shiftRight_zero (v : Nat) : shiftRight v 0 = v := by simp [shiftRight]

/-- The statement: a word's constructor is read back, and no other constructor is read from any word. -/
def Statement (i : Instr) : Prop :=
  if i.isScalar then i.wf = true → (∀ w, i ≠ .unassignedFnWord w) → decode (encode i) = i else ∀ w, decode w ≠ i

theorem word {i : Instr} (h : i.isScalar = true)
    (e : i.wf = true → (∀ w, i ≠ .unassignedFnWord w) → decode (encode i) = i) : Statement i := by
  rw [Statement, if_pos h]; exact e

theorem scalar {i : Instr} (h : i.isScalar = true) (e : decode (encode i) = i) : Statement i := word h fun _ _ => e

theorem decAmo_scalar (w : Word32) : (decAmo w).isScalar = true := by
  unfold decAmo; split <;> rfl

theorem decBr_scalar (w : Word32) : (decBr w).isScalar = true := by
  unfold decBr; split <;> rfl

theorem decChannel_scalar (w : Word32) : (decChannel w).isScalar = true := by
  unfold decChannel; split <;> first | rfl | (split <;> rfl)

theorem decConv_scalar (w : Word32) : (decConv w).isScalar = true := by
  unfold decConv; split <;> rfl

theorem decCsr_scalar (w : Word32) : (decCsr w).isScalar = true := by
  unfold decCsr; split <;> first | rfl | (split <;> rfl)

theorem decEngine_scalar (w : Word32) : (decEngine w).isScalar = true := by
  unfold decEngine; split <;> first | rfl | (split <;> rfl)

theorem decFloat_scalar (w : Word32) : (decFloat w).isScalar = true := by
  unfold decFloat; split <;> first | rfl | (split <;> rfl)

theorem decIndirect_scalar (w : Word32) : (decIndirect w).isScalar = true := by
  unfold decIndirect; split <;> first | rfl | (split <;> rfl)

theorem decInt32_scalar (w : Word32) : (decInt32 w).isScalar = true := by
  unfold decInt32; split <;> first | rfl | (split <;> rfl)

theorem decInt64_scalar (w : Word32) : (decInt64 w).isScalar = true := by
  unfold decInt64; split <;> first | rfl | (split <;> rfl)

theorem decLd_scalar (w : Word32) : (decLd w).isScalar = true := by
  unfold decLd; split <;> first | rfl | (split <;> rfl)

theorem decLdAcq_scalar (w : Word32) : (decLdAcq w).isScalar = true := by
  unfold decLdAcq; split <;> rfl

theorem decLdbit_scalar (w : Word32) : (decLdbit w).isScalar = true := by
  unfold decLdbit; split <;> first | rfl | (split <;> rfl)

theorem decLdn_scalar (w : Word32) : (decLdn w).isScalar = true := by
  unfold decLdn; split <;> rfl

theorem decLoop_scalar (w : Word32) : (decLoop w).isScalar = true := by
  unfold decLoop; split <;> first | rfl | (split <;> rfl)

theorem decOrder_scalar (w : Word32) : (decOrder w).isScalar = true := by
  unfold decOrder; split <;> first | rfl | (split <;> rfl)

theorem decPfx_scalar (w : Word32) : (decPfx w).isScalar = true := by
  unfold decPfx; split <;> first | rfl | (split <;> rfl)

theorem decPref_scalar (w : Word32) : (decPref w).isScalar = true := by
  unfold decPref; split <;> rfl

theorem decShift_scalar (w : Word32) : (decShift w).isScalar = true := by
  unfold decShift; split <;> first | rfl | (split <;> rfl)

theorem decSt_scalar (w : Word32) : (decSt w).isScalar = true := by
  unfold decSt; split <;> first | rfl | (split <;> rfl)

theorem decStRel_scalar (w : Word32) : (decStRel w).isScalar = true := by
  unfold decStRel; split <;> rfl

theorem decStbit_scalar (w : Word32) : (decStbit w).isScalar = true := by
  unfold decStbit; split <;> first | rfl | (split <;> rfl)

theorem decSystem_scalar (w : Word32) : (decSystem w).isScalar = true := by
  unfold decSystem; split <;> first | rfl | (split <;> rfl)

theorem decThread_scalar (w : Word32) : (decThread w).isScalar = true := by
  unfold decThread; split <;> first | rfl | (split <;> rfl)

theorem decode_scalar (w : Word32) : (decode w).isScalar = true := by
  unfold decode
  split <;> first | rfl | exact decAmo_scalar w | exact decBr_scalar w | exact decChannel_scalar w | exact decConv_scalar w | exact decCsr_scalar w | exact decEngine_scalar w | exact decFloat_scalar w | exact decIndirect_scalar w | exact decInt32_scalar w | exact decInt64_scalar w | exact decLd_scalar w | exact decLdAcq_scalar w | exact decLdbit_scalar w | exact decLdn_scalar w | exact decLoop_scalar w | exact decOrder_scalar w | exact decPfx_scalar w | exact decPref_scalar w | exact decShift_scalar w | exact decSt_scalar w | exact decStRel_scalar w | exact decStbit_scalar w | exact decSystem_scalar w | exact decThread_scalar w

theorem event {i : Instr} (h : i.isScalar = false) : Statement i := by
  rw [Statement, if_neg (by simp [h])]
  exact fun w e => by simpa [e, h] using decode_scalar w

theorem add (d : BitVec 6) (a : BitVec 6) (b : BitVec 6) : Statement (.add d a b) := by
  refine scalar rfl ?_
  rw [show encode (.add d a b) = .ofNat 32 (pk (pk (pk (pk 0x01 d) a) b) 0x0#8) from rfl]
  simp (disch := decide) only [decode, decInt64, fld_ofNat, shiftRight_pk, shiftRight_zero, pk_low, Nat.reduceSub, BitVec.reduceToNat]

theorem sub (d : BitVec 6) (a : BitVec 6) (b : BitVec 6) : Statement (.sub d a b) := by
  refine scalar rfl ?_
  rw [show encode (.sub d a b) = .ofNat 32 (pk (pk (pk (pk 0x01 d) a) b) 0x1#8) from rfl]
  simp (disch := decide) only [decode, decInt64, fld_ofNat, shiftRight_pk, shiftRight_zero, pk_low, Nat.reduceSub, BitVec.reduceToNat]

theorem and (d : BitVec 6) (a : BitVec 6) (b : BitVec 6) : Statement (.and d a b) := by
  refine scalar rfl ?_
  rw [show encode (.and d a b) = .ofNat 32 (pk (pk (pk (pk 0x01 d) a) b) 0x2#8) from rfl]
  simp (disch := decide) only [decode, decInt64, fld_ofNat, shiftRight_pk, shiftRight_zero, pk_low, Nat.reduceSub, BitVec.reduceToNat]

theorem or (d : BitVec 6) (a : BitVec 6) (b : BitVec 6) : Statement (.or d a b) := by
  refine scalar rfl ?_
  rw [show encode (.or d a b) = .ofNat 32 (pk (pk (pk (pk 0x01 d) a) b) 0x3#8) from rfl]
  simp (disch := decide) only [decode, decInt64, fld_ofNat, shiftRight_pk, shiftRight_zero, pk_low, Nat.reduceSub, BitVec.reduceToNat]

theorem xor (d : BitVec 6) (a : BitVec 6) (b : BitVec 6) : Statement (.xor d a b) := by
  refine scalar rfl ?_
  rw [show encode (.xor d a b) = .ofNat 32 (pk (pk (pk (pk 0x01 d) a) b) 0x4#8) from rfl]
  simp (disch := decide) only [decode, decInt64, fld_ofNat, shiftRight_pk, shiftRight_zero, pk_low, Nat.reduceSub, BitVec.reduceToNat]

theorem andn (d : BitVec 6) (a : BitVec 6) (b : BitVec 6) : Statement (.andn d a b) := by
  refine scalar rfl ?_
  rw [show encode (.andn d a b) = .ofNat 32 (pk (pk (pk (pk 0x01 d) a) b) 0x5#8) from rfl]
  simp (disch := decide) only [decode, decInt64, fld_ofNat, shiftRight_pk, shiftRight_zero, pk_low, Nat.reduceSub, BitVec.reduceToNat]

theorem orn (d : BitVec 6) (a : BitVec 6) (b : BitVec 6) : Statement (.orn d a b) := by
  refine scalar rfl ?_
  rw [show encode (.orn d a b) = .ofNat 32 (pk (pk (pk (pk 0x01 d) a) b) 0x6#8) from rfl]
  simp (disch := decide) only [decode, decInt64, fld_ofNat, shiftRight_pk, shiftRight_zero, pk_low, Nat.reduceSub, BitVec.reduceToNat]

theorem shl (d : BitVec 6) (a : BitVec 6) (b : BitVec 6) : Statement (.shl d a b) := by
  refine scalar rfl ?_
  rw [show encode (.shl d a b) = .ofNat 32 (pk (pk (pk (pk 0x01 d) a) b) 0x8#8) from rfl]
  simp (disch := decide) only [decode, decInt64, fld_ofNat, shiftRight_pk, shiftRight_zero, pk_low, Nat.reduceSub, BitVec.reduceToNat]

theorem shr (d : BitVec 6) (a : BitVec 6) (b : BitVec 6) : Statement (.shr d a b) := by
  refine scalar rfl ?_
  rw [show encode (.shr d a b) = .ofNat 32 (pk (pk (pk (pk 0x01 d) a) b) 0x9#8) from rfl]
  simp (disch := decide) only [decode, decInt64, fld_ofNat, shiftRight_pk, shiftRight_zero, pk_low, Nat.reduceSub, BitVec.reduceToNat]

theorem sha (d : BitVec 6) (a : BitVec 6) (b : BitVec 6) : Statement (.sha d a b) := by
  refine scalar rfl ?_
  rw [show encode (.sha d a b) = .ofNat 32 (pk (pk (pk (pk 0x01 d) a) b) 0xA#8) from rfl]
  simp (disch := decide) only [decode, decInt64, fld_ofNat, shiftRight_pk, shiftRight_zero, pk_low, Nat.reduceSub, BitVec.reduceToNat]

theorem rotl (d : BitVec 6) (a : BitVec 6) (b : BitVec 6) : Statement (.rotl d a b) := by
  refine scalar rfl ?_
  rw [show encode (.rotl d a b) = .ofNat 32 (pk (pk (pk (pk 0x01 d) a) b) 0xB#8) from rfl]
  simp (disch := decide) only [decode, decInt64, fld_ofNat, shiftRight_pk, shiftRight_zero, pk_low, Nat.reduceSub, BitVec.reduceToNat]

theorem min (d : BitVec 6) (a : BitVec 6) (b : BitVec 6) : Statement (.min d a b) := by
  refine scalar rfl ?_
  rw [show encode (.min d a b) = .ofNat 32 (pk (pk (pk (pk 0x01 d) a) b) 0x10#8) from rfl]
  simp (disch := decide) only [decode, decInt64, fld_ofNat, shiftRight_pk, shiftRight_zero, pk_low, Nat.reduceSub, BitVec.reduceToNat]

theorem max (d : BitVec 6) (a : BitVec 6) (b : BitVec 6) : Statement (.max d a b) := by
  refine scalar rfl ?_
  rw [show encode (.max d a b) = .ofNat 32 (pk (pk (pk (pk 0x01 d) a) b) 0x11#8) from rfl]
  simp (disch := decide) only [decode, decInt64, fld_ofNat, shiftRight_pk, shiftRight_zero, pk_low, Nat.reduceSub, BitVec.reduceToNat]

theorem minn (d : BitVec 6) (a : BitVec 6) (b : BitVec 6) : Statement (.minn d a b) := by
  refine scalar rfl ?_
  rw [show encode (.minn d a b) = .ofNat 32 (pk (pk (pk (pk 0x01 d) a) b) 0x12#8) from rfl]
  simp (disch := decide) only [decode, decInt64, fld_ofNat, shiftRight_pk, shiftRight_zero, pk_low, Nat.reduceSub, BitVec.reduceToNat]

theorem maxn (d : BitVec 6) (a : BitVec 6) (b : BitVec 6) : Statement (.maxn d a b) := by
  refine scalar rfl ?_
  rw [show encode (.maxn d a b) = .ofNat 32 (pk (pk (pk (pk 0x01 d) a) b) 0x13#8) from rfl]
  simp (disch := decide) only [decode, decInt64, fld_ofNat, shiftRight_pk, shiftRight_zero, pk_low, Nat.reduceSub, BitVec.reduceToNat]

theorem slt (d : BitVec 6) (a : BitVec 6) (b : BitVec 6) : Statement (.slt d a b) := by
  refine scalar rfl ?_
  rw [show encode (.slt d a b) = .ofNat 32 (pk (pk (pk (pk 0x01 d) a) b) 0x14#8) from rfl]
  simp (disch := decide) only [decode, decInt64, fld_ofNat, shiftRight_pk, shiftRight_zero, pk_low, Nat.reduceSub, BitVec.reduceToNat]

theorem sltn (d : BitVec 6) (a : BitVec 6) (b : BitVec 6) : Statement (.sltn d a b) := by
  refine scalar rfl ?_
  rw [show encode (.sltn d a b) = .ofNat 32 (pk (pk (pk (pk 0x01 d) a) b) 0x15#8) from rfl]
  simp (disch := decide) only [decode, decInt64, fld_ofNat, shiftRight_pk, shiftRight_zero, pk_low, Nat.reduceSub, BitVec.reduceToNat]

theorem seq (d : BitVec 6) (a : BitVec 6) (b : BitVec 6) : Statement (.seq d a b) := by
  refine scalar rfl ?_
  rw [show encode (.seq d a b) = .ofNat 32 (pk (pk (pk (pk 0x01 d) a) b) 0x16#8) from rfl]
  simp (disch := decide) only [decode, decInt64, fld_ofNat, shiftRight_pk, shiftRight_zero, pk_low, Nat.reduceSub, BitVec.reduceToNat]

theorem sne (d : BitVec 6) (a : BitVec 6) (b : BitVec 6) : Statement (.sne d a b) := by
  refine scalar rfl ?_
  rw [show encode (.sne d a b) = .ofNat 32 (pk (pk (pk (pk 0x01 d) a) b) 0x17#8) from rfl]
  simp (disch := decide) only [decode, decInt64, fld_ofNat, shiftRight_pk, shiftRight_zero, pk_low, Nat.reduceSub, BitVec.reduceToNat]

theorem sel (d : BitVec 6) (a : BitVec 6) (b : BitVec 6) : Statement (.sel d a b) := by
  refine scalar rfl ?_
  rw [show encode (.sel d a b) = .ofNat 32 (pk (pk (pk (pk 0x01 d) a) b) 0x18#8) from rfl]
  simp (disch := decide) only [decode, decInt64, fld_ofNat, shiftRight_pk, shiftRight_zero, pk_low, Nat.reduceSub, BitVec.reduceToNat]

theorem mul (d : BitVec 6) (a : BitVec 6) (b : BitVec 6) : Statement (.mul d a b) := by
  refine scalar rfl ?_
  rw [show encode (.mul d a b) = .ofNat 32 (pk (pk (pk (pk 0x01 d) a) b) 0x20#8) from rfl]
  simp (disch := decide) only [decode, decInt64, fld_ofNat, shiftRight_pk, shiftRight_zero, pk_low, Nat.reduceSub, BitVec.reduceToNat]

theorem mulh (d : BitVec 6) (a : BitVec 6) (b : BitVec 6) : Statement (.mulh d a b) := by
  refine scalar rfl ?_
  rw [show encode (.mulh d a b) = .ofNat 32 (pk (pk (pk (pk 0x01 d) a) b) 0x21#8) from rfl]
  simp (disch := decide) only [decode, decInt64, fld_ofNat, shiftRight_pk, shiftRight_zero, pk_low, Nat.reduceSub, BitVec.reduceToNat]

theorem mulhn (d : BitVec 6) (a : BitVec 6) (b : BitVec 6) : Statement (.mulhn d a b) := by
  refine scalar rfl ?_
  rw [show encode (.mulhn d a b) = .ofNat 32 (pk (pk (pk (pk 0x01 d) a) b) 0x22#8) from rfl]
  simp (disch := decide) only [decode, decInt64, fld_ofNat, shiftRight_pk, shiftRight_zero, pk_low, Nat.reduceSub, BitVec.reduceToNat]

theorem div (d : BitVec 6) (a : BitVec 6) (b : BitVec 6) : Statement (.div d a b) := by
  refine scalar rfl ?_
  rw [show encode (.div d a b) = .ofNat 32 (pk (pk (pk (pk 0x01 d) a) b) 0x24#8) from rfl]
  simp (disch := decide) only [decode, decInt64, fld_ofNat, shiftRight_pk, shiftRight_zero, pk_low, Nat.reduceSub, BitVec.reduceToNat]

theorem divn (d : BitVec 6) (a : BitVec 6) (b : BitVec 6) : Statement (.divn d a b) := by
  refine scalar rfl ?_
  rw [show encode (.divn d a b) = .ofNat 32 (pk (pk (pk (pk 0x01 d) a) b) 0x25#8) from rfl]
  simp (disch := decide) only [decode, decInt64, fld_ofNat, shiftRight_pk, shiftRight_zero, pk_low, Nat.reduceSub, BitVec.reduceToNat]

theorem rem (d : BitVec 6) (a : BitVec 6) (b : BitVec 6) : Statement (.rem d a b) := by
  refine scalar rfl ?_
  rw [show encode (.rem d a b) = .ofNat 32 (pk (pk (pk (pk 0x01 d) a) b) 0x26#8) from rfl]
  simp (disch := decide) only [decode, decInt64, fld_ofNat, shiftRight_pk, shiftRight_zero, pk_low, Nat.reduceSub, BitVec.reduceToNat]

theorem remn (d : BitVec 6) (a : BitVec 6) (b : BitVec 6) : Statement (.remn d a b) := by
  refine scalar rfl ?_
  rw [show encode (.remn d a b) = .ofNat 32 (pk (pk (pk (pk 0x01 d) a) b) 0x27#8) from rfl]
  simp (disch := decide) only [decode, decInt64, fld_ofNat, shiftRight_pk, shiftRight_zero, pk_low, Nat.reduceSub, BitVec.reduceToNat]

theorem clz (d : BitVec 6) (a : BitVec 6) : Statement (.clz d a) := by
  refine scalar rfl ?_
  rw [show encode (.clz d a) = .ofNat 32 (pk (pk (pk (pk 0x01 d) a) 0x0#6) 0x30#8) from rfl]
  simp (disch := decide) only [decode, decInt64, fld_ofNat, shiftRight_pk, shiftRight_zero, pk_low, Nat.reduceSub, BitVec.reduceToNat, if_true]

theorem ctz (d : BitVec 6) (a : BitVec 6) : Statement (.ctz d a) := by
  refine scalar rfl ?_
  rw [show encode (.ctz d a) = .ofNat 32 (pk (pk (pk (pk 0x01 d) a) 0x0#6) 0x31#8) from rfl]
  simp (disch := decide) only [decode, decInt64, fld_ofNat, shiftRight_pk, shiftRight_zero, pk_low, Nat.reduceSub, BitVec.reduceToNat, if_true]

theorem pop (d : BitVec 6) (a : BitVec 6) : Statement (.pop d a) := by
  refine scalar rfl ?_
  rw [show encode (.pop d a) = .ofNat 32 (pk (pk (pk (pk 0x01 d) a) 0x0#6) 0x32#8) from rfl]
  simp (disch := decide) only [decode, decInt64, fld_ofNat, shiftRight_pk, shiftRight_zero, pk_low, Nat.reduceSub, BitVec.reduceToNat, if_true]

theorem brev (d : BitVec 6) (a : BitVec 6) : Statement (.brev d a) := by
  refine scalar rfl ?_
  rw [show encode (.brev d a) = .ofNat 32 (pk (pk (pk (pk 0x01 d) a) 0x0#6) 0x33#8) from rfl]
  simp (disch := decide) only [decode, decInt64, fld_ofNat, shiftRight_pk, shiftRight_zero, pk_low, Nat.reduceSub, BitVec.reduceToNat, if_true]

theorem bswap (d : BitVec 6) (a : BitVec 6) : Statement (.bswap d a) := by
  refine scalar rfl ?_
  rw [show encode (.bswap d a) = .ofNat 32 (pk (pk (pk (pk 0x01 d) a) 0x0#6) 0x34#8) from rfl]
  simp (disch := decide) only [decode, decInt64, fld_ofNat, shiftRight_pk, shiftRight_zero, pk_low, Nat.reduceSub, BitVec.reduceToNat, if_true]

theorem bfx (d : BitVec 6) (a : BitVec 6) (b : BitVec 6) : Statement (.bfx d a b) := by
  refine scalar rfl ?_
  rw [show encode (.bfx d a b) = .ofNat 32 (pk (pk (pk (pk 0x01 d) a) b) 0x40#8) from rfl]
  simp (disch := decide) only [decode, decInt64, fld_ofNat, shiftRight_pk, shiftRight_zero, pk_low, Nat.reduceSub, BitVec.reduceToNat]

theorem bfi (d : BitVec 6) (a : BitVec 6) (b : BitVec 6) : Statement (.bfi d a b) := by
  refine scalar rfl ?_
  rw [show encode (.bfi d a b) = .ofNat 32 (pk (pk (pk (pk 0x01 d) a) b) 0x41#8) from rfl]
  simp (disch := decide) only [decode, decInt64, fld_ofNat, shiftRight_pk, shiftRight_zero, pk_low, Nat.reduceSub, BitVec.reduceToNat]

theorem add32 (d : BitVec 6) (a : BitVec 6) (b : BitVec 6) : Statement (.add32 d a b) := by
  refine scalar rfl ?_
  rw [show encode (.add32 d a b) = .ofNat 32 (pk (pk (pk (pk 0x02 d) a) b) 0x0#8) from rfl]
  simp (disch := decide) only [decode, decInt32, fld_ofNat, shiftRight_pk, shiftRight_zero, pk_low, Nat.reduceSub, BitVec.reduceToNat]

theorem sub32 (d : BitVec 6) (a : BitVec 6) (b : BitVec 6) : Statement (.sub32 d a b) := by
  refine scalar rfl ?_
  rw [show encode (.sub32 d a b) = .ofNat 32 (pk (pk (pk (pk 0x02 d) a) b) 0x1#8) from rfl]
  simp (disch := decide) only [decode, decInt32, fld_ofNat, shiftRight_pk, shiftRight_zero, pk_low, Nat.reduceSub, BitVec.reduceToNat]

theorem and32 (d : BitVec 6) (a : BitVec 6) (b : BitVec 6) : Statement (.and32 d a b) := by
  refine scalar rfl ?_
  rw [show encode (.and32 d a b) = .ofNat 32 (pk (pk (pk (pk 0x02 d) a) b) 0x2#8) from rfl]
  simp (disch := decide) only [decode, decInt32, fld_ofNat, shiftRight_pk, shiftRight_zero, pk_low, Nat.reduceSub, BitVec.reduceToNat]

theorem or32 (d : BitVec 6) (a : BitVec 6) (b : BitVec 6) : Statement (.or32 d a b) := by
  refine scalar rfl ?_
  rw [show encode (.or32 d a b) = .ofNat 32 (pk (pk (pk (pk 0x02 d) a) b) 0x3#8) from rfl]
  simp (disch := decide) only [decode, decInt32, fld_ofNat, shiftRight_pk, shiftRight_zero, pk_low, Nat.reduceSub, BitVec.reduceToNat]

theorem xor32 (d : BitVec 6) (a : BitVec 6) (b : BitVec 6) : Statement (.xor32 d a b) := by
  refine scalar rfl ?_
  rw [show encode (.xor32 d a b) = .ofNat 32 (pk (pk (pk (pk 0x02 d) a) b) 0x4#8) from rfl]
  simp (disch := decide) only [decode, decInt32, fld_ofNat, shiftRight_pk, shiftRight_zero, pk_low, Nat.reduceSub, BitVec.reduceToNat]

theorem andn32 (d : BitVec 6) (a : BitVec 6) (b : BitVec 6) : Statement (.andn32 d a b) := by
  refine scalar rfl ?_
  rw [show encode (.andn32 d a b) = .ofNat 32 (pk (pk (pk (pk 0x02 d) a) b) 0x5#8) from rfl]
  simp (disch := decide) only [decode, decInt32, fld_ofNat, shiftRight_pk, shiftRight_zero, pk_low, Nat.reduceSub, BitVec.reduceToNat]

theorem orn32 (d : BitVec 6) (a : BitVec 6) (b : BitVec 6) : Statement (.orn32 d a b) := by
  refine scalar rfl ?_
  rw [show encode (.orn32 d a b) = .ofNat 32 (pk (pk (pk (pk 0x02 d) a) b) 0x6#8) from rfl]
  simp (disch := decide) only [decode, decInt32, fld_ofNat, shiftRight_pk, shiftRight_zero, pk_low, Nat.reduceSub, BitVec.reduceToNat]

theorem shl32 (d : BitVec 6) (a : BitVec 6) (b : BitVec 6) : Statement (.shl32 d a b) := by
  refine scalar rfl ?_
  rw [show encode (.shl32 d a b) = .ofNat 32 (pk (pk (pk (pk 0x02 d) a) b) 0x8#8) from rfl]
  simp (disch := decide) only [decode, decInt32, fld_ofNat, shiftRight_pk, shiftRight_zero, pk_low, Nat.reduceSub, BitVec.reduceToNat]

theorem shr32 (d : BitVec 6) (a : BitVec 6) (b : BitVec 6) : Statement (.shr32 d a b) := by
  refine scalar rfl ?_
  rw [show encode (.shr32 d a b) = .ofNat 32 (pk (pk (pk (pk 0x02 d) a) b) 0x9#8) from rfl]
  simp (disch := decide) only [decode, decInt32, fld_ofNat, shiftRight_pk, shiftRight_zero, pk_low, Nat.reduceSub, BitVec.reduceToNat]

theorem sha32 (d : BitVec 6) (a : BitVec 6) (b : BitVec 6) : Statement (.sha32 d a b) := by
  refine scalar rfl ?_
  rw [show encode (.sha32 d a b) = .ofNat 32 (pk (pk (pk (pk 0x02 d) a) b) 0xA#8) from rfl]
  simp (disch := decide) only [decode, decInt32, fld_ofNat, shiftRight_pk, shiftRight_zero, pk_low, Nat.reduceSub, BitVec.reduceToNat]

theorem rotl32 (d : BitVec 6) (a : BitVec 6) (b : BitVec 6) : Statement (.rotl32 d a b) := by
  refine scalar rfl ?_
  rw [show encode (.rotl32 d a b) = .ofNat 32 (pk (pk (pk (pk 0x02 d) a) b) 0xB#8) from rfl]
  simp (disch := decide) only [decode, decInt32, fld_ofNat, shiftRight_pk, shiftRight_zero, pk_low, Nat.reduceSub, BitVec.reduceToNat]

theorem min32 (d : BitVec 6) (a : BitVec 6) (b : BitVec 6) : Statement (.min32 d a b) := by
  refine scalar rfl ?_
  rw [show encode (.min32 d a b) = .ofNat 32 (pk (pk (pk (pk 0x02 d) a) b) 0x10#8) from rfl]
  simp (disch := decide) only [decode, decInt32, fld_ofNat, shiftRight_pk, shiftRight_zero, pk_low, Nat.reduceSub, BitVec.reduceToNat]

theorem max32 (d : BitVec 6) (a : BitVec 6) (b : BitVec 6) : Statement (.max32 d a b) := by
  refine scalar rfl ?_
  rw [show encode (.max32 d a b) = .ofNat 32 (pk (pk (pk (pk 0x02 d) a) b) 0x11#8) from rfl]
  simp (disch := decide) only [decode, decInt32, fld_ofNat, shiftRight_pk, shiftRight_zero, pk_low, Nat.reduceSub, BitVec.reduceToNat]

theorem minn32 (d : BitVec 6) (a : BitVec 6) (b : BitVec 6) : Statement (.minn32 d a b) := by
  refine scalar rfl ?_
  rw [show encode (.minn32 d a b) = .ofNat 32 (pk (pk (pk (pk 0x02 d) a) b) 0x12#8) from rfl]
  simp (disch := decide) only [decode, decInt32, fld_ofNat, shiftRight_pk, shiftRight_zero, pk_low, Nat.reduceSub, BitVec.reduceToNat]

theorem maxn32 (d : BitVec 6) (a : BitVec 6) (b : BitVec 6) : Statement (.maxn32 d a b) := by
  refine scalar rfl ?_
  rw [show encode (.maxn32 d a b) = .ofNat 32 (pk (pk (pk (pk 0x02 d) a) b) 0x13#8) from rfl]
  simp (disch := decide) only [decode, decInt32, fld_ofNat, shiftRight_pk, shiftRight_zero, pk_low, Nat.reduceSub, BitVec.reduceToNat]

theorem slt32 (d : BitVec 6) (a : BitVec 6) (b : BitVec 6) : Statement (.slt32 d a b) := by
  refine scalar rfl ?_
  rw [show encode (.slt32 d a b) = .ofNat 32 (pk (pk (pk (pk 0x02 d) a) b) 0x14#8) from rfl]
  simp (disch := decide) only [decode, decInt32, fld_ofNat, shiftRight_pk, shiftRight_zero, pk_low, Nat.reduceSub, BitVec.reduceToNat]

theorem sltn32 (d : BitVec 6) (a : BitVec 6) (b : BitVec 6) : Statement (.sltn32 d a b) := by
  refine scalar rfl ?_
  rw [show encode (.sltn32 d a b) = .ofNat 32 (pk (pk (pk (pk 0x02 d) a) b) 0x15#8) from rfl]
  simp (disch := decide) only [decode, decInt32, fld_ofNat, shiftRight_pk, shiftRight_zero, pk_low, Nat.reduceSub, BitVec.reduceToNat]

theorem seq32 (d : BitVec 6) (a : BitVec 6) (b : BitVec 6) : Statement (.seq32 d a b) := by
  refine scalar rfl ?_
  rw [show encode (.seq32 d a b) = .ofNat 32 (pk (pk (pk (pk 0x02 d) a) b) 0x16#8) from rfl]
  simp (disch := decide) only [decode, decInt32, fld_ofNat, shiftRight_pk, shiftRight_zero, pk_low, Nat.reduceSub, BitVec.reduceToNat]

theorem sne32 (d : BitVec 6) (a : BitVec 6) (b : BitVec 6) : Statement (.sne32 d a b) := by
  refine scalar rfl ?_
  rw [show encode (.sne32 d a b) = .ofNat 32 (pk (pk (pk (pk 0x02 d) a) b) 0x17#8) from rfl]
  simp (disch := decide) only [decode, decInt32, fld_ofNat, shiftRight_pk, shiftRight_zero, pk_low, Nat.reduceSub, BitVec.reduceToNat]

theorem sel32 (d : BitVec 6) (a : BitVec 6) (b : BitVec 6) : Statement (.sel32 d a b) := by
  refine scalar rfl ?_
  rw [show encode (.sel32 d a b) = .ofNat 32 (pk (pk (pk (pk 0x02 d) a) b) 0x18#8) from rfl]
  simp (disch := decide) only [decode, decInt32, fld_ofNat, shiftRight_pk, shiftRight_zero, pk_low, Nat.reduceSub, BitVec.reduceToNat]

theorem mul32 (d : BitVec 6) (a : BitVec 6) (b : BitVec 6) : Statement (.mul32 d a b) := by
  refine scalar rfl ?_
  rw [show encode (.mul32 d a b) = .ofNat 32 (pk (pk (pk (pk 0x02 d) a) b) 0x20#8) from rfl]
  simp (disch := decide) only [decode, decInt32, fld_ofNat, shiftRight_pk, shiftRight_zero, pk_low, Nat.reduceSub, BitVec.reduceToNat]

theorem mulh32 (d : BitVec 6) (a : BitVec 6) (b : BitVec 6) : Statement (.mulh32 d a b) := by
  refine scalar rfl ?_
  rw [show encode (.mulh32 d a b) = .ofNat 32 (pk (pk (pk (pk 0x02 d) a) b) 0x21#8) from rfl]
  simp (disch := decide) only [decode, decInt32, fld_ofNat, shiftRight_pk, shiftRight_zero, pk_low, Nat.reduceSub, BitVec.reduceToNat]

theorem mulhn32 (d : BitVec 6) (a : BitVec 6) (b : BitVec 6) : Statement (.mulhn32 d a b) := by
  refine scalar rfl ?_
  rw [show encode (.mulhn32 d a b) = .ofNat 32 (pk (pk (pk (pk 0x02 d) a) b) 0x22#8) from rfl]
  simp (disch := decide) only [decode, decInt32, fld_ofNat, shiftRight_pk, shiftRight_zero, pk_low, Nat.reduceSub, BitVec.reduceToNat]

theorem div32 (d : BitVec 6) (a : BitVec 6) (b : BitVec 6) : Statement (.div32 d a b) := by
  refine scalar rfl ?_
  rw [show encode (.div32 d a b) = .ofNat 32 (pk (pk (pk (pk 0x02 d) a) b) 0x24#8) from rfl]
  simp (disch := decide) only [decode, decInt32, fld_ofNat, shiftRight_pk, shiftRight_zero, pk_low, Nat.reduceSub, BitVec.reduceToNat]

theorem divn32 (d : BitVec 6) (a : BitVec 6) (b : BitVec 6) : Statement (.divn32 d a b) := by
  refine scalar rfl ?_
  rw [show encode (.divn32 d a b) = .ofNat 32 (pk (pk (pk (pk 0x02 d) a) b) 0x25#8) from rfl]
  simp (disch := decide) only [decode, decInt32, fld_ofNat, shiftRight_pk, shiftRight_zero, pk_low, Nat.reduceSub, BitVec.reduceToNat]

theorem rem32 (d : BitVec 6) (a : BitVec 6) (b : BitVec 6) : Statement (.rem32 d a b) := by
  refine scalar rfl ?_
  rw [show encode (.rem32 d a b) = .ofNat 32 (pk (pk (pk (pk 0x02 d) a) b) 0x26#8) from rfl]
  simp (disch := decide) only [decode, decInt32, fld_ofNat, shiftRight_pk, shiftRight_zero, pk_low, Nat.reduceSub, BitVec.reduceToNat]

theorem remn32 (d : BitVec 6) (a : BitVec 6) (b : BitVec 6) : Statement (.remn32 d a b) := by
  refine scalar rfl ?_
  rw [show encode (.remn32 d a b) = .ofNat 32 (pk (pk (pk (pk 0x02 d) a) b) 0x27#8) from rfl]
  simp (disch := decide) only [decode, decInt32, fld_ofNat, shiftRight_pk, shiftRight_zero, pk_low, Nat.reduceSub, BitVec.reduceToNat]

theorem clz32 (d : BitVec 6) (a : BitVec 6) : Statement (.clz32 d a) := by
  refine scalar rfl ?_
  rw [show encode (.clz32 d a) = .ofNat 32 (pk (pk (pk (pk 0x02 d) a) 0x0#6) 0x30#8) from rfl]
  simp (disch := decide) only [decode, decInt32, fld_ofNat, shiftRight_pk, shiftRight_zero, pk_low, Nat.reduceSub, BitVec.reduceToNat, if_true]

theorem ctz32 (d : BitVec 6) (a : BitVec 6) : Statement (.ctz32 d a) := by
  refine scalar rfl ?_
  rw [show encode (.ctz32 d a) = .ofNat 32 (pk (pk (pk (pk 0x02 d) a) 0x0#6) 0x31#8) from rfl]
  simp (disch := decide) only [decode, decInt32, fld_ofNat, shiftRight_pk, shiftRight_zero, pk_low, Nat.reduceSub, BitVec.reduceToNat, if_true]

theorem pop32 (d : BitVec 6) (a : BitVec 6) : Statement (.pop32 d a) := by
  refine scalar rfl ?_
  rw [show encode (.pop32 d a) = .ofNat 32 (pk (pk (pk (pk 0x02 d) a) 0x0#6) 0x32#8) from rfl]
  simp (disch := decide) only [decode, decInt32, fld_ofNat, shiftRight_pk, shiftRight_zero, pk_low, Nat.reduceSub, BitVec.reduceToNat, if_true]

theorem brev32 (d : BitVec 6) (a : BitVec 6) : Statement (.brev32 d a) := by
  refine scalar rfl ?_
  rw [show encode (.brev32 d a) = .ofNat 32 (pk (pk (pk (pk 0x02 d) a) 0x0#6) 0x33#8) from rfl]
  simp (disch := decide) only [decode, decInt32, fld_ofNat, shiftRight_pk, shiftRight_zero, pk_low, Nat.reduceSub, BitVec.reduceToNat, if_true]

theorem bswap32 (d : BitVec 6) (a : BitVec 6) : Statement (.bswap32 d a) := by
  refine scalar rfl ?_
  rw [show encode (.bswap32 d a) = .ofNat 32 (pk (pk (pk (pk 0x02 d) a) 0x0#6) 0x34#8) from rfl]
  simp (disch := decide) only [decode, decInt32, fld_ofNat, shiftRight_pk, shiftRight_zero, pk_low, Nat.reduceSub, BitVec.reduceToNat, if_true]

theorem bfx32 (d : BitVec 6) (a : BitVec 6) (b : BitVec 6) : Statement (.bfx32 d a b) := by
  refine scalar rfl ?_
  rw [show encode (.bfx32 d a b) = .ofNat 32 (pk (pk (pk (pk 0x02 d) a) b) 0x40#8) from rfl]
  simp (disch := decide) only [decode, decInt32, fld_ofNat, shiftRight_pk, shiftRight_zero, pk_low, Nat.reduceSub, BitVec.reduceToNat]

theorem bfi32 (d : BitVec 6) (a : BitVec 6) (b : BitVec 6) : Statement (.bfi32 d a b) := by
  refine scalar rfl ?_
  rw [show encode (.bfi32 d a b) = .ofNat 32 (pk (pk (pk (pk 0x02 d) a) b) 0x41#8) from rfl]
  simp (disch := decide) only [decode, decInt32, fld_ofNat, shiftRight_pk, shiftRight_zero, pk_low, Nat.reduceSub, BitVec.reduceToNat]

theorem fadd (d : BitVec 6) (a : BitVec 6) (b : BitVec 6) (f : BitVec 2) : Statement (.fadd d a b f) := by
  refine scalar rfl ?_
  rw [show encode (.fadd d a b f) = .ofNat 32 (pk (pk (pk (pk (pk 0x03 d) a) b) f) 0x0#6) from rfl]
  simp (disch := decide) only [decode, decFloat, fld_ofNat, shiftRight_pk, shiftRight_zero, pk_low, Nat.reduceSub, BitVec.reduceToNat]

theorem fsub (d : BitVec 6) (a : BitVec 6) (b : BitVec 6) (f : BitVec 2) : Statement (.fsub d a b f) := by
  refine scalar rfl ?_
  rw [show encode (.fsub d a b f) = .ofNat 32 (pk (pk (pk (pk (pk 0x03 d) a) b) f) 0x1#6) from rfl]
  simp (disch := decide) only [decode, decFloat, fld_ofNat, shiftRight_pk, shiftRight_zero, pk_low, Nat.reduceSub, BitVec.reduceToNat]

theorem fmul (d : BitVec 6) (a : BitVec 6) (b : BitVec 6) (f : BitVec 2) : Statement (.fmul d a b f) := by
  refine scalar rfl ?_
  rw [show encode (.fmul d a b f) = .ofNat 32 (pk (pk (pk (pk (pk 0x03 d) a) b) f) 0x2#6) from rfl]
  simp (disch := decide) only [decode, decFloat, fld_ofNat, shiftRight_pk, shiftRight_zero, pk_low, Nat.reduceSub, BitVec.reduceToNat]

theorem fdiv (d : BitVec 6) (a : BitVec 6) (b : BitVec 6) (f : BitVec 2) : Statement (.fdiv d a b f) := by
  refine scalar rfl ?_
  rw [show encode (.fdiv d a b f) = .ofNat 32 (pk (pk (pk (pk (pk 0x03 d) a) b) f) 0x3#6) from rfl]
  simp (disch := decide) only [decode, decFloat, fld_ofNat, shiftRight_pk, shiftRight_zero, pk_low, Nat.reduceSub, BitVec.reduceToNat]

theorem fsqrt (d : BitVec 6) (a : BitVec 6) (f : BitVec 2) : Statement (.fsqrt d a f) := by
  refine scalar rfl ?_
  rw [show encode (.fsqrt d a f) = .ofNat 32 (pk (pk (pk (pk (pk 0x03 d) a) 0x0#6) f) 0x4#6) from rfl]
  simp (disch := decide) only [decode, decFloat, fld_ofNat, shiftRight_pk, shiftRight_zero, pk_low, Nat.reduceSub, BitVec.reduceToNat, if_true]

theorem fma (d : BitVec 6) (a : BitVec 6) (b : BitVec 6) (f : BitVec 2) : Statement (.fma d a b f) := by
  refine scalar rfl ?_
  rw [show encode (.fma d a b f) = .ofNat 32 (pk (pk (pk (pk (pk 0x03 d) a) b) f) 0x5#6) from rfl]
  simp (disch := decide) only [decode, decFloat, fld_ofNat, shiftRight_pk, shiftRight_zero, pk_low, Nat.reduceSub, BitVec.reduceToNat]

theorem fnma (d : BitVec 6) (a : BitVec 6) (b : BitVec 6) (f : BitVec 2) : Statement (.fnma d a b f) := by
  refine scalar rfl ?_
  rw [show encode (.fnma d a b f) = .ofNat 32 (pk (pk (pk (pk (pk 0x03 d) a) b) f) 0x6#6) from rfl]
  simp (disch := decide) only [decode, decFloat, fld_ofNat, shiftRight_pk, shiftRight_zero, pk_low, Nat.reduceSub, BitVec.reduceToNat]

theorem fmin (d : BitVec 6) (a : BitVec 6) (b : BitVec 6) (f : BitVec 2) : Statement (.fmin d a b f) := by
  refine scalar rfl ?_
  rw [show encode (.fmin d a b f) = .ofNat 32 (pk (pk (pk (pk (pk 0x03 d) a) b) f) 0x8#6) from rfl]
  simp (disch := decide) only [decode, decFloat, fld_ofNat, shiftRight_pk, shiftRight_zero, pk_low, Nat.reduceSub, BitVec.reduceToNat]

theorem fmax (d : BitVec 6) (a : BitVec 6) (b : BitVec 6) (f : BitVec 2) : Statement (.fmax d a b f) := by
  refine scalar rfl ?_
  rw [show encode (.fmax d a b f) = .ofNat 32 (pk (pk (pk (pk (pk 0x03 d) a) b) f) 0x9#6) from rfl]
  simp (disch := decide) only [decode, decFloat, fld_ofNat, shiftRight_pk, shiftRight_zero, pk_low, Nat.reduceSub, BitVec.reduceToNat]

theorem fsgn (d : BitVec 6) (a : BitVec 6) (b : BitVec 6) (f : BitVec 2) : Statement (.fsgn d a b f) := by
  refine scalar rfl ?_
  rw [show encode (.fsgn d a b f) = .ofNat 32 (pk (pk (pk (pk (pk 0x03 d) a) b) f) 0xA#6) from rfl]
  simp (disch := decide) only [decode, decFloat, fld_ofNat, shiftRight_pk, shiftRight_zero, pk_low, Nat.reduceSub, BitVec.reduceToNat]

theorem feq (d : BitVec 6) (a : BitVec 6) (b : BitVec 6) (f : BitVec 2) : Statement (.feq d a b f) := by
  refine scalar rfl ?_
  rw [show encode (.feq d a b f) = .ofNat 32 (pk (pk (pk (pk (pk 0x03 d) a) b) f) 0x10#6) from rfl]
  simp (disch := decide) only [decode, decFloat, fld_ofNat, shiftRight_pk, shiftRight_zero, pk_low, Nat.reduceSub, BitVec.reduceToNat]

theorem flt (d : BitVec 6) (a : BitVec 6) (b : BitVec 6) (f : BitVec 2) : Statement (.flt d a b f) := by
  refine scalar rfl ?_
  rw [show encode (.flt d a b f) = .ofNat 32 (pk (pk (pk (pk (pk 0x03 d) a) b) f) 0x11#6) from rfl]
  simp (disch := decide) only [decode, decFloat, fld_ofNat, shiftRight_pk, shiftRight_zero, pk_low, Nat.reduceSub, BitVec.reduceToNat]

theorem fle (d : BitVec 6) (a : BitVec 6) (b : BitVec 6) (f : BitVec 2) : Statement (.fle d a b f) := by
  refine scalar rfl ?_
  rw [show encode (.fle d a b f) = .ofNat 32 (pk (pk (pk (pk (pk 0x03 d) a) b) f) 0x12#6) from rfl]
  simp (disch := decide) only [decode, decFloat, fld_ofNat, shiftRight_pk, shiftRight_zero, pk_low, Nat.reduceSub, BitVec.reduceToNat]

theorem fclass (d : BitVec 6) (a : BitVec 6) (f : BitVec 2) : Statement (.fclass d a f) := by
  refine scalar rfl ?_
  rw [show encode (.fclass d a f) = .ofNat 32 (pk (pk (pk (pk (pk 0x03 d) a) 0x0#6) f) 0x18#6) from rfl]
  simp (disch := decide) only [decode, decFloat, fld_ofNat, shiftRight_pk, shiftRight_zero, pk_low, Nat.reduceSub, BitVec.reduceToNat, if_true]

theorem fmv (d : BitVec 6) (a : BitVec 6) (f : BitVec 2) : Statement (.fmv d a f) := by
  refine scalar rfl ?_
  rw [show encode (.fmv d a f) = .ofNat 32 (pk (pk (pk (pk (pk 0x03 d) a) 0x0#6) f) 0x19#6) from rfl]
  simp (disch := decide) only [decode, decFloat, fld_ofNat, shiftRight_pk, shiftRight_zero, pk_low, Nat.reduceSub, BitVec.reduceToNat, if_true]

theorem cvt (d : BitVec 6) (a : BitVec 6) (r : BitVec 3) (w : BitVec 2) (t : BitVec 4) (s : BitVec 4) : Statement (.cvt d a r w t s) := by
  refine scalar rfl ?_
  rw [show encode (.cvt d a r w t s) = .ofNat 32 (pk (pk (pk (pk (pk (pk (pk 0x04 d) a) 0x0#1) r) w) t) s) from rfl]
  simp (disch := decide) only [decode, decConv, fld_ofNat, shiftRight_pk, shiftRight_zero, pk_low, Nat.reduceSub, BitVec.reduceToNat]

theorem cvtb (d : BitVec 6) (a : BitVec 6) (r : BitVec 3) (w : BitVec 2) (t : BitVec 4) (s : BitVec 4) : Statement (.cvtb d a r w t s) := by
  refine scalar rfl ?_
  rw [show encode (.cvtb d a r w t s) = .ofNat 32 (pk (pk (pk (pk (pk (pk (pk 0x04 d) a) 0x1#1) r) w) t) s) from rfl]
  simp (disch := decide) only [decode, decConv, fld_ofNat, shiftRight_pk, shiftRight_zero, pk_low, Nat.reduceSub, BitVec.reduceToNat]

theorem csrr (d : BitVec 6) (n : BitVec 12) : Statement (.csrr d n) := by
  refine scalar rfl ?_
  rw [show encode (.csrr d n) = .ofNat 32 (pk (pk (pk (pk 0x05 d) 0x0#6) 0x0#2) n) from rfl]
  simp (disch := decide) only [decode, decCsr, fld_ofNat, shiftRight_pk, shiftRight_zero, pk_low, Nat.reduceSub, BitVec.reduceToNat, if_true]

theorem csrw (a : BitVec 6) (n : BitVec 12) : Statement (.csrw a n) := by
  refine scalar rfl ?_
  rw [show encode (.csrw a n) = .ofNat 32 (pk (pk (pk (pk 0x05 0x0#6) a) 0x1#2) n) from rfl]
  simp (disch := decide) only [decode, decCsr, fld_ofNat, shiftRight_pk, shiftRight_zero, pk_low, Nat.reduceSub, BitVec.reduceToNat, if_true]

theorem csrs (a : BitVec 6) (n : BitVec 12) : Statement (.csrs a n) := by
  refine scalar rfl ?_
  rw [show encode (.csrs a n) = .ofNat 32 (pk (pk (pk (pk 0x05 0x0#6) a) 0x2#2) n) from rfl]
  simp (disch := decide) only [decode, decCsr, fld_ofNat, shiftRight_pk, shiftRight_zero, pk_low, Nat.reduceSub, BitVec.reduceToNat, if_true]

theorem csrc (a : BitVec 6) (n : BitVec 12) : Statement (.csrc a n) := by
  refine scalar rfl ?_
  rw [show encode (.csrc a n) = .ofNat 32 (pk (pk (pk (pk 0x05 0x0#6) a) 0x3#2) n) from rfl]
  simp (disch := decide) only [decode, decCsr, fld_ofNat, shiftRight_pk, shiftRight_zero, pk_low, Nat.reduceSub, BitVec.reduceToNat, if_true]

theorem addi (d : BitVec 6) (a : BitVec 6) (i : BitVec 14) : Statement (.addi d a i) := by
  refine scalar rfl ?_
  rw [show encode (.addi d a i) = .ofNat 32 (pk (pk (pk 0x08 d) a) i) from rfl]
  simp (disch := decide) only [decode, fld_ofNat, shiftRight_pk, shiftRight_zero, pk_low, Nat.reduceSub, BitVec.reduceToNat]

theorem andi (d : BitVec 6) (a : BitVec 6) (i : BitVec 14) : Statement (.andi d a i) := by
  refine scalar rfl ?_
  rw [show encode (.andi d a i) = .ofNat 32 (pk (pk (pk 0x09 d) a) i) from rfl]
  simp (disch := decide) only [decode, fld_ofNat, shiftRight_pk, shiftRight_zero, pk_low, Nat.reduceSub, BitVec.reduceToNat]

theorem ori (d : BitVec 6) (a : BitVec 6) (i : BitVec 14) : Statement (.ori d a i) := by
  refine scalar rfl ?_
  rw [show encode (.ori d a i) = .ofNat 32 (pk (pk (pk 0x0A d) a) i) from rfl]
  simp (disch := decide) only [decode, fld_ofNat, shiftRight_pk, shiftRight_zero, pk_low, Nat.reduceSub, BitVec.reduceToNat]

theorem xori (d : BitVec 6) (a : BitVec 6) (i : BitVec 14) : Statement (.xori d a i) := by
  refine scalar rfl ?_
  rw [show encode (.xori d a i) = .ofNat 32 (pk (pk (pk 0x0B d) a) i) from rfl]
  simp (disch := decide) only [decode, fld_ofNat, shiftRight_pk, shiftRight_zero, pk_low, Nat.reduceSub, BitVec.reduceToNat]

theorem slti (d : BitVec 6) (a : BitVec 6) (i : BitVec 14) : Statement (.slti d a i) := by
  refine scalar rfl ?_
  rw [show encode (.slti d a i) = .ofNat 32 (pk (pk (pk 0x0C d) a) i) from rfl]
  simp (disch := decide) only [decode, fld_ofNat, shiftRight_pk, shiftRight_zero, pk_low, Nat.reduceSub, BitVec.reduceToNat]

theorem sltni (d : BitVec 6) (a : BitVec 6) (i : BitVec 14) : Statement (.sltni d a i) := by
  refine scalar rfl ?_
  rw [show encode (.sltni d a i) = .ofNat 32 (pk (pk (pk 0x0D d) a) i) from rfl]
  simp (disch := decide) only [decode, fld_ofNat, shiftRight_pk, shiftRight_zero, pk_low, Nat.reduceSub, BitVec.reduceToNat]

theorem shli (d : BitVec 6) (a : BitVec 6) (n : BitVec 6) : Statement (.shli d a n) := by
  refine scalar rfl ?_
  rw [show encode (.shli d a n) = .ofNat 32 (pk (pk (pk (pk (pk 0x0E d) a) 0x0#2) 0x0#6) n) from rfl]
  simp (disch := decide) only [decode, decShift, fld_ofNat, shiftRight_pk, shiftRight_zero, pk_low, Nat.reduceSub, BitVec.reduceToNat, if_true]

theorem shri (d : BitVec 6) (a : BitVec 6) (n : BitVec 6) : Statement (.shri d a n) := by
  refine scalar rfl ?_
  rw [show encode (.shri d a n) = .ofNat 32 (pk (pk (pk (pk (pk 0x0E d) a) 0x1#2) 0x0#6) n) from rfl]
  simp (disch := decide) only [decode, decShift, fld_ofNat, shiftRight_pk, shiftRight_zero, pk_low, Nat.reduceSub, BitVec.reduceToNat, if_true]

theorem shai (d : BitVec 6) (a : BitVec 6) (n : BitVec 6) : Statement (.shai d a n) := by
  refine scalar rfl ?_
  rw [show encode (.shai d a n) = .ofNat 32 (pk (pk (pk (pk (pk 0x0E d) a) 0x2#2) 0x0#6) n) from rfl]
  simp (disch := decide) only [decode, decShift, fld_ofNat, shiftRight_pk, shiftRight_zero, pk_low, Nat.reduceSub, BitVec.reduceToNat, if_true]

theorem muli (d : BitVec 6) (a : BitVec 6) (i : BitVec 14) : Statement (.muli d a i) := by
  refine scalar rfl ?_
  rw [show encode (.muli d a i) = .ofNat 32 (pk (pk (pk 0x0F d) a) i) from rfl]
  simp (disch := decide) only [decode, fld_ofNat, shiftRight_pk, shiftRight_zero, pk_low, Nat.reduceSub, BitVec.reduceToNat]

theorem lui (d : BitVec 6) (i : BitVec 20) : Statement (.lui d i) := by
  refine scalar rfl ?_
  rw [show encode (.lui d i) = .ofNat 32 (pk (pk 0x10 d) i) from rfl]
  simp (disch := decide) only [decode, fld_ofNat, shiftRight_pk, shiftRight_zero, pk_low, Nat.reduceSub, BitVec.reduceToNat]

theorem addpc (d : BitVec 6) (i : BitVec 20) : Statement (.addpc d i) := by
  refine scalar rfl ?_
  rw [show encode (.addpc d i) = .ofNat 32 (pk (pk 0x11 d) i) from rfl]
  simp (disch := decide) only [decode, fld_ofNat, shiftRight_pk, shiftRight_zero, pk_low, Nat.reduceSub, BitVec.reduceToNat]

theorem ld (d : BitVec 6) (b : BitVec 6) (c : BitVec 2) (z : BitVec 2) (o : BitVec 9) : Statement (.ld d b c z o) := by
  refine scalar rfl ?_
  rw [show encode (.ld d b c z o) = .ofNat 32 (pk (pk (pk (pk (pk (pk 0x14 d) b) c) 0x0#1) z) o) from rfl]
  simp (disch := decide) only [decode, decLd, fld_ofNat, shiftRight_pk, shiftRight_zero, pk_low, Nat.reduceSub, BitVec.reduceToNat]

theorem ldp (d : BitVec 6) (b : BitVec 6) (c : BitVec 2) (o : BitVec 9) : Statement (.ldp d b c o) := by
  refine scalar rfl ?_
  rw [show encode (.ldp d b c o) = .ofNat 32 (pk (pk (pk (pk (pk (pk 0x14 d) b) c) 0x1#1) 0x0#2) o) from rfl]
  simp (disch := decide) only [decode, decLd, fld_ofNat, shiftRight_pk, shiftRight_zero, pk_low, Nat.reduceSub, BitVec.reduceToNat, if_true]

theorem ldn (d : BitVec 6) (b : BitVec 6) (c : BitVec 2) (z : BitVec 2) (o : BitVec 9) : Statement (.ldn d b c z o) := by
  refine scalar rfl ?_
  rw [show encode (.ldn d b c z o) = .ofNat 32 (pk (pk (pk (pk (pk (pk 0x15 d) b) c) 0x0#1) z) o) from rfl]
  simp (disch := decide) only [decode, decLdn, fld_ofNat, shiftRight_pk, shiftRight_zero, pk_low, Nat.reduceSub, BitVec.reduceToNat]

theorem st (s : BitVec 6) (b : BitVec 6) (c : BitVec 2) (z : BitVec 2) (o : BitVec 9) : Statement (.st s b c z o) := by
  refine scalar rfl ?_
  rw [show encode (.st s b c z o) = .ofNat 32 (pk (pk (pk (pk (pk (pk 0x16 s) b) c) 0x0#1) z) o) from rfl]
  simp (disch := decide) only [decode, decSt, fld_ofNat, shiftRight_pk, shiftRight_zero, pk_low, Nat.reduceSub, BitVec.reduceToNat]

theorem stp (s : BitVec 6) (b : BitVec 6) (c : BitVec 2) (o : BitVec 9) : Statement (.stp s b c o) := by
  refine scalar rfl ?_
  rw [show encode (.stp s b c o) = .ofNat 32 (pk (pk (pk (pk (pk (pk 0x16 s) b) c) 0x1#1) 0x0#2) o) from rfl]
  simp (disch := decide) only [decode, decSt, fld_ofNat, shiftRight_pk, shiftRight_zero, pk_low, Nat.reduceSub, BitVec.reduceToNat, if_true]

theorem ldbit (d : BitVec 6) (k : BitVec 6) (c : BitVec 2) (x : BitVec 1) (w : BitVec 6) (v : BitVec 2) : Statement (.ldbit d k c x w v) := by
  refine scalar rfl ?_
  rw [show encode (.ldbit d k c x w v) = .ofNat 32 (pk (pk (pk (pk (pk (pk (pk (pk 0x17 d) k) c) 0x0#2) x) w) v) 0x0#1) from rfl]
  simp (disch := decide) only [decode, decLdbit, fld_ofNat, shiftRight_pk, shiftRight_zero, pk_low, Nat.reduceSub, BitVec.reduceToNat, if_true]

theorem stbit (s : BitVec 6) (k : BitVec 6) (c : BitVec 2) (w : BitVec 6) (v : BitVec 2) : Statement (.stbit s k c w v) := by
  refine scalar rfl ?_
  rw [show encode (.stbit s k c w v) = .ofNat 32 (pk (pk (pk (pk (pk (pk (pk 0x18 s) k) c) 0x0#3) w) v) 0x0#1) from rfl]
  simp (disch := decide) only [decode, decStbit, fld_ofNat, shiftRight_pk, shiftRight_zero, pk_low, Nat.reduceSub, BitVec.reduceToNat, if_true]

theorem ldAcq (d : BitVec 6) (b : BitVec 6) (c : BitVec 2) (z : BitVec 2) (p : BitVec 3) (o : BitVec 6) : Statement (.ldAcq d b c z p o) := by
  refine scalar rfl ?_
  rw [show encode (.ldAcq d b c z p o) = .ofNat 32 (pk (pk (pk (pk (pk (pk (pk 0x19 d) b) c) 0x0#1) z) p) o) from rfl]
  simp (disch := decide) only [decode, decLdAcq, fld_ofNat, shiftRight_pk, shiftRight_zero, pk_low, Nat.reduceSub, BitVec.reduceToNat]

theorem stRel (s : BitVec 6) (b : BitVec 6) (c : BitVec 2) (z : BitVec 2) (p : BitVec 3) (o : BitVec 6) : Statement (.stRel s b c z p o) := by
  refine scalar rfl ?_
  rw [show encode (.stRel s b c z p o) = .ofNat 32 (pk (pk (pk (pk (pk (pk (pk 0x1A s) b) c) 0x0#1) z) p) o) from rfl]
  simp (disch := decide) only [decode, decStRel, fld_ofNat, shiftRight_pk, shiftRight_zero, pk_low, Nat.reduceSub, BitVec.reduceToNat]

theorem amoAdd (d : BitVec 6) (a : BitVec 6) (b : BitVec 6) (w : BitVec 1) (o : BitVec 2) (s : BitVec 1) : Statement (.amoAdd d a b w o s) := by
  refine scalar rfl ?_
  rw [show encode (.amoAdd d a b w o s) = .ofNat 32 (pk (pk (pk (pk (pk (pk (pk 0x1B d) a) b) 0x0#4) w) o) s) from rfl]
  simp (disch := decide) only [decode, decAmo, fld_ofNat, shiftRight_pk, shiftRight_zero, pk_low, Nat.reduceSub, BitVec.reduceToNat]

theorem amoAnd (d : BitVec 6) (a : BitVec 6) (b : BitVec 6) (w : BitVec 1) (o : BitVec 2) (s : BitVec 1) : Statement (.amoAnd d a b w o s) := by
  refine scalar rfl ?_
  rw [show encode (.amoAnd d a b w o s) = .ofNat 32 (pk (pk (pk (pk (pk (pk (pk 0x1B d) a) b) 0x1#4) w) o) s) from rfl]
  simp (disch := decide) only [decode, decAmo, fld_ofNat, shiftRight_pk, shiftRight_zero, pk_low, Nat.reduceSub, BitVec.reduceToNat]

theorem amoOr (d : BitVec 6) (a : BitVec 6) (b : BitVec 6) (w : BitVec 1) (o : BitVec 2) (s : BitVec 1) : Statement (.amoOr d a b w o s) := by
  refine scalar rfl ?_
  rw [show encode (.amoOr d a b w o s) = .ofNat 32 (pk (pk (pk (pk (pk (pk (pk 0x1B d) a) b) 0x2#4) w) o) s) from rfl]
  simp (disch := decide) only [decode, decAmo, fld_ofNat, shiftRight_pk, shiftRight_zero, pk_low, Nat.reduceSub, BitVec.reduceToNat]

theorem amoXor (d : BitVec 6) (a : BitVec 6) (b : BitVec 6) (w : BitVec 1) (o : BitVec 2) (s : BitVec 1) : Statement (.amoXor d a b w o s) := by
  refine scalar rfl ?_
  rw [show encode (.amoXor d a b w o s) = .ofNat 32 (pk (pk (pk (pk (pk (pk (pk 0x1B d) a) b) 0x3#4) w) o) s) from rfl]
  simp (disch := decide) only [decode, decAmo, fld_ofNat, shiftRight_pk, shiftRight_zero, pk_low, Nat.reduceSub, BitVec.reduceToNat]

theorem amoMin (d : BitVec 6) (a : BitVec 6) (b : BitVec 6) (w : BitVec 1) (o : BitVec 2) (s : BitVec 1) : Statement (.amoMin d a b w o s) := by
  refine scalar rfl ?_
  rw [show encode (.amoMin d a b w o s) = .ofNat 32 (pk (pk (pk (pk (pk (pk (pk 0x1B d) a) b) 0x4#4) w) o) s) from rfl]
  simp (disch := decide) only [decode, decAmo, fld_ofNat, shiftRight_pk, shiftRight_zero, pk_low, Nat.reduceSub, BitVec.reduceToNat]

theorem amoMax (d : BitVec 6) (a : BitVec 6) (b : BitVec 6) (w : BitVec 1) (o : BitVec 2) (s : BitVec 1) : Statement (.amoMax d a b w o s) := by
  refine scalar rfl ?_
  rw [show encode (.amoMax d a b w o s) = .ofNat 32 (pk (pk (pk (pk (pk (pk (pk 0x1B d) a) b) 0x5#4) w) o) s) from rfl]
  simp (disch := decide) only [decode, decAmo, fld_ofNat, shiftRight_pk, shiftRight_zero, pk_low, Nat.reduceSub, BitVec.reduceToNat]

theorem amoMinn (d : BitVec 6) (a : BitVec 6) (b : BitVec 6) (w : BitVec 1) (o : BitVec 2) (s : BitVec 1) : Statement (.amoMinn d a b w o s) := by
  refine scalar rfl ?_
  rw [show encode (.amoMinn d a b w o s) = .ofNat 32 (pk (pk (pk (pk (pk (pk (pk 0x1B d) a) b) 0x6#4) w) o) s) from rfl]
  simp (disch := decide) only [decode, decAmo, fld_ofNat, shiftRight_pk, shiftRight_zero, pk_low, Nat.reduceSub, BitVec.reduceToNat]

theorem amoMaxn (d : BitVec 6) (a : BitVec 6) (b : BitVec 6) (w : BitVec 1) (o : BitVec 2) (s : BitVec 1) : Statement (.amoMaxn d a b w o s) := by
  refine scalar rfl ?_
  rw [show encode (.amoMaxn d a b w o s) = .ofNat 32 (pk (pk (pk (pk (pk (pk (pk 0x1B d) a) b) 0x7#4) w) o) s) from rfl]
  simp (disch := decide) only [decode, decAmo, fld_ofNat, shiftRight_pk, shiftRight_zero, pk_low, Nat.reduceSub, BitVec.reduceToNat]

theorem amoSwap (d : BitVec 6) (a : BitVec 6) (b : BitVec 6) (w : BitVec 1) (o : BitVec 2) (s : BitVec 1) : Statement (.amoSwap d a b w o s) := by
  refine scalar rfl ?_
  rw [show encode (.amoSwap d a b w o s) = .ofNat 32 (pk (pk (pk (pk (pk (pk (pk 0x1B d) a) b) 0x8#4) w) o) s) from rfl]
  simp (disch := decide) only [decode, decAmo, fld_ofNat, shiftRight_pk, shiftRight_zero, pk_low, Nat.reduceSub, BitVec.reduceToNat]

theorem amoCas (d : BitVec 6) (a : BitVec 6) (b : BitVec 6) (w : BitVec 1) (o : BitVec 2) (s : BitVec 1) : Statement (.amoCas d a b w o s) := by
  refine scalar rfl ?_
  rw [show encode (.amoCas d a b w o s) = .ofNat 32 (pk (pk (pk (pk (pk (pk (pk 0x1B d) a) b) 0x9#4) w) o) s) from rfl]
  simp (disch := decide) only [decode, decAmo, fld_ofNat, shiftRight_pk, shiftRight_zero, pk_low, Nat.reduceSub, BitVec.reduceToNat]

theorem pref (h : BitVec 6) (b : BitVec 6) (c : BitVec 2) (o : BitVec 9) : Statement (.pref h b c o) := by
  refine scalar rfl ?_
  rw [show encode (.pref h b c o) = .ofNat 32 (pk (pk (pk (pk (pk 0x1C h) b) c) 0x0#3) o) from rfl]
  simp (disch := decide) only [decode, decPref, fld_ofNat, shiftRight_pk, shiftRight_zero, pk_low, Nat.reduceSub, BitVec.reduceToNat]

theorem fence (s : BitVec 3) : Statement (.fence s) := by
  refine scalar rfl ?_
  rw [show encode (.fence s) = .ofNat 32 (pk (pk (pk (pk 0x1D 0x0#18) s) 0x0#2) 0x0#3) from rfl]
  simp (disch := decide) only [decode, decOrder, fld_ofNat, shiftRight_pk, shiftRight_zero, pk_low, Nat.reduceSub, BitVec.reduceToNat, if_true, and_self]

theorem publ (d : BitVec 6) (a : BitVec 6) (s : BitVec 3) : Statement (.publ d a s) := by
  refine scalar rfl ?_
  rw [show encode (.publ d a s) = .ofNat 32 (pk (pk (pk (pk (pk (pk 0x1D d) a) 0x0#6) s) 0x0#2) 0x1#3) from rfl]
  simp (disch := decide) only [decode, decOrder, fld_ofNat, shiftRight_pk, shiftRight_zero, pk_low, Nat.reduceSub, BitVec.reduceToNat, if_true, and_self]

theorem brEq (a : BitVec 6) (b : BitVec 6) (d : BitVec 10) : Statement (.brEq a b d) := by
  refine scalar rfl ?_
  rw [show encode (.brEq a b d) = .ofNat 32 (pk (pk (pk (pk 0x20 0x0#4) a) b) d) from rfl]
  simp (disch := decide) only [decode, decBr, fld_ofNat, shiftRight_pk, shiftRight_zero, pk_low, Nat.reduceSub, BitVec.reduceToNat]

theorem brNe (a : BitVec 6) (b : BitVec 6) (d : BitVec 10) : Statement (.brNe a b d) := by
  refine scalar rfl ?_
  rw [show encode (.brNe a b d) = .ofNat 32 (pk (pk (pk (pk 0x20 0x1#4) a) b) d) from rfl]
  simp (disch := decide) only [decode, decBr, fld_ofNat, shiftRight_pk, shiftRight_zero, pk_low, Nat.reduceSub, BitVec.reduceToNat]

theorem brLt (a : BitVec 6) (b : BitVec 6) (d : BitVec 10) : Statement (.brLt a b d) := by
  refine scalar rfl ?_
  rw [show encode (.brLt a b d) = .ofNat 32 (pk (pk (pk (pk 0x20 0x2#4) a) b) d) from rfl]
  simp (disch := decide) only [decode, decBr, fld_ofNat, shiftRight_pk, shiftRight_zero, pk_low, Nat.reduceSub, BitVec.reduceToNat]

theorem brGe (a : BitVec 6) (b : BitVec 6) (d : BitVec 10) : Statement (.brGe a b d) := by
  refine scalar rfl ?_
  rw [show encode (.brGe a b d) = .ofNat 32 (pk (pk (pk (pk 0x20 0x3#4) a) b) d) from rfl]
  simp (disch := decide) only [decode, decBr, fld_ofNat, shiftRight_pk, shiftRight_zero, pk_low, Nat.reduceSub, BitVec.reduceToNat]

theorem brLtn (a : BitVec 6) (b : BitVec 6) (d : BitVec 10) : Statement (.brLtn a b d) := by
  refine scalar rfl ?_
  rw [show encode (.brLtn a b d) = .ofNat 32 (pk (pk (pk (pk 0x20 0x4#4) a) b) d) from rfl]
  simp (disch := decide) only [decode, decBr, fld_ofNat, shiftRight_pk, shiftRight_zero, pk_low, Nat.reduceSub, BitVec.reduceToNat]

theorem brGen (a : BitVec 6) (b : BitVec 6) (d : BitVec 10) : Statement (.brGen a b d) := by
  refine scalar rfl ?_
  rw [show encode (.brGen a b d) = .ofNat 32 (pk (pk (pk (pk 0x20 0x5#4) a) b) d) from rfl]
  simp (disch := decide) only [decode, decBr, fld_ofNat, shiftRight_pk, shiftRight_zero, pk_low, Nat.reduceSub, BitVec.reduceToNat]

theorem jmp (d : BitVec 26) : Statement (.jmp d) := by
  refine scalar rfl ?_
  rw [show encode (.jmp d) = .ofNat 32 (pk 0x21 d) from rfl]
  simp (disch := decide) only [decode, fld_ofNat, shiftRight_pk, shiftRight_zero, pk_low, Nat.reduceSub, BitVec.reduceToNat]

theorem call (d : BitVec 26) : Statement (.call d) := by
  refine scalar rfl ?_
  rw [show encode (.call d) = .ofNat 32 (pk 0x22 d) from rfl]
  simp (disch := decide) only [decode, fld_ofNat, shiftRight_pk, shiftRight_zero, pk_low, Nat.reduceSub, BitVec.reduceToNat]

theorem jr (a : BitVec 6) : Statement (.jr a) := by
  refine scalar rfl ?_
  rw [show encode (.jr a) = .ofNat 32 (pk (pk (pk (pk 0x23 0x0#6) a) 0x0#6) 0x0#8) from rfl]
  simp (disch := decide) only [decode, decIndirect, fld_ofNat, shiftRight_pk, shiftRight_zero, pk_low, Nat.reduceSub, BitVec.reduceToNat, if_true, and_self]

theorem callr (d : BitVec 6) (a : BitVec 6) : Statement (.callr d a) := by
  refine scalar rfl ?_
  rw [show encode (.callr d a) = .ofNat 32 (pk (pk (pk (pk 0x23 d) a) 0x0#6) 0x1#8) from rfl]
  simp (disch := decide) only [decode, decIndirect, fld_ofNat, shiftRight_pk, shiftRight_zero, pk_low, Nat.reduceSub, BitVec.reduceToNat, if_true]

theorem ret (a : BitVec 6) : Statement (.ret a) := by
  refine scalar rfl ?_
  rw [show encode (.ret a) = .ofNat 32 (pk (pk (pk (pk 0x23 0x0#6) a) 0x0#6) 0x2#8) from rfl]
  simp (disch := decide) only [decode, decIndirect, fld_ofNat, shiftRight_pk, shiftRight_zero, pk_low, Nat.reduceSub, BitVec.reduceToNat, if_true, and_self]

theorem callx (d : BitVec 6) (a : BitVec 6) (b : BitVec 6) : Statement (.callx d a b) := by
  refine scalar rfl ?_
  rw [show encode (.callx d a b) = .ofNat 32 (pk (pk (pk (pk 0x23 d) a) b) 0x3#8) from rfl]
  simp (disch := decide) only [decode, decIndirect, fld_ofNat, shiftRight_pk, shiftRight_zero, pk_low, Nat.reduceSub, BitVec.reduceToNat]

theorem reply (a : BitVec 6) : Statement (.reply a) := by
  refine scalar rfl ?_
  rw [show encode (.reply a) = .ofNat 32 (pk (pk (pk (pk 0x23 0x0#6) a) 0x0#6) 0x4#8) from rfl]
  simp (disch := decide) only [decode, decIndirect, fld_ofNat, shiftRight_pk, shiftRight_zero, pk_low, Nat.reduceSub, BitVec.reduceToNat, if_true, and_self]

theorem loopi (c : BitVec 12) (l : BitVec 13) : Statement (.loopi c l) := by
  refine scalar rfl ?_
  rw [show encode (.loopi c l) = .ofNat 32 (pk (pk (pk 0x24 0x1#1) c) l) from rfl]
  simp (disch := decide) only [decode, decLoop, fld_ofNat, shiftRight_pk, shiftRight_zero, pk_low, Nat.reduceSub, BitVec.reduceToNat]

theorem loop (a : BitVec 6) (l : BitVec 13) : Statement (.loop a l) := by
  refine scalar rfl ?_
  rw [show encode (.loop a l) = .ofNat 32 (pk (pk (pk (pk 0x24 0x0#1) a) 0x0#6) l) from rfl]
  simp (disch := decide) only [decode, decLoop, fld_ofNat, shiftRight_pk, shiftRight_zero, pk_low, Nat.reduceSub, BitVec.reduceToNat, if_true]

theorem spawn (d : BitVec 6) (a : BitVec 6) (b : BitVec 6) : Statement (.spawn d a b) := by
  refine scalar rfl ?_
  rw [show encode (.spawn d a b) = .ofNat 32 (pk (pk (pk (pk 0x28 d) a) b) 0x0#8) from rfl]
  simp (disch := decide) only [decode, decThread, fld_ofNat, shiftRight_pk, shiftRight_zero, pk_low, Nat.reduceSub, BitVec.reduceToNat]

theorem exit (a : BitVec 6) : Statement (.exit a) := by
  refine scalar rfl ?_
  rw [show encode (.exit a) = .ofNat 32 (pk (pk (pk (pk 0x28 0x0#6) a) 0x0#6) 0x1#8) from rfl]
  simp (disch := decide) only [decode, decThread, fld_ofNat, shiftRight_pk, shiftRight_zero, pk_low, Nat.reduceSub, BitVec.reduceToNat, if_true, and_self]

theorem yield : Statement .yield := by
  refine scalar rfl ?_
  rw [show encode .yield = .ofNat 32 (pk (pk 0x28 0x0#18) 0x2#8) from rfl]
  simp (disch := decide) only [decode, decThread, fld_ofNat, shiftRight_pk, shiftRight_zero, pk_low, Nat.reduceSub, BitVec.reduceToNat, if_true]

theorem sleep (a : BitVec 6) : Statement (.sleep a) := by
  refine scalar rfl ?_
  rw [show encode (.sleep a) = .ofNat 32 (pk (pk (pk (pk 0x28 0x0#6) a) 0x0#6) 0x3#8) from rfl]
  simp (disch := decide) only [decode, decThread, fld_ofNat, shiftRight_pk, shiftRight_zero, pk_low, Nat.reduceSub, BitVec.reduceToNat, if_true, and_self]

theorem wake (a : BitVec 6) : Statement (.wake a) := by
  refine scalar rfl ?_
  rw [show encode (.wake a) = .ofNat 32 (pk (pk (pk (pk 0x28 0x0#6) a) 0x0#6) 0x4#8) from rfl]
  simp (disch := decide) only [decode, decThread, fld_ofNat, shiftRight_pk, shiftRight_zero, pk_low, Nat.reduceSub, BitVec.reduceToNat, if_true, and_self]

theorem semp (n : BitVec 4) : Statement (.semp n) := by
  refine scalar rfl ?_
  rw [show encode (.semp n) = .ofNat 32 (pk (pk (pk 0x28 0x0#14) n) 0x8#8) from rfl]
  simp (disch := decide) only [decode, decThread, fld_ofNat, shiftRight_pk, shiftRight_zero, pk_low, Nat.reduceSub, BitVec.reduceToNat, if_true]

theorem semv (n : BitVec 4) : Statement (.semv n) := by
  refine scalar rfl ?_
  rw [show encode (.semv n) = .ofNat 32 (pk (pk (pk 0x28 0x0#14) n) 0x9#8) from rfl]
  simp (disch := decide) only [decode, decThread, fld_ofNat, shiftRight_pk, shiftRight_zero, pk_low, Nat.reduceSub, BitVec.reduceToNat, if_true]

theorem barr (a : BitVec 6) : Statement (.barr a) := by
  refine scalar rfl ?_
  rw [show encode (.barr a) = .ofNat 32 (pk (pk (pk (pk 0x28 0x0#6) a) 0x0#6) 0xC#8) from rfl]
  simp (disch := decide) only [decode, decThread, fld_ofNat, shiftRight_pk, shiftRight_zero, pk_low, Nat.reduceSub, BitVec.reduceToNat, if_true, and_self]

theorem bcast (d : BitVec 6) (a : BitVec 6) : Statement (.bcast d a) := by
  refine scalar rfl ?_
  rw [show encode (.bcast d a) = .ofNat 32 (pk (pk (pk (pk 0x28 d) a) 0x0#6) 0xD#8) from rfl]
  simp (disch := decide) only [decode, decThread, fld_ofNat, shiftRight_pk, shiftRight_zero, pk_low, Nat.reduceSub, BitVec.reduceToNat, if_true]

theorem migr (a : BitVec 6) : Statement (.migr a) := by
  refine scalar rfl ?_
  rw [show encode (.migr a) = .ofNat 32 (pk (pk (pk (pk 0x28 0x0#6) a) 0x0#6) 0x10#8) from rfl]
  simp (disch := decide) only [decode, decThread, fld_ofNat, shiftRight_pk, shiftRight_zero, pk_low, Nat.reduceSub, BitVec.reduceToNat, if_true, and_self]

theorem pin (e : BitVec 3) : Statement (.pin e) := by
  refine scalar rfl ?_
  rw [show encode (.pin e) = .ofNat 32 (pk (pk (pk 0x28 0x0#15) e) 0x14#8) from rfl]
  simp (disch := decide) only [decode, decThread, fld_ofNat, shiftRight_pk, shiftRight_zero, pk_low, Nat.reduceSub, BitVec.reduceToNat, if_true]

theorem unpin (e : BitVec 3) : Statement (.unpin e) := by
  refine scalar rfl ?_
  rw [show encode (.unpin e) = .ofNat 32 (pk (pk (pk 0x28 0x0#15) e) 0x15#8) from rfl]
  simp (disch := decide) only [decode, decThread, fld_ofNat, shiftRight_pk, shiftRight_zero, pk_low, Nat.reduceSub, BitVec.reduceToNat, if_true]

theorem waitl (a : BitVec 6) : Statement (.waitl a) := by
  refine scalar rfl ?_
  rw [show encode (.waitl a) = .ofNat 32 (pk (pk (pk (pk 0x28 0x0#6) a) 0x0#6) 0x18#8) from rfl]
  simp (disch := decide) only [decode, decThread, fld_ofNat, shiftRight_pk, shiftRight_zero, pk_low, Nat.reduceSub, BitVec.reduceToNat, if_true, and_self]

theorem trap (n : BitVec 6) : Statement (.trap n) := by
  refine scalar rfl ?_
  rw [show encode (.trap n) = .ofNat 32 (pk (pk (pk 0x29 0x0#12) n) 0x0#8) from rfl]
  simp (disch := decide) only [decode, decSystem, fld_ofNat, shiftRight_pk, shiftRight_zero, pk_low, Nat.reduceSub, BitVec.reduceToNat, if_true]

theorem eret : Statement .eret := by
  refine scalar rfl ?_
  rw [show encode .eret = .ofNat 32 (pk (pk 0x29 0x0#18) 0x1#8) from rfl]
  simp (disch := decide) only [decode, decSystem, fld_ofNat, shiftRight_pk, shiftRight_zero, pk_low, Nat.reduceSub, BitVec.reduceToNat, if_true]

theorem cqpush (d : BitVec 6) (a : BitVec 6) : Statement (.cqpush d a) := by
  refine scalar rfl ?_
  rw [show encode (.cqpush d a) = .ofNat 32 (pk (pk (pk (pk 0x2C 0x0#8) d) a) 0x0#6) from rfl]
  simp (disch := decide) only [decode, decEngine, fld_ofNat, shiftRight_pk, shiftRight_zero, pk_low, Nat.reduceSub, BitVec.reduceToNat, if_true]

theorem nblBox (d : BitVec 6) (a : BitVec 6) : Statement (.nblBox d a) := by
  refine scalar rfl ?_
  rw [show encode (.nblBox d a) = .ofNat 32 (pk (pk (pk (pk 0x2C 0x10#8) d) a) 0x0#6) from rfl]
  simp (disch := decide) only [decode, decEngine, fld_ofNat, shiftRight_pk, shiftRight_zero, pk_low, Nat.reduceSub, BitVec.reduceToNat, if_true]

theorem nblBin (d : BitVec 6) (a : BitVec 6) : Statement (.nblBin d a) := by
  refine scalar rfl ?_
  rw [show encode (.nblBin d a) = .ofNat 32 (pk (pk (pk (pk 0x2C 0x11#8) d) a) 0x0#6) from rfl]
  simp (disch := decide) only [decode, decEngine, fld_ofNat, shiftRight_pk, shiftRight_zero, pk_low, Nat.reduceSub, BitVec.reduceToNat, if_true]

theorem nblPairs (d : BitVec 6) (a : BitVec 6) : Statement (.nblPairs d a) := by
  refine scalar rfl ?_
  rw [show encode (.nblPairs d a) = .ofNat 32 (pk (pk (pk (pk 0x2C 0x12#8) d) a) 0x0#6) from rfl]
  simp (disch := decide) only [decode, decEngine, fld_ofNat, shiftRight_pk, shiftRight_zero, pk_low, Nat.reduceSub, BitVec.reduceToNat, if_true]

theorem nblStat (d : BitVec 6) : Statement (.nblStat d) := by
  refine scalar rfl ?_
  rw [show encode (.nblStat d) = .ofNat 32 (pk (pk (pk 0x2C 0x13#8) d) 0x0#12) from rfl]
  simp (disch := decide) only [decode, decEngine, fld_ofNat, shiftRight_pk, shiftRight_zero, pk_low, Nat.reduceSub, BitVec.reduceToNat, if_true]

theorem pgsSum (d : BitVec 6) (a : BitVec 6) : Statement (.pgsSum d a) := by
  refine scalar rfl ?_
  rw [show encode (.pgsSum d a) = .ofNat 32 (pk (pk (pk (pk 0x2C 0x20#8) d) a) 0x0#6) from rfl]
  simp (disch := decide) only [decode, decEngine, fld_ofNat, shiftRight_pk, shiftRight_zero, pk_low, Nat.reduceSub, BitVec.reduceToNat, if_true]

theorem pgsSel (d : BitVec 6) (a : BitVec 6) : Statement (.pgsSel d a) := by
  refine scalar rfl ?_
  rw [show encode (.pgsSel d a) = .ofNat 32 (pk (pk (pk (pk 0x2C 0x21#8) d) a) 0x0#6) from rfl]
  simp (disch := decide) only [decode, decEngine, fld_ofNat, shiftRight_pk, shiftRight_zero, pk_low, Nat.reduceSub, BitVec.reduceToNat, if_true]

theorem sflTab (d : BitVec 6) (a : BitVec 6) : Statement (.sflTab d a) := by
  refine scalar rfl ?_
  rw [show encode (.sflTab d a) = .ofNat 32 (pk (pk (pk (pk 0x2C 0x30#8) d) a) 0x0#6) from rfl]
  simp (disch := decide) only [decode, decEngine, fld_ofNat, shiftRight_pk, shiftRight_zero, pk_low, Nat.reduceSub, BitVec.reduceToNat, if_true]

theorem sflBag (d : BitVec 6) (a : BitVec 6) : Statement (.sflBag d a) := by
  refine scalar rfl ?_
  rw [show encode (.sflBag d a) = .ofNat 32 (pk (pk (pk (pk 0x2C 0x31#8) d) a) 0x0#6) from rfl]
  simp (disch := decide) only [decode, decEngine, fld_ofNat, shiftRight_pk, shiftRight_zero, pk_low, Nat.reduceSub, BitVec.reduceToNat, if_true]

theorem wdqGrid (d : BitVec 6) (a : BitVec 6) : Statement (.wdqGrid d a) := by
  refine scalar rfl ?_
  rw [show encode (.wdqGrid d a) = .ofNat 32 (pk (pk (pk (pk 0x2C 0x40#8) d) a) 0x0#6) from rfl]
  simp (disch := decide) only [decode, decEngine, fld_ofNat, shiftRight_pk, shiftRight_zero, pk_low, Nat.reduceSub, BitVec.reduceToNat, if_true]

theorem wdqAsk (d : BitVec 6) (a : BitVec 6) : Statement (.wdqAsk d a) := by
  refine scalar rfl ?_
  rw [show encode (.wdqAsk d a) = .ofNat 32 (pk (pk (pk (pk 0x2C 0x41#8) d) a) 0x0#6) from rfl]
  simp (disch := decide) only [decode, decEngine, fld_ofNat, shiftRight_pk, shiftRight_zero, pk_low, Nat.reduceSub, BitVec.reduceToNat, if_true]

theorem enq (d : BitVec 6) (a : BitVec 6) : Statement (.enq d a) := by
  refine scalar rfl ?_
  rw [show encode (.enq d a) = .ofNat 32 (pk (pk (pk (pk 0x2C 0x50#8) d) a) 0x0#6) from rfl]
  simp (disch := decide) only [decode, decEngine, fld_ofNat, shiftRight_pk, shiftRight_zero, pk_low, Nat.reduceSub, BitVec.reduceToNat, if_true]

theorem chput (a : BitVec 6) (b : BitVec 6) : Statement (.chput a b) := by
  refine scalar rfl ?_
  rw [show encode (.chput a b) = .ofNat 32 (pk (pk (pk (pk 0x2D 0x0#6) a) b) 0x0#8) from rfl]
  simp (disch := decide) only [decode, decChannel, fld_ofNat, shiftRight_pk, shiftRight_zero, pk_low, Nat.reduceSub, BitVec.reduceToNat, if_true]

theorem chget (d : BitVec 6) (a : BitVec 6) (b : BitVec 6) : Statement (.chget d a b) := by
  refine scalar rfl ?_
  rw [show encode (.chget d a b) = .ofNat 32 (pk (pk (pk (pk 0x2D d) a) b) 0x1#8) from rfl]
  simp (disch := decide) only [decode, decChannel, fld_ofNat, shiftRight_pk, shiftRight_zero, pk_low, Nat.reduceSub, BitVec.reduceToNat]

theorem chwin (d : BitVec 6) (a : BitVec 6) : Statement (.chwin d a) := by
  refine scalar rfl ?_
  rw [show encode (.chwin d a) = .ofNat 32 (pk (pk (pk (pk 0x2D d) a) 0x0#6) 0x2#8) from rfl]
  simp (disch := decide) only [decode, decChannel, fld_ofNat, shiftRight_pk, shiftRight_zero, pk_low, Nat.reduceSub, BitVec.reduceToNat, if_true]

theorem chsync (d : BitVec 6) (a : BitVec 6) : Statement (.chsync d a) := by
  refine scalar rfl ?_
  rw [show encode (.chsync d a) = .ofNat 32 (pk (pk (pk (pk 0x2D d) a) 0x0#6) 0x3#8) from rfl]
  simp (disch := decide) only [decode, decChannel, fld_ofNat, shiftRight_pk, shiftRight_zero, pk_low, Nat.reduceSub, BitVec.reduceToNat, if_true]

theorem slipr (d : BitVec 6) (a : BitVec 6) : Statement (.slipr d a) := by
  refine scalar rfl ?_
  rw [show encode (.slipr d a) = .ofNat 32 (pk (pk (pk (pk 0x2D d) a) 0x0#6) 0x8#8) from rfl]
  simp (disch := decide) only [decode, decChannel, fld_ofNat, shiftRight_pk, shiftRight_zero, pk_low, Nat.reduceSub, BitVec.reduceToNat, if_true]

theorem sliprep (a : BitVec 6) (b : BitVec 6) : Statement (.sliprep a b) := by
  refine scalar rfl ?_
  rw [show encode (.sliprep a b) = .ofNat 32 (pk (pk (pk (pk 0x2D 0x0#6) a) b) 0x9#8) from rfl]
  simp (disch := decide) only [decode, decChannel, fld_ofNat, shiftRight_pk, shiftRight_zero, pk_low, Nat.reduceSub, BitVec.reduceToNat, if_true]

theorem pfxFmt (a : BitVec 4) (b : BitVec 4) (d : BitVec 4) (r : BitVec 3) (f : BitVec 6) : Statement (.pfxFmt a b d r f) := by
  refine scalar rfl ?_
  rw [show encode (.pfxFmt a b d r f) = .ofNat 32 (pk (pk (pk (pk (pk (pk (pk 0x30 0x0#2) a) b) d) r) f) 0x0#3) from rfl]
  simp (disch := decide) only [decode, decPfx, fld_ofNat, shiftRight_pk, shiftRight_zero, pk_low, Nat.reduceSub, BitVec.reduceToNat, if_true]

theorem pfxScl (g : BitVec 2) (s : BitVec 6) (i : BitVec 1) (c : BitVec 8) : Statement (.pfxScl g s i c) := by
  refine scalar rfl ?_
  rw [show encode (.pfxScl g s i c) = .ofNat 32 (pk (pk (pk (pk (pk (pk 0x30 0x1#2) g) s) i) c) 0x0#7) from rfl]
  simp (disch := decide) only [decode, decPfx, fld_ofNat, shiftRight_pk, shiftRight_zero, pk_low, Nat.reduceSub, BitVec.reduceToNat, if_true]

theorem illegalWord (w : BitVec 32) : Statement (.illegalWord w) := by
  refine word rfl fun h _ => ?_
  have hm : majorAssigned (fld w 26 6) = false := by simpa [Instr.wf, Instr.uses, Instr.dests, Instr.fieldsOk, fld] using h
  show decode w = .illegalWord w
  unfold decode
  split <;> first | rfl | (rename_i e; simp [majorAssigned, e] at hm)

theorem loadDataReturn (u : Nat) (i : Nat) : Statement (.loadDataReturn u i) := event rfl

theorem storeAck (i : Nat) : Statement (.storeAck i) := event rfl

theorem walkDone (core : Nat) (ctx : Nat) (va : BitVec 64) (acc : BitVec 2) : Statement (.walkDone core ctx va acc) := event rfl

theorem amoAtHome (u : Nat) : Statement (.amoAtHome u) := event rfl

theorem nameWalkDone (core : Nat) (name : BitVec 16) : Statement (.nameWalkDone core name) := event rfl

theorem wakeArrival (i : Nat) : Statement (.wakeArrival i) := event rfl

theorem sleepDeadline (u : Nat) : Statement (.sleepDeadline u) := event rfl

theorem waitlEnd (u : Nat) : Statement (.waitlEnd u) := event rfl

theorem lockLend (u : Nat) : Statement (.lockLend u) := event rfl

theorem arrivalSendRetry (u : Nat) : Statement (.arrivalSendRetry u) := event rfl

theorem callxAnswer (u : Nat) : Statement (.callxAnswer u) := event rfl

theorem pinHandoff (e : BitVec 3) (unit : Nat) : Statement (.pinHandoff e unit) := event rfl

theorem chputEnter (u : Nat) : Statement (.chputEnter u) := event rfl

theorem chgetTake (u : Nat) : Statement (.chgetTake u) := event rfl

theorem chgetTimeout (u : Nat) : Statement (.chgetTimeout u) := event rfl

theorem chsyncDrained (u : Nat) : Statement (.chsyncDrained u) := event rfl

theorem publComplete (u : Nat) : Statement (.publComplete u) := event rfl

theorem splitChangeComplete (u : Nat) : Statement (.splitChangeComplete u) := event rfl

theorem engineRetire (e : BitVec 3) (unit : Nat) : Statement (.engineRetire e unit) := event rfl

theorem enqRetire (core : Nat) (i : Nat) : Statement (.enqRetire core i) := event rfl

theorem regionStep (r : Nat) : Statement (.regionStep r) := event rfl

theorem srcSend (r : Nat) (n : Nat) : Statement (.srcSend r n) := event rfl

theorem injSend (r : Nat) (n : Nat) : Statement (.injSend r n) := event rfl

theorem snkTake (r : Nat) (n : Nat) : Statement (.snkTake r n) := event rfl

theorem regionComplete (r : Nat) : Statement (.regionComplete r) := event rfl

theorem agnRunStart (r : Nat) (n : Nat) : Statement (.agnRunStart r n) := event rfl

theorem agnEmit (r : Nat) (n : Nat) (st : Nat) : Statement (.agnEmit r n st) := event rfl

theorem memgGather (r : Nat) (n : Nat) : Statement (.memgGather r n) := event rfl

theorem memsWrite (r : Nat) (n : Nat) : Statement (.memsWrite r n) := event rfl

theorem slhEmit (r : Nat) (n : Nat) : Statement (.slhEmit r n) := event rfl

theorem sluiceSend (r : Nat) (n : Nat) : Statement (.sluiceSend r n) := event rfl

theorem sluiceCompletion (r : Nat) (n : Nat) (tag : Nat) (st : BitVec 2) (old : BitVec 64) : Statement (.sluiceCompletion r n tag st old) := event rfl

theorem accnSum (r : Nat) (n : Nat) : Statement (.accnSum r n) := event rfl

theorem escTake (r : Nat) (n : Nat) : Statement (.escTake r n) := event rfl

theorem escEmit (r : Nat) (n : Nat) : Statement (.escEmit r n) := event rfl

theorem cisternRefill (isChan : Bool) (a : Nat) (b : Nat) : Statement (.cisternRefill isChan a b) := event rfl

theorem ingressPush (q : Nat) (hdr : BitVec 64) : Statement (.ingressPush q hdr) := event rfl

theorem loadFinish (r : Nat) : Statement (.loadFinish r) := event rfl

theorem configSwitch (r : Nat) : Statement (.configSwitch r) := event rfl

theorem checkpointComplete (r : Nat) : Statement (.checkpointComplete r) := event rfl

theorem threadSaveComplete (u : Nat) : Statement (.threadSaveComplete u) := event rfl

theorem faultRetry (isNode : Bool) (a : Nat) (b : Nat) : Statement (.faultRetry isNode a b) := event rfl

theorem faultRetryLimit (isNode : Bool) (a : Nat) (b : Nat) : Statement (.faultRetryLimit isNode a b) := event rfl

theorem checkpointWatchdog (r : Nat) : Statement (.checkpointWatchdog r) := event rfl

theorem threadSaveWatchdog (u : Nat) : Statement (.threadSaveWatchdog u) := event rfl

theorem forcedAbortWatchdog (r : Nat) : Statement (.forcedAbortWatchdog r) := event rfl

theorem ctailWrite (v : BitVec 32) : Statement (.ctailWrite v) := event rfl

theorem cmdRingConfig (v : BitVec 64) : Statement (.cmdRingConfig v) := event rfl

theorem cplRingConfig (v : BitVec 64) : Statement (.cplRingConfig v) := event rfl

theorem qheadWrite (v : BitVec 32) : Statement (.qheadWrite v) := event rfl

theorem plimWrite (v : BitVec 64) : Statement (.plimWrite v) := event rfl

theorem portsWrite (v : BitVec 64) : Statement (.portsWrite v) := event rfl

theorem attestCmd (v : BitVec 64) : Statement (.attestCmd v) := event rfl

theorem registerWrite (bar : BitVec 3) (off : Nat) (size : Nat) (v : BitVec 64) : Statement (.registerWrite bar off size v) := event rfl

theorem hostApertureAccess (op : BitVec 3) (off : Nat) (size : Nat) (v : BitVec 4096) (cmp : BitVec 64) : Statement (.hostApertureAccess op off size v cmp) := event rfl

theorem peerRequest (op : BitVec 4) (pa : Nat) (size : Nat) (v : BitVec 2048) (cmp : BitVec 64) : Statement (.peerRequest op pa size v cmp) := event rfl

theorem linkCompletion (i : Nat) (st : BitVec 2) (data : BitVec 128) : Statement (.linkCompletion i st data) := event rfl

theorem portTrained (p : Nat) : Statement (.portTrained p) := event rfl

theorem portDown (p : Nat) : Statement (.portDown p) := event rfl

theorem fieldJoin (f : Nat) : Statement (.fieldJoin f) := event rfl

theorem fieldFail (f : Nat) : Statement (.fieldFail f) := event rfl

theorem correctedError (store : BitVec 4) (unit : Nat) (row : Nat) (hard : Bool) : Statement (.correctedError store unit row hard) := event rfl

theorem retirementEffect (i : Nat) : Statement (.retirementEffect i) := event rfl

theorem powerMeasure (watts : Nat) : Statement (.powerMeasure watts) := event rfl

theorem throttleStart (hot : Bool) : Statement (.throttleStart hot) := event rfl

theorem moduleFatal (pa : BitVec 64) : Statement (.moduleFatal pa) := event rfl

theorem meshLinkFail (a : Nat) (b : Nat) : Statement (.meshLinkFail a b) := event rfl

theorem unassignedFnWord (w : BitVec 32) : Statement (.unassignedFnWord w) :=
  word rfl fun _ h => absurd rfl (h w)

theorem powerLoss (done : Nat) : Statement (.powerLoss done) := event rfl

theorem migrationArrival : Statement .migrationArrival := event rfl

theorem arrivalRelief : Statement .arrivalRelief := event rfl

theorem indirectPrefetch : Statement .indirectPrefetch := event rfl

theorem copyStart : Statement .copyStart := event rfl

theorem copyRetire : Statement .copyRetire := event rfl

theorem nblBoxExec : Statement .nblBoxExec := event rfl

theorem nblBinExec : Statement .nblBinExec := event rfl

theorem nblPairsExec : Statement .nblPairsExec := event rfl

theorem nblStatExec : Statement .nblStatExec := event rfl

theorem pgsSumExec : Statement .pgsSumExec := event rfl

theorem pgsSelExec : Statement .pgsSelExec := event rfl

theorem sflTabExec : Statement .sflTabExec := event rfl

theorem sflBagExec : Statement .sflBagExec := event rfl

theorem wdqGridExec : Statement .wdqGridExec := event rfl

theorem wdqAskExec : Statement .wdqAskExec := event rfl

theorem quantumTick : Statement .quantumTick := event rfl

theorem ctxCreate : Statement .ctxCreate := event rfl

theorem ctxDestroy : Statement .ctxDestroy := event rfl

theorem qbind : Statement .qbind := event rfl

theorem qunbind : Statement .qunbind := event rfl

theorem launch : Statement .launch := event rfl

theorem cancel : Statement .cancel := event rfl

theorem xinv : Statement .xinv := event rfl

theorem slicemap : Statement .slicemap := event rfl

theorem badopc : Statement .badopc := event rfl

theorem attestReportDone : Statement .attestReportDone := event rfl

theorem coldReset : Statement .coldReset := event rfl

theorem warmReset : Statement .warmReset := event rfl

theorem liveSliceMapChange : Statement .liveSliceMapChange := event rfl

theorem throttleEnd : Statement .throttleEnd := event rfl

theorem registrarUnresponsive : Statement .registrarUnresponsive := event rfl

end Sys2Proof.Laws.RoundTrip
end

