-- ==== Sys2Proof/Tests/Slice0.lean ====
section
/-! SUPPORT. Tests of single steps on small states, words written out from the encodings, ill-formed terms, and for each statement
concrete values that meet its hypotheses. Every expected value is worked out by hand from the rule that the test names. -/

namespace Sys2Proof.Tests

open Machine

set_option Elab.async false

/-! ### Small states -/

/-- A gigabyte that a core maps onto the same addresses. -/
def map0 : Tlb := { ctx := 0, va := 0, bits := 30, pa := 0, rd := true, wr := true, ex := true, po := false, pub := none }

/-- The module with one ready thread of context 0 in slot 0 of core 0, a window of 64 KiB and a mapped gigabyte; registers as given. -/
def unit (l : List (Spec × Word)) : State :=
  let s := State.reset.withThread
  { s with th := l.foldl (fun t p => t.write p.1 p.2) s.th, cores := [(0, { CoreSt.initial with tlb := [map0] })],
           windows := [⟨0, 0, 0, 0x10000⟩] }

/-- The next state, or the same where there is none. -/
def after (i : Instr) (s : State) : State := match exec i s with | .next t => t | _ => s

/-- What g3 holds after a word, g1 and g2 given. -/
def val (i : Instr) (x y : Word) : Word := (after i (unit [(1, x), (2, y), (3, 7)])).th.read 3

/-- The fault code of the last record in the log of context 0, whose save area starts at 0 (R345, R348). -/
def code (i : Instr) (s : State) : Nat := (after i s).readNat .mem 64 1

/-! ### Words written out from the encodings of R56 to R76 -/

/-- R59. -/
theorem decode_int64 : decode 0x04304201#32 = .sub 3 1 2 := by decide

/-- R59. -/
theorem decode_int32 : decode 0x083A2927#32 = .remn32 3 40 41 := by decide

/-- R60. -/
theorem decode_float : decode 0x0C304285#32 = .fma 3 1 2 2 := by decide

/-- R61. -/
theorem decode_conversion : decode 0x10305EB1#32 = .cvt 3 1 7 2 0xB 1 := by decide

/-- R62. -/
theorem decode_control_register : decode 0x1400E002#32 = .csrs 3 2 := by decide

/-- R63. -/
theorem decode_immediate : decode 0x2010BFFF#32 = .addi 1 2 0x3FFF := by decide

/-- R63. -/
theorem decode_immediate_shift : decode 0x3810A03F#32 = .shai 1 2 63 := by decide

/-- R63. -/
theorem decode_upper : decode 0x441FFFFF#32 = .addpc 1 0xFFFFF := by decide

/-- R64. -/
theorem decode_load : decode 0x503097FF#32 = .ld 3 2 1 3 0x1FF := by decide

/-- R64. -/
theorem decode_load_pair : decode 0x5040A805#32 = .ldp 4 2 2 5 := by decide

/-- R64. -/
theorem decode_load_zero : decode 0x54308201#32 = .ldn 3 2 0 1 1 := by decide

/-- R64. -/
theorem decode_store : decode 0x58309500#32 = .st 3 2 1 2 0x100 := by decide

/-- R65. -/
theorem decode_bit_load : decode 0x5C3053FC#32 = .ldbit 3 1 1 1 63 2 := by decide

/-- R65. -/
theorem decode_bit_store : decode 0x6030603A#32 = .stbit 3 1 2 7 1 := by decide

/-- R64. -/
theorem decode_acquire : decode 0x64308781#32 = .ldAcq 3 2 0 3 6 1 := by decide

/-- R64. -/
theorem decode_release : decode 0x68308681#32 = .stRel 3 2 0 3 2 1 := by decide

/-- R66. -/
theorem decode_atomic : decode 0x6C30429D#32 = .amoCas 3 1 2 1 2 1 := by decide

/-- R64. -/
theorem decode_prefetch : decode 0x70108008#32 = .pref 1 2 0 8 := by decide

/-- R67. -/
theorem decode_order : decode 0x74304081#32 = .publ 3 1 4 := by decide

/-- R68. -/
theorem decode_branch : decode 0x81010BFE#32 = .brLtn 1 2 0x3FE := by decide

/-- R69. -/
theorem decode_call : decode 0x8BFFFFFF#32 = .call 0x3FFFFFF := by decide

/-- R69. -/
theorem decode_indirect : decode 0x8C304203#32 = .callx 3 1 2 := by decide

/-- R69. -/
theorem decode_hardware_loop : decode 0x92014003#32 = .loopi 10 3 := by decide

/-- R70. -/
theorem decode_thread : decode 0xA0000908#32 = .semp 9 := by decide

/-- R71. -/
theorem decode_system : decode 0xA4000500#32 = .trap 5 := by decide

/-- R72. -/
theorem decode_engine : decode 0xB1043200#32 = .wdqAsk 3 8 := by decide

/-- R73. -/
theorem decode_channel : decode 0xB4004209#32 = .sliprep 1 2 := by decide

/-- R75. -/
theorem decode_format_prefix : decode 0xC0501620#32 = .pfxFmt 5 0 1 3 4 := by decide

/-- R76. -/
theorem decode_scale_prefix : decode 0xC191BF80#32 = .pfxScl 2 17 1 0x7F := by decide

/-- R58. -/
theorem decode_no_major : decode 0xFC000001#32 = .illegalWord 0xFC000001 := by decide

/-- R81. -/
theorem decode_no_fn : decode 0x04000007#32 = .unassignedFnWord 0x04000007 := by decide

/-- R81. -/
theorem decode_field_that_must_be_zero : decode 0x04304130#32 = .unassignedFnWord 0x04304130 := by decide


/-- R59. -/
theorem encode_add : encode (.add 1 4 15) = 0x04110F00#32 := by decide

/-! ### Ill-formed terms, one for each check -/

/-- R54, R295: the block of a command starts at a general register. -/
theorem ill_formed_block : (Instr.wf (.nblBox 1 42)) = false := by decide

/-- R54. -/
theorem ill_formed_specifier_read : (Instr.wf (.add 1 42 2)) = false := by decide

/-- R54. -/
theorem ill_formed_specifier_write : (Instr.wf (.add 40 1 2)) = false := by decide

/-- R61. -/
theorem ill_formed_cvt_rounding : (Instr.wf (.cvt 1 2 6 0 1 2)) = false := by decide

/-- R61. -/
theorem ill_formed_cvt_format : (Instr.wf (.cvt 1 2 0 0 0xA 1)) = false := by decide

/-- R61. -/
theorem ill_formed_cvt_width : (Instr.wf (.cvt 1 2 0 1 2 1)) = false := by decide

/-- R61. -/
theorem ill_formed_cvtb_sides : (Instr.wf (.cvtb 1 2 0 0 1 2)) = false := by decide

/-- R116. -/
theorem ill_formed_csr_number : (Instr.wf (.csrr 1 0x005)) = false := by decide

/-- R64. -/
theorem ill_formed_ldn_size : (Instr.wf (.ldn 1 2 0 3 0)) = false := by decide

/-- R64. -/
theorem ill_formed_ldp_odd : (Instr.wf (.ldp 3 2 0 0)) = false := by decide

/-- R64. -/
theorem ill_formed_ldp_zero : (Instr.wf (.ldp 0 2 0 0)) = false := by decide

/-- R64. -/
theorem ill_formed_stp_odd : (Instr.wf (.stp 3 2 0 0)) = false := by decide

/-- R65. -/
theorem ill_formed_ldbit_cursor : (Instr.wf (.ldbit 1 4 1 0 0 0)) = false := by decide

/-- R65. -/
theorem ill_formed_ldbit_class : (Instr.wf (.ldbit 1 0 0 0 0 0)) = false := by decide

/-- R65. -/
theorem ill_formed_stbit_move : (Instr.wf (.stbit 1 0 1 0 3)) = false := by decide

/-- R64. -/
theorem ill_formed_acquire_scope : (Instr.wf (.ldAcq 1 2 0 3 7 0)) = false := by decide

/-- R64. -/
theorem ill_formed_release_scope : (Instr.wf (.stRel 1 2 0 3 7 0)) = false := by decide

/-- R64. -/
theorem ill_formed_pref_hint : (Instr.wf (.pref 3 1 0 0)) = false := by decide

/-- R67. -/
theorem ill_formed_fence_scope : (Instr.wf (.fence 7)) = false := by decide

/-- R67. -/
theorem ill_formed_publ_scope : (Instr.wf (.publ 1 2 7)) = false := by decide

/-- R70. -/
theorem ill_formed_pin_engine : (Instr.wf (.pin 5)) = false := by decide

/-- R70. -/
theorem ill_formed_unpin_engine : (Instr.wf (.unpin 7)) = false := by decide

/-- R295. -/
theorem ill_formed_cqpush_block : (Instr.wf (.cqpush 1 29)) = false := by decide

/-- R58. -/
theorem ill_formed_major : (Instr.wf (.illegalWord 0x04000000)) = false := by decide

/-- R81. -/
theorem ill_formed_fn_major : (Instr.wf (.unassignedFnWord 0)) = false := by decide

/-- R278. -/
theorem ill_formed_stream : (Instr.wf (.agnEmit 0 0 2)) = false := by decide

/-- R368. -/
theorem ill_formed_field : (Instr.wf (.fieldJoin 24)) = false := by decide

/-- R368. -/
theorem ill_formed_failing_field : (Instr.wf (.fieldFail 24)) = false := by decide

/-- R369. -/
theorem ill_formed_trained_port : (Instr.wf (.portTrained 16)) = false := by decide

/-- R369. -/
theorem ill_formed_fallen_port : (Instr.wf (.portDown 16)) = false := by decide

/-- R151. -/
theorem ill_formed_handed_engine : (Instr.wf (.pinHandoff 5 0)) = false := by decide

/-- R305. -/
theorem ill_formed_retiring_engine : (Instr.wf (.engineRetire 0 0)) = false := by decide

/-- R325. -/
theorem ill_formed_port_queue : (Instr.wf (.ingressPush 16384 0)) = false := by decide

/-- R354. -/
theorem ill_formed_link_end : (Instr.wf (.meshLinkFail 3 3)) = false := by decide

/-- R357. -/
theorem ill_formed_store_code : (Instr.wf (.correctedError 7 0 0 false)) = false := by decide


/-- A scalar word that is well formed. -/
theorem well_formed_add : Instr.wf (.add 1 2 3) = true := by decide

/-! ### Integer words (R29, R121, R122) -/

theorem test_add : val (.add 3 1 2) 0xFFFFFFFFFFFFFFFF 0x2 = 0x1 := by decide
theorem test_sub : val (.sub 3 1 2) 0x1 0x2 = 0xFFFFFFFFFFFFFFFF := by decide
theorem test_and : val (.and 3 1 2) 0xC 0xA = 0x8 := by decide
theorem test_or : val (.or 3 1 2) 0xC 0xA = 0xE := by decide
theorem test_xor : val (.xor 3 1 2) 0xC 0xA = 0x6 := by decide
theorem test_andn : val (.andn 3 1 2) 0xC 0xA = 0x4 := by decide
theorem test_orn : val (.orn 3 1 2) 0x0 0x1 = 0xFFFFFFFFFFFFFFFE := by decide
theorem test_shl : val (.shl 3 1 2) 0x3 0x41 = 0x6 := by decide
theorem test_shr : val (.shr 3 1 2) 0xFFFFFFFFFFFFFFFF 0x3C = 0xF := by decide
theorem test_sha : val (.sha 3 1 2) 0xFFFFFFFFFFFFFFF0 0x42 = 0xFFFFFFFFFFFFFFFC := by decide
theorem test_rotl : val (.rotl 3 1 2) 0x8000000000000001 0x1 = 0x3 := by decide
theorem test_min : val (.min 3 1 2) 0xFFFFFFFFFFFFFFFF 0x1 = 0xFFFFFFFFFFFFFFFF := by decide
theorem test_max : val (.max 3 1 2) 0xFFFFFFFFFFFFFFFF 0x1 = 0x1 := by decide
theorem test_minn : val (.minn 3 1 2) 0xFFFFFFFFFFFFFFFF 0x1 = 0x1 := by decide
theorem test_maxn : val (.maxn 3 1 2) 0xFFFFFFFFFFFFFFFF 0x1 = 0xFFFFFFFFFFFFFFFF := by decide
theorem test_slt : val (.slt 3 1 2) 0xFFFFFFFFFFFFFFFF 0x1 = 0x1 := by decide
theorem test_sltn : val (.sltn 3 1 2) 0xFFFFFFFFFFFFFFFF 0x1 = 0x0 := by decide
theorem test_seq : val (.seq 3 1 2) 0x5 0x5 = 0x1 := by decide
theorem test_sne : val (.sne 3 1 2) 0x5 0x5 = 0x0 := by decide
theorem test_sel : val (.sel 3 1 2) 0x5 0x6 = 0x5 := by decide
theorem test_mul : val (.mul 3 1 2) 0x8000000000000001 0x2 = 0x2 := by decide
theorem test_mulh : val (.mulh 3 1 2) 0xFFFFFFFFFFFFFFFF 0x2 = 0xFFFFFFFFFFFFFFFF := by decide
theorem test_mulhn : val (.mulhn 3 1 2) 0xFFFFFFFFFFFFFFFF 0x2 = 0x1 := by decide
theorem test_div : val (.div 3 1 2) 0xFFFFFFFFFFFFFFF9 0x2 = 0xFFFFFFFFFFFFFFFD := by decide
theorem test_divn : val (.divn 3 1 2) 0x5 0x0 = 0xFFFFFFFFFFFFFFFF := by decide
theorem test_rem : val (.rem 3 1 2) 0xFFFFFFFFFFFFFFF9 0x2 = 0xFFFFFFFFFFFFFFFF := by decide
theorem test_remn : val (.remn 3 1 2) 0x5 0x0 = 0x5 := by decide
theorem test_clz : val (.clz 3 1) 0x1 0x0 = 0x3F := by decide
theorem test_ctz : val (.ctz 3 1) 0x0 0x0 = 0x40 := by decide
theorem test_pop : val (.pop 3 1) 0xF0F 0x0 = 0x8 := by decide
theorem test_brev : val (.brev 3 1) 0x1 0x0 = 0x8000000000000000 := by decide
theorem test_bswap : val (.bswap 3 1) 0x11 0x0 = 0x1100000000000000 := by decide
theorem test_bfx : val (.bfx 3 1 2) 0xF0 0x10404 = 0xFFFFFFFFFFFFFFFF := by decide
theorem test_bfi : val (.bfi 3 1 2) 0xF 0x404 = 0xF7 := by decide
theorem test_add32 : val (.add32 3 1 2) 0x7FFFFFFF 0x1 = 0xFFFFFFFF80000000 := by decide
theorem test_sub32 : val (.sub32 3 1 2) 0x0 0x1 = 0xFFFFFFFFFFFFFFFF := by decide
theorem test_and32 : val (.and32 3 1 2) 0xFFFFFFFFFFFFFFFF 0x80000000 = 0xFFFFFFFF80000000 := by decide
theorem test_or32 : val (.or32 3 1 2) 0x1 0x2 = 0x3 := by decide
theorem test_xor32 : val (.xor32 3 1 2) 0xFFFFFFFF 0x1 = 0xFFFFFFFFFFFFFFFE := by decide
theorem test_andn32 : val (.andn32 3 1 2) 0xF 0x3 = 0xC := by decide
theorem test_orn32 : val (.orn32 3 1 2) 0x0 0x1 = 0xFFFFFFFFFFFFFFFE := by decide
theorem test_shl32 : val (.shl32 3 1 2) 0x1 0x3F = 0xFFFFFFFF80000000 := by decide
theorem test_shr32 : val (.shr32 3 1 2) 0xFFFFFFFFFFFFFFFF 0x4 = 0xFFFFFFF := by decide
theorem test_sha32 : val (.sha32 3 1 2) 0x80000000 0x1F = 0xFFFFFFFFFFFFFFFF := by decide
theorem test_rotl32 : val (.rotl32 3 1 2) 0x80000001 0x1 = 0x3 := by decide
theorem test_min32 : val (.min32 3 1 2) 0xFFFFFFFF 0x1 = 0xFFFFFFFFFFFFFFFF := by decide
theorem test_max32 : val (.max32 3 1 2) 0xFFFFFFFF 0x1 = 0x1 := by decide
theorem test_minn32 : val (.minn32 3 1 2) 0xFFFFFFFF 0x1 = 0x1 := by decide
theorem test_maxn32 : val (.maxn32 3 1 2) 0xFFFFFFFF 0x1 = 0xFFFFFFFFFFFFFFFF := by decide
theorem test_slt32 : val (.slt32 3 1 2) 0xFFFFFFFF 0x0 = 0x1 := by decide
theorem test_sltn32 : val (.sltn32 3 1 2) 0xFFFFFFFF 0x0 = 0x0 := by decide
theorem test_seq32 : val (.seq32 3 1 2) 0x100000005 0x5 = 0x1 := by decide
theorem test_sne32 : val (.sne32 3 1 2) 0x100000005 0x5 = 0x0 := by decide
theorem test_sel32 : val (.sel32 3 1 2) 0x5 0x6 = 0x5 := by decide
theorem test_mul32 : val (.mul32 3 1 2) 0x10000 0x8000 = 0xFFFFFFFF80000000 := by decide
theorem test_mulh32 : val (.mulh32 3 1 2) 0xFFFFFFFF 0x2 = 0xFFFFFFFFFFFFFFFF := by decide
theorem test_mulhn32 : val (.mulhn32 3 1 2) 0xFFFFFFFF 0x2 = 0x1 := by decide
theorem test_div32 : val (.div32 3 1 2) 0x80000000 0xFFFFFFFF = 0xFFFFFFFF80000000 := by decide
theorem test_divn32 : val (.divn32 3 1 2) 0x7 0x100000002 = 0x3 := by decide
theorem test_rem32 : val (.rem32 3 1 2) 0x80000000 0xFFFFFFFF = 0x0 := by decide
theorem test_remn32 : val (.remn32 3 1 2) 0x7 0x2 = 0x1 := by decide
theorem test_clz32 : val (.clz32 3 1) 0x100000000 0x0 = 0x20 := by decide
theorem test_ctz32 : val (.ctz32 3 1) 0x100000000 0x0 = 0x20 := by decide
theorem test_pop32 : val (.pop32 3 1) 0xFFFFFFFFFFFFFFFF 0x0 = 0x20 := by decide
theorem test_brev32 : val (.brev32 3 1) 0x1 0x0 = 0xFFFFFFFF80000000 := by decide
theorem test_bswap32 : val (.bswap32 3 1) 0x80 0x0 = 0xFFFFFFFF80000000 := by decide
theorem test_bfx32 : val (.bfx32 3 1 2) 0xF0 0x404 = 0xF := by decide
theorem test_bfi32 : val (.bfi32 3 1 2) 0xF 0x404 = 0xF7 := by decide

/-- R29: a division by 0 sets TS.DZ; another does not. -/
theorem test_div_sets_dz : (after (.div 3 1 2) (unit [(1, 5)])).th.dz = true ∧ (after (.div 3 1 2) (unit [(1, 5), (2, 1)])).th.dz = false := by
  decide

/-- R54: g0 takes no value. -/
theorem test_g0_reads_zero : (after (.add 0 1 1) (unit [(1, 5)])).th.read 0 = 0 := by decide

/-- R110: the result pair shifts. -/
theorem test_y_shifts : (after (.add 3 1 1) (after (.addi 2 1 1) (unit [(1, 5)]))).th.y0 = 10 ∧
    (after (.add 3 1 1) (after (.addi 2 1 1) (unit [(1, 5)]))).th.y1 = 6 := by decide

/-! ### Immediate words (R123) -/

theorem test_addi : val (.addi 3 1 0x3FFF) 0x0 0x0 = 0xFFFFFFFFFFFFFFFF := by decide
theorem test_andi : val (.andi 3 1 0x3FF0) 0xFF 0x0 = 0xF0 := by decide
theorem test_ori : val (.ori 3 1 0x2000) 0x0 0x0 = 0xFFFFFFFFFFFFE000 := by decide
theorem test_xori : val (.xori 3 1 1) 0x3 0x0 = 0x2 := by decide
theorem test_slti : val (.slti 3 1 0x3FFF) 0xFFFFFFFFFFFFFFFE 0x0 = 0x1 := by decide
theorem test_sltni : val (.sltni 3 1 0x3FFF) 0x5 0x0 = 0x1 := by decide
theorem test_shli : val (.shli 3 1 63) 0x3 0x0 = 0x8000000000000000 := by decide
theorem test_shri : val (.shri 3 1 63) 0xFFFFFFFFFFFFFFFF 0x0 = 0x1 := by decide
theorem test_shai : val (.shai 3 1 63) 0x8000000000000000 0x0 = 0xFFFFFFFFFFFFFFFF := by decide
theorem test_muli : val (.muli 3 1 0x3FFE) 0x3 0x0 = 0xFFFFFFFFFFFFFFFA := by decide
theorem test_lui : val (.lui 3 0x80000) 0x0 0x0 = 0xFFFFFFFF80000000 := by decide
theorem test_addpc : val (.addpc 3 0xFFFFF) 0x0 0x0 = 0x0 := by decide

/-! ### Float words (R125 to R131), in f64 (function format 0) unless said -/

theorem test_fadd : val (.fadd 3 1 2 0) 0x3FF8000000000000 0x4002000000000000 = 0x400E000000000000 := by decide +kernel
theorem test_fsub : val (.fsub 3 1 2 0) 0x3FF0000000000000 0x3FF0000000000000 = 0x0 := by decide +kernel
theorem test_fmul : val (.fmul 3 1 2 0) 0xBFF8000000000000 0x4000000000000000 = 0xC008000000000000 := by decide +kernel
theorem test_fdiv : val (.fdiv 3 1 2 0) 0x3FF0000000000000 0x0 = 0x7FF0000000000000 := by decide +kernel
theorem test_fsqrt : val (.fsqrt 3 1 0) 0x4002000000000000 0x0 = 0x3FF8000000000000 := by decide +kernel
theorem test_fma : val (.fma 3 1 2 0) 0x0 0x3FF0000000000000 = 0x7 := by decide +kernel
theorem test_fnma : val (.fnma 3 1 2 0) 0x0 0x3FF0000000000000 = 0x7 := by decide +kernel
theorem test_fmin : val (.fmin 3 1 2 0) 0x8000000000000000 0x0 = 0x8000000000000000 := by decide +kernel
theorem test_fmax : val (.fmax 3 1 2 0) 0x3FF0000000000000 0x4000000000000000 = 0x4000000000000000 := by decide +kernel
theorem test_fsgn : val (.fsgn 3 1 2 0) 0x3FF0000000000000 0xC000000000000000 = 0xBFF0000000000000 := by decide +kernel
theorem test_feq : val (.feq 3 1 2 0) 0x0 0x8000000000000000 = 0x1 := by decide +kernel
theorem test_flt : val (.flt 3 1 2 0) 0x3FF0000000000000 0x4000000000000000 = 0x1 := by decide +kernel
theorem test_fle : val (.fle 3 1 2 0) 0x4000000000000000 0x3FF0000000000000 = 0x0 := by decide +kernel
theorem test_fmv : val (.fmv 3 1 0) 0x3FF0000000000000 0x0 = 0x3FF0000000000000 := by decide +kernel

/-- R32: an f64 division of 1 by 0 sets DZ of FFL, and 2^53 + 1 is inexact. -/
theorem test_float_flags : (after (.fdiv 3 1 2 0) (unit [(1, 0x3FF0000000000000)])).th.ffl = 8 ∧
    (after (.fadd 3 1 2 0) (unit [(1, 0x4340000000000000), (2, 0x3FF0000000000000)])).th.ffl = 1 := by decide +kernel

/-- The example after R128: 65,504 + 16 in f16 overflows under RNE. -/
theorem test_f16_overflow : (after (.fadd 3 1 2 2) (unit [(1, 0x7BFF), (2, 0x4C00)])).th.read 3 = 0x7C00 ∧
    (after (.fadd 3 1 2 2) (unit [(1, 0x7BFF), (2, 0x4C00)])).th.ffl = 5 := by decide +kernel

/-- R127: the class of minus infinity. -/
theorem test_fclass : val (.fclass 3 1 0) 0xFFF0000000000000 0 = 1 := by decide +kernel

/-- R129: 3.75 to an integer of 64 bits with round towards zero, by RTZ. -/
theorem test_cvt : val (.cvt 3 1 1 3 0xB 1) 0x400E000000000000 0 = 3 := by decide +kernel

/-! ### What meets the hypotheses of the statements -/

/-- The conditions of `State.Free`, as a test. -/
def freeB (s : State) (i : Instr) : Bool :=
  decide (s.th.mode = .ready) && i.wf && (!s.th.fv || takesFmt i) && (!s.th.sv || takesScl i) && i.uses.all (fun x => !s.th.busy x)

theorem free_of {s : State} {i : Instr} (h : freeB s i = true) : s.Free i := by
  simp only [freeB, Bool.and_eq_true, decide_eq_true_eq, Bool.or_eq_true, Bool.not_eq_true', List.all_eq_true] at h
  obtain ⟨⟨⟨⟨h1, h2⟩, h3⟩, h4⟩, h5⟩ := h
  exact ⟨h1, h2, fun x => h3.resolve_left (by simp [x]), fun x => h4.resolve_left (by simp [x]), h5⟩

/-- The conditions of `State.Calm`, as a test. -/
def calmB (s : State) : Bool :=
  s.stores.isEmpty && s.threads.all (fun t => t.inflight.isEmpty && t.deferred.isEmpty) && s.bad.isEmpty &&
    decide (s.threads.map Thread.uid).Nodup && s.others.all (fun t => t.mode != .empty && t.uid != s.th.uid)

theorem calm_of {s : State} (h : calmB s = true) : s.Calm := by
  simp only [calmB, Bool.and_eq_true, List.isEmpty_iff, List.all_eq_true, decide_eq_true_eq, bne_iff_ne] at h
  obtain ⟨⟨⟨⟨h1, h2⟩, h3⟩, h4⟩, h5⟩ := h
  exact ⟨h1, fun t m => (h2 t m).1, h3, fun t m => (h2 t m).2, h4, h5⟩

/-- R54, at the ends of the ranges. -/
theorem meets_OperandSpecifiers : (0 : Spec).toNat = 0 ∧ 0 < (31 : Spec).toNat ∧ (31 : Spec).toNat < 32 ∧ 32 ≤ (32 : Spec).toNat ∧
    (39 : Spec).toNat ≤ 39 ∧ (40 : Spec).toNat = 40 ∧ (41 : Spec).toNat = 41 ∧ (unit []).th.mode = .ready ∧
    Instr.isScalar (.add 3 42 1) = true ∧ (∃ x ∈ Instr.uses (.add 3 42 1), 42 ≤ x.toNat) ∧
    (∃ x ∈ Instr.dests (.add 40 1 1), 40 ≤ x.toNat) := by decide

theorem meets_IntegerResults : intWord (.bfi 3 1 2) = some (64, 0x41, 3, 1, 2) ∧ (unit []).Free (.bfi 3 1 2) :=
  ⟨rfl, free_of (by decide)⟩

theorem meets_ImmediateResults : (immWord (.addi 3 1 1)).isSome = true ∧ (unit []).Free (.addi 3 1 1) :=
  ⟨rfl, free_of (by decide)⟩

/-- A thread with a pending pfx.fmt of format 0xA, and one with none. -/
theorem meets_FloatResults : (floatWord (.fadd 3 1 2 0)).isSome = true ∧ (unit []).Free (.fadd 3 1 2 0) ∧ (unit []).th.fmtPfx.fa = 0 ∧
    (after (.pfxFmt 0xA 0 0 0 0) (unit [])).Free (.fadd 3 1 2 0) ∧ (after (.pfxFmt 0xA 0 0 0 0) (unit [])).th.fmtPfx.fa = 0xA :=
  ⟨rfl, free_of (by decide), by decide, free_of (by decide), by decide⟩

theorem meets_FloatTestsAndMoves : (compareWord (.feq 3 1 2 0)).isSome = true ∧ (unit []).Free (.feq 3 1 2 0) ∧ (unit []).Free (.fclass 3 1 0) ∧
    (unit []).Free (.fmv 3 1 0) ∧ (unit []).Free (.fsgn 3 1 2 0) ∧ movePfxOk 0 (unit []).th.fmtPfx = true ∧
    (after (.pfxFmt 5 0 1 0 0) (unit [])).Free (.feq 3 1 2 0) ∧ (after (.pfxFmt 5 0 1 0 0) (unit [])).th.fmtPfx.fd ≠ 0 ∧
    (after (.pfxFmt 5 0 1 0 0) (unit [])).Free (.fmv 3 1 0) ∧ movePfxOk 0 (after (.pfxFmt 5 0 1 0 0) (unit [])).th.fmtPfx = false := by
  and_intros <;> first | exact free_of (by decide) | decide

/-- Integer to f32 without a prefix; to e4m3 with a scale, 0xFF in the second. -/
theorem meets_ConvertResults : (unit []).Free (.cvt 3 1 0 3 1 0xB) ∧ cvtPfxOk (unit []).th 1 0xB = true ∧ (unit []).th.sv = false ∧
    (after (.pfxScl 1 0 1 0xFF) (unit [])).Free (.cvt 3 1 0 3 5 0xB) ∧ cvtPfxOk (after (.pfxScl 1 0 1 0xFF) (unit [])).th 5 0xB = true ∧
    scaleCode (after (.pfxScl 1 0 1 0xFF) (unit [])).th = some 0xFF ∧ isNarrow 5 = true ∧ isNarrow 0xB = false ∧
    (∀ q, (after (.pfxScl 1 0 1 0xFF) (unit [])).th.sclPfx = some q → q.imm = true) ∧
    cvtPfxOk (after (.pfxFmt 5 0 1 0 0) (unit [])).th 2 0xB = false ∧ (after (.pfxFmt 5 0 1 0 0) (unit [])).Free (.cvt 3 1 0 3 2 0xB) := by
  and_intros <;> first | exact free_of (by decide) | decide

/-- A pack of 32 elements of f32 at 0 into e4m3 at 256, with the scale in g5; a misaligned source; no prefix. -/
theorem meets_BlockConversion :
    let s := after (.pfxScl 1 5 0 0) (unit [(3, 256)])
    let m := after (.pfxScl 1 5 0 0) (unit [(1, 2), (3, 256)])
    let A := s.th.read 1
    let D := s.th.read 3
    let sp := Space.win 0 0
    (unit []).Free (.cvtb 3 1 7 0 5 2) ∧ (unit []).th.sv = false ∧ s.Free (.cvtb 3 1 7 0 5 2) ∧ m.Free (.cvtb 3 1 7 0 5 2) ∧
    (ffmt 5).isSome = true ∧ (ffmt 2).isSome = true ∧ isNarrow 5 = true ∧ cvtPfxOk s.th 5 2 = true ∧
    (∀ q, s.th.sclPfx = some q → q.imm = false ∧ q.sr ≠ 40 ∧ q.sr ≠ 41 ∧ q.g = 1) ∧ s.th.sclPfx ≠ none ∧ (m.th.read 1).toNat % 4 ≠ 0 ∧
    A.toNat % 4 = 0 ∧ A.toNat + 128 ≤ s.windowLen 0 0 ∧ D.toNat + 32 ≤ s.windowLen 0 0 ∧
    rsBlocks (s.core 0).sb sp A.toNat (A.toNat + 128) false = false ∧ rsBlocks (s.core 0).sb sp D.toNat (D.toNat + 32) true = false ∧
    s.badAt sp A.toNat 128 = false ∧ s.badPartial sp D.toNat 32 true = false := by
  intro s m A D sp
  and_intros <;> first | exact free_of (by decide) | decide

theorem meets_ControlRegisterReads : (unit []).Free (.csrr 3 0x801) ∧ (unit []).th.prv = true ∧
    ({ unit [] with th := { (unit []).th with prv := false } } : State).Free (.csrr 3 0x801) ∧
    ({ unit [] with th := { (unit []).th with prv := false } } : State).Free (.csrr 3 0x031) := by
  and_intros <;> first | exact free_of (by decide) | decide

/-- The thread of a unit with the engine of a code pinned. -/
def pinned (e : Nat) (l : List (Spec × Word)) : State :=
  let s := unit l
  { s with th := { s.th with peng := BitVec.ofNat 3 e }, engines := [{ s.engine e 0 with holder := some s.th.uid }] }

/-- An unprivileged thread. -/
def plainUser (l : List (Spec × Word)) : State := { unit l with th := { (unit l).th with prv := false } }

theorem meets_ControlRegisterWrites : geomOf 0 = none ∧ geomOf 0x013 = none ∧ (csrForm (.csrs 1 0x000)).isSome = true ∧
    (unit []).Free (.csrs 1 0x000) ∧ (unit []).Free (.csrw 1 0x801) ∧ (plainUser []).Free (.csrw 1 0x801) ∧ (plainUser []).th.prv = false ∧
    geomOf 0x050 = some (1, 0) ∧ (unit []).Free (.csrw 1 0x050) ∧ (pinned 1 []).Free (.csrw 1 0x050) ∧
    ((unit []).engine 1 (engineUnit 1 0)).holder ≠ some (unit []).th.uid ∧
    ((pinned 1 []).engine 1 (engineUnit 1 0)).holder = some (pinned 1 []).th.uid := by
  and_intros <;> first | exact free_of (by decide) | decide


/-- What a result holds, as an option. -/
def okOf {ε α : Type} (x : Except ε α) : Option α := match x with | .ok a => some a | .error _ => none

theorem ok_of {ε α : Type} {x : Except ε α} {a : α} (h : okOf x = some a) : x = .ok a := by
  cases x with
  | ok b => exact congrArg Except.ok (Option.some.inj h)
  | error e => exact absurd h (by simp [okOf])

/-- The fault that a result names. -/
def errOf {α : Type} (x : Except Trap α) : Option Trap := match x with | .ok _ => none | .error e => some e

theorem error_of {α : Type} {x : Except Trap α} {e : Trap} (h : errOf x = some e) : x = .error e := by
  cases x with
  | ok b => exact absurd h (by simp [errOf])
  | error f => exact congrArg Except.error (Option.some.inj h)

/-- Context 0 with 8 units of deep memory on every die, 4 of them scratch, publication records at 0x20000, a page table at 0x100000, handler
contexts at 64 MiB, and a save area at 256 MiB. -/
def ctx0 : Ctx :=
  { idx := 0, ptroot := 0x100000, pubBase := 0x20000, pubCnt := 4, chCnt := 4, lslots := 64, chBase := 0x30000, saveBase := 0x10000000,
    saveLen := 0x1000000, hsave := 0x4000000, maxPri := 7, prvOk := true,
    splits := Vector.replicate 4 { grant := 8, scr := 4, cch := 0, rej := false }, logNext := 0 }

/-- The thread of a unit in that context, with a handler at 0x8000. -/
def rich (l : List (Spec × Word)) : State :=
  let s := unit l
  { s with ctxs := [ctx0], joined := [0], binds := s.binds.map (fun b => { b with handler := 0x8000 }) }

/-- A command that a copy engine has taken from the thread of a unit. -/
def cmd0 (op : Nat) (ws g : List Word) : Cmd :=
  { id := 9, uid := 0, ctx := 0, core := 0, op := op, regs := ws, geom := g, resolved := false, pubRec := none, status := none,
    toks := [] }

/-- A state whose engine of a code has that command alone. -/
def runs (e op : Nat) (ws g : List Word) (s : State) : State :=
  { s with engines := [{ s.engine e 0 with fifo := [cmd0 op ws g] }], nextId := 10 }

/-- A state with a copy that names deep scratch. -/
def copying (s : State) : State := { s with engines := [{ s.engine 0 0 with fifo := [{ cmd0 0 [] [] with deep := true }] }], nextId := 10 }

/-- SCSPLIT: 4 + 4 units fit a grant of 8, 5 + 4 do not. -/
theorem meets_DeepSplit : csrForm (.csrw 1 0x802) = some (0x802, 1, fun _ x => x) ∧ (rich [(1, 0x404)]).Free (.csrw 1 0x802) ∧
    (rich []).th.prv = true ∧ (rich []).ctx? 0 = some ctx0 ∧ ((rich []).split 0 0).grant < fieldOf (0x405 : Word) 0 6 + fieldOf (0x405 : Word) 8 6 ∧
    fieldOf (0x404 : Word) 0 6 + fieldOf (0x404 : Word) 8 6 ≤ ((rich []).split 0 0).grant ∧ (rich []).splitHeld 0 0 = false ∧ (rich [(1, 0x404)]).deepCopies 0 (rich [(1, 0x404)]).nextId = false ∧
    (copying (rich [(1, 0x404)])).Free (.csrw 1 0x802) ∧ (copying (rich [])).splitHeld 0 0 = false ∧
    (copying (rich [])).deepCopies 0 10 = true ∧ (rich []).stores = [] := by
  refine ⟨rfl, ?_⟩
  and_intros <;> first | exact free_of (by decide) | decide +kernel

/-- A thread that waits for its split. -/
def splitting : State := after (.csrw 1 0x802) (copying (rich [(1, 0x404)]))

theorem meets_DeepSplitEnd :
    let s : State := { splitting with engines := [] }
    s.getT 0 = some s.th ∧ s.th.mode ≠ .empty ∧ s.th.wait = .split 0 0x404 (splitting.csrRead splitting.th 0x802) 10 ∧ s.deepCopies 0 10 = false ∧
    ((s.split 0 0).request 0x404).isSome = true ∧ (s.ctx? 0).isSome = true := by
  and_intros <;> first | decide +kernel

/-- Core scratch at the end of the window, misaligned, and past the end. -/
theorem meets_ScratchLoads : (loadWord (.ld 3 1 1 3 0)).isSome = true ∧ (unit [(1, 0xFFF8)]).Free (.ld 3 1 1 3 0) ∧
    (addrOf (unit [(1, 0xFFF8)]).th 1 0 8).toNat % 8 = 0 ∧ (addrOf (unit [(1, 0xFFF8)]).th 1 0 8).toNat + 8 ≤ (unit [(1, 0xFFF8)]).windowLen 0 0 ∧
    rsBlocks ((unit []).core 0).sb (.win 0 0) 0xFFF8 0x10000 false = false ∧ (unit []).badAt (.win 0 0) 0xFFF8 8 = false ∧
    (addrOf (unit [(1, 0xFFF9)]).th 1 0 8).toNat % 8 ≠ 0 ∧ (unit [(1, 0x10000)]).windowLen 0 0 < (addrOf (unit [(1, 0x10000)]).th 1 0 8).toNat + 8 ∧
    (unit [(1, 0xFFF0)]).Free (.ldp 4 1 1 0) := by
  and_intros <;> first | exact free_of (by decide) | decide

/-- R172, R173: a load returns the bytes little-endian and sign-extended. -/
theorem test_ld_scratch : (after (.ld 3 1 1 1 0) ((unit [(1, 0x10)]).put (.win 0 0) 0x10 [0x34, 0x92])).th.read 3 = 0xFFFFFFFFFFFF9234 := by decide

theorem test_ldn_scratch : (after (.ldn 3 1 1 1 0) ((unit [(1, 0x10)]).put (.win 0 0) 0x10 [0x34, 0x92])).th.read 3 = 0x9234 := by decide

theorem test_ldp_scratch : (after (.ldp 4 1 1 0) ((unit [(1, 0x10)]).put (.win 0 0) 0x18 [7])).th.read 5 = 7 := by decide

/-- R172: a misaligned load raises ALIGN; past the window PROT (codes of R344). -/
theorem test_ld_align : code (.ld 3 1 1 3 0) (unit [(1, 4)]) = Code.align.num := by decide

theorem test_ld_past_window : code (.ld 3 1 1 3 0) (unit [(1, 0x10000)]) = Code.prot.num := by decide

/-- A load of memory that leaves. -/
def loading : State := after (.ld 3 1 0 3 0) ((unit [(1, 0x100)]).put .mem 0x100 [0x2A])

theorem meets_LoadsInFlight : (loadWord (.ld 3 1 0 3 0)).isSome = true ∧ (unit [(1, 0x100)]).Free (.ld 3 1 0 3 0) ∧
    (unit [(1, 0x100)]).resolve (unit [(1, 0x100)]).th 0 0x100 8 .rd = .ok (.at .mem 0x100, unit [(1, 0x100)]) ∧
    (unit []).mustWait (unit []).th .mem 0x100 8 false = false ∧ (unit []).badAt .mem 0x100 8 = false ∧
    (unit []).misses 0 < Config.missLimit ∧ loading.getT 0 = some loading.th ∧
    loading.th.inflight = [⟨1, some 3, none, .load ⟨.mem, 0x100, 8, true, none⟩⟩] := by
  and_intros <;> first | exact free_of (by decide) | decide +kernel

/-- R110: the value lands when its data return. -/
theorem test_ld_lands : loading.th.read 3 = 0 ∧ (after (.loadDataReturn 0 1) loading).th.read 3 = 0x2A ∧
    (after (.loadDataReturn 0 1) loading).th.y0 = 0x2A := by decide

/-- A thread beside one that waits for its change of split on die 0. -/
def heldSplit (l : List (Spec × Word)) : State :=
  { rich l with others := [{ splitting.th with uid := 5, slot := 1 }], nextId := 11 }

/-- An ldp and a load to g0 that leave, and a load of deep scratch that may. -/
theorem meets_LoadForms : (heldSplit [(1, 0x100)]).Free (.ld 3 1 2 3 0) ∧ (heldSplit [(1, 0x100)]).splitWaits (heldSplit [(1, 0x100)]).th 2 0x100 8 = true ∧
    (heldSplit [(1, 0x100)]).Free (.st 2 1 2 3 0) ∧ (rich [(1, 0x100)]).Free (.ld 3 1 2 3 0) ∧
    (rich [(1, 0x100)]).splitWaits (rich [(1, 0x100)]).th 2 0x100 8 = false ∧
    (rich [(1, 0x100)]).resolve (rich [(1, 0x100)]).th 2 0x100 8 .rd = .ok (.at (.deep 0) 0x100, rich [(1, 0x100)]) ∧
    (rich [(1, 0x100)]).mustWait (rich [(1, 0x100)]).th (.deep 0) 0x100 8 false = false ∧ (rich []).badAt (.deep 0) 0x100 8 = false ∧
    (after (.ldp 4 1 0 0) (unit [(1, 0x100)])).th.inflight = [⟨1, some 4, some 5, .load ⟨.mem, 0x100, 16, false, none⟩⟩] ∧
    (after (.ld 0 1 0 3 0) (unit [(1, 0x100)])).th.inflight.map (fun f => (f.id, f.late)) = [(1, .load ⟨.mem, 0x100, 8, true, none⟩)] ∧
    (after (.ld 0 1 0 3 0) (unit [(1, 0x100)])).th.y0Id = some 1 := by
  and_intros <;> first | exact free_of (by decide) | decide +kernel

/-- R110: an ldp lands in both its registers, a load to g0 in y0 alone. -/
theorem test_ldp_lands : (after (.loadDataReturn 0 1) (after (.ldp 4 1 0 0) ((unit [(1, 0x100)]).put .mem 0x108 [9]))).th.read 5 = 9 ∧
    (after (.loadDataReturn 0 1) (after (.ld 0 1 0 3 0) ((unit [(1, 0x100)]).put .mem 0x100 [9]))).th.read 0 = 0 ∧
    (after (.loadDataReturn 0 1) (after (.ld 0 1 0 3 0) ((unit [(1, 0x100)]).put .mem 0x100 [9]))).th.y0 = 9 := by decide +kernel

/-- A store to memory that is posted. -/
def storing : State := after (.st 2 1 0 2 1) (unit [(1, 0x100), (2, 0x1122334455667788)])

theorem meets_Stores : (storeWord (.st 2 1 0 2 1)).isSome = true ∧ (unit [(1, 0x100)]).Free (.st 2 1 0 2 1) ∧
    (addrOf (unit [(1, 0x100)]).th 1 1 4).toNat % 4 = 0 ∧ (addrOf (unit [(1, 0x101)]).th 1 1 4).toNat % 4 ≠ 0 ∧
    (unit [(1, 0x100)]).resolve (unit [(1, 0x100)]).th 0 0x104 4 .wr = .ok (.at .mem 0x104, unit [(1, 0x100)]) ∧
    (unit [(1, 0x100)]).resolve (unit [(1, 0x100)]).th 1 0x104 4 .wr = .ok (.at (.win 0 0) 0x104, unit [(1, 0x100)]) ∧
    (storeCheck (unit [(1, 0x100)]) 0x104 (.at .mem 0x104) 4 true).isNone = true ∧
    (storeCheck (unit [(1, 0x100)]) 0x104 (.at (.win 0 0) 0x104) 4 true).isNone = true ∧ (unit [(1, 0x100)]).Free (.stp 2 1 0 0) ∧
    (unit []).th.busy 3 = false ∧ storing.stores.find? (fun y => y.id == 1) = some ⟨1, 0, 0, 0, 0x104, .mem, 0x104, full [0x88, 0x77, 0x66, 0x55], none, false⟩ ∧
    storeClosure [1] storing.stores = storing.stores ∧ storing.badAt .mem 0x104 4 = false ∧
    ({ storing with bad := [(.mem, 4)] } : State).badAt .mem 0x104 4 = true := by
  and_intros <;> first | exact free_of (by decide) | decide +kernel

/-- A store of 8 bytes that is posted to a peer. -/
def toPeer0 : Store := ⟨7, 0, 0, 0, 0x100, .mem, 0xC010000000100, full (List.replicate 8 1), none, false⟩

def peerStore (p : Option Nat) : State := { unit [] with stores := [{ toPeer0 with port := p }], portsUp := 1 }

theorem meets_StoreForms : toPeer0.toPeer = true ∧ (peerStore none).stores.find? (fun y => y.id == 7) = some toPeer0 ∧
    storeClosure [7] (peerStore none).stores = [toPeer0] ∧ (peerStore none).Holds 0 (unit []).th ∧
    (rich [(1, 0x100)]).resolve (rich [(1, 0x100)]).th 2 0x100 8 .wr = .ok (.at (.deep 0) 0x100, rich [(1, 0x100)]) ∧
    (rich [(1, 0x100)]).splitWaits (rich [(1, 0x100)]).th 2 0x100 8 = false ∧
    (storeCheck (rich [(1, 0x100)]) 0x100 (.at (.deep 0) 0x100) 8 true).isNone = true ∧ (rich [(1, 0x100)]).Free (.st 2 1 2 3 0) := by
  and_intros <;> first | exact free_of (by decide) | (refine ⟨by decide +kernel, by decide, ?_⟩; decide) | decide +kernel

/-- R180: the home takes the bytes with the acknowledgement. -/
theorem test_st_posted : storing.readNat .mem 0x104 4 = 0 ∧ (after (.storeAck 1) storing).readNat .mem 0x104 4 = 0x55667788 := by decide

theorem test_stp_scratch : (after (.stp 2 1 1 1) (unit [(1, 0x10), (2, 5), (3, 6)])).readNat (.win 0 0) 0x28 8 = 6 := by decide

/-- Cursors k0 at bit 4 and one past the last place. -/
def cursorAt (k : BitVec 40) (l : List (Spec × Word)) : State :=
  let s := unit l
  { s with th := s.th.setCursor 0 k }

theorem meets_BitAccesses : (cursorAt 4 []).Free (.ldbit 3 0 1 1 63 1) ∧ bitPlace ((cursorAt 4 []).th.cursor 0) 64 1 = some (4, 68) ∧
    0 + 9 ≤ (cursorAt 4 []).windowLen 0 0 ∧ rsBlocks ((cursorAt 4 []).core 0).sb (.win 0 0) 0 9 false = false ∧
    (cursorAt 4 []).badAt (.win 0 0) 0 9 = false ∧ (cursorAt 4 []).Free (.stbit 2 0 1 7 1) ∧
    bitPlace ((cursorAt 4 []).th.cursor 0) 8 1 = some (4, 12) ∧ rsBlocks ((cursorAt 4 []).core 0).sb (.win 0 0) 0 2 true = false ∧
    (cursorAt 4 []).badPartial (.win 0 0) 0 2 false = false ∧ (cursorAt 0x7FFFF []).Free (.ldbit 3 0 1 0 1 0) ∧
    bitPlace ((cursorAt 0x7FFFF []).th.cursor 0) 2 0 = some (0x7FFFF, 0x7FFFF) ∧
    (cursorAt 0x7FFFF []).bitSpace (cursorAt 0x7FFFF []).th 1 (0x7FFFF / 8) ((0x7FFFF + 1) / 8 + 1 - 0x7FFFF / 8) = none := by
  and_intros <;> first | exact free_of (by decide) | decide

/-- A cursor of deep scratch, one past its last place, and one on a die whose split changes. -/
def deepCursor (s : State) (k : BitVec 40) : State := { s with th := s.th.setCursor 0 k }

theorem meets_DeepBits : (deepCursor (rich []) 4).Free (.ldbit 3 0 2 1 63 1) ∧ (deepCursor (rich []) 4).Free (.stbit 2 0 2 7 1) ∧
    (deepCursor (rich []) 4).splitWaits (deepCursor (rich []) 4).th 2 0 9 = false ∧ (deepCursor (rich []) 4).bitSpace (deepCursor (rich []) 4).th 2 0 9 = some (.deep 0) ∧
    (deepCursor (rich []) 4).bitSpace (deepCursor (rich []) 4).th 2 0 2 = some (.deep 0) ∧
    (deepCursor (rich []) 4).mustWait (deepCursor (rich []) 4).th (.deep 0) 0 9 false = false ∧ (deepCursor (rich []) 4).badAt (.deep 0) 0 9 = false ∧
    (deepCursor (rich []) 4).misses 0 < Config.missLimit ∧
    (storeCheck (deepCursor (rich []) 4) 0 (.at (.deep 0) 0) 2 false).isNone = true ∧
    (deepCursor (heldSplit []) 4).Free (.ldbit 3 0 2 1 63 1) ∧ (deepCursor (heldSplit []) 4).Free (.stbit 2 0 2 7 1) ∧
    (deepCursor (heldSplit []) 4).splitWaits (deepCursor (heldSplit []) 4).th 2 0 9 = true ∧
    (deepCursor (heldSplit []) 4).splitWaits (deepCursor (heldSplit []) 4).th 2 0 2 = true ∧
    (deepCursor (rich []) 0x7FFFFFFFFF).Free (.ldbit 3 0 2 0 1 0) ∧
    (∀ b k1, bitPlace ((deepCursor (rich []) 0x7FFFFFFFFF).th.cursor 0) 2 0 = some (b, k1) →
      (deepCursor (rich []) 0x7FFFFFFFFF).bitSpace (deepCursor (rich []) 0x7FFFFFFFFF).th 2 (b / 8) ((b + 1) / 8 + 1 - b / 8) = none) := by
  and_intros <;> first
    | exact free_of (by decide)
    | decide +kernel
    | (intro b k1 h
       have e : bitPlace ((deepCursor (rich []) 0x7FFFFFFFFF).th.cursor 0) 2 0 = some (0x7FFFFFFFFF, 0x7FFFFFFFFF) := by decide +kernel
       rw [e] at h
       obtain ⟨rfl, rfl⟩ := Prod.mk.inj (Option.some.inj h)
       decide +kernel)

/-- R174, R175: bits of deep scratch leave and land, and a posted stbit is seen. -/
theorem test_deep_bits : (after (.loadDataReturn 0 1) (after (.ldbit 3 0 2 1 7 1) (deepCursor ((rich []).put (.deep 0) 0 [0x5F, 0xAC]) 4))).th.read 3 =
      0xFFFFFFFFFFFFFFC5 ∧
    ofLe ((after (.stbit 2 0 2 7 0) (deepCursor ((rich [(2, 0x12)]).put (.deep 0) 0 [0x5F, 0xAC]) 4)).viewBytes 0 (.deep 0) 0 2) = 0xA12F := by
  decide +kernel

/-- R174: 8 bits from bit 4, sign-extended, and the cursor moves; R175: the bits around a stored field stand. -/
theorem test_ldbit : (after (.ldbit 3 0 1 1 7 1) ((cursorAt 4 []).put (.win 0 0) 0 [0x5F, 0xAC])).th.read 3 = 0xFFFFFFFFFFFFFFC5 ∧
    (after (.ldbit 3 0 1 1 7 1) ((cursorAt 4 []).put (.win 0 0) 0 [0x5F, 0xAC])).th.cursor 0 = 12 := by decide

theorem test_stbit : (after (.stbit 2 0 1 7 0) ((cursorAt 4 [(2, 0x12)]).put (.win 0 0) 0 [0x5F, 0xAC])).readNat (.win 0 0) 0 2 = 0xA12F := by decide

theorem meets_AcquireReleaseFence : (unit [(1, 0x100)]).Free (.ldAcq 3 1 0 3 2 0) ∧ (unit [(1, 0x100)]).Free (.stRel 3 1 0 3 2 0) ∧
    (unit [(1, 0x100)]).resolve (unit [(1, 0x100)]).th 0 0x100 8 .rd = .ok (.at .mem 0x100, unit [(1, 0x100)]) ∧
    (unit [(1, 0x100)]).resolve (unit [(1, 0x100)]).th 0 0x100 8 .wr = .ok (.at .mem 0x100, unit [(1, 0x100)]) ∧
    (storeCheck (unit [(1, 0x100)]) 0x100 (.at .mem 0x100) 8 true).isNone = true ∧ (unit []).bad = [] ∧ (unit []).th.deferred = [] ∧
    (unit []).Free (.fence 0) ∧ (unit []).Free (.fence 1) ∧ (unit []).Free (.fence 2) ∧ (unit []).Free (.pref 2 1 0 0) ∧
    (unit []).mustWait (unit []).th .mem 0x100 8 false = false ∧ (unit []).badAt .mem 0x100 8 = false ∧
    (unit [(1, 0x100)]).misses 0 < Config.missLimit ∧ (0x100 : Word).toNat % 8 = 0 := by
  and_intros <;> first | exact free_of (by decide) | decide +kernel

theorem meets_ReleaseForms : storing.Free (.stRel 3 1 1 3 1 0) ∧ (∀ x ∈ storing.stores, x.toPeer = false) ∧ storing.stores ≠ [] ∧ storing.bad = [] ∧
    storing.resolve storing.th 1 0x100 8 .wr = .ok (.at (.win 0 0) 0x100, storing) ∧
    (storeCheck storing 0x100 (.at (.win 0 0) 0x100) 8 true).isNone = true ∧ storing.Free (.stRel 3 1 0 3 0 0) ∧ storing.Free (.stRel 3 1 0 3 1 0) ∧
    storing.Free (.fence 1) ∧ storing.th.deferred = [] ∧ storing.Free (.ldAcq 3 1 0 3 2 0) := by
  and_intros <;> first | exact free_of (by decide) | decide +kernel

/-- R188: a release at scope core has the store acknowledged at the core, and a wider one at its home; at scope thread it stays as it is. -/
theorem test_release : (after (.stRel 3 1 1 3 1 0) storing).stores.map Store.rel = [true] ∧ (after (.stRel 3 1 1 3 2 0) storing).stores = [] ∧
    (after (.stRel 3 1 1 3 0 0) storing).stores.map Store.rel = [false] := by decide +kernel

/-- R188: a fence of the module performs the thread's posted stores. -/
theorem test_fence : (after (.fence 4) storing).stores = [] ∧ (after (.fence 4) storing).readNat .mem 0x104 1 = 0x88 := by decide

theorem test_fence_narrow : (after (.fence 0) storing).stores = storing.stores := by decide

/-- An atomic that goes to its home by message, and its request. -/
def amoSent : State := after (.amoAdd 3 1 2 1 0 0) (rich [(1, 0x100), (2, 5)])

theorem meets_Atomics : (amoWord (.amoAdd 3 1 2 1 0 0)).isSome = true ∧ (rich [(1, 0x1800)]).Free (.amoAdd 3 1 2 1 0 0) ∧
    (rich [(1, 0x1804)]).Free (.amoAdd 3 1 2 1 0 0) ∧
    (rich [(1, 0x1800)]).resolve (rich [(1, 0x1800)]).th 0 0x1800 8 .amo = .ok (.at .mem 0x1800, rich [(1, 0x1800)]) ∧ (rich []).th.peng = 7 ∧
    (rich [(1, 0x1800)]).homeCore 0 0x1800 = some 0 ∧ (rich [(1, 0x1800)]).Calm ∧
    amoSent.getT 0 = some amoSent.th ∧ amoSent.th.wait = .amo ⟨0, true, 0, false, 3, 0x100, 0x100, 5, 0⟩ ∧ amoSent.th.place = .slot ∧
    amoSent.th.mode = .waiting ∧ amoSent.Calm := by
  and_intros <;> first | exact free_of (by decide) | exact calm_of (by decide) | decide +kernel

/-- A unit whose context holds slots of core 16 too, the home of the line at 0x40. -/
def homes : State :=
  { rich [(1, 0x40), (2, 5)] with binds := (rich []).binds ++ (rich []).binds.map (fun b => { b with unit := 16 }) }

theorem meets_AtomicsElsewhere : (rich []).homeCore 0 0x40 = some 16 ∧ (rich []).grantsAny 16 0 = false ∧ (rich []).homeCore 0 0x100 = none ∧
    (rich [(1, 0x40)]).Free (.amoAdd 3 1 2 1 0 0) ∧ (rich [(1, 0x40)]).Calm ∧
    (rich [(1, 0x40)]).resolve (rich [(1, 0x40)]).th 0 0x40 8 .amo = .ok (.at .mem 0x40, rich [(1, 0x40)]) ∧
    homes.homeCore 0 0x40 = some 16 ∧ homes.grantsAny 16 0 = true ∧ homes.sendHeld homes.th 16 = false ∧ homes.Calm ∧
    homes.Free (.amoAdd 3 1 2 1 0 0) ∧ homes.th.peng = 7 ∧ homes.hasCmds homes.th = false ∧ (homes.core 0).queue = [] ∧
    homes.resolve homes.th 0 0x40 8 .amo = .ok (.at .mem 0x40, homes) := by
  and_intros <;> first | exact free_of (by decide) | exact calm_of (by decide) | decide +kernel

/-- R204: the thread goes to the home of its atomic; without a slot there it waits for an answer. -/
theorem test_amo_goes : (after (.amoAdd 3 1 2 1 0 0) homes).th.place = .queue ∧ (after (.amoAdd 3 1 2 1 0 0) homes).th.core = 16 ∧
    amoSent.th.place = .slot := by decide +kernel

/-- R203: the old value, sign-extended, and the sum. -/
theorem test_amo_add : (after (.amoAdd 3 1 2 0 0 0) ((rich [(1, 0x1800), (2, 3)]).put .mem 0x1800 [0xFF, 0xFF, 0xFF, 0xFF])).th.read 3 =
      0xFFFFFFFFFFFFFFFF ∧
    (after (.amoAdd 3 1 2 0 0 0) ((rich [(1, 0x1800), (2, 3)]).put .mem 0x1800 [0xFF, 0xFF, 0xFF, 0xFF])).readNat .mem 0x1800 8 = 2 := by decide +kernel

theorem test_amo_cas : (after (.amoCas 3 1 2 0 0 0) ((rich [(1, 0x1800), (2, 9), (3, 4)]).put .mem 0x1800 [4])).readNat .mem 0x1800 4 = 9 ∧
    (after (.amoCas 3 1 2 0 0 0) ((rich [(1, 0x1800), (2, 9), (3, 5)]).put .mem 0x1800 [4])).readNat .mem 0x1800 4 = 4 := by decide +kernel

/-- Publication record 1 of context 0: 4 KiB at 0, backed at 0 and at 4 KiB. -/
def published (l : List (Spec × Word)) : State := ((rich l).put .mem 0x20048 (leBytes 8 0x1000)).put .mem 0x20058 (leBytes 8 0x1000)

/-- R202: record 1; 4 of 4, and 4,096, are out of range. -/
theorem meets_Publications : (published [(1, 1)]).Free (.publ 3 1 4) ∧ (published []).ctx? 0 = some ctx0 ∧
    ((4 : Word).toNat ≥ ctx0.pubCnt) ∧ (published []).pubRec ctx0 1 = some ⟨0, 0x1000, 0, 0x1000, 0⟩ ∧
    (published []).publWaits 1 [] = false ∧ (published [(1, 1)]).Calm := by
  and_intros <;> first | exact free_of (by decide) | exact calm_of (by decide) | decide +kernel

theorem meets_PublicationInvalid : (rich [(1, 1)]).Free (.publ 3 1 4) ∧ (rich []).bad = [] ∧ (rich []).pubRec ctx0 1 = none ∧ (1 : Nat) < ctx0.pubCnt := by
  and_intros <;> first | exact free_of (by decide) | decide +kernel

/-- A publ that waited for a command that has ended. -/
def publishing : State :=
  let s := published [(1, 1)]
  { s with th := { s.th with mode := .waiting, wait := .publ 3 1 4 [9] } }

theorem meets_PublicationsEnd : publishing.getT 0 = some publishing.th ∧ publishing.th.wait = .publ 3 1 4 [9] ∧ publishing.publWaits 1 [9] = false ∧
    publishing.ctx? 0 = some ctx0 ∧ publishing.pubRec ctx0 1 = some ⟨0, 0x1000, 0, 0x1000, 0⟩ ∧ publishing.Calm := by
  and_intros <;> first | exact calm_of (by decide) | decide +kernel

theorem test_publ : (after (.publ 3 1 4) (published [(1, 1)])).th.read 3 = 1 ∧
    (after (.publ 3 1 4) (published [(1, 1)])).readNat .mem 0x20060 8 = 1 := by decide +kernel

theorem test_publ_range : code (.publ 3 1 4) (unit [(1, 0)]) = Code.prot.num := by decide +kernel

/-- A unit whose second gigabyte lies in the host's memory. -/
def linked (l : List (Spec × Word)) : State :=
  let s := unit l
  { s with cores := [(0, { CoreSt.initial with tlb := [map0, { map0 with va := 2 ^ 30, pa := 0x8000000000000 }] })] }

/-- A load and an atomic behind the link. -/
def linkLoad : State := after (.ld 3 1 0 3 0) (linked [(1, 0x40000100)])

def linkAmo : State := after (.amoAdd 3 1 2 1 0 0) (linked [(1, 0x40000100)])

theorem meets_LinkAccesses : (linked [(1, 0x40000100)]).Free (.ld 3 1 0 3 0) ∧ (linked []).stores = [] ∧
    (linked [(1, 0x40000100)]).resolve (linked [(1, 0x40000100)]).th 0 0x40000100 8 .rd = .ok (.link 0x8000000000100, linked [(1, 0x40000100)]) ∧
    linkLoad.links.find? (fun r => r.id == 1) =
      some ⟨1, 0, 0, .load 3 none ⟨.mem, 0x8000000000100, 8, true, none⟩ false, 0x40000100, none⟩ ∧
    linkLoad.getT 0 = some linkLoad.th ∧ linkLoad.th.wait = .link 1 ∧ linkLoad.th.mode = .waiting ∧
    (linked [(1, 0x40000100)]).misses 0 < Config.missLimit ∧ (linked [(1, 0x40000100)]).Free (.amoAdd 3 1 2 1 0 0) ∧
    (linked [(1, 0x40000100)]).Calm ∧ target 0x8000000000100 = .host ∧ (linked [(1, 0x40000100)]).Free (.amoXor 3 1 2 1 0 0) ∧
    (linked [(1, 0x40000100)]).resolve (linked [(1, 0x40000100)]).th 0 0x40000100 8 .amo = .ok (.link 0x8000000000100, linked [(1, 0x40000100)]) ∧
    amoWord (.amoXor 3 1 2 1 0 0) = some (3, 3, 1, 2, 1, 0, 0) ∧ linkAmo.getT 0 = some linkAmo.th ∧ linkAmo.th.wait = .link 1 ∧
    linkAmo.links.find? (fun r => r.id == 1) =
      some ⟨1, 0, 0, .amo ⟨0, true, 0, false, 3, 0x40000100, 0x8000000000100, 0, 0⟩, 0x40000100, none⟩ := by
  and_intros <;> first | exact free_of (by decide) | exact calm_of (by decide) | decide +kernel

/-- A load-acquire behind the link, beside a store that its core has acknowledged; and a link with 768 requests out. -/
def linkAcq : State :=
  let s := after (.ldAcq 3 1 0 3 2 0) (linked [(1, 0x40000100)])
  { s with stores := [⟨9, 5, 0, 0, 0x200, .mem, 0x200, full [1], none, true⟩] }

def linkBusy : State :=
  { linked [(1, 0x40000100)] with links := (List.range 768).map (fun n => ⟨n + 10, 5, 0, .load 3 none ⟨.mem, 0x8000000000100, 8, true, none⟩ false, 0x40000100, none⟩) }

theorem meets_LinkForms : linkBusy.linkFull 0x8000000000100 = true ∧ (linked []).linkFull 0x8000000000100 = false ∧ linkBusy.Free (.ld 3 1 0 3 0) ∧
    linkBusy.resolve linkBusy.th 0 0x40000100 8 .rd = .ok (.link 0x8000000000100, linkBusy) ∧ linkBusy.stores = [] ∧
    linkBusy.misses 0 < Config.missLimit ∧ (linked [(1, 0x40000100)]).splitWaits (linked []).th 0 0x40000100 8 = false ∧
    (linked [(1, 0x40000100)]).Free (.ldAcq 3 1 0 3 2 0) ∧ linkBusy.Free (.amoAdd 3 1 2 1 0 0) ∧ linkBusy.Calm ∧
    linkBusy.resolve linkBusy.th 0 0x40000100 8 .amo = .ok (.link 0x8000000000100, linkBusy) ∧
    linkAcq.links.find? (fun r => r.id == 1) = some ⟨1, 0, 0, .load 3 none ⟨.mem, 0x8000000000100, 8, true, none⟩ true, 0x40000100, none⟩ ∧
    linkAcq.getT 0 = some linkAcq.th ∧ linkAcq.th.wait = .link 1 ∧ linkAcq.th.mode = .waiting := by
  and_intros <;> first | exact free_of (by decide) | exact calm_of (by decide +kernel) | decide +kernel

/-- R193: the completion of the acquire covers the store; R363: one more request stalls. -/
theorem test_link_acquire : (after (.linkCompletion 1 0 0x2A) linkAcq).th.seen = [9] ∧ (after (.ld 3 1 0 3 0) linkBusy).th.mode = .stalled := by
  decide +kernel

theorem test_link_load : (after (.linkCompletion 1 0 0x2A) linkLoad).th.read 3 = 0x2A ∧ code (.linkCompletion 1 1 0) linkLoad = Code.prot.num := by
  decide

/-- A page table of three levels: the first gigabyte, readable, writable and executable. -/
def paged (l : List (Spec × Word)) : State :=
  (((rich l).put .mem 0x100000 (leBytes 8 0x101001)).put .mem 0x101000 (leBytes 8 0x102001)).put .mem 0x102000 (leBytes 8 0x8F)

theorem meets_WalkFillsCache : (paged []).walk 0 0x1234 .rd true = .ok { map0 with va := 0 } ∧
    (rich []).walk 0 0x1234 .rd true = .error { code := .xlate, addr := 0x1234, retry := true } := by
  exact ⟨ok_of (by decide +kernel), error_of (by decide +kernel)⟩

/-- R183, R344: without a valid entry a load raises XLATE. -/
theorem test_xlate : code (.ld 3 1 0 3 0) (unit [(1, 0x40000000)]) = Code.xlate.num := by decide

theorem meets_ControlTransfers : (branchWord (.brEq 1 2 4)).isSome = true ∧ (unit []).Free (.brEq 1 2 4) ∧
    (unit [(1, 5), (2, 5)]).th.read 1 = (unit [(1, 5), (2, 5)]).th.read 2 ∧ (unit [(1, 5)]).th.read 1 ≠ (unit [(1, 5)]).th.read 2 ∧
    (unit []).Free (.jmp 4) ∧ (unit []).Free (.call 4) ∧ (unit [(1, 0x2000)]).Free (.jr 1) ∧ (unit [(1, 0x2002)]).Free (.ret 1) ∧
    (unit [(1, 0x2000)]).Free (.callr 3 1) ∧ ((unit [(1, 0x2000)]).th.read 1).toNat % 4 = 0 ∧ ((unit [(1, 0x2002)]).th.read 1).toNat % 4 ≠ 0 := by
  and_intros <;> first | exact free_of (by decide) | decide

/-- R137: the displacement counts words from the branch. -/
theorem test_branch_back : (after (.brLt 1 2 0x3FF) (unit [(1, 0xFFFFFFFFFFFFFFFF), (2, 1)])).th.pc = 0xFFC ∧
    (after (.brLtn 1 2 0x3FF) (unit [(1, 0xFFFFFFFFFFFFFFFF), (2, 1)])).th.pc = 0x1004 := by decide

theorem test_call : (after (.call 4) (unit [])).th.read 31 = 0x1004 ∧ (after (.call 4) (unit [])).th.pc = 0x1010 := by decide

theorem test_callr_same_register : (after (.callr 1 1) (unit [(1, 0x2000)])).th.pc = 0x2000 ∧
    (after (.callr 1 1) (unit [(1, 0x2000)])).th.read 1 = 0x1004 := by decide

theorem meets_HardwareLoops : (unit []).Free (.loopi 3 2) ∧ (unit []).Free (.loopi 0 2) ∧ (unit []).Free (.loop 1 0) := by
  and_intros <;> exact free_of (by decide)

/-- R139: the word at LE - 4 turns back while the count is above 1, and the last round leaves. -/
theorem test_loop_back : (after (.addi 1 1 1) (after (.loopi 2 1) (unit []))).th.pc = 0x1004 ∧
    (after (.addi 1 1 1) (after (.addi 1 1 1) (after (.loopi 2 1) (unit [])))).th.pc = 0x1008 := by decide

theorem test_loop_of_none : (after (.loopi 0 3) (unit [])).th.pc = 0x1010 ∧ code (.loopi 2 0) (unit []) = Code.zeroLoop.num := by decide

/-- A legal payload, a format of 14, and a second prefix. -/
theorem meets_PrefixWords : (unit []).th.mode = .ready ∧ (13 : BitVec 4).toNat < 14 ∧ ¬ (14 : BitVec 4).toNat < 14 ∧ (unit []).th.fv = false ∧
    (unit []).th.la = false ∧ (after (.pfxFmt 13 0 0 0 0) (unit [])).th.mode = .ready ∧ (after (.pfxFmt 13 0 0 0 0) (unit [])).th.fv = true ∧
    (unit []).th.sv = false ∧ (41 : BitVec 6).toNat < 42 := by decide

theorem test_prefix_taken : (after (.pfxFmt 1 0 0 0 0) (unit [])).th.y0 = 0 ∧
    (after (.fadd 3 1 2 0) (after (.pfxFmt 1 0 0 0 0) (unit []))).th.fv = false ∧
    code (.add 3 1 2) (after (.pfxFmt 1 0 0 0 0) (unit [])) = Code.pfx.num := by decide +kernel

theorem meets_WordsThatAreNoInstruction : (unit []).th.mode = .ready ∧ Instr.isScalar (.add 3 1 2) = true ∧ Instr.wf (.add 3 1 2) = true ∧
    (after (.pfxFmt 1 0 0 0 0) (unit [])).th.fv = true ∧ takesFmt (.add 3 1 2) = false ∧ (after (.pfxScl 1 0 1 0) (unit [])).th.sv = true ∧
    takesScl (.add 3 1 2) = false ∧ State.reset.th.mode ≠ .ready := by decide

/-- R132's examples, 448 + 2^-9: an f32 sum, and one in e4m3 under RUP and under RDN. -/
theorem test_prefixed_sums :
    (after (.fadd 3 1 2 1) (after (.pfxFmt 5 5 0 3 0) (unit [(1, 0x7E), (2, 1)]))).th.read 3 = 0x43E00040 ∧
    ((after (.fadd 3 1 2 1) (after (.pfxFmt 5 5 5 3 0) (unit [(1, 0x7E), (2, 1)]))).th.read 3,
      (after (.fadd 3 1 2 1) (after (.pfxFmt 5 5 5 3 0) (unit [(1, 0x7E), (2, 1)]))).th.ffl) = (0x7E, fOVF ||| fINX) ∧
    ((after (.fadd 3 1 2 1) (after (.pfxFmt 5 5 5 2 0) (unit [(1, 0x7E), (2, 1)]))).th.read 3,
      (after (.fadd 3 1 2 1) (after (.pfxFmt 5 5 5 2 0) (unit [(1, 0x7E), (2, 1)]))).th.ffl) = (0x7E, fINX) := by decide +kernel

/-- R79: a payload that is written without being pending stays over words. -/
theorem test_payload_stays : (after (.add 3 1 2) { unit [] with th := { (unit []).th with fmt := 5 } }).th.fmt = 5 := by decide +kernel

/-- A reserved scope, a size of no load, and an odd pair. -/
theorem meets_ReservedFields : Instr.wf (.fence 7) = false ∧ Instr.isScalar (.fence 7) = true ∧ Instr.wf (.ldp 5 1 0 0) = false ∧
    (5 : Spec).toNat % 2 = 1 ∧ 5 ≤ (6 : BitVec 3).toNat ∧ 3 ≤ (3 : Spec).toNat ∧ 4 ≤ (4 : Spec).toNat := by decide

theorem test_reserved : code (.fence 7) (unit []) = Code.illegal.num ∧ code (.ldp 5 1 0 0) (unit []) = Code.illegal.num := by decide

theorem test_unassigned : code (.illegalWord 0xFC000000) (unit []) = Code.illegal.num ∧
    code (.unassignedFnWord 0xC3000000) (unit []) = Code.pfx.num := by decide

theorem meets_TrapEntersHandler :
    let s := rich []
    s.Free (.trap 5) ∧ s.hasCmds s.th = false ∧ s.th.inflight = [] ∧ (s.grant 0 0 0).isSome = true ∧
    (∀ b, s.grant 0 0 0 = some b → b.handler ≠ 0) ∧ s.ctx? 0 = some ctx0 ∧ ctx0.hsave ≠ 0 ∧ s.th.inHandler = false ∧
    (0x4C00000 : Word) = ctx0.hsave + BitVec.ofNat 64 (0xC00000 + 64 * (16 * 0 + 0)) ∧
    s.translate 0 0 0x4C00000 .wr true = .ok (0x4C00000, s) ∧ s.translate 0 0 0x4000000 .wr true = .ok (0x4000000, s) ∧
    s.reachPa 0x4C00000 .wr 0x4C00000 = .ok 0x4C00000 ∧ s.reachPa 0x4000000 .wr 0x4000000 = .ok 0x4000000 ∧ s.bad = [] ∧ s.stores = [] ∧
    s.Free .eret ∧ s.th.mode = .ready := by
  intro s
  and_intros <;> first | exact free_of (by decide) | decide +kernel

/-- The thread in its handler, its context saved. -/
def handling : State := after (.trap 5) (rich [(3, 7)])

/-- R153, R154: the handler runs with its record, and eret gives the registers back. -/
theorem test_trap_enters : handling.th.pc = 0x8000 ∧ handling.th.read 3 = 0 ∧ handling.readNat .mem 0x4C00003 1 = 5 := by decide +kernel

theorem test_eret_returns : (after .eret handling).th.pc = 0x1004 ∧ (after .eret handling).th.read 3 = 7 := by decide +kernel

/-- The thread of a unit without a handler, at clk 5; what it tries once more; and a fault of XLATE. -/
def silent (r : Option Retry) : State :=
  let s := rich []
  { s with clk := 5, binds := s.binds.map (fun b => { b with handler := 0 }), th := { s.th with retry := r } }

def xlate0 : Trap := { code := .xlate, addr := 0x1234, retry := true }

def tried : Retry := { trap := { xlate0 with clk := some 3 }, word := 0, first := 0, last := 0 }

theorem meets_FaultsWithoutHandler : (silent none).Free (.trap 5) ∧ (silent none).th.mode = .ready ∧ (silent none).hasCmds (silent none).th = false ∧
    ((silent none).grant 0 0 0).all (fun b => decide (b.handler = 0)) = true ∧ ((silent none).grant 0 0 0).isSome = true ∧
    (silent none).ctx? 0 = some ctx0 ∧ (∀ i < 1023, (silent none).readNat .mem (ctx0.saveBase + 64 * (1 + i) + 40) 8 ≠ (silent none).clk) ∧
    (silent none).th.ticket.getLsbD 63 = false ∧ (silent none).th.escape = none ∧ (silent none).th.peng = 7 ∧
    ((silent none).threads.map Thread.uid).Nodup ∧ (silent none).handled (silent none).th = false ∧ (silent none).th.inHandler = false ∧
    (silent none).th.wait = .none ∧ (silent none).th.inflight = [] ∧ xlate0.retry = true ∧ xlate0.clk = none ∧ xlate0.logged = false ∧
    (silent none).storeSlot 0 none = some 0 ∧ ((silent none).core 0).queue = [] ∧ (silent none).th.retry = none ∧
    (silent (some tried)).th.retry = some tried ∧ tried.trap.code = xlate0.code ∧ tried.trap.addr = xlate0.addr ∧
    (∀ i < 1023, (silent (some tried)).readNat .mem (ctx0.saveBase + 64 * (1 + i) + 40) 8 ≠ (silent (some tried)).clk) ∧
    (silent (some tried)).storeSlot 0 none = some 0 := by
  and_intros <;> first | exact free_of (by decide) | decide +kernel

/-- R345, R348 to R350: the record of a trap, with FATAL; that of a fault that is tried again, with RETRY; and none for its next meeting. -/
theorem test_fault_log : (after (.trap 5) (silent none)).readNat .mem 0x10000040 4 = 0x05010110 ∧ (after (.trap 5) (silent none)).dying = [0] ∧
    ((silent none).takeFault (silent none).th xlate0 0).readNat .mem 0x10000040 3 = 0x020100 + Code.xlate.num ∧
    ((silent (some tried)).takeFault (silent (some tried)).th xlate0 0).readNat .mem 0x10000040 3 = 0 := by decide +kernel

/-- A thread in a handler whose saved context is all zeros but for a byte of its program counter. -/
def returning (pc : Byte) : State :=
  let s := rich []
  { s.put .mem (0x4000000 + 8 * 46) [pc] with th := { s.th with inHandler := true, savea := 0x4000000 } }

theorem meets_ReturnFromHandler : (rich []).Free .eret ∧ (rich []).th.prv = true ∧ (rich []).th.inHandler = false ∧ (plainUser []).Free .eret ∧
    (plainUser []).th.prv = false ∧ (returning 8).Free .eret ∧ (returning 8).th.prv = true ∧ (returning 8).th.inHandler = true ∧
    (returning 8).th.savea = 0x4000000 ∧ (returning 8).stores = [] ∧
    (returning 8).translate 0 0 0x4000000 .rd true = .ok (0x4000000, returning 8) ∧ (returning 8).reachPa 0x4000000 .rd 0x4000000 = .ok 0x4000000 ∧
    (returning 8).bad = [] ∧ (returning 8).th.inflight = [] ∧ (returning 8).readNat .mem (0x4000000 + 8 * 46) 8 % 4 = 0 ∧
    (returning 6).Free .eret ∧ (returning 6).readNat .mem (0x4000000 + 8 * 46) 8 % 4 ≠ 0 := by
  and_intros <;> first | exact free_of (by decide) | decide +kernel

theorem meets_ContextImageRestores : (unit []).th.g[0] = 0 ∧ maskLoopAddr (unit []).th.ls = (unit []).th.ls ∧
    maskLoopAddr (unit []).th.le = (unit []).th.le := by decide

/-- A unit whose context holds slots 0 and 1 of the core. -/
def twoSlots (l : List (Spec × Word)) : State :=
  let s := rich l
  { s with binds := s.binds.map (fun b => { b with slots := 3 }) }

/-- R140: entry in g1, argument in g2, join counter in d. -/
theorem meets_SpawnCreatesThread : (rich [(1, 0x2002)]).Free (.spawn 3 1 2) ∧ ((rich [(1, 0x2002)]).th.read 1).toNat % 4 ≠ 0 ∧
    (rich [(1, 0x2000), (3, 4)]).Free (.spawn 3 1 2) ∧ ((rich [(3, 4)]).th.read 3).toNat % 8 ≠ 0 ∧
    (rich [(1, 0x2000)]).Free (.spawn 3 1 2) ∧ ((rich []).core 0).queue = [] ∧ (rich [(1, 0x2000)]).freeSlot 0 0 = none ∧
    (twoSlots [(1, 0x2000), (3, 0x100)]).Free (.spawn 3 1 2) ∧ (twoSlots [(1, 0x2000), (3, 0x100)]).freeSlot 0 0 = some 1 ∧
    (twoSlots [(1, 0x2000), (3, 0x100)]).Calm ∧
    (twoSlots [(1, 0x2000), (3, 0x100)]).joinPlace (twoSlots [(1, 0x2000), (3, 0x100)]).th 0x100 =
      .ok (0x100, twoSlots [(1, 0x2000), (3, 0x100)]) := by
  and_intros <;> first | exact free_of (by decide) | exact calm_of (by decide) | decide +kernel

theorem test_spawn : (after (.spawn 3 1 2) (twoSlots [(1, 0x2000), (3, 0x100)])).th.read 3 = 1 ∧
    (after (.spawn 3 1 2) (twoSlots [(1, 0x2000), (3, 0x100)])).readNat .mem 0x100 8 = 1 ∧
    (after (.spawn 3 1 2) (rich [(1, 0x2000)])).th.read 3 = 0xFFFFFFFFFFFFFFFF := by decide +kernel

/-- A spawned thread that counts itself at 0x100 for the thread of slot 0 of core 0. -/
def child : State :=
  let s := twoSlots []
  { (s.put .mem 0x100 [1]) with th := { s.th with join := 0x100, parent := 0x8000000000000000 } }

theorem meets_ExitEndsThread : (twoSlots []).Free (.exit 1) ∧ (twoSlots []).hasCmds (twoSlots []).th = false ∧
    (twoSlots []).th.ticket.getLsbD 63 = false ∧ (twoSlots []).th.peng = 7 ∧ (twoSlots []).th.byBind = none ∧ (twoSlots []).th.escape = none ∧
    (twoSlots []).exits = [] ∧ (twoSlots []).reg.launches = [] ∧ (twoSlots []).Calm ∧ (twoSlots []).th.join = 0 ∧ child.Free (.exit 1) ∧
    child.th.join ≠ 0 ∧ child.joinPlace child.th 0x100 = .ok (0x100, child) ∧ child.th.parent.getLsbD 63 = true ∧ (child.core 0).names = [] ∧
    child.catalogue (child.th.parent.toNat % 2 ^ 16) = some 0 ∧ child.Calm ∧ child.readNat .mem 0x100 8 = 1 := by
  and_intros <;> first | exact free_of (by decide) | exact calm_of (by decide) | decide +kernel

/-- A launch of threads that runs. -/
def launch0 : Launch :=
  { ticket := 0, queue := 0, ctx := 0, pri := 5, spec := parseLaunch [], phase := .running, order := 0, prev := none, left := 1, nnz := 0, xmax := 0,
    npois := 0, late := 0, flg := 0, place := [], saved := [], abort := false, barred := false }

/-- The callee of a callx; a thread that holds the NBL, and one that waits for it; and a thread of a bind record of launch 16384. -/
def calledX : State := { twoSlots [(1, 9)] with th := { (twoSlots [(1, 9)]).th with ticket := 0x8000000000000005 } }

def pinning (ws : List Nat) : State :=
  let s := twoSlots []
  { s with th := { s.th with peng := 1 }, nextId := 10, engines := [{ s.engine 1 0 with holder := some 0, waiters := ws }],
           others := [{ (unit []).th with uid := 5, slot := 1, ctx := 0, mode := .waiting, wait := .pin 1 }] }

def reporting : State :=
  let s := twoSlots [(1, 0x100000007)]
  let l : Launch := { launch0 with left := 2 }
  { s with th := { s.th with byBind := some 0, origin := l.ticket }, reg := { s.reg with launches := [l] } }

theorem meets_ExitForms : calledX.Free (.exit 1) ∧ calledX.hasCmds calledX.th = false ∧ calledX.Calm ∧ calledX.th.ticket.getLsbD 63 = true ∧
    (pinning []).Free (.exit 1) ∧ (pinning []).Calm ∧ (pinning []).hasCmds (pinning []).th = false ∧ (pinning []).heldUnit 1 (pinning []).th = 0 ∧
    ((pinning []).engine 1 0).waiters = [] ∧ ((pinning []).core 0).queue = [] ∧ (pinning [5]).Free (.exit 1) ∧ (pinning [5]).Calm ∧
    ((pinning [5]).engine 1 0).waiters = [5] ∧ ((pinning [5]).getT 5).isSome = true ∧ (pinning [5]).th.mode ≠ .empty ∧ reporting.Free (.exit 1) ∧
    reporting.Calm ∧ reporting.th.byBind = some 0 ∧ reporting.reg.launches.map Launch.left = [2] ∧
    reporting.reg.launches.map Launch.ticket = [reporting.th.origin] ∧ reporting.hasCmds reporting.th = false := by
  and_intros <;> first | exact free_of (by decide) | exact calm_of (by decide) | decide +kernel

/-- R141, R150, R151, R333: the value goes to the caller, the engine to the waiter, the exit code to the launch. -/
theorem test_exit_forms : (after (.exit 1) calledX).answers = [⟨5, 9, none⟩] ∧ ((after (.exit 1) (pinning [5])).engine 1 0).holder = some 5 ∧
    ((after (.exit 1) (pinning [5])).getT 5).map Thread.peng = some 1 ∧
    (after (.exit 1) reporting).reg.launches.map (fun l => (l.left, l.nnz, l.xmax)) = [(1, 1, 7)] := by decide +kernel

theorem test_exit_wakes : (after (.exit 1) child).wakes = [⟨1, 0, 0, 0⟩] ∧ (after (.exit 1) child).readNat .mem 0x100 8 = 0 := by decide +kernel

/-- A second thread of the unit, in slot 1. -/
def other (f : Thread → Thread) : Thread := f { (unit []).th with uid := 5, slot := 1, ctx := 0 }

/-- A unit with that thread. -/
def pair (l : List (Spec × Word)) (f : Thread → Thread) : State := { twoSlots l with others := [other f], nextId := 10 }

/-- The other thread asleep until 50, at 50 and after it, and awake. -/
def asleep (t : Thread) : Thread := { t with mode := .sleeping, deadline := 50, sleepTo := 50 }

def slept : State := { pair [] asleep with wakes := [⟨3, 0, 0, 1⟩], clk := 50 }

def slept51 : State := { slept with clk := 51 }

def awake : State := { pair [] (fun t => t) with wakes := [⟨3, 0, 0, 1⟩] }

/-- The thread of that name is the only one. -/
def holdsB (s : State) (u : Nat) (t : Thread) : Bool :=
  decide (s.getT u = some t) && decide (t.mode ≠ .empty) && (decide (s.th.mode ≠ .empty) || decide (s.th.uid ≠ u))

theorem holds_of {s : State} {u : Nat} {t : Thread} (h : holdsB s u t = true) : s.Holds u t := by
  simp only [holdsB, Bool.and_eq_true, Bool.or_eq_true, decide_eq_true_eq] at h
  exact ⟨h.1.1, h.1.2, fun e => h.2.resolve_left (fun x => x e)⟩

theorem meets_YieldSleepWake : (unit []).Free .yield ∧ (unit []).Free (.sleep 1) ∧ (unit []).th.wakePending = false ∧ (unit []).th.deadline = 0 ∧
    ({ unit [] with th := { (unit []).th with wakePending := true } } : State).Free (.sleep 1) ∧ (rich []).Free (.wake 1) ∧ (rich []).Calm ∧
    ((rich []).core 0).names = [] ∧ (rich []).catalogue 0 = some 0 ∧ (rich []).catalogue 64 = none ∧ (rich [(1, 64)]).Free (.wake 1) ∧
    slept.wakes.find? (fun x => x.id == 3) = some ⟨3, 0, 0, 1⟩ ∧
    slept.threads.find? (fun x => x.ctx == 0 && x.core == 0 && x.slot == 1 && x.place == .slot) = some (other asleep) ∧
    slept.Holds 5 (other asleep) ∧ slept.clk ≤ (other asleep).sleepTo ∧ slept51.Holds 5 (other asleep) ∧ (other asleep).sleepTo < slept51.clk ∧
    slept51.wakes.find? (fun x => x.id == 3) = some ⟨3, 0, 0, 1⟩ ∧
    slept51.threads.find? (fun x => x.ctx == 0 && x.core == 0 && x.slot == 1 && x.place == .slot) = some (other asleep) ∧
    awake.Holds 5 (other (fun t => t)) ∧ awake.wakes.find? (fun x => x.id == 3) = some ⟨3, 0, 0, 1⟩ := by
  and_intros <;> first | exact free_of (by decide) | exact calm_of (by decide) | exact holds_of (by decide +kernel) | decide +kernel

/-- R144: a wake in the clk of the deadline comes first. -/
theorem test_wake_ends_sleep : ((after (.wakeArrival 3) slept).getT 5).map Thread.y0 = some 1 ∧
    ((after (.sleepDeadline 5) slept).getT 5).map Thread.mode = some .sleeping ∧
    ((after (.sleepDeadline 5) slept51).getT 5).map Thread.y0 = some 0 ∧
    ((after (.wakeArrival 3) awake).getT 5).map Thread.wakePending = some true := by decide +kernel

/-- The thread holds semaphore 0 with a count; w waits for it. -/
def semaphore (count : Nat) (ws : List Nat) (f : Thread → Thread) : State :=
  let s := pair [] f
  { s with cores := [(0, { s.core 0 with sems := (s.core 0).sems.set 0 { grant := some 0, count := count, waiters := ws } })] }

theorem meets_Semaphores : (unit []).th.inflight = [] ∧ ((unit []).core 0).sems.toList.getD 0 Sem.initial = Sem.initial ∧ (unit []).Free (.semp 0) ∧
    (unit []).Free (.semv 0) ∧ (semaphore 1 [] id).Free (.semp 0) ∧ ((semaphore 1 [] id).core 0).sems.toList.getD 0 Sem.initial = ⟨some 0, 1, []⟩ ∧
    (semaphore 0 [] id).Free (.semp 0) ∧ (semaphore 0 [] id).Free (.semv 0) ∧
    (semaphore 0 [5] (fun t => { t with mode := .waiting, wait := .sem 0 })).Free (.semv 0) ∧
    (semaphore 0 [5] (fun t => { t with mode := .waiting, wait := .sem 0 })).Holds 5 (other (fun t => { t with mode := .waiting, wait := .sem 0 })) := by
  and_intros <;> first | exact free_of (by decide) | exact holds_of (by decide +kernel) | decide +kernel

theorem test_semv_releases : ((after (.semv 0) (semaphore 0 [5] (fun t => { t with mode := .waiting, wait := .sem 0 }))).getT 5).map Thread.mode =
    some .ready := by decide +kernel

theorem test_semp_waits : (after (.semp 0) (semaphore 0 [] id)).th.wait = .sem 0 ∧ (after (.semp 0) (semaphore 1 [] id)).th.mode = .ready := by
  decide +kernel

/-- A participant that waits on a bus. -/
def inBus (t : Thread) : Thread := { t with mode := .waiting, wait := .bus none 0 }

/-- The stripe's bus 0 with one arrival of two. -/
def halfBus : State := { pair [(1, 0x10000)] inBus with buses := [⟨0, 0, 0, 2, [⟨5, 0, 1, false, 0, false⟩]⟩] }

/-- An instance of three with one arrival; 64 other instances on the bus; a release kept for the thread. -/
def thirdBus : State := { halfBus with buses := [⟨0, 0, 0, 3, [⟨5, 0, 1, false, 0, false⟩]⟩] }

def busyBus : State := { unit [(1, 0x10000)] with buses := List.replicate 64 ⟨0, 1, 0, 2, []⟩ }

def released : State := { unit [] with th := { (unit []).th with wres := 4, wresValid := true } }

theorem meets_BusBarriers : released.Free (.barr 1) ∧ released.Free (.bcast 1 2) ∧ released.th.wresValid = true ∧ busyBus.Free (.barr 1) ∧
    busyBus.buses.find? (fun b => b.bus == 0 && b.bid == 0 && b.ctx == 0) = none ∧ (busyBus.buses.filter (fun b => b.bus == 0)).length = 64 ∧
    thirdBus.Free (.barr 1) ∧ thirdBus.Calm ∧
    thirdBus.buses.find? (fun b => b.bus == 0 && b.bid == 0 && b.ctx == 0) = some ⟨0, 0, 0, 3, [⟨5, 0, 1, false, 0, false⟩]⟩ ∧
    halfBus.buses.find? (fun b => b.bus == 0 && b.bid == 0 && b.ctx == 0) = some ⟨0, 0, 0, 2, [⟨5, 0, 1, false, 0, false⟩]⟩ ∧
    (other inBus).wait = .bus none 0 ∧ (other inBus).mode = .waiting ∧ (5 : Nat) ≠ halfBus.th.uid ∧ (unit []).Free (.barr 1) ∧ (unit []).Free (.bcast 1 2) ∧ (unit []).th.wresValid = false ∧ (unit []).Calm ∧
    255 < fieldOf (0x1000000 : Word) 16 9 ∧ fieldOf (0xFF0000 : Word) 16 9 = 255 ∧ (unit []).buses = [] ∧ fieldOf (0 : Word) 16 9 = 0 ∧
    halfBus.Free (.barr 1) ∧ halfBus.Calm ∧ halfBus.th.wresValid = false ∧ busOf 0 false = 0 ∧ fieldOf (halfBus.th.read 1) 16 9 = 1 ∧
    halfBus.Holds 5 (other inBus) := by
  and_intros <;> first | exact free_of (by decide) | exact calm_of (by decide) | exact holds_of (by decide +kernel) | decide

/-- R146, R147: the last arrival releases both; a lone root gets its own value. -/
theorem test_barr_releases : (after (.barr 1) halfBus).buses = [] ∧ ((after (.barr 1) halfBus).getT 5).map Thread.mode = some .ready ∧
    (after (.barr 1) halfBus).busCount 0 0 0 = 1 := by decide +kernel

theorem test_bcast : (after (.bcast 3 2) (unit [(3, 0x100), (2, 9)])).th.read 3 = 9 := by decide +kernel

/-- A unit whose second core's arrival queue is full. -/
def crowded (l : List (Spec × Word)) : State :=
  let s := rich l
  { s with cores := s.cores ++ [(1, { CoreSt.initial with queue := List.replicate 16 9 })] }

/-- The module with a second core's context: a call from core 0 to the core named 1. -/
theorem meets_CallsToOtherCores : (rich [(1, 0x2000), (3, 1)]).Free (.callx 3 1 2) ∧ (rich []).th.wresValid = false ∧ (rich [(1, 0x2001)]).Free (.callx 3 1 2) ∧
    ((rich []).core 0).names = [] ∧ (rich []).catalogue 64 = none ∧ (rich []).catalogue 1 = some 1 ∧
    (rich [(1, 0x2000), (3, 1)]).sendHeld (rich [(1, 0x2000), (3, 1)]).th 1 = false ∧ (rich [(1, 0x2000), (3, 1)]).Calm ∧ (rich []).Free (.reply 1) ∧
    (crowded [(1, 0x2000), (3, 1)]).Free (.callx 3 1 2) ∧ (crowded [(1, 0x2000), (3, 1)]).sendHeld (crowded [(1, 0x2000), (3, 1)]).th 1 = true ∧
    (crowded []).catalogue 1 = some 1 ∧ ((crowded []).core 0).names = [] ∧ released.Free (.callx 3 1 2) ∧ released.th.wresValid = true ∧
    (rich []).th.ticket.getLsbD 63 = false ∧ ((rich []).core 0).names.length < 64 := by
  and_intros <;> first | exact free_of (by decide) | exact calm_of (by decide) | decide +kernel

/-- A callee, and a caller to which the answer comes. -/
def callee : State := { rich [(1, 7)] with th := { (rich [(1, 7)]).th with ticket := 0x8000000000000005 } }

def caller (f : Thread → Thread) : State := { pair [] (fun t => f { t with wait := .callx 3 }) with answers := [⟨5, 7, none⟩] }

def failing : State := { caller (fun t => { t with mode := .waiting }) with answers := [⟨5, 0, some { code := .prot }⟩] }

theorem meets_CallAnswers : callee.Free (.reply 1) ∧ callee.th.ticket.getLsbD 63 = true ∧ callee.hasCmds callee.th = false ∧ callee.th.peng = 7 ∧
    callee.Calm ∧ (caller (fun t => { t with mode := .waiting })).answers = [{ uid := 5, value := 7, fault := none }] ∧
    (caller (fun t => { t with mode := .waiting })).Holds 5 (other (fun t => { t with wait := .callx 3, mode := .waiting })) ∧
    (caller (fun t => { t with mode := .descheduled })).Holds 5 (other (fun t => { t with wait := .callx 3, mode := .descheduled })) ∧
    failing.answers = [{ uid := 5, value := 0, fault := some { code := .prot } }] ∧
    failing.Holds 5 (other (fun t => { t with wait := .callx 3, mode := .waiting })) := by
  and_intros <;> first | exact free_of (by decide) | exact calm_of (by decide) | exact holds_of (by decide +kernel) | decide +kernel

theorem test_callx : ((after (.callx 3 1 2) (rich [(1, 0x2000), (2, 9), (3, 1)])).getT 1).map (fun t => (t.core, t.read 1, t.pc)) =
      some (1, 9, 0x2000) ∧ (after (.reply 1) callee).answers = [⟨5, 7, none⟩] ∧
    ((after (.callxAnswer 5) (caller (fun t => { t with mode := .waiting }))).getT 5).map (fun t => t.read 3) = some 7 := by decide +kernel

/-- A thread that arrives at core 1. -/
def arriving (t : Thread) : Thread := { t with core := 1, place := .queue, mode := .waiting, wait := .arrival }

def arrival : State :=
  let s := pair [] arriving
  { s with unit := 1, binds := s.binds ++ [{ s.binds.headD ⟨false, 0, 0, 0, 0, 0, 0, 0, 0, 0, 0, none⟩ with unit := 1 }],
           cores := s.cores ++ [(1, { CoreSt.initial with queue := [5] })] }

/-- The same with no slot for it, a quantum later. -/
def overdue : State := { arrival with clk := Config.quantum, binds := [] }

theorem meets_Migration : (rich []).Free (.migr 1) ∧ (rich []).catalogue 0 = some 0 ∧ (rich [(1, 1)]).Free (.migr 1) ∧ (rich []).catalogue 1 = some 1 ∧
    (rich []).th.peng = 7 ∧ (rich []).hasCmds (rich []).th = false ∧ (rich [(1, 1)]).sendHeld (rich [(1, 1)]).th 1 = false ∧
    ((rich [(1, 1)]).resolveName 0 1).map Prod.fst = some 1 ∧ ((rich []).resolveName 0 0).map Prod.fst = some 0 ∧ (rich [(1, 64)]).Free (.migr 1) ∧
    (rich []).resolveName 0 64 = none ∧ (crowded [(1, 1)]).Free (.migr 1) ∧ (crowded [(1, 1)]).sendHeld (crowded [(1, 1)]).th 1 = true ∧
    ((crowded []).resolveName 0 1).map Prod.fst = some 1 ∧ (pinned 2 [(1, 1)]).Free (.migr 1) ∧ (pinned 2 []).th.peng ≠ 7 ∧
    ({ arrival with binds := [] } : State).freeSlot 1 0 = none ∧ ({ arrival with binds := [] } : State).Holds 5 (other arriving) ∧
    ((rich []).core 0).queue = [] ∧ (rich [(1, 1)]).Calm ∧ ((rich []).core 0).names = [] ∧ (arrival.core arrival.unit).queue = [5] ∧
    arrival.Holds 5 (other arriving) ∧ arrival.freeSlot arrival.unit 0 = some 0 ∧
    (pair [] (fun t => { t with mode := .stalled })).Holds 5 (other (fun t => { t with mode := .stalled })) ∧
    overdue.Holds 5 (other arriving) ∧ (other arriving).since + Config.quantum ≤ overdue.clk ∧ (overdue.core overdue.unit).queue = [5] ∧
    overdue.ctx? 0 = some ctx0 ∧ overdue.storeSlot 0 none = some 0 ∧ (5 : Nat) ∉ ([] : List Nat) := by
  and_intros <;> first | exact free_of (by decide) | exact calm_of (by decide) | exact holds_of (by decide +kernel) | decide +kernel

theorem test_migration : (after (.migr 1) (rich [(1, 1)])).th.core = 1 ∧ (after (.migr 1) (rich [(1, 1)])).th.place = .queue ∧
    ((after .migrationArrival arrival).getT 5).map (fun t => (t.place, t.slot, t.mode)) = some (.slot, 0, .ready) := by decide +kernel

/-- An engine that thread 0 has pinned and that thread 5 waits for. -/
def unpinning : State :=
  let s := pair [] (fun t => { t with mode := .waiting, wait := .pin 2 })
  { s with th := { s.th with peng := 2, mode := .waiting, wait := .unpin 2 }, engines := [{ s.engine 2 0 with holder := some 0, waiters := [5] }] }

/-- A thread that has pinned the page selector, for which another waits. -/
def wanted : State :=
  let s := pair [] (fun t => { t with mode := .waiting, wait := .pin 2 })
  { s with th := { s.th with peng := 2 }, engines := [{ s.engine 2 0 with holder := some 0, waiters := [5] }] }

theorem meets_EnginePins : wanted.Free (.unpin 2) ∧ wanted.heldUnit 2 wanted.th = 0 ∧ (wanted.engine 2 0).fifo = [] ∧
    wanted.Holds 5 (other (fun t => { t with mode := .waiting, wait := .pin 2 })) ∧ (pinned 2 []).heldUnit 2 (pinned 2 []).th = 0 ∧ (unit []).Free (.pin 2) ∧ (unit []).th.peng = 7 ∧ ((unit []).engine 2 0).holder = none ∧ ((unit []).engine 2 0).waiters = [] ∧
    (pinned 2 []).Free (.pin 3) ∧ (pinned 2 []).th.peng ≠ 7 ∧ (pinned 2 []).Free (.unpin 2) ∧ (pinned 2 []).Free (.unpin 1) ∧
    (pinned 2 []).th.peng = 2 ∧ ((pinned 2 []).engine 2 0).fifo = [] ∧ ((pinned 2 []).engine 2 0).waiters = [] ∧
    ({ pinned 2 [] with th := (unit []).th } : State).Free (.pin 2) ∧ ((pinned 2 []).engine 2 0).holder ≠ none ∧
    (runs 2 0 [] [] (pinned 2 [])).Free (.unpin 2) ∧ (∃ c ∈ ((runs 2 0 [] [] (pinned 2 [])).engine 2 0).fifo, c.uid = 0) ∧
    (unpinning.engine 2 0).holder = some 0 ∧ (unpinning.engine 2 0).waiters = [5] ∧ unpinning.Holds 0 unpinning.th ∧
    unpinning.Holds 5 (other (fun t => { t with mode := .waiting, wait := .pin 2 })) ∧ (unpinning.engine 2 0).fifo = [] := by
  and_intros <;> first | exact free_of (by decide) | exact holds_of (by decide +kernel) | decide +kernel

theorem test_pin_handoff : ((after (.pinHandoff 2 0) unpinning).engine 2 0).holder = some 5 ∧ (after (.pinHandoff 2 0) unpinning).th.peng = 7 := by
  decide +kernel

theorem test_pin_twice : code (.pin 3) (pinned 2 []) = Code.priv.num ∧ (after (.pin 3) (unit [])).th.peng = 3 := by decide +kernel

/-- A lock word at 0x100 that names slot 1 of core 0 of context 0, and a thread that waits for it. -/
def locked : State := (rich [(1, 0x100)]).put .mem 0x100 [0, 0, 1]

/-- The launches of a high and a low priority, the holder of the lock in the save area, the waiter in the only slot. -/
def lending : State :=
  let s := locked
  { s with th := { s.th with mode := .waiting, wait := .lock 0x100 0x100 false },
           others := [other (fun t => { t with mode := .descheduled, place := .saved, origin := 1 })],
           reg := { s.reg with launches := [launch0, { launch0 with ticket := 1, pri := 2 }] } }

/-- The waiter saved, its lock word written. -/
def lent : State :=
  let s := locked
  { s with th := { s.th with mode := .descheduled, place := .saved, wait := .lock 0x100 0x100 true } }

theorem meets_LockWords : locked.Free (.waitl 1) ∧ locked.resolve locked.th 0 0x100 8 .rd = .ok (.at .mem 0x100, locked) ∧ locked.Calm ∧
    locked.readNat .mem 0x100 8 ≠ 0 ∧ (rich [(1, 0x100)]).readNat .mem 0x100 8 = 0 ∧ (rich [(1, 0x104)]).Free (.waitl 1) ∧
    ({ lending with th := { lending.th with wait := .lock 0x100 0x100 true } } : State).Holds 0
      { lending.th with wait := .lock 0x100 0x100 true } ∧ ({ lending with th := { lending.th with wait := .lock 0x100 0x100 true } } : State).Calm ∧
    lending.th.wait = .lock 0x100 0x100 false ∧ lending.Holds 0 lending.th ∧ lending.th.place = .slot ∧
    lending.holderOf lending.th (lending.readNat .mem 0x100 8) = some (other (fun t => { t with mode := .descheduled, place := .saved, origin := 1 })) ∧
    lending.threadPri (other (fun t => { t with mode := .descheduled, place := .saved, origin := 1 })) < lending.threadPri lending.th ∧
    lent.Holds 0 lent.th ∧ lent.th.wait = .lock 0x100 0x100 true ∧ lent.th.mode = .descheduled ∧ lent.freeSlot 0 0 = some 0 ∧
    lending.resumable (other (fun t => { t with mode := .descheduled, place := .saved, origin := 1 })) = true ∧ lending.freeSlot 0 0 = none ∧
    (lending.saveThread lending.th none).map (fun s => s.freeSlot 0 0) = some (some 0) ∧ lending.Holds 5 (other (fun t => { t with mode := .descheduled, place := .saved, origin := 1 })) := by
  and_intros <;> first
    | exact free_of (by decide) | exact calm_of (by decide) | exact holds_of (by decide +kernel) | decide +kernel

/-- R152: a write to the word marks the wait, and R339: the waiter lends its slot. -/
theorem test_lock_written : (lending.put .mem 0x107 [1]).th.wait = .lock 0x100 0x100 true ∧ (lending.put .mem 0x108 [1]).th.wait = .lock 0x100 0x100 false := by
  decide +kernel

theorem test_lock_lent : ((after (.lockLend 0) lending).getT 5).map Thread.place = some .slot ∧
    ((after (.lockLend 0) lending).getT 0).map Thread.place = some .saved := by decide +kernel

/-- Deep scratch of context 0 below 256 MiB. -/
theorem deep_has {s : State} (hc : s.ctx? 0 = some ctx0) (hj : s.joined = [0]) {lo n : Nat} (h : lo + n ≤ 2 ^ 28) : s.DeepHas 0 lo n := by
  refine ⟨by omega, fun x h1 h2 => ?_⟩
  have hd : x / 2 ^ 31 = 0 := by omega
  have hu : x / 67108864 % 32 < 4 := by omega
  simp only [State.deepOk, hc, hd]
  simpa [State.fieldJoined, hj, ctx0, upto] using hu
/-- The conditions of `State.Runs`, as a test; no thread waits. -/
def runsB (s : State) (i : Instr) (e : Nat) (c : Cmd) (cs : List Cmd) : Bool :=
  decide (engineRun i = some (e, c.op)) && decide ((s.engine e s.unit).fifo = c :: cs) && decide (c.status = none ∧ c.toks = []) &&
    !s.cmdHeld e c && s.stores.isEmpty && s.bad.isEmpty && s.threads.all (fun t => t.wait == .none) &&
    decide (e = 0 → s.unit < 2048)

theorem runs_of {s : State} {i : Instr} {e : Nat} {c : Cmd} {cs : List Cmd} (h : runsB s i e c cs = true) : s.Runs i e c cs := by
  simp only [runsB, Bool.and_eq_true, List.isEmpty_iff, List.all_eq_true, decide_eq_true_eq, beq_iff_eq] at h
  obtain ⟨⟨⟨⟨⟨⟨⟨h1, h2⟩, h3⟩, h0⟩, h4⟩, h5⟩, h6⟩, h7⟩ := h
  exact ⟨h1, h2, h3, by simpa using h0, h4, h5, fun t m d x p l => by simp [h6 t m], h7⟩

/-- An engine's holder that finds its queue full. -/
def filled (e : Nat) (l : List (Spec × Word)) : State :=
  let s := pinned e l
  { s with engines := s.engines.map (fun x => { x with fifo := List.replicate 32 (cmd0 0 [] []) }) }

/-- A block in g16 up for the copy engine and the engines: no pin; a block past g31; an address of class 0 for BINS; a semaphore that is
not granted; a channel that is not there; and blocks that are taken. -/
theorem meets_EngineCommandsAccepted : engineWord (.nblBox 3 16) = some (1, 0, 3, 3, 16) ∧ (unit []).Free (.nblBox 3 16) ∧ (unit []).th.peng.toNat ≠ 1 ∧
    (pinned 1 []).Free (.nblBox 3 30) ∧ (pinned 1 []).th.peng.toNat = 1 ∧ blockOk 3 30 = false ∧ blockOk 3 29 = true ∧
    (pinned 1 []).Free (.nblBox 3 16) ∧ commandLegal (.nblBox 3 16) 1 ((pinned 1 []).th.block 16 3) ((pinned 1 []).engine 1 0) = false ∧
    (pinned 0 []).Free (.cqpush 3 16) ∧ commandLegal (.cqpush 3 16) 0 ((pinned 0 []).th.block 16 4) ((pinned 0 []).engine 0 0) = true ∧
    ((pinned 0 []).engine 0 0).fifo.length < 32 ∧ ((pinned 0 []).core 0).sb.length < 32 ∧ (pinned 0 []).th.busy 3 = false ∧
    ((pinned 0 []).th.block 16 4).headD 0 = 0 ∧ (pinned 0 [(16, 0x1000000000000)]).Free (.cqpush 3 16) ∧
    commandLegal (.cqpush 3 16) 0 ((pinned 0 [(16, 0x1000000000000)]).th.block 16 4) ((pinned 0 []).engine 0 0) = true ∧
    (pinned 0 []).semGranted (pinned 0 []).th 0 = false ∧ ((pinned 0 []).engine 0 0).holder = some (pinned 0 []).th.uid ∧
    ((pinned 1 []).engine 1 0).holder = some (pinned 1 []).th.uid ∧ ((pinned 4 []).engine 4 0).holder = some (pinned 4 []).th.uid ∧
    (filled 0 []).Free (.cqpush 3 16) ∧ 32 ≤ ((filled 0 []).engine 0 0).fifo.length ∧ (filled 0 []).th.peng = 0 ∧
    commandLegal (.cqpush 3 16) 0 ((filled 0 []).th.block 16 4) ((filled 0 []).engine 0 0) = true ∧ (pinned 4 []).Free (.wdqGrid 3 16) ∧
    commandLegal (.wdqGrid 3 16) 4 ((pinned 4 []).th.block 16 1) ((pinned 4 []).engine 4 0) = true ∧ (pinned 1 []).Free (.nblStat 3) ∧
    commandLegal (.nblStat 3) 1 [] ((pinned 1 []).engine 1 0) = true := by
  and_intros <;> first | exact free_of (by decide) | decide

/-- The NBL's geometry: POS in deep scratch at 1 MiB, BINS at 0, two particles, 8 to a cell. -/
def nblGeom : List Word := [0x8000000000100000, 0x8000000000000000, 0x208, 0]

/-- An engine with that geometry, and a channel that clerk threads write. -/
def nblReady (l : List (Spec × Word)) : State :=
  let s := pinned 1 l
  { s with ctxs := [ctx0], joined := [0], engines := s.engines.map (fun x => { x with geom := nblGeom }),
           chans := [{ ctx := 0, num := 0, ring := { slots := 4, vbase := 0, size := 0, q := [], chead := 0, ccount := 0 }, cons := 2, prod := 2,
                       taken := 0, run := none, getters := [] }] }

theorem meets_EngineChannel : (nblReady []).Free (.nblPairs 3 16) ∧
    commandLegal (.nblPairs 3 16) 1 ((nblReady []).th.block 16 1) ((nblReady []).engine 1 0) = true ∧
    ((nblReady []).chan? 0 0).map Chan.prod = some 2 ∧ (nblReady [(16, 1)]).Free (.nblPairs 3 16) ∧
    commandLegal (.nblPairs 3 16) 1 ((nblReady [(16, 1)]).th.block 16 1) ((nblReady []).engine 1 0) = true ∧ (nblReady []).chan? 0 1 = none := by
  and_intros <;> first | exact free_of (by decide) | decide

/-- R305: without the pin PRIV; a command is in flight for its destination. -/
theorem test_engine_pin : code (.nblBox 3 16) (unit []) = Code.priv.num ∧ ((after (.cqpush 3 16) (pinned 0 [])).engine 0 0).fifo.length = 1 ∧
    (after (.cqpush 3 16) (pinned 0 [])).th.busy 3 = true := by decide +kernel

/-- A thread whose command has ended, its status in flight for g3. -/
def retiring : State :=
  let s := after (.cqpush 3 16) (pinned 0 [])
  { s with engines := s.engines.map (fun x => { x with fifo := x.fifo.map (fun c => { c with status := some 0x55 }) }) }

theorem meets_CommandsRetire : (retiring.engine 0 0).fifo = [{ cmd0 0 [0, 0, 0, 0] ((unit []).engine 0 0).geom with id := 1, resolved := true, status := some 0x55 }] ∧
    retiring.unit = 0 ∧ retiring.Holds 0 retiring.th ∧ retiring.th.mode = .ready ∧
    retiring.th.inflight.find? (fun g => g.id == 1) = some ⟨1, some 3, none, .status⟩ ∧ (0 : Word).getLsbD 48 = false := by
  and_intros <;> first | exact holds_of (by decide +kernel) | decide +kernel

theorem test_copy_retire : (after .copyRetire retiring).th.read 3 = 0x55 ∧ (after .copyRetire retiring).th.y0 = 0x55 ∧
    ((after .copyRetire retiring).engine 0 0).fifo = [] := by decide +kernel

theorem meets_EngineCommandsEnd :
    (runs 0 0 [0, 0, 0, 0] [] (rich [])).Runs .copyStart 0 (cmd0 0 [0, 0, 0, 0] []) [] ∧
    (runs 1 0 [0, 0, 0] [] (rich [])).Runs .nblBoxExec 1 (cmd0 0 [0, 0, 0] []) [] ∧ (runs 1 1 [0] [] (rich [])).Runs .nblBinExec 1 (cmd0 1 [0] []) [] ∧
    (runs 1 2 [0] [] (rich [])).Runs .nblPairsExec 1 (cmd0 2 [0] []) [] ∧ (runs 1 3 [] [] (rich [])).Runs .nblStatExec 1 (cmd0 3 [] []) [] ∧
    (runs 2 0 [0, 0] [] (rich [])).Runs .pgsSumExec 2 (cmd0 0 [0, 0] []) [] ∧ (runs 2 1 [] [] (rich [])).Runs .pgsSelExec 2 (cmd0 1 [] []) [] ∧
    (runs 3 0 [] [] (rich [])).Runs .sflTabExec 3 (cmd0 0 [] []) [] ∧ (runs 3 1 [] [] (rich [])).Runs .sflBagExec 3 (cmd0 1 [] []) [] ∧
    (runs 4 0 [] [] (rich [])).Runs .wdqGridExec 4 (cmd0 0 [] []) [] ∧ (runs 4 1 [] [] (rich [])).Runs .wdqAskExec 4 (cmd0 1 [] []) [] := by
  and_intros <;> exact runs_of (by decide +kernel)

/-- Copies within the window: 16 bytes from 0x20 to 0x40; a gather of one row of 16 bytes from a table of 4 rows, the index at 0x80. -/
def linearCopy : List Word := [0x2400000000000000, 0x20, 0x40, 16]

def gatherOne (zf : Bool) : List Word := [0x2510000000000001 + (if zf then 0x80000000000 else 0), 0x1000, 0x2000, 0x80]

def gatherGeom : List Word := [0x0000000400010000]

/-- A window with an index byte at 0x80. -/
def indexed (zf : Bool) (i : Byte) : State := (runs 0 0 (gatherOne zf) gatherGeom (rich [])).put (.win 0 0) 0x80 [i]

theorem meets_CopiesMoveBytes :
    (runs 0 0 linearCopy [] (rich [])).Runs .copyStart 0 (cmd0 0 linearCopy []) [] ∧ (copyReq linearCopy []).scls = 1 ∧ (copyReq linearCopy []).dcls = 1 ∧
    (copyReq linearCopy []).op = 0 ∧ 0x40 + 16 ≤ (rich []).windowLen 0 0 ∧
    (indexed false 3).Runs .copyStart 0 (cmd0 0 (gatherOne false) gatherGeom) [] ∧ (copyReq (gatherOne false) gatherGeom).op = 1 ∧
    (copyReq (gatherOne false) gatherGeom).scls = 1 ∧ (copyReq (gatherOne false) gatherGeom).dcls = 1 ∧
    (copyReq (gatherOne false) gatherGeom).nrows = 1 ∧ (copyReq (gatherOne false) gatherGeom).swz = 0 ∧ (copyReq (gatherOne false) gatherGeom).nrow = 4 ∧
    (copyReq (gatherOne false) gatherGeom).row = 16 ∧ (copyReq (gatherOne true) gatherGeom).zf = true ∧ (copyReq (gatherOne false) gatherGeom).zf = false ∧
    (indexed false 3).copyIndex (cmd0 0 (gatherOne false) gatherGeom) (copyReq (gatherOne false) gatherGeom) 0 = .ok 3 ∧
    (indexed true 4).copyIndex (cmd0 0 (gatherOne true) gatherGeom) (copyReq (gatherOne true) gatherGeom) 0 = .ok 4 ∧
    (indexed true 4).Runs .copyStart 0 (cmd0 0 (gatherOne true) gatherGeom) [] ∧
    (indexed false 4).Runs .copyStart 0 (cmd0 0 (gatherOne false) gatherGeom) [] := by
  and_intros <;> first | exact runs_of (by decide +kernel) | decide +kernel

/-- A copy of 96 bytes from deep scratch, of which one step moves the first line. -/
def deepCopy : List Word := [0x4400000000000000, 0x20, 0x400, 96]

theorem meets_CopyForms : (copyReq deepCopy []).scls + (copyReq deepCopy []).dcls = 3 ∧ (copyReq deepCopy []).op = 0 ∧
    (runs 0 0 deepCopy [] (rich [])).Runs .copyStart 0 (cmd0 0 deepCopy []) [] ∧ (cmd0 0 deepCopy []).pos = 0 ∧ (cmd0 0 deepCopy []).idx = none ∧
    (rich []).DeepHas 0 0x20 96 ∧ 0x400 + 96 ≤ (rich []).windowLen 0 0 ∧ 64 - 0x20 % 64 < 96 := by
  and_intros <;> first | exact runs_of (by decide +kernel) | exact (deep_has rfl rfl (by decide +kernel)).1 | decide +kernel

/-- R197, R300: the first line moves, and then the rest. -/
theorem test_copy_lines :
    let s := { runs 0 0 deepCopy [] (rich []) with unit := 2048 }
    ((after .copyStart s).engine 0 0).fifo.map (fun c => (c.pos, c.status)) = [(32, none)] ∧
    (((after .copyStart { after .copyStart s with unit := 0 }).engine 0 0).fifo.map Cmd.status) = [some 96] := by decide +kernel

/-- R300, R301: the bytes, and the counts of the status. -/
theorem test_copy_linear :
    (after .copyStart ((runs 0 0 linearCopy [] (rich [])).put (.win 0 0) 0x2F [7])).readNat (.win 0 0) 0x4F 1 = 7 := by decide +kernel

theorem test_copy_gather : (((after .copyStart (indexed true 4)).engine 0 0).fifo.map Cmd.status) = [some 0x10000000010] := by decide +kernel
/-- The state with an engine command of the NBL that runs in the geometry of `nblGeom`, and bytes in deep scratch. -/
def nblRun (op : Nat) (ws g : List Word) (bs : List (Nat × List Byte)) : State :=
  let s := runs 1 op ws g { nblReady [] with engines := [] }
  bs.foldl (fun s p => s.put (.deep 0) p.1 p.2) s

/-- The box of nbl.box: extents 1, 1, 1, cut-off 1, skin 0; and one whose extent is 0. -/
def boxWords : List Word := [0, 0x3F8000003F800000, 0x3F8000003F800000]

theorem meets_NeighbourLists_box : (nblRun 0 boxWords nblGeom []).Runs .nblBoxExec 1 (cmd0 0 boxWords nblGeom) [] ∧
    (nblRun 0 [0, 0, 0] nblGeom []).Runs .nblBoxExec 1 (cmd0 0 [0, 0, 0] nblGeom) [] ∧
    boxBad [f32.decode 0, f32.decode 0, f32.decode 0] (f32.decode 0) (f32.decode 0) 0 = true ∧
    boxBad [f32.decode 0x3F800000, f32.decode 0x3F800000, f32.decode 0x3F800000] (f32.decode 0x3F800000) (f32.decode 0) 0 = false ∧
    Nat.max 1 (FV.floorDiv (f32.decode 0x3F800000) (FV.add 0 (f32.decode 0x3F800000) (f32.decode 0)).1) = 1 ∧ eCls (wordAt nblGeom 1) = 2 ∧
    (nblRun 0 boxWords nblGeom []).DeepHas 0 0 64 := by
  and_intros <;> first | exact runs_of (by decide +kernel) | exact (deep_has rfl rfl (by decide +kernel)).2 | decide +kernel

/-- R309: one cell, and the header at BINS. -/
theorem test_nbl_box : (((after .nblBoxExec (nblRun 0 boxWords nblGeom [])).engine 1 0).fifo.map Cmd.status) = [some 1] ∧
    (after .nblBoxExec (nblRun 0 boxWords nblGeom [])).readNat (.deep 0) 20 2 = 1 ∧
    (((after .nblBoxExec (nblRun 0 [0, 0, 0] nblGeom [])).engine 1 0).fifo.map Cmd.status) = [some 0x5000000000000] := by decide +kernel

/-- The header that such a box leaves, and the same with the bins valid for two particles of capacity 8. -/
def boxHeader (valid : Byte) : List Byte :=
  leBytes 4 0x3F800000 ++ leBytes 4 0x3F800000 ++ leBytes 4 0x3F800000 ++ leBytes 4 0x3F800000 ++ leBytes 4 0 ++ [1, 0, 1, 0, 1, 0, 0, 8] ++
    leBytes 4 2 ++ leBytes 2 0 ++ [valid]

/-- The second particle at 0.5 along the first axis. -/
def twoPositions (a : Nat) : Nat × List Byte := (a + 16, leBytes 4 0x3F000000)

theorem meets_NeighbourLists_bin :
    (nblRun 1 [0] [0, 0x8000000000000000, 0, 0] []).Runs .nblBinExec 1 (cmd0 1 [0] [0, 0x8000000000000000, 0, 0]) [] ∧
    nblBadArg [0, 0x8000000000000000, 0, 0] = true ∧ nblBadArg nblGeom = false ∧ (nblRun 1 [0] nblGeom []).Runs .nblBinExec 1 (cmd0 1 [0] nblGeom) [] ∧
    (nblRun 1 [0] nblGeom []).DeepHas 0 0 64 ∧ (nblHeader ((nblRun 1 [0] nblGeom []).readBytes (.deep 0) 0 64)).bad = true ∧
    (nblRun 1 [0] nblGeom [(0, boxHeader 0), twoPositions 0x100000]).Runs .nblBinExec 1 (cmd0 1 [0] nblGeom) [] ∧
    (nblHeader ((nblRun 1 [0] nblGeom [(0, boxHeader 0), twoPositions 0x100000]).readBytes (.deep 0) 0 64)).bad = false ∧
    (nblRun 1 [0] nblGeom [(0, boxHeader 0), twoPositions 0x100000]).DeepHas 0 0 (refsAt 1 8 + 16 * 2) ∧
    (nblRun 1 [0] nblGeom [(0, boxHeader 0), twoPositions 0x100000]).positions (cmd0 1 [0] nblGeom) (wordAt nblGeom 0) 0 2 0 =
      .ok [[0, 0, 0], [0x3F000000, 0, 0]] ∧ allFinite [[0, 0, 0], [0x3F000000, 0, 0]] = true ∧
    (nblRun 3 [] nblGeom []).Runs .nblStatExec 1 (cmd0 3 [] nblGeom) [] := by
  and_intros <;> first
    | exact runs_of (by decide +kernel) | exact (deep_has rfl rfl (by decide +kernel)).2 | decide +kernel

/-- Bins as nbl.bin leaves them for the two particles: the count, the two slots, and the reference positions. -/
def binnedArea : List (Nat × List Byte) :=
  [(0, boxHeader 1), (64, [2]), (132, [1]), twoPositions (refsAt 1 8), twoPositions 0x100000]

theorem meets_NeighbourLists_pairs :
    let s := nblRun 2 [0] nblGeom binnedArea
    let h := nblHeader (s.readBytes (.deep 0) 0 64)
    let xs := [[0, 0, 0], [0x3F000000, 0, 0]]
    s.Runs .nblPairsExec 1 (cmd0 2 [0] nblGeom) [] ∧ s.DeepHas 0 0 64 ∧ h.bad = false ∧ h.valid = 1 ∧ h.npart = nblPart nblGeom ∧
    h.cap = nblCap nblGeom ∧ s.positions (cmd0 2 [0] nblGeom) (wordAt nblGeom 0) 0 2 0 = .ok xs ∧
    s.positions (cmd0 2 [0] nblGeom) (wordAt nblGeom 1) (refsAt 1 8) 2 0 = .ok xs ∧
    s.binned (cmd0 2 [0] nblGeom) h 8 2 = .ok [(0, 0), (0, 1)] ∧ allFinite xs = true ∧
    ((xs.map (fun p => p.map f32.decode)).zip (xs.map (fun p => p.map f32.decode))).all (fun p =>
      !FV.lt (FV.mul (FV.scale (-1) h.box.skin) (FV.scale (-1) h.box.skin)).1 (dsq (h.box.disp p.2 p.1))) = true ∧
    (s.chan? 0 0).map (fun x => (x.run, x.ring.ccount, x.ring.q.length, x.ring.slots)) = some (none, 0, 0, 4) := by
  intro s h xs
  and_intros <;> first
    | exact runs_of (by decide +kernel) | exact (deep_has rfl rfl (by decide +kernel)).2 | decide +kernel

/-- R312, R313: one pair, its squared distance 0.25 in lane 5. -/
theorem test_nbl_pairs : ((after .nblPairsExec (nblRun 2 [0] nblGeom binnedArea)).chans.map (fun x => x.ring.q.map (fun k =>
    (k.mask, k.lane 0, k.lane 1, k.lane 2, k.lane 5)))) = [[(0x3F, 0, 1, 0x3F000000, 0x3E800000)]] := by decide +kernel

/-- Pages of 16 keys of 16 elements at deep 0, summaries at 1 MiB; page 0 alone. -/
def pgsGeom : List Word := [0x8000000000000000, 0, 0x8000000000100000, 0]

def sumWords (first n : Word) : List Word := [first, n]

/-- A query at 2 MiB, a list of one page at 3 MiB. -/
def selWords (k : Word) : List Word := [k, 0x8000000000200000, 0x8000000000300000, 0, 0x100000000]

def pgsRun (op : Nat) (ws : List Word) : State := (runs 2 op ws pgsGeom (rich [])).put (.deep 0) 1 [0x42]

theorem meets_PageSelection :
    (pgsRun 0 (sumWords 0 1)).Runs .pgsSumExec 2 (cmd0 0 (sumWords 0 1) pgsGeom) [] ∧
    (pgsRun 0 (sumWords 0xFFFFFFFF 1)).Runs .pgsSumExec 2 (cmd0 0 (sumWords 0xFFFFFFFF 1) pgsGeom) [] ∧ pgsDim 0 = 16 ∧
    eCls (wordAt pgsGeom 0) = 2 ∧ eCls (wordAt pgsGeom 2) = 2 ∧ (pgsRun 0 (sumWords 0 1)).DeepHas 0 0 512 ∧
    (pgsRun 0 (sumWords 0 1)).DeepHas 0 0x100000 32 ∧ (pgsRun 1 (selWords 0)).Runs .pgsSelExec 2 (cmd0 1 (selWords 0) pgsGeom) [] ∧
    (pgsRun 1 (selWords 64)).Runs .pgsSelExec 2 (cmd0 1 (selWords 64) pgsGeom) [] ∧ fieldOf (wordAt (selWords 64) 0) 0 7 = 64 ∧
    fieldOf (wordAt (selWords 64) 4) 32 32 = 1 ∧ (wordAt (selWords 64) 0).getLsbD 39 = false ∧ wordAt pgsGeom 3 = 0 ∧
    eCls (wordAt (selWords 64) 1) = 2 ∧ eCls (wordAt (selWords 64) 2) = 2 ∧ (pgsRun 1 (selWords 64)).DeepHas 0 0x200000 32 ∧
    (pgsRun 1 (selWords 64)).DeepHas 0 0x300000 256 ∧ (pgsRun 1 (selWords 64)).DeepHas 0 0x100000 32 := by
  and_intros <;> first | exact runs_of (by decide +kernel) | exact (deep_has rfl rfl (by decide +kernel)).2 | decide +kernel

/-- R316: the mean of 32.0 (bf16 0x4200) and fifteen zeros is 2.0. -/
theorem test_pgs_sum : (after .pgsSumExec (pgsRun 0 (sumWords 0 1))).readNat (.deep 0) 0x100000 2 = 0x4000 := by decide +kernel

/-- R317: one page of score 0, then all ones. -/
theorem test_pgs_sel : (after .pgsSelExec (pgsRun 1 (selWords 2))).readNat (.deep 0) 0x300000 8 = 0xFFFFFFFF00000000 := by decide +kernel

/-- A table of f32 rows of 2 elements, and a bag command over offsets at deep 0, output at 1 MiB. -/
def tabWords (nrow : Word) : List Word := [0x2000000001 + 0x10000000000, 0, nrow]

def bagWords (n : Word) : List Word := [n + 0x10000000000, 0, 0, 0x8000000000000000]

def sflGeom : List Word := [0x8000000000100000, 0]

def sflRun (op : Nat) (ws : List Word) (tabs : List SflTab) : State :=
  let s := runs 3 op ws sflGeom (rich [])
  { s with engines := s.engines.map (fun x => { x with tabs := tabs }) }

def gridRun (op : Nat) (ws g : List Word) (grids : List Grid) : State :=
  let s := runs 4 op ws g (rich [])
  { s with engines := s.engines.map (fun x => { x with grids := grids }) }

/-- A grid of 2 x 1 x 1 that is numbered 1. -/
def grid1 (owner next : Nat) : Grid := ⟨1, owner, 2, 1, 1, false, next⟩

def askWords : List Word := [1, 0x8000000000000000]

theorem meets_SparseTablesAndWork :
    (sflRun 0 (tabWords 5) []).Runs .sflTabExec 3 (cmd0 0 (tabWords 5) sflGeom) [] ∧ sflSize (fieldOf (wordAt (tabWords 5) 0) 36 4) = 4 ∧
    (sflRun 0 [0] []).Runs .sflTabExec 3 (cmd0 0 [0] sflGeom) [] ∧ sflSize 0 = 0 ∧
    (sflRun 1 (bagWords 1) []).Runs .sflBagExec 3 (cmd0 1 (bagWords 1) sflGeom) [] ∧
    (sflRun 1 (bagWords 1) [⟨1, 0, 5, 2, 2⟩]).Runs .sflBagExec 3 (cmd0 1 (bagWords 1) sflGeom) [] ∧
    ((sflRun 1 (bagWords 1) [⟨1, 0, 5, 2, 2⟩]).engine 3 0).tabs.find? (fun y => y.tid == fieldOf (wordAt (bagWords 1) 0) 40 4) = some ⟨1, 0, 5, 2, 2⟩ ∧
    (sflRun 1 (bagWords 0) [⟨1, 0, 5, 2, 2⟩]).Runs .sflBagExec 3 (cmd0 1 (bagWords 0) sflGeom) [] ∧ eCls (wordAt (bagWords 1) 3) = 2 ∧
    eCls (wordAt sflGeom 0) = 2 ∧ (sflRun 1 (bagWords 1) [⟨1, 0, 5, 2, 2⟩]).DeepHas 0 0 8 ∧
    (sflRun 1 (bagWords 1) [⟨1, 0, 5, 2, 2⟩]).DeepHas 0 0x100000 (2 * sflOut sflGeom) ∧
    (gridRun 0 [1] [1] [grid1 5 0]).Runs .wdqGridExec 4 (cmd0 0 [1] [1]) [] ∧ (gridRun 0 [1] [1] []).Runs .wdqGridExec 4 (cmd0 0 [1] [1]) [] ∧
    (gridRun 0 [0x21] [1] []).Runs .wdqGridExec 4 (cmd0 0 [0x21] [1]) [] ∧ (gridRun 1 askWords [] []).Runs .wdqAskExec 4 (cmd0 1 askWords []) [] ∧
    (gridRun 1 askWords [] [grid1 0 1]).Runs .wdqAskExec 4 (cmd0 1 askWords []) [] ∧
    (gridRun 1 askWords [] [grid1 0 2]).Runs .wdqAskExec 4 (cmd0 1 askWords []) [] ∧ eCls (wordAt askWords 1) = 2 ∧
    (gridRun 1 askWords [] [grid1 0 2]).DeepHas 0 0 8 := by
  and_intros <;> first | exact runs_of (by decide +kernel) | exact (deep_has rfl rfl (by decide +kernel)).2 | decide +kernel

theorem test_wdq_ask : (after .wdqAskExec (gridRun 1 askWords [] [grid1 0 1])).readNat (.deep 0) 0 8 = 1 ∧
    (after .wdqAskExec (gridRun 1 askWords [] [grid1 0 2])).readNat (.deep 0) 0 8 = 2 ^ 63 := by decide +kernel

theorem test_wdq_grid : (((after .wdqGridExec (gridRun 0 [1] [0x1] [])).engine 4 0).grids) = [grid1 0 0] := by decide +kernel

/-- Channel 0 of context 0: clerk threads at both sides, or as given, and what it holds. -/
def chan0 (cons prod : Nat) (q : List Token) (cc : Nat) (getters : List Nat) : Chan :=
  { ctx := 0, num := 0, ring := { slots := 2, vbase := 0x2000, size := 288, q := q, chead := 0, ccount := cc }, cons := cons, prod := prod,
    taken := 4, run := none, getters := getters }

/-- A data token with 5 in lane 0. -/
def tok5 : Token := { tag := 0, mask := 1, lanes := 5 :: List.replicate 15 0 }

/-- A unit with that channel. -/
def channel (c : Chan) (l : List (Spec × Word)) : State := { paged l with chans := [c] }

theorem meets_Channels : (channel (chan0 2 2 [] 0 []) []).Free (.chput 1 2) ∧ (∀ x : Spec, 32 ≤ x.toNat → x.toNat < 40 → (channel (chan0 2 2 [] 0 []) []).th.busy x = false) ∧
    (channel (chan0 2 2 [] 0 []) [(1, 1)]).Free (.chget 3 1 2) ∧ (channel (chan0 2 2 [] 0 []) [(1, 1)]).chanOf 0 1 = none ∧
    (channel (chan0 2 2 [] 0 []) []).chanOf 0 0 = some (chan0 2 2 [] 0 []) ∧ fieldOf (0x60000 : Word) 16 3 = 6 ∧ fieldOf (0x30000 : Word) 16 3 = 3 ∧
    (channel (chan0 2 2 [] 0 []) []).Calm ∧ (channel (chan0 2 2 [tok5, tok5] 4 []) []).Free (.chput 1 2) ∧
    (channel (chan0 2 2 [tok5, tok5] 4 []) []).Calm ∧ (chan0 2 2 [tok5, tok5] 4 []).ring.cap = 4 ∧ (chan0 2 2 [] 0 []).rendezvous = false ∧
    (channel (chan0 2 2 [tok5] 0 []) []).Free (.chget 3 1 2) ∧ (channel (chan0 2 2 [tok5] 0 []) []).th.inflight = [] ∧
    (channel (chan0 1 2 [tok5] 0 []) []).Free (.chget 3 1 2) ∧ (channel (chan0 2 2 [] 0 []) []).Free (.chwin 3 1) ∧
    (channel (chan0 2 2 [] 0 []) []).Free (.chsync 3 1) ∧ (channel (chan0 2 2 [tok5] 0 []) []).Free (.chsync 3 1) := by
  and_intros <;> first | exact free_of (by decide) | exact calm_of (by decide) | decide

/-- A rendezvous channel: no slot and no cistern. -/
def rdv (getters : List Nat) : Chan :=
  { chan0 2 2 [] 0 getters with ring := { slots := 0, vbase := 0, size := 0, q := [], chead := 0, ccount := 0 } }

/-- A channel without slots whose cistern holds a token. -/
def deepChan : Chan := { chan0 2 2 [] 1 [] with ring := { (chan0 2 2 [] 1 []).ring with slots := 0 } }

/-- A second thread at a channel. -/
def meeting (c : Chan) (w : Wait) : State := { pair [] (fun t => { t with mode := .waiting, wait := w }) with chans := [c] }

/-- A channel whose refill has failed. -/
def faulty : Chan := { chan0 2 2 [] 0 [] with fault := some { code := .xlate } }

theorem meets_ChannelForms : (channel faulty []).Free (.chput 1 2) ∧ (channel faulty []).Calm ∧ (channel faulty []).chanOf 0 0 = some faulty ∧
    faulty.prod = 2 ∧ (channel (chan0 2 2 [] 0 []) []).putters 0 0 = [] ∧ (chan0 2 2 [] 0 []).fault = none ∧ (chan0 2 2 [] 0 []).run = none ∧
    ¬ ((chan0 2 2 [tok5, tok5] 0 []).ring.q.length < (chan0 2 2 [tok5, tok5] 0 []).ring.slots) ∧
    (chan0 2 2 [tok5, tok5] 0 []).ring.ccount < (chan0 2 2 [tok5, tok5] 0 []).ring.cap ∧
    (okOf ((channel (chan0 2 2 [tok5, tok5] 0 []) []).agentStore (ctxAgent 0) ((chan0 2 2 [tok5, tok5] 0 []).ring.entryVa 0) tok5.entry)).isSome = true ∧
    (meeting (rdv [5]) (.chget 3 0 0)).Free (.chput 1 2) ∧ (meeting (rdv [5]) (.chget 3 0 0)).Calm ∧ (rdv [5]).rendezvous = true ∧
    (meeting (rdv [5]) (.chget 3 0 0)).putters 0 0 = [] ∧
    (meeting (rdv [5]) (.chget 3 0 0)).getT 5 = some (other (fun t => { t with mode := .waiting, wait := .chget 3 0 0 })) ∧
    (chan0 2 2 [tok5, tok5] 4 []).ring.room = false ∧ (channel deepChan []).Free (.chget 3 1 2) ∧ (channel deepChan []).chanMay deepChan = true ∧
    (channel deepChan []).agentRead (ctxAgent 0) (deepChan.ring.entryVa 0) 72 = .ok (List.replicate 72 0) ∧
    (meeting (rdv []) (.chput 0 tok5)).Free (.chget 3 1 2) ∧
    (meeting (rdv []) (.chput 0 tok5)).putters 0 0 = [other (fun t => { t with mode := .waiting, wait := .chput 0 tok5 })] ∧
    (meeting (rdv []) (.chput 0 tok5)).Holds 5 (other (fun t => { t with mode := .waiting, wait := .chput 0 tok5 })) ∧
    (channel (chan0 2 2 [tok5] 0 [5]) []).Free (.chget 3 1 2) ∧ (chan0 2 2 [tok5] 0 [5]).getters ≠ [] := by
  and_intros <;> first | exact free_of (by decide) | exact calm_of (by decide) | exact holds_of (by decide +kernel) | exact ok_of (by decide +kernel) | decide +kernel

/-- A thread that waits at the channel. -/
def atChannel (c : Chan) (w : Wait) : State :=
  let s := channel c []
  { s with th := { s.th with mode := .waiting, wait := w } }

theorem meets_ChannelWaits :
    (atChannel (chan0 2 2 [] 0 []) (.chput 0 tok5)).Holds 0 (atChannel (chan0 2 2 [] 0 []) (.chput 0 tok5)).th ∧
    (atChannel (chan0 2 2 [] 0 []) (.chput 0 tok5)).chan? 0 0 = some (chan0 2 2 [] 0 []) ∧
    (atChannel (chan0 2 2 [tok5] 0 [0]) (.chget 3 0 0)).Holds 0 (atChannel (chan0 2 2 [tok5] 0 [0]) (.chget 3 0 0)).th ∧
    (atChannel (chan0 2 2 [] 0 [0]) (.chget 3 0 5)).Holds 0 (atChannel (chan0 2 2 [] 0 [0]) (.chget 3 0 5)).th ∧
    5 ≤ ({ atChannel (chan0 2 2 [] 0 [0]) (.chget 3 0 5) with clk := 5 } : State).clk ∧
    (atChannel (chan0 2 2 [] 0 []) (.chsync 3 0)).Holds 0 (atChannel (chan0 2 2 [] 0 []) (.chsync 3 0)).th ∧
    (atChannel faulty (.chput 0 tok5)).Holds 0 (atChannel faulty (.chput 0 tok5)).th ∧ (atChannel faulty (.chput 0 tok5)).th.inflight = [] ∧
    ((atChannel faulty (.chput 0 tok5)).putters 0 0).head?.map Thread.uid = some 0 ∧
    ((atChannel (chan0 2 2 [] 0 []) (.chput 0 tok5)).putters 0 0).head?.map Thread.uid = some 0 ∧
    (0 : Nat) ∉ ([] : List Nat) ∧ (chan0 2 2 [] 0 [0]).rendezvous = false := by
  and_intros <;> first | exact holds_of (by decide +kernel) | decide +kernel

/-- R272: a getter whose deadline has passed gets no token any more; one at its deadline does. -/
theorem test_chget_late : ((after (.chput 1 2) { meeting (rdv [5]) (.chget 3 0 4) with clk := 5 }).getT 5).map Thread.mode = some .waiting ∧
    ((after (.chput 1 2) { meeting (rdv [5]) (.chget 3 0 5) with clk := 5 }).getT 5).map Thread.mode = some .ready := by decide +kernel

/-- R271, R272: a token goes in, and comes out with its header. -/
theorem test_chput_chget : (after (.chput 1 2) (channel (chan0 2 2 [] 0 []) [(2, 1), (32, 5)])).chans = [chan0 2 2 [tok5] 0 []] ∧
    (after (.chget 3 1 2) (channel (chan0 2 2 [tok5] 0 []) [])).th.read 32 = 5 ∧
    (after (.chget 3 1 2) (channel (chan0 2 2 [tok5] 0 []) [])).th.read 3 = 1 := by decide +kernel

theorem test_chwin : (after (.chwin 3 1) (channel (chan0 2 2 [tok5] 3 []) [])).th.read 3 = 0x20000000301 := by decide +kernel

/-! ### Regions and nodes -/

/-- Bytes of a node's record. -/
def body (l : List (Nat × List Byte)) : List Byte :=
  l.foldl (fun b p => b.take p.1 ++ p.2 ++ b.drop (p.1 + p.2.length)) (List.replicate 64 0)

/-- A node of a kind at position 1, its record, its inputs on circuits 0 and 1, its output on circuit 2. -/
def nodeOf (kind : Nat) (two : Bool) (l : List (Nat × List Byte)) : NodeCfg :=
  { pos := 1, kind := kind, nid := 7, kfl := 0, g := false, in0 := some 0, in1 := if two then some 1 else none, out0 := some 2, out1 := none,
    body := body l }

/-- Its state. -/
def stateOf (v : NodeVar) : NodeSt := { nid := 7, var := v, fault := none, retry := false, first := 0, closed := false, inject := none, ended := none }

/-- The in-bound end of a circuit at an input, and what stands there. -/
def endOf (circ pos port : Nat) (q : List Token) : End :=
  { circ := circ, node := true, pos := pos, port := port, timed := false, ring := { slots := 2, vbase := 0x2000, size := 288, q := q, chead := 0, ccount := 0 } }

/-- A region of the launch 0 with one node, what stands at its inputs, and an end of its output at another position. -/
def region0 (c : NodeCfg) (n : NodeSt) (q0 q1 : List Token) : Region :=
  { rinst := 1, ctx := 0, ticket := 0, stripe := 0, row := 0, col := 0, rows := 1, cols := 2, phase := .running,
    img := { handle := 0, rows := 1, cols := 2, seed := 0, tiles := [], nodes := [c], links := [] }, shadow := none, resume := none, tiles := [],
    nodes := [n], ends := [endOf 0 1 0 q0, endOf 1 1 1 q1, endOf 2 0 0 []], sclk := 0, since := 0, code := 0, handle := 0 }

/-- A unit with that region and the channel. -/
def fabric (r : Region) : State := { paged [] with regions := [r], chans := [chan0 1 1 [tok5] 0 []] }

/-- The conditions of `State.NodeAt`, as a test. -/
def nodeAtB (s : State) (rinst nid kind : Nat) (r : Region) (c : NodeCfg) (n : NodeSt) : Bool :=
  decide (s.region? rinst = some r) && r.phase.stepping && !s.dying.contains r.ticket && !s.cisternHeld r &&
    decide (r.img.nodes.find? (fun x => x.nid == nid) = some c) && decide (r.nodes.find? (fun x => x.nid == nid) = some n) &&
    decide (c.kind = kind) && r.nodes.all (fun m => decide (m.nid ≠ nid) || m.fault.isNone)

theorem nodeAt_of {s : State} {rinst nid kind : Nat} {r : Region} {c : NodeCfg} {n : NodeSt} (h : nodeAtB s rinst nid kind r c n = true) :
    s.NodeAt rinst nid kind r c n := by
  simp only [nodeAtB, Bool.and_eq_true, decide_eq_true_eq, Bool.not_eq_true', List.all_eq_true] at h
  obtain ⟨⟨⟨⟨⟨⟨⟨h1, h2⟩, h3⟩, h0⟩, h4⟩, h5⟩, h6⟩, h7⟩ := h
  exact ⟨h1, h2, h3, h0, h4, h5, h6, fun m hm e => by simpa [e] using h7 m hm⟩

theorem offers_region0 (c : NodeCfg) (n : NodeSt) (k : Token) (q1 : List Token) (hc : c.pos = 1) :
    (region0 c n [k] q1).Offers c 0 0 k [] (endOf 0 1 0 [k]) :=
  ⟨by rw [hc]; rfl, rfl, rfl⟩

theorem slotFree_region0 (c : NodeCfg) (n : NodeSt) (q0 q1 : List Token) : (region0 c n q0 q1).SlotFree 2 := by
  intro e h hc
  simp only [region0, List.mem_cons, List.not_mem_nil, or_false] at h
  rcases h with rfl | rfl | rfl <;> simp [endOf] at hc ⊢

/-- The region of one node whose output has room and whose input 0 holds a token. -/
abbrev one (c : NodeCfg) (v : NodeVar) (q0 : List Token) : Region := region0 c (stateOf v) q0 []

/-- src of a channel, with DRAIN to inject or none, and src of an ingress port. -/
def srcChan : NodeCfg := nodeOf 1 false [(16, [1])]

def injecting : NodeSt := { stateOf .plain with inject := some 3 }

/-- The queue of the launch, one token of it in its port. -/
def queue0 : Queue :=
  { idx := 0, ctx := 0, pri := 0, bound := true, cvbase := 0, csize := 0, port := [(0, tok5)], ctail := 0, cist := [], payload := [], drop := 0,
    orphan := 0, accept := 0, epoch := 0, opened := [(0, 0)], waiting := [], dropped := false }

def withQueue (s : State) : State := { s with reg := { s.reg with queues := [queue0] } }

/-- A src whose channel is a rendezvous. -/
def awaited (g : List Nat) : State := { fabric (one srcChan .plain []) with chans := [rdv g] }

/-- A cistern where nothing is mapped. -/
def unmapped : Chan := { chan0 2 2 [] 1 [] with ring := { (chan0 2 2 [] 1 []).ring with vbase := 0x40000000 } }

theorem meets_RegionsFeedAndTake :
    (fabric (region0 srcChan injecting [] [])).NodeAt 1 7 1 (region0 srcChan injecting [] []) srcChan injecting ∧ injecting.inject = some 3 ∧
    (fabric (one srcChan .plain [])).NodeAt 1 7 1 (one srcChan .plain []) srcChan (stateOf .plain) ∧ srcChan.field 16 1 = 1 ∧
    srcChan.out0 = some 2 ∧ (one srcChan .plain []).SlotFree 2 ∧ (fabric (one srcChan .plain [])).chan? 0 (srcChan.field 18 2) = some (chan0 1 1 [tok5] 0 []) ∧
    (awaited []).NodeAt 1 7 1 (one srcChan .plain []) srcChan (stateOf .plain) ∧ (awaited []).chan? 0 (srcChan.field 18 2) = some (rdv []) ∧
    (rdv []).ring.want = false ∧ (awaited []).putters 0 0 = [] ∧ (withQueue (fabric (one (nodeOf 1 false []) .plain []))).NodeAt 1 7 1 (one (nodeOf 1 false []) .plain []) (nodeOf 1 false []) (stateOf .plain) ∧
    (nodeOf 1 false []).field 16 1 ≠ 1 ∧ (withQueue (fabric (one (nodeOf 1 false []) .plain []))).queue? 0 = some queue0 ∧
    (((withQueue (fabric (one (nodeOf 1 false []) .plain []))).refilled queue0).takeFor 0).isSome = true ∧
    (fabric (one (nodeOf 10 false []) .plain [])).NodeAt 1 7 10 (one (nodeOf 10 false []) .plain []) (nodeOf 10 false []) (stateOf .plain) := by
  and_intros <;> first | exact nodeAt_of (by decide +kernel) | exact slotFree_region0 _ _ _ _ | decide +kernel

/-- A snk that forwards to the channel, and one that does not. -/
def snkChan : NodeCfg := nodeOf 2 false [(16, [1]), (20, [1])]

def snk0 : NodeVar := .snk 0 0 0 false

/-- A ring whose cistern holds a token. -/
def stored (e : End) : End := { e with ring := { e.ring with ccount := 1 } }

def cistern : State :=
  let s := fabric { one snkChan snk0 [] with ends := [stored (endOf 0 1 0 [])] }
  { s with chans := [chan0 1 1 [] 1 []] }

theorem meets_SinksAndCisterns :
    (fabric (one snkChan snk0 [tok5])).NodeAt 1 7 2 (one snkChan snk0 [tok5]) snkChan (stateOf snk0) ∧
    (one snkChan snk0 [tok5]).Offers snkChan 0 0 tok5 [] (endOf 0 1 0 [tok5]) ∧ snkChan.field 16 1 ≠ 0 ∧
    ((fabric (one snkChan snk0 [tok5])).chan? 0 (snkChan.field 18 2)).map (fun x => (x.ring.ccount, x.ring.q.length, x.ring.slots)) = some (0, 1, 2) ∧
    (fabric (one (nodeOf 2 false []) snk0 [tok5])).NodeAt 1 7 2 (one (nodeOf 2 false []) snk0 [tok5]) (nodeOf 2 false []) (stateOf snk0) ∧
    (nodeOf 2 false []).field 16 1 = 0 ∧ cistern.chan? 0 0 = some (chan0 1 1 [] 1 []) ∧
    cistern.agentRead (ctxAgent 0) ((chan0 1 1 [] 1 []).ring.entryVa 0) 72 = .ok (List.replicate 72 0) ∧
    (channel unmapped []).chanMay unmapped = true ∧ (channel unmapped []).chanOwner unmapped = none ∧
    (errOf ((channel unmapped []).agentRead (ctxAgent 0) (unmapped.ring.entryVa 0) 72)).isSome = true ∧ cistern.chanMay (chan0 1 1 [] 1 []) = true ∧
    (one snkChan snk0 []).nodes.all (fun m => m.may 8) = true ∧
    (okOf ((fabric (one snkChan snk0 [tok5])).agentStore (ctxAgent 0) ((chan0 1 1 [tok5, tok5] 0 []).ring.entryVa 0) tok5.entry)).isSome = true ∧
    (cistern.region? 1).map cistern.cisternHeld = some false ∧
    ((cistern.region? 1).bind (fun r => r.ends[0]?)) = some (stored (endOf 0 1 0 [])) ∧ (stored (endOf 0 1 0 [])).timed = false := by
  and_intros <;> first
    | exact nodeAt_of (by decide +kernel) | exact offers_region0 _ _ _ _ rfl | decide +kernel

/-- R257, R259: the token leaves the channel for the end of circuit 2; the last EOS makes a snk report. -/
theorem test_src_send : (((after (.srcSend 1 7) (fabric (one srcChan .plain []))).endsOf 1).map (fun l => l.map (fun e => e.ring.q))) =
    some [[], [], [tok5]] := by decide +kernel

theorem test_snk_take : (after (.snkTake 1 7) (fabric (one snkChan snk0 [marker 1]))).nodeVar 1 7 = some (.snk 1 0 0 true) ∧
    ((after (.snkTake 1 7) (fabric (one snkChan snk0 [marker 1]))).chans.map (fun x => x.ring.q)) = [[tok5, marker 1]] := by decide +kernel

/-- A tile whose only stage copies port 1, fed by a node circuit, and one that copies a constant of its pool. -/
def tileOf (src : Nat) : TileCfg :=
  { pos := 0, ii := 1, sen := 1, psn := 0, phases := [0], stages := [{ op := 1, sa := src, sb := 0, sc := 0, dst := 0, fmt := 2, imm := 0 }], sw := [],
    prec := 0, book := [], pool := List.replicate 16 0 }

def tiled (src : Nat) : Region :=
  let r := one (nodeOf 10 false []) .plain []
  { r with img := { r.img with tiles := [tileOf src] }, tiles := [(tileOf src).load 0], ends := [{ endOf 0 0 1 [] with node := false }] }

theorem meets_RegionSchedule :
    (fabric (tiled 6)).region? 1 = some (tiled 6) ∧ (tiled 6).phase.stepping = true ∧ (fabric (tiled 6)).cisternHeld (tiled 6) = false ∧ (fabric (tiled 6)).dying = [] ∧
    (fabric (tiled 6)).tlf = false ∧ (tiled 6).due 0 = [{ tile := 0, stage := 0, start := 0 }] ∧
    (tryClk (fabric (tiled 6)) (tiled 6) (tiled 6).stuckCircs ((tiled 6).due 0)).err = none ∧ (tryClk (fabric (tiled 6)) (tiled 6) (tiled 6).stuckCircs ((tiled 6).due 0)).bad = none ∧
    (tryClk (fabric (tiled 6)) (tiled 6) (tiled 6).stuckCircs ((tiled 6).due 0)).late = [] ∧ (one (nodeOf 10 false []) .plain []).due 0 = [] ∧
    (tryClk (fabric (tiled 1)) (tiled 1) (tiled 1).stuckCircs ((tiled 1).due 0)).err = none ∧ (tryClk (fabric (tiled 1)) (tiled 1) (tiled 1).stuckCircs ((tiled 1).due 0)).late = [0] ∧
    (olderFrom (fabric (tiled 1)) (tiled 1) (tiled 1).stuckCircs (tiled 1).depth [] 0 0).isNone = true ∧
    (tryClk (fabric (tiled 1)) (tiled 1) (tiled 1).stuckCircs ((tiled 1).due 0)).wait = [] ∧ (RPhase.loading).stepping = false := by
  and_intros <;> decide +kernel

/-- R216, R217: the schedule moves on, or stalls. -/
theorem test_region_step : ((after (.regionStep 1) (fabric (tiled 6))).region? 1).map Region.sclk = some 1 ∧
    ((after (.regionStep 1) (fabric (tiled 1))).region? 1).map Region.sclk = some 0 := by decide +kernel

/-- An agn whose stream 0 reads one block at 0x2000 in each run, dispatched, or started by tokens. -/
def agn0 (tokens : Bool) : NodeCfg :=
  { nodeOf 3 false [(16, [0x80]), (23, [1])] with in0 := if tokens then some 0 else none }

def quiet : NodeVar := .agn Stream.idle Stream.idle false

def running (eor : Bool) (mark : Option Token) : NodeVar :=
  .agn { Stream.run 0x80 mark with eor := eor, active := mark.isNone } Stream.idle true

/-- memg and mems over 16 elements of 4 bytes at 0x2000; slh over 64 bits at 0x100000. -/
def memNode (kind : Nat) (two : Bool) : NodeCfg := nodeOf kind two [(17, [0x20]), (24, [16]), (28, [0x80])]

def memVar (idx data : Option Token) (seen : Nat) : NodeVar := .mem idx data none 0 (if seen = 0 then [] else List.replicate 16 0) 0 seen

def slh0 : NodeCfg := { nodeOf 9 false [(18, [0x10]), (32, [64])] with in0 := none }

/-- The same elements where nothing is mapped, and with a guard. -/
def farNode (kind : Nat) (two : Bool) : NodeCfg := nodeOf kind two [(17, [0x20]), (19, [0x40]), (24, [16]), (28, [0x80])]

def guardNode (kind : Nat) : NodeCfg := { memNode kind true with g := true }

/-- The output has no room; and another node is chained after node 7. -/
def crammed (r : Region) : Region :=
  { r with ends := [endOf 0 1 0 [], endOf 1 1 1 [],
      { endOf 2 0 0 [] with ring := { slots := 2, vbase := 0, size := 0, q := [tok5, tok5], chead := 0, ccount := 0 } }] }

def chained (r : Region) : Region :=
  { r with img := { r.img with nodes := r.img.nodes ++ [{ nodeOf 5 true [(30, [7, 0x80])] with nid := 8 }] } }

/-- A stream that has read a block ahead, and one whose block is not mapped. -/
def reading : NodeVar := .agn { Stream.run 0x80 none with ahead := [List.replicate 16 1] } Stream.idle true

def lost : NodeVar := .agn (Stream.run 0x1000000 none) Stream.idle true

theorem meets_NodeFaults :
    (fabric (one (agn0 true) reading [])).NodeAt 1 7 3 (one (agn0 true) reading []) (agn0 true) (stateOf reading) ∧
    (fabric (one (agn0 true) lost [])).NodeAt 1 7 3 (one (agn0 true) lost []) (agn0 true) (stateOf lost) ∧
    (errOf ((fabric (one (agn0 true) lost [])).readBlock (one (agn0 true) lost []) ((agn0 true).agn 0) (Stream.run 0x1000000 none) 0x1000000)).isSome = true ∧
    (okOf ((fabric (one (agn0 true) reading [])).readBlock (one (agn0 true) reading []) ((agn0 true).agn 0) (Stream.run 0x80 none) 0x80)).isSome = true ∧
    (fabric (crammed (one (agn0 true) (running false none) []))).NodeAt 1 7 3 (crammed (one (agn0 true) (running false none) [])) (agn0 true)
      (stateOf (running false none)) ∧ (crammed (one (agn0 true) (running false none) [])).hasRoom 2 = false ∧
    (((agn0 true).agn 0).after 0 (Stream.run 0x80 none)).isSome = true ∧ ((agn0 true).agn 0).cls = false ∧
    (fabric (region0 (guardNode 4) (stateOf (memVar (some tok5) none 1)) [] [tok5])).NodeAt 1 7 4
      (region0 (guardNode 4) (stateOf (memVar (some tok5) none 1)) [] [tok5]) (guardNode 4) (stateOf (memVar (some tok5) none 1)) ∧
    (region0 (guardNode 4) (stateOf (memVar (some tok5) none 1)) [] [tok5]).endAt true 1 1 = some 1 ∧
    (fabric (chained (one (memNode 4 false) (memVar (some tok5) none 1) []))).NodeAt 1 7 4 (chained (one (memNode 4 false) (memVar (some tok5) none 1) []))
      (memNode 4 false) (stateOf (memVar (some tok5) none 1)) ∧
    (chained (one (memNode 4 false) (memVar (some tok5) none 1) [])).mustEnter 7 0 = true ∧
    (one (memNode 4 false) (memVar (some tok5) none 1) []).mustEnter 7 0 = false ∧
    (fabric (one (farNode 4 false) (memVar (some tok5) none 1) [])).NodeAt 1 7 4 (one (farNode 4 false) (memVar (some tok5) none 1) []) (farNode 4 false)
      (stateOf (memVar (some tok5) none 1)) ∧
    ((fabric (one (farNode 4 false) (memVar (some tok5) none 1) [])).gather (one (farNode 4 false) (memVar (some tok5) none 1) []) (farNode 4 false) tok5 none
      { lane := 0, out := List.replicate 16 0, mask := 0, err := none }).err.isSome = true ∧
    (fabric (region0 (guardNode 5) (stateOf (memVar (some tok5) (some tok5) 1)) [] [tok5])).NodeAt 1 7 5
      (region0 (guardNode 5) (stateOf (memVar (some tok5) (some tok5) 1)) [] [tok5]) (guardNode 5) (stateOf (memVar (some tok5) (some tok5) 1)) ∧
    (fabric (chained (one (memNode 5 true) (memVar (some tok5) (some tok5) 1) []))).NodeAt 1 7 5
      (chained (one (memNode 5 true) (memVar (some tok5) (some tok5) 1) [])) (memNode 5 true) (stateOf (memVar (some tok5) (some tok5) 1)) ∧
    (chained (one (memNode 5 true) (memVar (some tok5) (some tok5) 1) [])).mustEnter 7 0 = true ∧
    (fabric (one (farNode 5 true) (memVar (some tok5) (some tok5) 1) [])).NodeAt 1 7 5 (one (farNode 5 true) (memVar (some tok5) (some tok5) 1) [])
      (farNode 5 true) (stateOf (memVar (some tok5) (some tok5) 1)) ∧
    ((fabric (one (farNode 5 true) (memVar (some tok5) (some tok5) 1) [])).scatter (one (farNode 5 true) (memVar (some tok5) (some tok5) 1) [])
      (farNode 5 true) tok5 tok5 none 0).err.isSome = true := by
  and_intros <;> first | exact nodeAt_of (by decide +kernel) | decide +kernel

theorem meets_MemoryNodes :
    (fabric (one (agn0 false) quiet [])).NodeAt 1 7 3 (one (agn0 false) quiet []) (agn0 false) (stateOf quiet) ∧ (agn0 false).in0 = none ∧
    (fabric (one (agn0 true) quiet [tok5])).NodeAt 1 7 3 (one (agn0 true) quiet [tok5]) (agn0 true) (stateOf quiet) ∧
    (one (agn0 true) quiet [tok5]).Offers (agn0 true) 0 0 tok5 [] (endOf 0 1 0 [tok5]) ∧ Stream.idle.done = true ∧ ((agn0 true).agn 0).used = true ∧
    (agn0 true).out0 = some 2 ∧ (one (agn0 true) (running true none) []).SlotFree 2 ∧
    (fabric (one (agn0 true) (running true none) [])).NodeAt 1 7 3 (one (agn0 true) (running true none) []) (agn0 true) (stateOf (running true none)) ∧
    (fabric (one (agn0 true) (running false none) [])).agentRead ((one (agn0 true) quiet []).memAgent ((agn0 true).agn 0).cls)
      (64 * ((agn0 true).agn 0).block { Stream.run 0x80 none with eor := false, active := true }) 64 = .ok (List.replicate 64 0) ∧
    (fabric (one (agn0 true) (running false (some (marker 1))) [])).NodeAt 1 7 3 (one (agn0 true) (running false (some (marker 1))) []) (agn0 true)
      (stateOf (running false (some (marker 1)))) ∧
    (fabric (one (memNode 4 false) (memVar none none 0) [tok5])).NodeAt 1 7 4 (one (memNode 4 false) (memVar none none 0) [tok5]) (memNode 4 false)
      (stateOf (memVar none none 0)) ∧ (one (memNode 4 false) (memVar none none 0) [marker 2]).Offers (memNode 4 false) 0 0 (marker 2) [] (endOf 0 1 0 [marker 2]) ∧
    (fabric (one (memNode 4 false) (memVar (some tok5) none 1) [])).NodeAt 1 7 4 (one (memNode 4 false) (memVar (some tok5) none 1) []) (memNode 4 false)
      (stateOf (memVar (some tok5) none 1)) ∧ (fabric (one (memNode 4 false) (memVar (some tok5) none 1) [])).chainOk (one (memNode 4 false) (memVar (some tok5) none 1) []) (memNode 4 false) 0
      ((memNode 4 false).ranges tok5 none none) = true ∧
    (memNode 4 false).mem.esz = 4 ∧ (memNode 4 false).mem.index tok5 0 = some 5 ∧ tok5.active 0 = true ∧
    (∀ l < 16, ∀ i, tok5.active l = true → (memNode 4 false).mem.index tok5 l = some i →
      ∃ v, (fabric (one (memNode 4 false) (memVar (some tok5) none 1) [])).agentNat
        ((one (memNode 4 false) (memVar (some tok5) none 1) []).memAgent (memNode 4 false).mem.cls) ((memNode 4 false).mem.addr i)
        (memNode 4 false).mem.esz = .ok v) := by
  and_intros <;> first
    | exact nodeAt_of (by decide +kernel) | exact offers_region0 _ _ _ _ rfl | exact slotFree_region0 _ _ _ _ | decide +kernel
    | exact ok_of (by decide +kernel)
    | (intro l hl i ha hi
       obtain rfl : l = 0 := (show ∀ l < 16, tok5.active l = true → l = 0 by decide) l hl ha
       obtain rfl : i = 5 := by simpa using (Option.some.inj ((show (memNode 4 false).mem.index tok5 0 = some 5 by decide +kernel) ▸ hi)).symm
       exact ⟨0, ok_of (by decide +kernel)⟩)

theorem meets_WritesAndScans :
    (fabric (region0 (memNode 5 true) (stateOf (memVar none none 0)) [tok5] [])).NodeAt 1 7 5 (region0 (memNode 5 true) (stateOf (memVar none none 0)) [tok5] [])
      (memNode 5 true) (stateOf (memVar none none 0)) ∧
    (fabric (region0 (memNode 5 true) (stateOf (memVar (some tok5) none 1)) [] [tok5])).NodeAt 1 7 5
      (region0 (memNode 5 true) (stateOf (memVar (some tok5) none 1)) [] [tok5]) (memNode 5 true) (stateOf (memVar (some tok5) none 1)) ∧
    (region0 (memNode 5 true) (stateOf (memVar (some tok5) none 1)) [] [tok5]).endAt true 1 1 = some 1 ∧
    (fabric (one (memNode 5 true) (memVar (some tok5) (some tok5) 1) [])).NodeAt 1 7 5 (one (memNode 5 true) (memVar (some tok5) (some tok5) 1) []) (memNode 5 true)
      (stateOf (memVar (some tok5) (some tok5) 1)) ∧
    ((fabric (one (memNode 5 true) (memVar (some tok5) (some tok5) 1) [])).scatter (one (memNode 5 true) (memVar (some tok5) (some tok5) 1) [])
      (memNode 5 true) tok5 tok5 none 0).err = none ∧
    (fabric (one slh0 (.slh none false false false none none) [])).NodeAt 1 7 9 (one slh0 (.slh none false false false none none) []) slh0 (stateOf (.slh none false false false none none)) ∧
    (fabric (one slh0 (.slh (some (0, 64)) true false false none none) [])).NodeAt 1 7 9 (one slh0 (.slh (some (0, 64)) true false false none none) []) slh0
      (stateOf (.slh (some (0, 64)) true false false none none)) ∧
    (fabric (one slh0 (.slh (some (0, 64)) true false false none none) [])).scanBits ((one slh0 (.slh none false false false none none) []).memAgent false) (slh0.field 16 8)
      (slh0.field 24 8) false 64 3 { word := none, sum := none } 0 [] = .ok ([0, 12, 20], 64, { word := none, sum := none }) ∧
    (fabric (one (nodeOf 9 false [(18, [0x10]), (32, [64])]) (.slh none false false false none none) [tok5])).NodeAt 1 7 9
      (one (nodeOf 9 false [(18, [0x10]), (32, [64])]) (.slh none false false false none none) [tok5]) (nodeOf 9 false [(18, [0x10]), (32, [64])])
      (stateOf (.slh none false false false none none)) ∧ (nodeOf 9 false []).in0 ≠ none ∧
    (errOf ((fabric (one slh0 (.slh (some (0, 64)) true false false none none) [])).scanBits ((one slh0 (.slh none false false false none none) []).memAgent false)
      0x40000000 0 false 64 3 { word := none, sum := none } 0 [])).isSome = true ∧ (slh0.field 36 1).testBit 1 = false ∧
    (fabric (one slh0 (.slh none true true true none none) [])).NodeAt 1 7 9 (one slh0 (.slh none true true true none none) []) slh0 (stateOf (.slh none true true true none none)) ∧
    (fabric (one slh0 (.slh none true false true none none) [])).NodeAt 1 7 9 (one slh0 (.slh none true false true none none) []) slh0 (stateOf (.slh none true false true none none)) := by
  and_intros <;> first | exact nodeAt_of (by decide +kernel) | exact ok_of (by decide +kernel) | decide +kernel

/-- A mems whose inputs hold an index and a marker, or the marker alone. -/
def strayMarker (q0 : List Token) : Region := region0 (memNode 5 true) (stateOf (memVar none none 0)) q0 [marker 1]

theorem meets_StrayMarkers : (fabric (strayMarker [])).NodeAt 1 7 5 (strayMarker []) (memNode 5 true) (stateOf (memVar none none 0)) ∧
    (strayMarker []).Offers (memNode 5 true) 1 1 (marker 1) [] (endOf 1 1 1 [marker 1]) ∧
    (fabric (region0 (memNode 5 true) (stateOf (memVar none none 0)) [tok5] [])).stray (region0 (memNode 5 true) (stateOf (memVar none none 0)) [tok5] [])
      (memNode 5 true) = none ∧ (strayMarker []).compares.length < 16 := by
  and_intros <;> first | exact nodeAt_of (by decide +kernel) | exact ⟨rfl, rfl, rfl⟩ | decide +kernel

/-- R284: a marker on the second input is discarded, with no index held and before an index is taken. -/
theorem test_stray_marker : (((after (.memsWrite 1 7) (fabric (strayMarker []))).endsOf 1).map (fun l => l.map (fun e => e.ring.q.length))) = some [0, 0, 0] ∧
    (((after (.memsWrite 1 7) (fabric (strayMarker [tok5]))).endsOf 1).map (fun l => l.map (fun e => e.ring.q.length))) = some [1, 0, 0] := by
  decide +kernel

/-- R279, R283, R284, R288: what leaves. -/
theorem test_agn_emit : (((after (.agnEmit 1 7 0) (fabric (one (agn0 true) (running false none) []))).endsOf 1).map (fun l => l.map (fun e => e.ring.q))) =
    some [[], [], [dataToken (List.replicate 16 0)]] := by decide +kernel

theorem test_memg_gather : (((after (.memgGather 1 7) ((fabric (one (memNode 4 false) (memVar (some tok5) none 1) [])).put .mem 0x2014 [9])).endsOf 1).map
    (fun l => l.map (fun e => e.ring.q.map (fun k => (k.mask, k.lane 0))))) = some [[], [], [(1, 9)]] := by decide +kernel

theorem test_mems_write : (after (.memsWrite 1 7) (fabric (one (memNode 5 true) (memVar (some tok5) (some { tok5 with lanes := [9] }) 1) []))).readNat .mem 0x2014 4 =
    9 := by decide +kernel

theorem test_slh_emit : (((after (.slhEmit 1 7) (fabric (one slh0 (.slh (some (0, 64)) true false false none none) []))).endsOf 1).map
    (fun l => l.map (fun e => e.ring.q.map (fun k => (k.mask, k.lane 0, k.lane 1, k.lane 2))))) = some [[], [], [(7, 0, 12, 20)]] := by decide +kernel

/-- A sluice that adds at 16 words at 0x2000, with a reply; a token that adds 9 to element 5. -/
def sluice0 : NodeCfg := nodeOf 8 false [(17, [0x20]), (24, [0xA0]), (26, [4]), (28, [16])]

def tok59 : Token := { tag := 0, mask := 3, lanes := 5 :: 9 :: List.replicate 14 0 }

def sluiceVar (t : Option Token) (reqs : List SluiceReq) (replies : List Reply) : NodeVar := .sluice t none 0 reqs replies 1

/-- An accn of f32, and an esc of two slips at 0x3000 whose threads start at 0x9000. -/
def accn0 : NodeCfg := nodeOf 6 false [(16, [0x22])]

def sum0 (out : List Token) : NodeVar := .accn (List.replicate 16 0) 0 0 false false false out 0 none 0

def esc0 : NodeCfg := nodeOf 7 false [(17, [0x90]), (33, [0x30]), (40, [1])]

def escVar (slips : List Slip) : NodeVar := .esc 0 slips [] 15

def parked (state : Nat) : Slip := { idx := 0, uid := none, state := state, ord := 0, tok := tok5 }

/-- A guarded sluice, one whose words lie in the host's memory, an accn of two inputs, and an esc that a guard rules. -/
def sluiceG : NodeCfg := { sluice0 with g := true, in1 := some 1 }

def sluiceH : NodeCfg := nodeOf 8 false [(17, [0x20]), (19, [0x40]), (24, [0x20]), (26, [4]), (28, [16])]

def accn2 : NodeCfg := { accn0 with kfl := 1, in1 := some 1 }

def escG : NodeCfg := { esc0 with g := true, in1 := some 1 }

/-- A region whose second gigabyte lies in the host's memory. -/
def hostFabric (r : Region) : State :=
  (fabric r).put .mem 0x102008 (leBytes 8 0x800000000008F)

theorem meets_SluiceForms :
    (fabric (region0 sluiceG (stateOf (sluiceVar (some tok59) [] [])) [] [tok5])).NodeAt 1 7 8
      (region0 sluiceG (stateOf (sluiceVar (some tok59) [] [])) [] [tok5]) sluiceG (stateOf (sluiceVar (some tok59) [] [])) ∧
    (region0 sluiceG (stateOf (sluiceVar (some tok59) [] [])) [] [tok5]).endAt true 1 1 = some 1 ∧
    (fabric (chained (one sluice0 (sluiceVar (some tok59) [] []) []))).NodeAt 1 7 8 (chained (one sluice0 (sluiceVar (some tok59) [] []) [])) sluice0
      (stateOf (sluiceVar (some tok59) [] [])) ∧ (chained (one sluice0 (sluiceVar (some tok59) [] []) [])).mustEnter 7 0 = true ∧
    (one sluice0 (sluiceVar (some tok59) [] []) []).mustEnter 7 0 = false ∧ sluice0.sluice.acts false tok59 none 1 = none ∧
    (hostFabric (one sluiceH (sluiceVar (some tok59) [] []) [])).NodeAt 1 7 8 (one sluiceH (sluiceVar (some tok59) [] []) []) sluiceH
      (stateOf (sluiceVar (some tok59) [] [])) ∧ sluiceH.sluice.tgt = 0 ∧ sluiceH.sluice.acts false tok59 none 0 = some 5 ∧
    (hostFabric (one sluiceH (sluiceVar (some tok59) [] []) [])).sluicePlace (one sluiceH (sluiceVar (some tok59) [] []) []) sluiceH.sluice 0x40002014 =
      .ok 0x8000000002014 ∧
    (fabric (one sluiceH (sluiceVar none [⟨0, 0x40002014, 0, 0, none, none⟩] [⟨0, tok59, 1, true⟩]) [])).NodeAt 1 7 8
      (one sluiceH (sluiceVar none [⟨0, 0x40002014, 0, 0, none, none⟩] [⟨0, tok59, 1, true⟩]) []) sluiceH
      (stateOf (sluiceVar none [⟨0, 0x40002014, 0, 0, none, none⟩] [⟨0, tok59, 1, true⟩])) := by
  and_intros <;> first | exact nodeAt_of (by decide +kernel) | exact ok_of (by decide +kernel) | decide +kernel

theorem meets_SumEscapeForms : (fabric (region0 accn2 (stateOf (sum0 [])) [marker 2] [])).NodeAt 1 7 6 (region0 accn2 (stateOf (sum0 [])) [marker 2] []) accn2 (stateOf (sum0 [])) ∧
    accn2.kfl.testBit 0 = true ∧ (one accn0 (sum0 []) [marker 4]).Offers accn0 0 0 (marker 4) [] (endOf 0 1 0 [marker 4]) ∧
    (one accn0 (sum0 []) [marker 1]).Offers accn0 0 0 (marker 1) [] (endOf 0 1 0 [marker 1]) ∧
    (one accn0 (sum0 []) [marker 6]).Offers accn0 0 0 (marker 6) [] (endOf 0 1 0 [marker 6]) ∧
    (one esc0 (escVar []) [marker 1]).Offers esc0 0 0 (marker 1) [] (endOf 0 1 0 [marker 1]) ∧
    (okOf ((fabric (one esc0 (escVar []) [marker 1])).agentStore (ctxAgent 0) (esc0.slipAddr 0) (slipEntry (marker 1) 0xFFFF 4))).isSome = true ∧
    (fabric (region0 escG (stateOf (escVar [])) [] [marker 2])).NodeAt 1 7 7 (region0 escG (stateOf (escVar [])) [] [marker 2]) escG (stateOf (escVar [])) ∧
    (region0 escG (stateOf (escVar [])) [] [marker 2]).endAt true 1 1 = some 1 ∧
    (errOf (({ fabric (one esc0 (escVar [parked 2]) []) with ctxs := [] } : State).slipToken (one esc0 (escVar [parked 2]) []) esc0 (parked 2))).isSome = true := by
  and_intros <;> first
    | decide +kernel | exact nodeAt_of (by decide +kernel) | exact offers_region0 _ _ _ _ rfl

theorem meets_Sluices :
    (fabric (one sluice0 (sluiceVar none [] []) [tok59])).NodeAt 1 7 8 (one sluice0 (sluiceVar none [] []) [tok59]) sluice0 (stateOf (sluiceVar none [] [])) ∧
    (fabric (one sluice0 (sluiceVar (some tok59) [] []) [])).NodeAt 1 7 8 (one sluice0 (sluiceVar (some tok59) [] []) []) sluice0
      (stateOf (sluiceVar (some tok59) [] [])) ∧ 0 < 16 / sluice0.sluice.layout.1 ∧ sluice0.sluice.acts false tok59 none 0 = some 5 ∧
    freeTag sluice0.sluice [] = some 0 ∧ sluice0.sluice.tgt = 2 ∧ sluice0.sluice.op = 0 ∧
    (fabric (one sluice0 (sluiceVar (some tok59) [] []) [])).sluicePlace (one sluice0 (sluiceVar (some tok59) [] []) []) sluice0.sluice (0x2000 + 5 * 4) =
      .ok 0x2014 ∧
    (fabric (one sluice0 (sluiceVar none [⟨0, 0x2014, 0, 0, some 3, none⟩] [⟨0, tok59, 1, true⟩]) [])).NodeAt 1 7 8
      (one sluice0 (sluiceVar none [⟨0, 0x2014, 0, 0, some 3, none⟩] [⟨0, tok59, 1, true⟩]) []) sluice0
      (stateOf (sluiceVar none [⟨0, 0x2014, 0, 0, some 3, none⟩] [⟨0, tok59, 1, true⟩])) ∧
    (fabric (one sluice0 (sluiceVar none [] [⟨0, tok59, 0, true⟩]) [])).NodeAt 1 7 8 (one sluice0 (sluiceVar none [] [⟨0, tok59, 0, true⟩]) []) sluice0
      (stateOf (sluiceVar none [] [⟨0, tok59, 0, true⟩])) ∧
    tok59.mask = 3 := by
  and_intros <;> first | exact nodeAt_of (by decide +kernel) | exact ok_of (by decide +kernel) | decide +kernel

theorem meets_SumsEscapes : (fabric (one accn0 (sum0 [tok5]) [])).NodeAt 1 7 6 (one accn0 (sum0 [tok5]) []) accn0 (stateOf (sum0 [tok5])) ∧
    (fabric (one accn0 (sum0 []) [tok5])).NodeAt 1 7 6 (one accn0 (sum0 []) [tok5]) accn0 (stateOf (sum0 [])) ∧ accn0.kfl.testBit 0 = false ∧
    accn0.field 18 2 = 0 ∧ (one accn0 (sum0 []) [marker 2]).Offers accn0 0 0 (marker 2) [] (endOf 0 1 0 [marker 2]) ∧
    (fabric (one esc0 (escVar []) [tok5])).NodeAt 1 7 7 (one esc0 (escVar []) [tok5]) esc0 (stateOf (escVar [])) ∧ esc0.slips = 2 ∧
    (okOf ((fabric (one esc0 (escVar []) [tok5])).agentStore (ctxAgent 0) (esc0.slipAddr 0) (slipEntry tok5 0xFFFF 1))).isSome = true ∧
    (okOf ((fabric (one esc0 (escVar []) [tok5])).agentStore (ctxAgent 0) (esc0.slipAddr 0) (slipEntry tok5 0xFFFF 1))).all (fun s1 =>
      (s1.startEscape ((one esc0 (escVar []) [tok5]).without 0 (endOf 0 1 0 [tok5]) []) esc0 0 15).isSome &&
      (({ s1 with binds := [] } : State).startEscape ((one esc0 (escVar []) [tok5]).without 0 (endOf 0 1 0 [tok5]) []) esc0 0 15).isNone) = true ∧
    (fabric (one esc0 (escVar [parked 2]) [])).NodeAt 1 7 7 (one esc0 (escVar [parked 2]) []) esc0 (stateOf (escVar [parked 2])) ∧
    nextSlip false 1 [parked 2] = some (parked 2) ∧
    ((fabric (one esc0 (escVar [parked 2]) [])).put .mem 0x3040 [1]).slipToken (one esc0 (escVar [parked 2]) []) esc0 (parked 2) =
      .ok { tag := 0, mask := 1, lanes := List.replicate 16 0 } := by
  and_intros <;> first
    | decide +kernel | exact nodeAt_of (by decide +kernel) | exact offers_region0 _ _ _ _ rfl

/-- R290, R246, R266: the update at the module's memory, the sum at an EOR, and the thread of an escape. -/
theorem test_sluice_send : (after (.sluiceSend 1 7) ((fabric (one sluice0 (sluiceVar (some tok59) [] []) [])).put .mem 0x2014 [4])).readNat .mem 0x2014 4 = 13 := by
  decide +kernel

theorem test_accn_sum : (match (after (.accnSum 1 7) (fabric (one accn0 (sum0 []) [{ tok5 with lanes := [0x3F800000] }]))).nodeVar 1 7 with
    | some (.accn sums got count _ _ _ _ _ _ _) => (sums.getD 0 0, got, count)
    | _ => (0, 0, 0)) = (0x3F800000, 1, 1) := by decide +kernel

theorem test_esc_take : ((after (.escTake 1 7) { fabric (one esc0 (escVar []) [tok5]) with nextId := 10 }).threads.map (fun t => (t.uid, t.pc, t.read 1))) =
    [(0, 0x1000, 0), (10, 0x9000, 0x1007000)] := by decide +kernel

/-- A slip that a thread reads and answers. -/
def slipped (l : List (Spec × Word)) : State := { fabric (one esc0 (escVar [parked 1]) []) with th := (rich l).th }

theorem meets_CallSlips : (slipped []).Free (.slipr 3 1) ∧ (slipped []).th.inflight = [] ∧ (slipped []).slipOf 0 0 = none ∧
    (slipped [(1, 0x1007000)]).slipOf 0 0x1007000 = some (one esc0 (escVar [parked 1]) [], esc0, parked 1) ∧
    (slipped []).agentRead (ctxAgent 0) (esc0.slipAddr 0) 70 = .ok (List.replicate 70 0) ∧ (slipped [(1, 0x1007000)]).Free (.sliprep 1 2) ∧
    fieldOf (0x50000 : Word) 16 3 = 5 ∧ fieldOf (0x10000 : Word) 16 3 = 1 ∧ (slipped []).Calm ∧ (slipped []).th.seen = [] ∧
    ((okOf ((slipped []).agentStore (ctxAgent 0) (esc0.slipAddr 0) (List.replicate 66 0))).bind (fun s =>
      okOf (s.agentStore (ctxAgent 0) (esc0.slipAddr 0 + 68) [0, 2]))).isSome = true := by
  and_intros <;> first | exact free_of (by decide) | exact calm_of (by decide +kernel) | decide +kernel

theorem test_sliprep : (after (.sliprep 1 2) (slipped [(1, 0x1007000), (32, 6)])).readNat .mem 0x3000 1 = 6 ∧
    (after (.sliprep 1 2) (slipped [(1, 0x1007000)])).readNat .mem 0x3045 1 = 2 := by decide +kernel

/-- The launch 16384 of a region, and its region without nodes, whose image stands at 0x5000. -/
def launch1 : Launch := { launch0 with ticket := 16384, spec := { parseLaunch [] with region := true } }

def region1 (rinst : Nat) (p : RPhase) : Region :=
  { rinst := rinst, ctx := 0, ticket := 16384, stripe := 0, row := 0, col := 0, rows := 1, cols := 1, phase := p,
    img := { handle := 1, rows := 1, cols := 1, seed := 0, tiles := [], nodes := [], links := [] }, shadow := none, resume := none, tiles := [],
    nodes := [], ends := [], sclk := 0, since := 0, code := 0x5000, handle := 1 }

def module (l : Launch) (rs : List Region) : State :=
  let s := paged []
  { s with regions := rs, reg := { s.reg with launches := [l] } }

/-- A header and one empty section (R208 to R212). -/
def image : List Byte :=
  leBytes 4 0x4943594C ++ leBytes 4 1 ++ leBytes 4 1 ++ [1, 1, 1, 0] ++ leBytes 4 0 ++ leBytes 4 88 ++ List.replicate 36 0 ++ leBytes 4 0xfddb71f3 ++
  leBytes 2 1 ++ leBytes 2 8 ++ leBytes 4 1 ++ leBytes 4 80 ++ leBytes 4 0x8c28b28a ++ List.replicate 8 0

def loadable : State := (module launch1 [region1 1 .loading]).put .mem 0x5000 image

def img1 : Image := (okOf (loadable.checkImage 0 0x5000 (loadable.loadEnv ctx0 launch1 (region1 1 .loading)))).getD (region1 1 .loading).img

/-- The conditions of `State.Settled`, as a test. -/
def settledB (s : State) : Bool :=
  s.threads.all (fun t => !s.finished t && (!decide (t.place = .slot) || t.isOf t.bindTicket || (s.launch? t.bindTicket).isSome))

theorem settled_of {s : State} (h : settledB s = true) : s.Settled := by
  simp only [settledB, List.all_eq_true, Bool.and_eq_true, Bool.not_eq_true', Bool.or_eq_true, decide_eq_false_iff_not] at h
  exact ⟨fun t m => (h t m).1, fun t m p => by
    rcases (h t m).2 with (a | a) | a
    · exact absurd p a
    · exact .inl a
    · exact .inr a⟩

theorem sole_of {s : State} {l : Launch} (h : (decide (s.reg.launches = [l] ∧ s.reg.queues = []) && settledB s) = true) : s.Sole l := by
  simp only [Bool.and_eq_true, decide_eq_true_eq] at h
  exact ⟨h.1.1, h.1.2, settled_of h.2⟩

theorem quiet_of {s : State} (h : (decide (s.reg.launches = [] ∧ s.reg.queues = []) && settledB s) = true) : s.Quiet := by
  simp only [Bool.and_eq_true, decide_eq_true_eq] at h
  exact ⟨h.1.1, h.1.2, settled_of h.2⟩

theorem noThreads_of {s : State} {n : Nat} (h : s.threads.all (fun t => decide (t.origin ≠ n ∧ t.bindTicket ≠ n)) = true) : s.NoThreads n := by
  simpa [Machine.State.NoThreads] using h

theorem image_checks : loadable.checkImage 0 0x5000 (loadable.loadEnv ctx0 launch1 (region1 1 .loading)) = .ok img1 := ok_of (by decide +kernel)

/-- R263: the image is in the shadow planes, and R107: a load that fails aborts its launch. -/
theorem meets_RegionLifecycle : loadable.region? 1 = some (region1 1 .loading) ∧ (region1 1 .loading).phase = .loading ∧
    loadable.reg.launches = [launch1] ∧ loadable.reg.queues = [] ∧ launch1.ticket = 16384 ∧ launch1.queue = 16384 % 2 ^ 14 ∧
    loadable.ctx? 0 = some ctx0 ∧
    ((match (module launch1 [region1 1 .loading]).checkImage 0 0x5000 ((module launch1 [region1 1 .loading]).loadEnv ctx0 launch1 (region1 1 .loading)) with
      | .ok _ => false | .error _ => true) = true) ∧
    launch1.spec.region = true ∧ launch1.spec.report = 0 ∧ loadable.bad = [] ∧ (loadable.threads.all (fun t => t.origin != 16384 && t.bindTicket != 16384)) ∧
    launch1.spec.compl.toNat % 8 = 0 ∧ loadable.agentPa (ctxAgent 0) 0 .wr = .ok 0 ∧
    (module launch1 [{ region1 1 .checked with shadow := some img1 }]).region? 1 = some { region1 1 .checked with shadow := some img1 } ∧
    (module launch1 [region1 1 .draining]).region? 1 = some (region1 1 .draining) ∧ (region1 1 .draining).reached 3 = true ∧ launch1.abort = false ∧
    launch1.left = 1 ∧ (module { launch1 with left := 2 } [region1 1 .draining]).reg.launches = [{ launch1 with left := 2 }] ∧
    (module launch1 [region1 1 .draining]).agentPa (ctxAgent 0) 0 .wr = .ok 0 ∧
    (module launch1 [region1 1 (.checkpoint false), region1 2 .running]).region? 1 = some (region1 1 (.checkpoint false)) ∧
    (region1 1 (.checkpoint false)).reached 4 = true ∧ region1 2 .running ∈ (module launch1 [region1 1 (.checkpoint false), region1 2 .running]).regions ∧
    (withQueue loadable).queue? 0 = some queue0 ∧ (withQueue loadable).out.booting = false ∧ queue0.bound = true ∧ ¬ (fieldOf (5 : Word) 16 3 = 6 ∧
      fieldOf (5 : Word) 0 16 = 3) ∧ queue0.waiting = [] ∧ assoc ({ queue0 with opened := [] } : Queue).opened 0 = none ∧
    assoc ({ queue0 with opened := [(0, 16384)] } : Queue).opened 0 = some 16384 ∧ (module launch1 [region1 1 .loading]).takesTokens 16384 = true ∧
    queue0.cist = [] ∧ queue0.port.length + queue0.waiting.length < 64 := by
  and_intros <;> first | decide +kernel

/-- A region that waits for the switch, another on its tile, and what a checkpoint has saved. -/
def switching (p : RPhase) : State := module launch1 [{ region1 1 .checked with shadow := some img1 }, region1 2 p]

def resuming : Region := { region1 1 .checked with shadow := some img1, resume := some ([], []) }

/-- A sink of a region that runs its checkpoint paused. -/
def pausedRegion : Region := { region1 1 (.checkpoint false) with nodes := [{ stateOf .plain with fault := some { code := .xlate } }] }

theorem meets_RegionSwitches : loadable.Sole launch1 ∧ loadable.NoThreads 16384 ∧ ({ region1 1 .loading with shadowBad := true } : Region).shadowBad = true ∧
    (module launch1 [{ region1 1 .loading with shadowBad := true }]).region? 1 = some { region1 1 .loading with shadowBad := true } ∧
    (switching .running).region? 1 = some { region1 1 .checked with shadow := some img1 } ∧ region1 2 .running ∈ (switching .running).regions ∧
    (region1 1 .checked).meets (region1 2 .running) = true ∧ (region1 1 .checked).meets (region1 2 .idle) = true ∧ (region1 1 .checked).shadowBad = false ∧
    (switching .idle).regions.map Region.phase = [.checked, .idle] ∧ (module launch1 [resuming]).region? 1 = some resuming ∧
    (module launch1 [region1 1 .draining]).Sole launch1 ∧ (module { launch1 with left := 2 } [region1 1 .draining]).Sole { launch1 with left := 2 } ∧
    (module launch1 [region1 1 .draining]).NoThreads 16384 ∧
    (module launch1 [region1 1 (.checkpoint false), region1 2 .running]).Sole launch1 ∧ (region1 1 (.checkpoint false)).nodes = [] ∧
    (module launch1 [pausedRegion]).region? 1 = some pausedRegion ∧ (∃ n ∈ pausedRegion.nodes, n.fault ≠ none) := by
  and_intros <;> first
    | decide +kernel | exact sole_of (by decide +kernel) | exact noThreads_of (by decide +kernel)

/-- A bound queue whose port is full, with a cistern of two entries at 0x5000, or none. -/
def fullQueue (size : Nat) : Queue := { queue0 with port := List.replicate 64 (0, tok5), cvbase := 0x5000, csize := size }

def waitingQueue : Queue := { queue0 with opened := [], waiting := [(0, 0x4000)] }

def fullPort (size : Nat) : State :=
  let s := module launch1 [region1 1 .loading]
  { s with reg := { s.reg with queues := [{ fullQueue size with opened := [(0, 16384)] }] } }

theorem meets_IngressPushes : (fullPort 4096).queue? 0 = some { fullQueue 4096 with opened := [(0, 16384)] } ∧ (fullQueue 4096).bound = true ∧
    (fullPort 4096).refilled { fullQueue 4096 with opened := [(0, 16384)] } = { fullQueue 4096 with opened := [(0, 16384)] } ∧
    (fullQueue 4096).spillAt = some 0 ∧ (fullQueue 0).spillAt = none ∧ (fullPort 4096).takesTokens 16384 = true ∧
    (okOf ((fullPort 4096).agentStore (ctxAgent 0) 0x5000 tok5.entry)).isSome = true ∧ waitingQueue.awaits = true ∧ queue0.awaits = false ∧
    (module launch1 []).refilled waitingQueue = waitingQueue := by
  and_intros <;> decide +kernel

/-- R325: the token that no place of the port takes stands in the cistern; without a cistern it is discarded. -/
theorem test_ingress_full : ((after (.ingressPush 0 3) (fullPort 4096)).queue? 0).map (fun q => (q.cist.map Spilled.va, q.accept, q.drop)) =
      some ([0x5000], 1, 0) ∧
    ((after (.ingressPush 0 3) (fullPort 0)).queue? 0).map (fun q => (q.cist.length, q.accept, q.drop)) = some (0, 0, 1) := by decide +kernel

/-- R263: a region that drains holds the switch back. -/
theorem test_switch : ((after (.configSwitch 1) (switching .draining)).region? 1).map Region.phase = some .checked ∧
    ((after (.configSwitch 1) (switching .idle)).region? 1).map Region.phase = some .running := by decide +kernel

/-- R107, R335: status 3 in the completion word. -/
theorem test_load_fails : (after (.loadFinish 1) (module launch1 [region1 1 .loading])).readNat .mem 7 1 = 3 := by decide +kernel

theorem test_region_complete : (after (.regionComplete 1) (module launch1 [region1 1 .draining])).reg.launches = [] := by decide +kernel

theorem test_ingress_push : (after (.ingressPush 0 5) (withQueue (module launch0 [{ region1 1 .loading with ticket := 0 }]))).queue? 0 =
    some { queue0 with orphan := 1 } := by decide +kernel

/-- A bound queue 1, and words of enq: XINV over 0x1000 to 0x1FFF, a LAUNCH at queue 1, an opcode that is none, a semaphore that is not held. -/
def launching (l : List (Spec × Word)) : State := { rich l with reg := { (rich l).reg with queues := [{ queue0 with idx := 1 }] } }

def asked (w0 w1 w2 : Word) : State := launching [(4, w0), (5, w1), (6, w2)]

def enquiring : State := after (.enq 3 4) (asked 7 0x1000 0x1000)

def enq0 : Enq := ⟨1, 0, 0, 0, true, [7, 0x1000, 0x1000]⟩

/-- The registrars after they have taken it. -/
def enqTaken : State := { enquiring with reg := { enquiring.reg with enqs := [] } }

/-- A launch that is pre-empted, one of its threads to be saved, the other in its slot. -/
def saving (k : Thread → Thread) : State :=
  let s := pair [] (fun t => { t with origin := 0 })
  { s with th := k s.th, reg := { s.reg with launches := [{ launch0 with phase := .preempting }] } }

/-- A thread that retries a fault, saved, or in its slot. -/
def retrying (p : Place) (n : Nat) : State :=
  let s : State := { twoSlots [] with clk := 5, reg := { (twoSlots []).reg with ticks := 1 } }
  { s with th := { s.th with mode := .descheduled, place := p, retry := some { trap := { code := .xlate, addr := 0x1234, retry := true, clk := some s.clk }, word := 0, first := 0, last := n } } }

/-- A node that retries a fault; and a region whose sink has not ended, with the launch 0, long after the order. -/
def nodeRetrying (n : Nat) : NodeSt := { stateOf .plain with fault := some { code := .xlate, addr := 0x1234, retry := true }, first := 0, last := n }

def overdueRegion (p : RPhase) : State :=
  let s := fabric { region0 (nodeOf 2 false []) (stateOf snk0) [] [] with phase := p }
  { s with clk := 10 * Config.quantum, reg := { s.reg with launches := [launch0] } }

def saved0 : Thread := { (saving id).th with mode := .waiting, wait := .lock 0x100 0x100 false }

theorem meets_RequestsAndRetries : (asked 7 0x1000 0x1000).Free (.enq 3 4) ∧ (regBlock 4 3).all (fun r => !(asked 7 0x1000 0x1000).th.busy r) ∧
    blockOk 3 31 = false ∧ enqLegal ((asked 9 0 0).th.block 4 3) = false ∧ blockOk 3 4 = true ∧
    enqLegal ((asked 7 0x1000 0x1000).th.block 4 3) = true ∧ enqLegal ((asked 0x1000000000005 0 0).th.block 4 3) = true ∧
    (asked 0x1000000000005 0 0).semGranted (asked 0x1000000000005 0 0).th 0 = false ∧ (asked 0x1000000000005 0 0).Free (.enq 3 4) ∧
    enqLegal ((asked 0x20005 0 0).th.block 4 3) = true ∧ ((asked 0x20005 0 0).queueOf 2).bound = false ∧ (asked 0x20005 0 0).Free (.enq 3 4) ∧
    enqLegal ((asked 0x10005 0 0).th.block 4 3) = true ∧ ((asked 0x10005 0 0).queueOf 1).bound = true ∧ ((asked 0x10005 0 0).queueOf 1).ctx = 0 ∧
    (asked 7 0x1000 0x1000).reg.enqs = [] ∧ (asked 7 0x1000 0x1000).th.busy 3 = false ∧ (asked 7 0x1000 0x1000).Calm ∧
    enquiring.reg.enqs = [enq0] ∧ (enqTaken.perform enq0).2.Holds 0 (enqTaken.perform enq0).2.th ∧ (enqTaken.perform enq0).2.th.mode = .ready ∧
    ((enqTaken.perform enq0).2.th.inflight.find? (fun g => g.id == 1)).map (fun g => (g.dst, g.dst2)) = some (some 3, none) ∧
    (wordAt enq0.regs 0).getLsbD 48 = false ∧ xinvOk 0x1000 0x1000 = true ∧
    (saving (fun _ => saved0)).Holds 0 saved0 ∧ saved0.origin = 0 ∧ (saving (fun _ => saved0)).canSave saved0 = true ∧ saved0.inflight = [] ∧
    saved0.place ≠ .saved ∧ (saving (fun _ => saved0)).others.map (fun x => (x.uid, x.origin, x.place)) = [(5, 0, .slot)] ∧
    ((saving (fun _ => saved0)).core 0).queue = [] ∧
    (saving (fun t => { t with mode := .waiting, wait := .link 7 })).canSave { (saving id).th with mode := .waiting, wait := .link 7 } = false ∧
    (fabric (region0 srcChan (nodeRetrying 0) [] [])).region? 1 = some (region0 srcChan (nodeRetrying 0) [] []) ∧
    (region0 srcChan (nodeRetrying 1000) [] []).nodes.find? (fun x => x.nid == 7) = some (nodeRetrying 1000) ∧ (nodeRetrying 1000).first + 1000 ≤ (nodeRetrying 1000).last ∧ (nodeRetrying 1000).retry = false ∧
    (retrying .saved 0).Holds 0 (retrying .saved 0).th ∧ (retrying .saved 0).th.wait = .none ∧ (retrying .saved 0).freeSlot 0 0 = some 0 ∧
    (retrying .saved 0).reg.launches = [] ∧ (retrying .slot 1000).Holds 0 (retrying .slot 1000).th ∧ (retrying .slot 1000).th.ticket.getLsbD 63 = false ∧
    (retrying .slot 1000).th.escape = none ∧ (retrying .slot 1000).th.peng = 7 ∧ ((retrying .slot 1000).threads.map Thread.uid).Nodup ∧
    ((overdueRegion (.checkpoint false)).region? 1).isSome = true ∧ (overdueRegion (.checkpoint true)).reg.launches = [launch0] ∧
    ((overdueRegion (.checkpoint true)).region? 1).all (fun r => !r.reached 4 && decide (r.since + 10 * Config.quantum ≤ (overdueRegion (.checkpoint true)).clk)) := by
  and_intros <;> first | exact free_of (by decide) | exact calm_of (by decide +kernel) | exact holds_of (by decide +kernel) | decide +kernel

/-- A core with as many enq requests as it takes; with a full range scoreboard; the request writes a list at 0x100 of its window. -/
def manyEnqs : State :=
  let s := asked 7 0x1000 0x1000
  { s with reg := { s.reg with enqs := (List.range 4).map (fun n => { enq0 with id := n }) } }

def fullScoreboard : State :=
  let s := asked 8 0x4000000000000100 0
  { s with cores := [(0, { s.core 0 with sb := (List.range 32).map (fun n => { cmd := n, dst := none, src := none }) })] }

theorem meets_RequestClauses : sidesAgree (enqSide ((asked 7 0x1000 0x1000).th.block 4 3)) = true ∧ enqSide ((asked 7 0x1000 0x1000).th.block 4 3) = [] ∧
    (manyEnqs.reg.enqs.filter (fun e => e.core == 0)).length = 4 ∧ enqSide (fullScoreboard.th.block 4 3) ≠ [] ∧ (fullScoreboard.core 0).sb.length = 32 ∧
    enqLegal (fullScoreboard.th.block 4 3) = true ∧ sidesAgree (enqSide (fullScoreboard.th.block 4 3)) = true ∧
    fullScoreboard.th.busy 3 = false ∧ enquiring.enqHeld enq0 = false ∧
    (saving (fun _ => saved0)).Sole { launch0 with phase := .preempting } ∧ (saving (fun _ => saved0)).ctx? 0 = some ctx0 ∧
    (saving (fun _ => saved0)).storeSlot 0 (some 0) = some 0 ∧ (overdueRegion (.checkpoint false)).Sole launch0 ∧
    (overdueRegion (.checkpoint true)).Sole launch0 ∧ (saving (fun t => { t with mode := .waiting, wait := .link 7 })).Sole { launch0 with phase := .preempting } ∧
    ((retrying .saved 0).launch? 0).isNone = true ∧ (retrying .saved 0).reg.ticks = 1 ∧ (nodeRetrying 0).last = 0 ∧ (∀ i < 1023, (retrying .slot 1000).readNat .mem (ctx0.saveBase + 64 * (1 + i) + 40) 8 ≠ (retrying .slot 1000).clk) ∧
    (retrying .slot 1000).ctx? 0 = some ctx0 ∧ (retrying .slot 1000).th.mode = .descheduled := by
  and_intros <;> first | exact sole_of (by decide +kernel) | decide +kernel

/-- R337, R136: the general registers and the pc stand in the save area. -/
theorem test_thread_save : ((after (.threadSaveComplete 0) (saving (fun _ => { saved0 with pc := 0x1234 }))).readNat .mem (0x10000000 + 0x10000 + 368) 8,
    (after (.enq 3 4) manyEnqs).th.mode) = (0x1234, .stalled) := by decide +kernel

theorem test_enq_xinv : (after (.enqRetire 0 1) enquiring).th.read 3 = 0 ∧ ((after (.enqRetire 0 1) enquiring).core 0).tlb = [] ∧
    (after (.enq 3 4) (asked 0x20005 0 0)).th.pc = 0x8000 := by decide +kernel

theorem test_retry_tick : ((after (.faultRetry false 0 0) (retrying .saved 0)).getT 0).map (fun t => (t.mode, t.retry.map Retry.last)) =
    some (.ready, some 1) := by decide +kernel

theorem test_region_watchdog : (after (.checkpointWatchdog 1) (overdueRegion (.checkpoint false))).reg.launches = [{ launch0 with barred := true }] := by
  decide +kernel

/-! ### The host and the outside -/

/-- A module that the host uses: the command ring at 0x10000 with a command in its first entry, the completion ring at 0x20000. -/
def hosted (s : State) (op cid : Nat) (ws : List Nat) : State :=
  let s1 := s.put .mem (hostPa 0x10000) ([BitVec.ofNat 8 op, 0] ++ leBytes 2 cid ++ leBytes 4 0 ++ ws.flatMap (fun w => leBytes 8 w))
  { s1 with reg := { s1.reg with cbase := 0x10000, qbase := 0x20000, ctail := 1 }, vec := 3 }

/-- A word of the command that waits. -/
def asking (s : State) (i : Nat) : Nat := s.readNat .mem (s.commandAt + 8 * i) 8

def joining : State := { hosted (rich []) 0 0 [] with reg := { (hosted (rich []) 0 0 []).reg with joinq := [0x101] } }

def ported : State := { rich [] with portsUp := 3 }

/-- A load behind port 0 of a peer. -/
def portLoad : State := { linkLoad with portsUp := 1, links := linkLoad.links.map (fun q => { q with port := some 0 }) }

theorem meets_RegistersAndRings : (rich []).out.booting = false ∧ (5 : BitVec 32).toNat < (rich []).reg.csize ∧ (rich []).reg.csize ≤ (16 : BitVec 32).toNat ∧
    (5 : BitVec 32).toNat < (rich []).reg.qsize ∧ (rich []).reg.joinq = [] ∧ joining.reg.joinq = [0x101] ∧ joining.reg.qbase ≠ 0 ∧
    (joining.reg.qtail + 1) % joining.reg.qsize ≠ (5 : BitVec 32).toNat ∧ joining.out.booting = false ∧ (rich []).reg.qsize ≤ (16 : BitVec 32).toNat ∧
    (rich []).links = [] ∧ (rich []).regions = [] ∧ (rich []).out.powered = true ∧ (rich []).portsEn.testBit 15 = true ∧
    ({ rich [] with portsEn := 0 } : State).portsEn.testBit 15 = false ∧ ported.portsUp.testBit 1 = true ∧ ported.links = [] ∧ ported.regions = [] ∧
    portLoad.portsUp.testBit 0 = true ∧ portLoad.links.map LinkReq.port = [some 0] ∧ portLoad.regions = [] ∧ (rich []).out.attBusy = false ∧
    (rich []).out.nonce.length = 48 := by
  and_intros <;> decide +kernel

/-- A module in D3hot. -/
def asleepD3 : State := { rich [] with out := { (rich []).out with d3 := true } }

theorem meets_PowerStateAndPorts : (3 : BitVec 64).toNat % 4 = 3 ∧ (4 : BitVec 64).toNat % 4 = 0 ∧ asleepD3.out.d3 = true ∧ asleepD3.out.powered = true ∧
    (peerStore (some 0)).portsUp.testBit 0 = true ∧ (peerStore (some 0)).stores.map Store.port = [some 0] ∧ (peerStore (some 0)).links = [] ∧
    (peerStore (some 0)).regions = [] ∧ (peerStore (some 0)).Holds 0 (peerStore (some 0)).th ∧ (rich []).stores = [] ∧
    10 ≤ fieldOf (0x1400 : Word) 8 6 ∧ fieldOf (0x1400 : Word) 8 6 ≤ 20 := by
  and_intros <;> first | exact holds_of (by decide +kernel) | decide +kernel

/-- R363, R369: D3hot answers a write with Unsupported Request, D0 resets; a posted store on a port that goes down is lost with an error. -/
theorem test_power_state : (after (.registerWrite 2 0xB010 8 50) asleepD3).out.replies = [(none, .unsupported)] ∧
    (after (.registerWrite 2 0xB010 8 50) asleepD3).out.plim = (rich []).out.plim ∧ (after (.registerWrite 5 0 8 0) asleepD3).threads = [] ∧
    (after (.portDown 0) (peerStore (some 0))).th.deferred.map Trap.code = [.prot] := by decide +kernel

/-- R342: a join event of die 0, field 1; R364: a port that goes down fails its load; R372: 30 W at least. -/
theorem test_join_event : (after (.qheadWrite 5) joining).readNat .mem (hostPa 0x20000) 16 = 0x10100000000_0100FFFF := by decide +kernel

theorem test_port_down : (after (.portDown 0) portLoad).links = [] ∧ (after (.portDown 0) portLoad).portsUp = 0 := by decide +kernel

theorem test_registers : (after (.registerWrite 2 0xB010 8 20) (rich [])).out.plim = 30 ∧ (after (.registerWrite 2 0x10 4 7) (rich [])).reg.ctail = 7 ∧
    (after (.registerWrite 6 0 8 0x1400) (rich [])).out.bar4 = 40 ∧
    assoc (after (.registerWrite 2 0xC004 4 0x80000003) (rich [])).routes 1 = some 0x80000003 := by decide +kernel

def apertured : State := { rich [] with out := { (rich []).out with aperture := 0x40000000 } }

theorem meets_HostMemoryAccess : apertured.out.booting = false ∧ apertured.bad = [] ∧ ((0x1000 : Nat) + 8 ≤ 2 ^ apertured.out.bar4 ∧ 0x40001000 + 8 ≤ 0xC000000000 ∧
    0x40001000 + 8 ≤ statusPage) ∧ (0x40001000 % 8 = 0 ∧ 0x40001004 % 8 ≠ 0) ∧ ported.out.booting = false ∧ ported.bad = [] ∧ ported.portsUp ≠ 0 ∧
    ported.out.fatal = false ∧ ({ ported with out := { ported.out with fatal := true } } : State).out.fatal = true ∧
    ((0x3FFFFE00 : Nat) + 512 ≤ 2 ^ apertured.out.bar4 ∧ apertured.out.aperture.toNat + 0x3FFFFE00 + 512 ≤ 0xC000000000) ∧
    apertured.out.aperture.toNat + (statusPage - 0x40000000 - 256) + 512 > statusPage ∧ ¬ 0 < (0 : Nat) := by
  and_intros <;> decide +kernel

/-- R363, R365: an add through the aperture, a write of a peer, and none on the status page. -/
theorem test_aperture : (after (.hostApertureAccess 2 0x1000 8 5 0) (apertured.put .mem 0x40001000 [7])).readNat .mem 0x40001000 8 = 12 ∧
    (after (.peerRequest 1 0x2000 4 0x1234 0) ported).readNat .mem 0x2000 8 = 0x1234 ∧
    (after (.peerRequest 1 statusPage 4 0x1234 0) ported).readNat .mem statusPage 8 = 0 := by decide +kernel

theorem meets_HostRequests : apertured.out.d3 = false ∧ apertured.out.powered = true ∧ (0 : Nat) < 8 ∧ 4096 < (4097 : Nat) ∧ 5 ≤ (5 : BitVec 3).toNat ∧
    12 ≤ (12 : BitVec 4).toNat ∧ (2 : BitVec 4).toNat ≤ 11 ∧ 2 ^ apertured.out.bar4 < 2 ^ apertured.out.bar4 + 1 ∧ ported.unit = 0 ∧
    ported.portsUp.testBit 0 = true := by decide +kernel

/-- R363, R365, R369: a read's data and an atomic's old value are replied, and what lies beyond HBM is refused. -/
theorem test_replies : (after (.hostApertureAccess 0 0x1000 2 0 0) (apertured.put .mem 0x40001000 [7])).out.replies = [(none, .data [7, 0])] ∧
    (after (.hostApertureAccess 2 0x1000 4 5 0) (apertured.put .mem 0x40001000 [7])).out.replies = [(none, .data [7, 0, 0, 0])] ∧
    (after (.hostApertureAccess 0 0x1000 2 0 0) { apertured with out := { apertured.out with aperture := 0xC000000000 } }).out.replies =
      [(none, .unsupported)] ∧
    (after (.peerRequest 12 0x1000 4 0 0) ported).out.replies = [(some 0, .abort)] := by decide +kernel

/-! ### Commands of the host -/

/-- Whether a command waits that asks what `Asks` says, and may be taken as `CleanCommand` says. -/
def asksB (s : State) (op cid : Nat) : Bool :=
  !s.out.booting && decide (s.reg.chead ≠ s.reg.ctail) && decide ((s.reg.qtail + 1) % s.reg.qsize ≠ s.reg.qhead) && s.reg.busy.isNone &&
    decide (s.readNat .mem s.commandAt 1 = op) && decide (s.readNat .mem (s.commandAt + 2) 2 = cid)

theorem asks_of {s : State} {op cid : Nat} (h : asksB s op cid = true) : s.Asks op cid (asking s) := by
  simp only [asksB, Bool.and_eq_true, Bool.not_eq_true', Option.isNone_iff_eq_none, decide_eq_true_eq] at h
  exact ⟨h.1.1.1.1.1, h.1.1.1.1.2, h.1.1.1.2, h.1.1.2, h.1.2, h.2, fun _ _ => rfl⟩

theorem clean_of {s : State} {cid : Nat} (h : (commandClean (s.readBytes .mem s.commandAt 64) && decide (cid ≠ 0xFFFF)) = true) : s.CleanCommand cid := by
  simp only [Bool.and_eq_true, decide_eq_true_eq] at h
  exact h

/-- A module without contexts, and a context's record at 0x3000 (R323). -/
def bare : State := { unit [] with th := Thread.initial, ctxs := [], binds := [], windows := [] }

def ctxRecord : List Byte :=
  leBytes 8 0x100000 ++ leBytes 8 0x20000 ++ leBytes 4 4 ++ leBytes 4 64 ++ leBytes 8 0x30000 ++ leBytes 8 0x10000000 ++ leBytes 8 0x1000000 ++
  leBytes 8 0x4000000 ++ [8, 0, 0, 0, 7, 1]

def creating : State := hosted (bare.put .mem 0x3000 ctxRecord) 1 9 [0x3000]

/-- A module with the context alone, and its queue 1. -/
def empty1 : State := { rich [] with th := Thread.initial }

def bound1 : State := { rich [] with reg := { (rich []).reg with queues := [{ queue0 with idx := 1, opened := [] }] } }

theorem meets_HostCommands : hostOp .cancel = some 6 ∧ (rich []).reg.chead = (rich []).reg.ctail ∧ ({ hosted (rich []) 6 9 [] with
      reg := { (hosted (rich []) 6 9 []).reg with qhead := 1 } } : State).reg.qhead = 1 ∧
    (hosted (rich []) 6 0xFFFF [0]).Asks 6 0xFFFF (asking (hosted (rich []) 6 0xFFFF [0])) ∧ (hosted (rich []) 9 9 []).Asks 9 9 (asking (hosted (rich []) 9 9 [])) ∧
    creating.Asks 1 9 (asking creating) ∧ creating.CleanCommand 9 ∧ creating.bad = [] ∧ asking creating 1 = 0x3000 ∧
    (parseCtx 0 (creating.readBytes .mem 0x3000 128)).isSome = true ∧ creating.ctxs = [] ∧ creating.out.retired = [] ∧ creating.readNat .mem 0x3012 2 = 0 ∧
    creating.readNat .mem 0x3014 4 = 64 ∧ (hosted bare 1 9 [0xC000000000]).Asks 1 9 (asking (hosted bare 1 9 [0xC000000000])) ∧
    (hosted bare 1 9 [0xC000000000]).CleanCommand 9 ∧ asking (hosted bare 1 9 [0xC000000000]) 1 = 0xC000000000 ∧
    (hosted (rich []) 2 9 [5]).Asks 2 9 (asking (hosted (rich []) 2 9 [5])) ∧ (hosted (rich []) 2 9 [5]).CleanCommand 9 ∧ (hosted (rich []) 2 9 [5]).ctx? 5 = none ∧
    (hosted empty1 2 9 [0]).Asks 2 9 (asking (hosted empty1 2 9 [0])) ∧ (hosted empty1 2 9 [0]).CleanCommand 9 ∧ asking (hosted empty1 2 9 [0]) 1 = 0 ∧
    (hosted empty1 2 9 [0]).ctx? 0 = some ctx0 ∧ (hosted empty1 2 9 [0]).reg.launches = [] ∧ (hosted empty1 2 9 [0]).reg.queues = [] ∧
    (hosted empty1 2 9 [0]).threads = [] := by
  and_intros <;> first | exact asks_of (by decide +kernel) | exact clean_of (by decide +kernel) | decide +kernel

/-- R324: pri 7, context 0, queue 2. -/
def binding (w : Nat) (ring : Nat) : State := hosted bound1 3 9 [w, ring, 0]

theorem meets_QueueCommands : (binding 0x7000002 0).Asks 3 9 (asking (binding 0x7000002 0)) ∧ (binding 0x7000002 0).CleanCommand 9 ∧
    asking (binding 0x7000002 0) 1 = 0x7000002 ∧ ((binding 0x7000002 0).queueOf 2).bound = false ∧ asking (binding 0x7000002 0) 2 = 0 ∧
    asking (binding 0x7000002 0) 3 = 0 ∧ (binding 0x7000002 0).ctx? 0 = some ctx0 ∧ (binding 0x7000002 0).ctx? 5 = none ∧
    (binding 0x7004002 0).Asks 3 9 (asking (binding 0x7004002 0)) ∧ asking (binding 0x7004002 0) 1 / 2 ^ 14 % 4 ≠ 0 ∧ (binding 0x7004002 0).CleanCommand 9 ∧
    (binding 0x3000001 0).Asks 3 9 (asking (binding 0x3000001 0)) ∧ (binding 0x3000001 0).CleanCommand 9 ∧ ((binding 0x3000001 0).queueOf 1).bound = true ∧
    ((binding 0x3000001 0).queueOf 1).ctx = 0 ∧ (hosted bound1 4 9 [0x4000]).Asks 4 9 (asking (hosted bound1 4 9 [0x4000])) ∧
    (hosted bound1 4 9 [0x4000]).CleanCommand 9 ∧ ((hosted bound1 4 9 [2]).queueOf 2).bound = false ∧ (hosted bound1 4 9 [1]).CleanCommand 9 ∧
    (hosted bound1 4 9 [1]).Asks 4 9 (asking (hosted bound1 4 9 [1])) ∧ (hosted bound1 4 9 [1]).reg.queues.map Queue.idx = [1] ∧
    (hosted bound1 4 9 [1]).reg.launches = [] := by
  and_intros <;> first | exact asks_of (by decide +kernel) | exact clean_of (by decide +kernel) | decide +kernel

/-- A launch record of one level at 0x4000 (R326): a core's thread, code at 0x1000, completion at 0x6000. -/
def record (compl : Nat) : List Byte :=
  [2, 0, 1, 2] ++ leBytes 4 0 ++ leBytes 8 0x1000 ++ leBytes 8 compl ++ List.replicate 32 0 ++ leBytes 2 0 ++ [1, 0] ++ leBytes 4 0 ++ leBytes 8 0x113

def entering (compl : Nat) : State :=
  let s := (paged []).put .mem 0x4000 (record compl)
  { s with reg := { s.reg with queues := [{ queue0 with idx := 1, opened := [] }] } }

theorem meets_LaunchCommands : (hosted (entering 0x6000) 5 9 [1, 0x4000]).Asks 5 9 (asking (hosted (entering 0x6000) 5 9 [1, 0x4000])) ∧
    (hosted (entering 0x6000) 5 9 [1, 0x4000]).CleanCommand 9 ∧ (hosted (entering 0x6000) 5 9 [0x4000, 0]).Asks 5 9 (asking (hosted (entering 0x6000) 5 9 [0x4000, 0])) ∧
    (hosted (entering 0x6000) 5 9 [0x4000, 0]).CleanCommand 9 ∧ ((entering 0x6000).queueOf 2).bound = false ∧
    ((entering 0x6000).queue? 1).map Queue.bound = some true ∧ (entering 0x6000).reg.launches = [] ∧ (0x4001 : Word).toNat % 128 ≠ 0 ∧
    (entering 0x6000).agentRead (ctxAgent 0) 0x4000 128 = .ok (record 0x6000 ++ List.replicate 56 0) ∧ (entering 0x6000).ctx? 0 = some ctx0 ∧
    (entering 0x6001).agentRead (ctxAgent 0) 0x4000 128 = .ok (record 0x6001 ++ List.replicate 56 0) ∧
    launchLegal (record 0x6001 ++ List.replicate 56 0) true = false ∧ launchLegal (record 0x6000 ++ List.replicate 56 0) true = true ∧
    (entering 0x6000).everPlaced 0 (parseLaunch (record 0x6000 ++ List.replicate 56 0)) = true ∧
    ({ entering 0x6000 with reg := { (entering 0x6000).reg with
      launches := List.replicate 64 { launch0 with queue := 1, phase := .queued } } } : State).reg.launches.length = 64 := by
  and_intros <;> first | exact asks_of (by decide +kernel) | exact clean_of (by decide +kernel) | decide +kernel

/-- CANCEL of the launch 16384 of threads, none of which has started. -/
def cancelling (w : Nat) (p : LPhase) : State :=
  hosted (module { launch0 with ticket := 16384, phase := p } []) 6 9 [w]

theorem meets_Cancels : (cancelling 0x4000 .queued).Asks 6 9 (asking (cancelling 0x4000 .queued)) ∧ (cancelling 0x4000 .queued).CleanCommand 9 ∧
    asking (cancelling 0x4000 .queued) 1 = 16384 ∧ asking (cancelling 0x200000000 .queued) 1 = 2 ^ 33 ∧ (cancelling 0x200000000 .queued).CleanCommand 9 ∧
    (cancelling 5 .queued).launch? 5 = none ∧ (cancelling 5 .queued).CleanCommand 9 ∧
    (cancelling 0x4000 .running).launch? 16384 = some { launch0 with ticket := 16384 } ∧ (0x4000 : Nat).testBit 32 = false ∧
    (cancelling 0x100004000 .running).Asks 6 9 (asking (cancelling 0x100004000 .running)) ∧ (cancelling 0x100004000 .running).CleanCommand 9 ∧
    (asking (cancelling 0x100004000 .running) 1).testBit 32 = true ∧ launch0.spec.region = false ∧
    ((cancelling 0x4000 .queued).threads.all (fun t => t.origin != 16384 && t.bindTicket != 16384)) ∧ (cancelling 0x4000 .queued).bad = [] ∧
    (cancelling 0x4000 .queued).regions = [] ∧ launch0.spec.compl.toNat % 8 = 0 ∧ (cancelling 0x4000 .queued).agentPa (ctxAgent 0) 0 .wr = .ok 0 := by
  and_intros <;> first | exact asks_of (by decide +kernel) | exact clean_of (by decide +kernel) | decide +kernel

/-- A saved thread whose slot is free, at a tick. -/
def ticking (s : State) : State := { s with clk := Config.quantum }

def resting : State := ticking { twoSlots [] with th := { (twoSlots []).th with mode := .descheduled, place := .saved } }

theorem meets_TicksAndTranslations : (hosted (rich []) 7 9 [0, 0x1000, 0x1000]).Asks 7 9 (asking (hosted (rich []) 7 9 [0, 0x1000, 0x1000])) ∧
    (hosted (rich []) 7 9 [0, 0x1000, 0x1000]).CleanCommand 9 ∧ (hosted (rich []) 7 9 [5, 0x1000, 0x1000]).ctx? 5 = none ∧
    (hosted (rich []) 7 9 [0, 0x1000, 0]).CleanCommand 9 ∧ (hosted (rich []) 7 9 [0, 0x1000, 0]).Asks 7 9 (asking (hosted (rich []) 7 9 [0, 0x1000, 0])) ∧
    (hosted (rich []) 8 9 [0x40000]).Asks 8 9 (asking (hosted (rich []) 8 9 [0x40000])) ∧ (hosted (rich []) 8 9 [0x40000]).CleanCommand 9 ∧
    (unit []).clk < ((unit []).reg.ticks + 1) * Config.quantum ∧ (resting.reg.ticks + 1) * Config.quantum ≤ resting.clk ∧ resting.reg.launches = [] ∧
    resting.reg.queues = [] ∧ resting.dying = [] ∧ resting.Holds 0 resting.th ∧ resting.th.place = .saved ∧ resting.th.retry = none ∧
    resting.th.wait = .none ∧ resting.others = [] ∧ resting.freeSlot 0 0 = some 0 ∧
    (ticking { module launch1 [] with dying := [16384] }).reg.launches = [launch1] ∧ (ticking (module launch1 [])).regions = [] ∧
    ((module launch1 []).threads.all (fun t => t.origin != 16384 && t.bindTicket != 16384)) := by
  and_intros <;> first | exact asks_of (by decide +kernel) | exact clean_of (by decide +kernel) | exact holds_of (by decide +kernel) | decide +kernel

/-- R324, R325: a queue 1 that is bound, with launch tokens that wait in its port and in its cistern; and a queue 2 that was, its ring the
same. -/
def loaded : Queue :=
  { queue0 with idx := 1, opened := [], port := [(0, tok5), (1, tok5)], waiting := [(0, 0x4000)], epoch := 3, cvbase := 0x5000, csize := 4096, ctail := 2,
                cist := [{ epoch := 2, launch := true, ctx := 0, va := 0x5000 }, { epoch := 3, launch := false, ctx := 0, va := 0x5048 }] }

def unbinding : State := hosted { empty1 with reg := { empty1.reg with queues := [loaded] } } 4 9 [1]

def rebinding (ring : Nat) : State :=
  hosted { empty1 with reg := { empty1.reg with queues := [{ loaded with idx := 2, bound := false }] } } 3 9 [0x7000002, ring, 0x1000]

/-- A translation that XINV drops, in a core's cache and in its stripe's walker; and a request on a link that used it. -/
def invalidating (s : State) : State :=
  hosted { s with cores := [(0, { CoreSt.initial with tlb := [{ map0 with bits := 12 }] })], walkers := [(0, [{ map0 with bits := 12 }])] } 7 9 [0, 0, 0x1000]

/-- A saved thread of a running launch whose record grants slot 0, at a tick. -/
def granted : State :=
  let s := resting
  { s with th := { s.th with origin := 0 }, reg := { s.reg with launches := [launch0] } }

theorem meets_RegistrarClauses : unbinding.Asks 4 9 (asking unbinding) ∧ unbinding.CleanCommand 9 ∧ unbinding.reg.queues = [loaded] ∧
    loaded.idx = asking unbinding 1 ∧ loaded.bound = true ∧ unbinding.reg.launches = [] ∧ unbinding.Settled ∧
    (rebinding 0x5000).Asks 3 9 (asking (rebinding 0x5000)) ∧ (rebinding 0x5000).CleanCommand 9 ∧ ((rebinding 0x5000).queueOf 2).cvbase = asking (rebinding 0x5000) 2 ∧
    ((rebinding 0x5000).queueOf 2).csize = asking (rebinding 0x5000) 3 ∧ ((rebinding 0x5000).queueOf 2).bound = false ∧
    (invalidating (rich [])).Asks 7 9 (asking (invalidating (rich []))) ∧ (invalidating (rich [])).CleanCommand 9 ∧
    (((invalidating (rich [])).invalidate 0 0 0x1000).linksIn 0 0 0x1000) = false ∧ (invalidating (rich [])).stores = [] ∧
    ((invalidating (rich [])).threads.map Thread.uid).Nodup ∧
    (hosted linkLoad 7 9 [0, 0x40000000, 0x1000]).Asks 7 9 (asking (hosted linkLoad 7 9 [0, 0x40000000, 0x1000])) ∧
    (hosted linkLoad 7 9 [0, 0x40000000, 0x1000]).CleanCommand 9 ∧ (hosted linkLoad 7 9 [0, 0x40000000, 0x1000]).ctx? 0 ≠ none ∧
    (((hosted linkLoad 7 9 [0, 0x40000000, 0x1000]).invalidate 0 0x40000000 0x1000).linksIn 0 0x40000000 0x1000) = true ∧
    granted.Sole launch0 ∧ granted.dying = [] ∧ granted.Holds 0 granted.th ∧ granted.th.place = .saved ∧ granted.th.retry = none ∧ granted.th.wait = .none ∧
    granted.others = [] ∧ granted.freeSlot 0 0 = some 0 ∧ (granted.grant 0 0 0).map Bind.ticket = some 0 ∧
    (ticking { module launch1 [] with dying := [16384] }).Sole launch1 ∧ (hosted empty1 2 9 [0]).Quiet ∧
    (ticking { empty1 with reg := { empty1.reg with launches := [], queues := [] } }).Quiet ∧
    (cancelling 0x4000 .queued).Sole { launch0 with ticket := 16384, phase := .queued } ∧
    (cancelling 0x100004000 .running).Sole { launch0 with ticket := 16384 } := by
  and_intros <;> first
    | exact asks_of (by decide +kernel) | exact clean_of (by decide +kernel) | exact holds_of (by decide +kernel) | exact sole_of (by decide +kernel)
    | exact quiet_of (by decide +kernel) | exact settled_of (by decide +kernel) | decide +kernel

/-- What the host reads of a completion: CID and result (R341). -/
def answer (i : Instr) (s : State) : Nat × Nat := ((after i s).readNat .mem (hostPa 0x20000) 2, (after i s).readNat .mem (hostPa 0x20002) 1)

theorem test_ctx_create : answer .ctxCreate creating = (9, 0) ∧ (after .ctxCreate creating).ctxs.map Ctx.saveBase = [0x10000000] := by decide +kernel

theorem test_ctx_destroy : answer .ctxDestroy (hosted empty1 2 9 [0]) = (9, 0) ∧ answer .ctxDestroy (hosted empty1 2 9 [5]) = (9, 6) := by decide +kernel

theorem test_qbind : answer .qbind (binding 0x7000002 0) = (9, 0) ∧ answer .qbind (binding 0x7004002 0) = (9, 3) := by decide +kernel

theorem test_qunbind : answer .qunbind (hosted bound1 4 9 [1]) = (9, 0) ∧ answer .qunbind (hosted bound1 4 9 [2]) = (9, 6) := by decide +kernel

/-- R324, R325: the tokens of the launch tokens that are lost go with them, and all count as orphans. -/
theorem test_qunbind_tokens : ((after .qunbind unbinding).queue? 1).map (fun q => (q.port.map Prod.fst, q.cist.map Spilled.epoch, q.orphan, q.epoch)) =
    some ([1], [3], 3, 4) := by decide +kernel

/-- R341: the same ring goes on where it stood. -/
theorem test_qbind_again : (((after .qbind (rebinding 0x5000)).queueOf 2).ctail, ((after .qbind (rebinding 0x7000)).queueOf 2).ctail) = (2, 0) := by decide +kernel

theorem test_launch : answer .launch (hosted (entering 0x6000) 5 9 [1, 0x4000]) = (9, 0) ∧
    answer .launch (hosted (entering 0x6001) 5 9 [1, 0x4000]) = (9, 3) := by decide +kernel

theorem test_cancel : answer .cancel (cancelling 0x4000 .queued) = (9, 0) ∧ answer .cancel (cancelling 0x4000 .running) = (9, 1) := by decide +kernel

/-- R186: the command waits for what went out through the old translation. -/
theorem test_xinv_waits : (after .xinv (hosted linkLoad 7 9 [0, 0x40000000, 0x1000])).reg.busy.isSome = true ∧
    (after .xinv (invalidating (rich []))).walkers.map Prod.snd = [[]] := by decide +kernel

theorem test_xinv : ((after .xinv (hosted (rich []) 7 9 [0, 0x1000, 0x1000])).core 0).tlb = [] ∧ answer .badopc (hosted (rich []) 9 9 []) = (9, 7) := by
  decide +kernel

/-- R16, R341: entry 5 is die 0, field 1, stripe 3: 1 * 2^11 + 3 * 2^8. -/
theorem test_slicemap : (after .slicemap (hosted (rich []) 8 9 [0x40000])).readNat .mem (hostPa 0x4000A) 2 = 0xB00 := by decide +kernel

theorem test_tick : ((after .quantumTick resting).getT 0).map Thread.mode = some .ready := by decide +kernel

/-! ### Fields, retirement, power and resets -/

/-- A module with field 0 alone and nothing else; and one that has 22 fields to settle. -/
def field0 : State := { bare with sliceMap := List.replicate 96 0 }

def nearly : State := { field0 with joined := (List.range 24).filter (fun i => i != 5) }

def retiredBy (r : Retired) : State := { rich [] with out := { (rich []).out with retired := [r] } }

def erring (rows : List ErrRow) (l : List LastRow) : State := { rich [] with out := { (rich []).out with errors := [(0, rows)], lasting := l } }

theorem meets_FieldsAndRetirement : field0.out.powered = true ∧ 5 ∉ field0.joined ∧ 5 ∉ field0.out.failed ∧ field0.reg.launches = [] ∧ field0.reg.queues = [] ∧
    field0.reg.qbase = 0 ∧ field0.out.booting = false ∧ (field0.joined.length + 1 + field0.out.failed.length < 24) ∧
    (((List.range 24).filter (fun i => i == 5 || nearly.joined.contains i)).length = 24) ∧ field0.ctxs = [] ∧ field0.out.retired = [] ∧
    (State.reset.out.booting = true ∧ State.reset.joined = [] ∧ State.reset.reg.launches = [] ∧ State.reset.reg.qbase = 0 ∧ State.reset.out.powered = true) ∧
    0 ∈ field0.joined ∧ (rich []).ctxs ≠ [] ∧ (retiredBy ⟨3, 1, false⟩).out.retired[0]? = some ⟨3, 1, false⟩ ∧
    (retiredBy ⟨3, 0, false⟩).binds.map (fun b => (b.region, b.unit)) = [(false, 0)] ∧ (retiredBy ⟨4, 0, false⟩).out.retired[0]? = some ⟨4, 0, false⟩ ∧
    (retiredBy ⟨1, 0, false⟩).out.retired[0]? = some ⟨1, 0, false⟩ ∧ rowUnitOk (1 : BitVec 4).toNat 7 = true ∧ kindOfStore 1 = 3 ∧ dieOfUnit 3 7 = 0 ∧
    assoc (rich []).out.errors 0 = none ∧ assoc (erring [⟨1, 7, 7, 1, 0⟩] []).out.errors 0 = some [⟨1, 7, 7, 1, 0⟩] ∧
    (erring [⟨1, 7, 7, 1, 0⟩] []).clk ≤ 164160000000000 ∧ ({ erring [⟨1, 7, 7, 1, 0⟩] [] with clk := 164160000000001 } : State).clk = 164160000000001 ∧
    (erring [⟨1, 7, 7, 2, 0⟩] []).out.lasting = [] ∧ (erring [] [⟨1, 7, 8, true⟩, ⟨1, 7, 9, true⟩]).out.lasting = [⟨1, 7, 8, true⟩, ⟨1, 7, 9, true⟩] ∧
    (erring [] [⟨1, 7, 8, true⟩, ⟨1, 7, 9, true⟩]).isRetired 3 7 = false := by
  and_intros <;> decide +kernel

/-- A region on compute tile 0, in whose accumulators an error arises at clk 5. -/
def tileError : State := { fabric (tiled 6) with clk := 5 }

theorem meets_TileErrors : (tileError.regionOf 0).map (fun p => (p.1.rinst, p.2)) = some (1, 0) ∧ tileError.ctx? 0 = some ctx0 ∧ tileError.out.lasting = [] ∧
    rowUnitOk (3 : BitVec 4).toNat 0 = true ∧ (rich []).regionOf 0 = none ∧
    (∀ i < 1023, tileError.readNat .mem (ctx0.saveBase + 64 * (1 + i) + 40) 8 ≠ tileError.clk) := by
  and_intros <;> decide +kernel

/-- R351: the launch is aborted, and the record is of kind 3, with FATAL. -/
theorem test_tile_error : (after (.correctedError 3 0 7 true) tileError).dying = [0] ∧
    (after (.correctedError 3 0 7 true) tileError).readNat .mem 0x10000040 3 = 0x010300 + Code.eccUe.num := by decide +kernel

/-- R367, R368: a join event of field 5, and JOINED on the status page. -/
theorem test_field_join : (after (.fieldJoin 5) field0).reg.joinq = [0x105] ∧ (after (.fieldJoin 5) field0).readNat .mem (statusPage + 0x10) 8 = 33 ∧
    (after (.fieldJoin 5) nearly).out.settled = true := by decide +kernel

theorem test_field_fail : (after (.fieldFail 5) field0).reg.joinq = [0x205] := by decide +kernel

theorem test_slice_map : (after .liveSliceMapChange field0).sliceMap.getD 5 9 = 0 ∧ (after .liveSliceMapChange field0).sliceMap.getD 3 9 = 3 := by
  decide +kernel

theorem test_retirement : (after (.retirementEffect 0) (retiredBy ⟨3, 1, false⟩)).retiredCores = [1] := by decide +kernel

/-- R357, R358: the third error of a row makes it lasting. -/
theorem test_corrected_error : (after (.correctedError 1 7 7 false) (erring [⟨1, 7, 7, 2, 0⟩] [])).out.lasting = [⟨1, 7, 7, false⟩] := by decide +kernel

/-- An allowance of which 1 is left, 9 samples above the limit seen. -/
def powered (allow n since : Nat) : State :=
  { rich [] with clk := 2000000, out := { (rich []).out with allow := allow, above := n, below := 99, tlfSince := since, coolSince := some since } }

/-- Fields 0 and 1 have joined, and links have failed. -/
def parted (l : List (Nat × Nat)) : State := { rich [] with joined := [0, 1], out := { (rich []).out with links := l } }

def attesting : State := { rich [] with out := { (rich []).out with attBusy := true } }

theorem meets_PowerFaultsAndResets : (powered 1 9 0).out.powered = true ∧ (powered 1 9 0).out.plim * 100 < 7201 ∧ ¬ ((powered 1 9 0).out.plim * 100 < 7200) ∧
    (powered 0 0 0).out.allow = 0 ∧ (powered 1000 0 0).out.allow = 1000 ∧ (powered 1000 0 0).out.tlfSince + 1900000 ≤ (powered 1000 0 0).clk ∧
    ¬ ((powered 999 0 0).out.allow = 1000) ∧ (rich []).out.booting = false ∧ (rich []).ctxs = [ctx0] ∧ (rich []).reg.qbase = 0 ∧
    ctx0.saveBase + 0x10000 ≤ statusPage ∧ (rich []).out.linkUp 0 1 = true ∧ (rich []).out.linkUp 0 0 = false ∧
    ({ rich [] with out := { (rich []).out with links := [(0, 1)] } } : State).meshWhole = true ∧ (parted [(0, 3), (0, 1)]).meshWhole = false ∧ (rich []).liveBank = some 0 ∧
    (rich []).logTight 0 = false ∧ ({ rich [] with out := { (rich []).out with powered := false } } : State).out.powered = false ∧
    (powered 1000 0 0).out.coolSince = some 0 ∧ ({ powered 1000 0 0 with out := { (powered 1000 0 0).out with coolSince := none } } : State).out.coolSince = none ∧
    (powered 1 9 0).out.tjmax ≤ 190 ∧ ({ powered 1 9 0 with out := { (powered 1 9 0).out with tjmax := 211 } } : State).out.tjmax = 211 ∧
    (rich []).Holds 0 (rich []).th ∧ (rich []).out.lastSlot = none ∧ ({ rich [] with out := { (rich []).out with lastSlot := some (0, 64) } } : State).out.lastSlot = some (0, 64) ∧
    ({ rich [] with out := { (rich []).out with lastSlot := some (0, 64) } } : State).clk = 0 ∧ attesting.out.attBusy = true ∧ attesting.out.nonce.length = 48 := by
  and_intros <;> first | exact holds_of (by decide +kernel) | decide +kernel

theorem test_power : (after (.powerMeasure 7201) (powered 1 9 0)).tlf = true ∧ (after .throttleEnd { powered 1000 0 0 with tlf := true }).tlf = false ∧
    (after .throttleEnd { powered 999 0 0 with tlf := true }).tlf = true ∧
    (after .throttleEnd { powered 1000 0 0 with tlf := true, out := { (powered 1000 0 0).out with coolSince := some 1000000 } }).tlf = true := by decide +kernel

theorem test_module_fatal : (after (.meshLinkFail 0 1) (parted [(0, 3)])).out.fatal = true ∧
    (after (.moduleFatal 0) (rich [])).threads = [] := by decide +kernel

/-- R371: HBM stays over a warm reset alone. -/
theorem test_resets : (after .warmReset ((rich []).put .mem 0x100 [7])).readByte .mem 0x100 = 7 ∧
    (after .coldReset ((rich []).put .mem 0x100 [7])).readByte .mem 0x100 = 0 ∧ (after .coldReset (rich [])).out.bootcnt = 2 := by decide +kernel

/-- R3: the first bytes of SHA-384 of "abc", an example of FIPS 180-4. -/
theorem test_sha384 : (sha384 [0x61, 0x62, 0x63]).take 8 = [0xCB, 0x00, 0x75, 0x3F, 0x45, 0xA3, 0x5E, 0x8B] := by decide +kernel

/-- R3: the signature of "sample" with SHA-384, an example of RFC 6979 (A.2.6) for a given key and secret. -/
theorem test_ecdsa : signWith
      0x6B9D3DAD2E1B8C1C05B19875B6659F4DE23C3B667BF297BA9AA47740787137D896D5724E4C70A825F872C9EA60D2EDF5
      0x94ED910D1A099DAD3254E9242AE85ABDE4BA15168EAF0CA87A555FD56D10FBCA2907E3E83BA95368623B8C4686915CF9
      (ofLe (sha384 [0x73, 0x61, 0x6D, 0x70, 0x6C, 0x65]).reverse) =
    (0x94EDBB92A5ECB8AAD4736E56C691916B3F88140666CE9FA73D64C4EA95AD133C81A648152E44ACF96E36DD1E80FABE46,
     0x99EF4AEB15F178CEA1FE40DB2603138F130E740A19624526203B6351D0A3A94FA329C145786E679E7B82C71A38628AC8) := by decide +kernel

/-- R374: the report starts with its version and BOOTCNT. -/
theorem test_attest : (after .attestReportDone attesting).out.report.take 8 = [1, 0, 0, 0, 1, 0, 0, 0] := by decide +kernel

/-! ### The machine as a whole -/

theorem meets_MemoryStaysCanonical : State.reset.memOk = true ∧ (step State.reset matches .next _) = true := by decide +kernel

/-- Instructions with fields at their limits (R56). -/
theorem meets_DecodeInvertsEncode : ([.add 39 41 41, .addi 1 1 0x1FFF, .jmp 0x3FFFFFF, .loopi 10 0, .pfxFmt 5 0 1 3 4] : List Instr).all
    (fun i => i.isScalar && i.wf) = true := by decide

/-- The unit with a word placed; the same in the clk of its next step, once the thread is selected; and a thread that stalled with a
fault. -/
def placed : State := (unit []).placeWord 0x04304201

def nowPlaced : State := { placed with clk := placed.clk + 1 }

def turned : State := nowPlaced.turn placed.th

def stuck : State := { placed with th := { placed.th with wait := .fault { code := .prot } } }

theorem meets_StepRunsDecodedWord : placed.agenda = [] ∧ nowPlaced.gated = false ∧ nowPlaced.mayIssue 0 = true ∧
    nowPlaced.nextThread 0 = some placed.th ∧ turned.th.wait = .none ∧
    turned.translate 0 0 turned.th.pc .ex turned.th.prv = .ok (0x1000, turned) ∧ turned.reachPa turned.th.pc .ex 0x1000 = .ok 0x1000 ∧
    turned.badAt .mem 0x1000 4 = false ∧ (turned.core 0).icache = [] ∧
    (({ placed with agenda := [⟨1, 0, .issue 0⟩] } : State).nextPlan.map (fun x => decide (x.1.move = .issue 0 ∧ x.2 = []))) = some true ∧
    (({ rich [] with th := { (rich []).th with pc := 0x40000000 } } : State).fetch matches .error _) = true ∧
    ({ stuck with clk := 1 } : State).nextThread 0 = some stuck.th ∧ (({ stuck with clk := 1 } : State).turn stuck.th).th.wait = .fault { code := .prot } ∧
    ({ placed with tlf := true, clk := 1 } : State).gated = true ∧ State.reset.nextThread 0 = none ∧
    ({ placed with issued := some (0, 5) } : State).mayIssue 3 = false ∧ Instr.isScalar .coldReset = false ∧
    (({ placed with agenda := [⟨1, 0, .event .coldReset⟩] } : State).nextPlan.map (fun x => decide (x.1.move = .event .coldReset))) = some true ∧
    (({ placed with agenda := [⟨1, 0, .event .yield⟩, ⟨0, 0, .event .coldReset⟩] } : State).before ⟨0, 0, .event .coldReset⟩ ⟨1, 0, .event .yield⟩ =
      false) ∧ placed.handedEnds = [] ∧ placed.handedChans = [] := by
  and_intros <;> first | exact ok_of (by decide +kernel) | decide +kernel

theorem test_step_runs : (match step placed with | .next t => (t.th.pc, t.clk) | _ => (0, 0)) = (0x1004, 1) := by decide +kernel

/-- R368: of two fields that join in one clk the one of lower index comes first. -/
theorem test_step_order : (({ field0 with agenda := [⟨1, 0, .event (.fieldJoin 5)⟩, ⟨0, 0, .event (.fieldJoin 3)⟩] } : State).nextPlan.map
    (fun x => (x.1.move, x.1.dt))) = some (.event (.fieldJoin 3), 1) := by decide +kernel

/-- R251: the token of a rendezvous is taken in the step that hands it. -/
theorem test_step_hands : (match step { meeting (rdv [5]) (.chget 3 0 0) with agenda := [] } with | .next t => t.handedChans | _ => [(9, 9)]) = [] := by
  decide +kernel

/-- R168: one step of a planned issue with TLF set, at an odd clk, passes. -/
theorem test_step_gated : (match step { placed with tlf := true, agenda := [⟨1, 0, .issue 0⟩] } with | .next t => (t.th.pc, t.clk) | _ => (0, 0)) = (0x1000, 1) := by
  decide +kernel

theorem test_first_step : (match step (State.reset.withFetchWord 32 0x04304201) with | .next t => (t.th.pc, t.clk) | _ => (0, 0)) = (0x1004, 1) := by
  decide +kernel
end Sys2Proof.Tests
end

section
/-! Every step keeps the byte stores canonical (O57): what leaves the byte stores alone, and the retirement log. -/

namespace Sys2Proof.Machine
variable {s t : State}

/-- An update of fields that are no byte store leaves the canonical form. -/
theorem memOk_mk (s : State) (clk agenda unit free nextId th others cores issued fences walkers bad stores links answers wakes buses
    busCounts windows ctxs binds caches engines joined retiredCores sliceMap tlf pwx routes portsUp portsEn msi vec dying exits chans
    regions reg out) :
    (State.mk clk agenda unit free nextId th others cores issued fences walkers s.mem s.deep s.scratch s.tiles s.flash bad stores links
      answers wakes buses busCounts windows ctxs binds caches engines joined retiredCores sliceMap tlf pwx routes portsUp portsEn msi vec
      dying exits chans regions reg out).memOk = s.memOk := rfl

/-! ### Folds and optional states -/

theorem foldl_memOk {α : Type} {f : State → α → State} (h : s.memOk = true) (l : List α)
    (hf : ∀ (u : State) (x : α), u.memOk = true → (f u x).memOk = true) : (l.foldl f s).memOk = true :=
  List.foldlRecOn (motive := fun u : State => u.memOk = true) l f h fun u hu x _ => hf u x hu

theorem getD_memOk {o : Option State} (h : s.memOk = true) (ho : ∀ t, o = some t → t.memOk = true) : (o.getD s).memOk = true := by
  cases o with
  | none => exact h
  | some t => exact ho t rfl

/-! ### Retirement and its log -/

theorem showStatus_memOk (h : s.memOk = true) : s.showStatus.memOk = true :=
  foldl_memOk h _ fun _ _ hu => put_memOk hu ..

theorem showJoin_memOk (h : s.memOk = true) : s.showJoin.memOk = true :=
  put_memOk (put_memOk (showStatus_memOk h) ..) ..

theorem markRetired_memOk (h : s.memOk = true) (e : Bool) (k u : Nat) : (s.markRetired e k u).memOk = true := by
  unfold State.markRetired
  split <;> exact h

/-- Records written one behind the other. -/
theorem foldl_writeBytes_memOk {α : Type} (h : s.memOk = true) (l : List α) (n : Nat) (sp : Space) (place : Nat → Nat)
    (bytes : α → Nat → List Byte) :
    (l.foldl (fun (p : Nat × State) r => (p.1 + 1, p.2.writeBytes sp (place p.1) (bytes r p.1))) (n, s)).2.memOk = true :=
  List.foldlRecOn (motive := fun p : Nat × State => p.2.memOk = true) l _ h fun _ hp _ _ => writeBytes_memOk hp ..

theorem compact_memOk (h : s.memOk = true) (b : Nat) : (s.compact b).memOk = true := by
  unfold State.compact
  refine (memOk_mk ..).trans ?_
  exact writeBytes_memOk (foldl_writeBytes_memOk (eraseBank_memOk h _) ..) ..

theorem appendRecord_memOk (h : s.memOk = true) (k c u : Nat) (rows : List Nat) : (s.appendRecord k c u rows).memOk = true := by
  unfold State.appendRecord
  grind -ring -linarith -lia -ac [memOk_mk, compact_memOk, writeBytes_memOk]

theorem recoverLog_memOk (h : s.memOk = true) : s.recoverLog.memOk = true := by
  unfold State.recoverLog
  grind -ring -linarith -lia -ac [memOk_mk, compact_memOk, writeBytes_memOk, eraseBank_memOk, foldl_memOk, markRetired_memOk]

theorem rowLasting_memOk (h : s.memOk = true) (a b c : Nat) (ue : Bool) : (s.rowLasting a b c ue).memOk = true := by
  unfold State.rowLasting
  grind -ring -linarith -lia -ac [memOk_mk, appendRecord_memOk, showStatus_memOk, markRetired_memOk]

end Sys2Proof.Machine
end

section
/-! Every step keeps the byte stores canonical (O57): threads, translation, posted stores and faults. -/

namespace Sys2Proof.Machine
variable {s t : State}

theorem noteUe_memOk (h : s.memOk = true) (tr : Trap) : (s.noteUe tr).memOk = true := by
  unfold State.noteUe
  grind -ring -linarith -lia -ac [rowLasting_memOk]

/-! ### Threads, cores and engines -/

theorem setT_memOk (h : s.memOk = true) (x : Thread) : (s.setT x).memOk = true := by
  unfold State.setT
  split <;> exact h

theorem modT_memOk (h : s.memOk = true) (u : Nat) (f : Thread → Thread) : (s.modT u f).memOk = true := by
  unfold State.modT
  split
  · exact setT_memOk h _
  · exact h

theorem delT_memOk (h : s.memOk = true) (u : Nat) : (s.delT u).memOk = true := by
  unfold State.delT
  split <;> exact h

theorem addT_memOk (h : s.memOk = true) (x : Thread) : (s.addT x).memOk = true := h

theorem select_memOk (h : s.memOk = true) (u : Nat) : (s.select u).memOk = true := by
  unfold State.select
  split
  · exact h
  · split <;> exact h

theorem setCore_memOk (h : s.memOk = true) (c : Nat) (x : CoreSt) : (s.setCore c x).memOk = true := h

theorem setCtx_memOk (h : s.memOk = true) (c : Ctx) : (s.setCtx c).memOk = true := h

theorem setEngine_memOk (h : s.memOk = true) (x : Engine) : (s.setEngine x).memOk = true := by
  unfold State.setEngine
  split <;> exact h

theorem sendMsi_memOk (h : s.memOk = true) (v : Nat) : (s.sendMsi v).memOk = true := by
  unfold State.sendMsi
  split
  · exact h
  · split <;> exact h

theorem completeWord_memOk (h : s.memOk = true) (x : Thread) (res : Word) (late : Option Nat) (n : Next) :
    (s.completeWord x res late n).memOk = true := setT_memOk h _

theorem enterSlot_memOk (h : s.memOk = true) (x : Thread) (c j : Nat) : (s.enterSlot x c j).memOk = true := setT_memOk h _

theorem serveQueue_memOk (h : s.memOk = true) (c : Nat) : (s.serveQueue c).memOk = true := by
  refine foldl_memOk h _ fun u x hu => ?_
  grind -ring -linarith -lia -ac [enterSlot_memOk, setCore_memOk]

theorem handoff_memOk (h : s.memOk = true) (e u : Nat) : (s.handoff e u).memOk = true := by
  unfold State.handoff
  grind -ring -linarith -lia -ac [setEngine_memOk, completeWord_memOk]

theorem endThread_memOk (h : s.memOk = true) (x : Thread) : (s.endThread x).memOk = true := by
  unfold State.endThread
  grind -ring -linarith -lia -ac [serveQueue_memOk, delT_memOk, memOk_mk, setCore_memOk, handoff_memOk]

theorem keepT_memOk (h : s.memOk = true) (x : Thread) : (s.keepT x).memOk = true := by
  unfold State.keepT
  split
  · exact put_memOk (setT_memOk h _) ..
  · exact setT_memOk h _

theorem stow_memOk (h : s.memOk = true) {x : Thread} {own : Option Nat} (e : s.stow x own = some t) : t.memOk = true := by
  obtain ⟨k, -, rfl⟩ := Option.map_eq_some_iff.1 e
  exact keepT_memOk h _

/-! ### Translation -/

theorem walkBy_memOk (h : s.memOk = true) {st c : Nat} {va : Word} {acc : Acc} {p : Bool} {x : Tlb}
    (e : s.walkBy st c va acc p = .ok (x, t)) : t.memOk = true := by
  unfold State.walkBy at e
  grind -ring -linarith -lia -ac [State.walkerFill, memOk_mk]

theorem tlbFillAt_memOk (h : s.memOk = true) (c : Nat) (x : Tlb) : (s.tlbFillAt c x).memOk = true := h

theorem translate_memOk (h : s.memOk = true) {core c : Nat} {va : Word} {acc : Acc} {p : Bool} {pa : Nat}
    (e : s.translate core c va acc p = .ok (pa, t)) : t.memOk = true := by
  unfold State.translate at e
  grind -ring -linarith -lia -ac [walkBy_memOk, tlbFillAt_memOk]

theorem resolve_memOk (h : s.memOk = true) {x : Thread} {cls : BitVec 2} {ea : Word} {n : Nat} {acc : Acc} {l : Loc}
    (e : s.resolve x cls ea n acc = .ok (l, t)) : t.memOk = true := by
  unfold State.resolve at e
  split at e
  · grind -ring -linarith -lia -ac []
  · grind -ring -linarith -lia -ac []
  · next h1 h2 =>
    clear h1 h2
    grind -ring -linarith -lia -ac [translate_memOk]

/-! ### Posted stores and bytes of the module's own -/

theorem deferError_memOk (h : s.memOk = true) (x : Store) (tr : Trap) : (s.deferError x tr).memOk = true := modT_memOk h ..

theorem applyStore_memOk (h : s.memOk = true) (x : Store) : (s.applyStore x).memOk = true := by
  unfold State.applyStore
  grind -ring -linarith -lia -ac [memOk_mk, deferError_memOk, putBytes_memOk]

theorem drain_memOk (h : s.memOk = true) (l : List Nat) : (s.drain l).memOk = true :=
  foldl_memOk h _ fun _ _ hu => applyStore_memOk hu _

theorem release_memOk (h : s.memOk = true) (x : Thread) (scope : Nat) : (s.release x scope).1.memOk = true := by
  unfold State.release
  grind -ring -linarith -lia -ac [memOk_mk, setT_memOk, modT_memOk, drain_memOk]

theorem putAfter_memOk (h : s.memOk = true) (c a : Nat) (bs : List Byte) : (s.putAfter c a bs).memOk = true :=
  put_memOk (drain_memOk h _) ..

theorem placePieces_memOk (h : s.memOk = true) {x : Thread} {acc : Acc} {l q : List (Nat × List Byte)}
    (e : s.placePieces x acc l = some (q, t)) : t.memOk = true := by
  induction l generalizing s q with
  | nil => grind -ring -linarith -lia -ac [State.placePieces]
  | cons p l ih =>
    unfold State.placePieces at e
    grind -ring -linarith -lia -ac [translate_memOk]

theorem writeVirt_memOk (h : s.memOk = true) {c : Nat} {l : List (Nat × List Byte)} (e : s.writeVirt c l = some t) : t.memOk = true := by
  induction l generalizing t with
  | nil => grind -ring -linarith -lia -ac [State.writeVirt]
  | cons p l ih =>
    unfold State.writeVirt at e
    grind -ring -linarith -lia -ac [put_memOk]

theorem poisonSlips_memOk (h : s.memOk = true) (r u : Nat) : (s.poisonSlips r u).memOk = true := by
  unfold State.poisonSlips
  split
  · exact h
  · refine foldl_memOk ((memOk_mk ..).trans h) _ fun u a hu => ?_
    exact getD_memOk hu fun _ e => writeVirt_memOk hu e

/-! ### Faults -/

theorem appendLog_memOk (h : s.memOk = true) (c : Nat) (mk : Nat → List Byte) : (s.appendLog c mk).memOk = true := by
  unfold State.appendLog
  split
  · exact h
  · refine sendMsi_memOk (setCtx_memOk (put_memOk (put_memOk (foldl_memOk h _ fun u i hu => ?_) ..) ..) _) _
    exact put_memOk hu ..

theorem toHandler_memOk (h : s.memOk = true) {x : Thread} {tr : Trap} {w : Word32} (e : s.toHandler x tr w = some t) : t.memOk = true := by
  unfold State.toHandler at e
  grind -ring -linarith -lia -ac [placePieces_memOk, setT_memOk, putAfter_memOk, foldl_memOk]

theorem logFault_memOk (h : s.memOk = true) (x : Thread) (tr : Trap) (w : Word32) : (s.logFault x tr w).memOk = true := by
  unfold State.logFault
  grind -ring -linarith -lia -ac [appendLog_memOk]

theorem fatal_memOk (h : s.memOk = true) (x : Thread) (tr : Trap) (w : Word32) : (s.fatal x tr w).memOk = true := by
  unfold State.fatal
  grind -ring -linarith -lia -ac [endThread_memOk, poisonSlips_memOk, memOk_mk]

theorem deschedule_memOk (h : s.memOk = true) (x : Thread) : (s.deschedule x).memOk = true := by
  unfold State.deschedule
  grind -ring -linarith -lia -ac [stow_memOk, serveQueue_memOk, setT_memOk, memOk_mk]

theorem toRegistrar_memOk (h : s.memOk = true) (x : Thread) (tr : Trap) (w : Word32) : (s.toRegistrar x tr w).memOk = true := by
  unfold State.toRegistrar
  grind -ring -linarith -lia -ac [logFault_memOk, fatal_memOk, deschedule_memOk]

theorem takeFault_memOk (h : s.memOk = true) (x : Thread) (tr : Trap) (w : Word32) : (s.takeFault x tr w).memOk = true := by
  unfold State.takeFault
  grind -ring -linarith -lia -ac [noteUe_memOk, logFault_memOk, setT_memOk, toHandler_memOk, toRegistrar_memOk]

theorem readVirt_go_memOk {x : Thread} {l : List (Nat × List Byte)} {bs : List Byte} (h : s.memOk = true)
    (e : State.readVirt.go x l s = .ok (bs, t)) : t.memOk = true := by
  induction l generalizing s bs with
  | nil => grind -ring -linarith -lia -ac [State.readVirt.go]
  | cons p l ih =>
    unfold State.readVirt.go at e
    grind -ring -linarith -lia -ac [translate_memOk]

theorem readVirt_memOk (h : s.memOk = true) {x : Thread} {va : Word} {n : Nat} {bs : List Byte}
    (e : s.readVirt x va n = .ok (bs, t)) : t.memOk = true := readVirt_go_memOk h e

theorem returnFromHandler_memOk (h : s.memOk = true) {x : Thread} (e : s.returnFromHandler x = .ok t) : t.memOk = true := by
  unfold State.returnFromHandler at e
  grind -ring -linarith -lia -ac [readVirt_memOk, setT_memOk]

theorem trapAt_memOk (h : s.memOk = true) (i : Instr) (tr : Trap) : (s.trapAt i tr).memOk = true := takeFault_memOk h ..

end Sys2Proof.Machine
end

section
/-! Every step keeps the byte stores canonical (O57): what a word leaves; control registers, loads, stores and atomics. -/

namespace Sys2Proof.Machine
variable {s t : State}

/-- The state that the body of a word leaves. -/
def Ex.state : Ex → State
  | .done s .. => s
  | .trap s _ => s
  | .wait s => s
  | .stall s => s
  | .stop s => s

/-- An outcome that reaches a state reaches one whose byte stores are canonical. -/
def Kept (o : Host.Outcome State Fault Refusal) : Prop := ∀ t, o = .next t → t.memOk = true

theorem kept_next (h : s.memOk = true) : Kept (.next s) := by
  intro t e
  cases e
  exact h

theorem kept_fault (f : Fault) : Kept (.fault f) := by
  intro t e
  cases e

theorem kept_refused (r : Refusal) : Kept (.refused r) := by
  intro t e
  cases e

theorem issueWord_kept (h : s.memOk = true) {i : Instr} {body : State → Ex} (hb : (body s).state.memOk = true) :
    Kept (issueWord i body s) := by
  unfold issueWord
  grind -ring -linarith -lia -ac [Ex.state, kept_next, kept_fault, trapAt_memOk, completeWord_memOk, State.stallAt, memOk_mk]

theorem event_kept {f : State → State} (h : (f s).memOk = true) : Kept (event f s) := kept_next ((unstall_memOk _).trans h)

theorem valueWord_memOk (h : s.memOk = true) (d : Spec) (f : Thread → Word) : (valueWord d f s).state.memOk = true := h

theorem divWord_memOk (h : s.memOk = true) (w : Nat) (d : Spec) (f : BitVec w → BitVec w → BitVec w) (a b : Spec) :
    (divWord w d f a b s).state.memOk = true := h

/-! ### Control registers and deep scratch -/

theorem setSplit_memOk (h : s.memOk = true) (c d : Nat) (x : Split) : (s.setSplit c d x).memOk = true := by
  unfold State.setSplit
  split
  · exact setCtx_memOk h _
  · exact h

theorem discardDeep_memOk (h : s.memOk = true) (c d u : Nat) : (s.discardDeep c d u).memOk = true := by
  have hw := memOk_cells h (.deep 0)
  exact setCells_memOk (.deep 0) h (filter_wf _ hw)

theorem finishDeep_memOk (h : s.memOk = true) (c d : Nat) : (s.finishDeep c d).memOk = true := by
  refine drain_memOk (foldl_memOk h _ fun u x hu => ?_) _
  grind -ring -linarith -lia -ac [setT_memOk]

theorem changeSplit_memOk (h : s.memOk = true) (c d : Nat) (x : Split) : (s.changeSplit c d x).memOk = true :=
  setSplit_memOk (discardDeep_memOk (finishDeep_memOk h ..) ..) ..

theorem csrBody_memOk (h : s.memOk = true) (i : Instr) (n : Nat) (d : Spec) (form : Option (Word → Word)) :
    (csrBody i n d form s).state.memOk = true := by
  unfold csrBody
  grind -ring -linarith -lia -ac [Ex.state, memOk_mk, setEngine_memOk, setSplit_memOk, State.waitAt, changeSplit_memOk,
    completeWord_memOk]

theorem execSplitChangeComplete_kept (h : s.memOk = true) (u : Nat) : Kept (execSplitChangeComplete u s) := by
  refine event_kept ?_
  repeat' split
  all_goals grind -ring -linarith -lia -ac [completeWord_memOk, changeSplit_memOk]

/-! ### Loads and stores -/

theorem sendLink_memOk (h : s.memOk = true) (i : Instr) (op : LinkOp) (va : Word) : (s.sendLink i op va).memOk = true := h

theorem loadAt_memOk (h : s.memOk = true) (i : Instr) (d : Spec) (d2 : Option Spec) (ea : Word) (loc : Loc)
    (req : Space → Nat → LoadReq) (acq : Bool) : (loadAt i d d2 ea loc req s acq).state.memOk = true := by
  unfold loadAt
  grind -ring -linarith -lia -ac [Ex.state, memOk_mk, sendLink_memOk, drain_memOk, State.launchLate]

theorem loadBody_memOk (h : s.memOk = true) (i : Instr) (d : Spec) (d2 : Option Spec) (b : Spec) (cls : BitVec 2) (n : Nat) (sgn : Bool)
    (o : BitVec 9) : (loadBody i d d2 b cls n sgn o s).state.memOk = true := by
  unfold loadBody
  grind -ring -linarith -lia -ac [Ex.state, resolve_memOk, loadAt_memOk]

theorem storeAt_memOk (h : s.memOk = true) (ea : Word) (loc : Loc) (bs : List (Byte × Byte)) : (s.storeAt ea loc bs).memOk = true := by
  unfold State.storeAt
  grind -ring -linarith -lia -ac [memOk_mk, putBytes_memOk]

theorem storeCheck_memOk (h : s.memOk = true) {ea : Word} {loc : Loc} {n : Nat} {whole : Bool} {x : Ex}
    (e : storeCheck s ea loc n whole = some x) : x.state.memOk = true := by
  unfold storeCheck at e
  grind -ring -linarith -lia -ac [Ex.state]

theorem storeBody_memOk (h : s.memOk = true) (b : Spec) (cls : BitVec 2) (n : Nat) (o : BitVec 9) (val : Thread → Nat) :
    (storeBody b cls n o val s).state.memOk = true := by
  unfold storeBody
  grind -ring -linarith -lia -ac [Ex.state, → resolve_memOk, → storeCheck_memOk, storeAt_memOk]

theorem ldbitBody_memOk (h : s.memOk = true) (i : Instr) (d k : Spec) (c : BitVec 2) (x : BitVec 1) (w : BitVec 6) (v : BitVec 2) :
    (ldbitBody i d k c x w v s).state.memOk = true := by
  unfold ldbitBody
  dsimp only
  split
  · exact h
  · split
    · exact h
    · split
      · exact h
      · have hl := loadAt_memOk h i d none
        split
        · next e =>
          have he := congrArg (fun x : Ex => x.state.memOk) e
          exact he.symm.trans (hl ..)
        · exact hl ..

theorem stbitBody_memOk (h : s.memOk = true) (v k : Spec) (c : BitVec 2) (w : BitVec 6) (adv : BitVec 2) :
    (stbitBody v k c w adv s).state.memOk = true := by
  unfold stbitBody
  grind -ring -linarith -lia -ac [Ex.state, memOk_mk, storeCheck_memOk, storeAt_memOk]

theorem ldAcqBody_memOk (h : s.memOk = true) (i : Instr) (d b : Spec) (c z : BitVec 2) (p : BitVec 3) (o : BitVec 6) :
    (ldAcqBody i d b c z p o s).state.memOk = true := by
  unfold ldAcqBody
  grind -ring -linarith -lia -ac [Ex.state, memOk_mk, resolve_memOk, loadAt_memOk]

theorem stRelBody_memOk (h : s.memOk = true) (v b : Spec) (c z : BitVec 2) (p : BitVec 3) (o : BitVec 6) :
    (stRelBody v b c z p o s).state.memOk = true := by
  unfold stRelBody
  grind -ring -linarith -lia -ac [Ex.state, → resolve_memOk, → storeCheck_memOk, release_memOk, storeAt_memOk]

theorem markFetched_memOk (h : s.memOk = true) (c scope : Nat) : (s.markFetched c scope).memOk = true := by
  unfold State.markFetched
  split <;> exact h

theorem execFence_kept (h : s.memOk = true) (p : BitVec 3) : Kept (execFence p s) := by
  refine issueWord_kept h ?_
  grind -ring -linarith -lia -ac [Ex.state, memOk_mk, release_memOk, markFetched_memOk]

/-! ### Publication -/

theorem dropTlb_memOk (h : s.memOk = true) (bad : Tlb → Bool) : (s.dropTlb bad).memOk = true := h

theorem recall_memOk (h : s.memOk = true) (c : Nat) (hit : Nat → Nat → Bool) : (s.recall c hit).memOk = true := h

theorem quiesce_memOk (h : s.memOk = true) (c lo len : Nat) : (s.quiesce c lo len).memOk = true := by
  refine recall_memOk (drain_memOk (foldl_memOk h _ fun u x hu => ?_) _) ..
  grind -ring -linarith -lia -ac [setT_memOk]

theorem flip_memOk (h : s.memOk = true) (x : Thread) (d : Spec) (n scope : Nat) (w : Word32) : (s.flip x d n scope w).memOk = true := by
  unfold State.flip
  grind -ring -linarith -lia -ac [release_memOk, takeFault_memOk, quiesce_memOk, drain_memOk, put_memOk, dropTlb_memOk,
    completeWord_memOk]

theorem publBody_memOk (h : s.memOk = true) (i : Instr) (d a : Spec) (p : BitVec 3) : (publBody i d a p s).state.memOk = true := by
  unfold publBody
  grind -ring -linarith -lia -ac [Ex.state, flip_memOk, State.waitAt, memOk_mk]

theorem execPublComplete_kept (h : s.memOk = true) (u : Nat) : Kept (execPublComplete u s) := by
  refine event_kept ?_
  grind -ring -linarith -lia -ac [flip_memOk]

/-! ### Atomics and links -/

theorem amoMem_memOk (h : s.memOk = true) (op : BitVec 4) (n pa v c : Nat) : (s.amoMem op n pa v c).2.memOk = true := by
  unfold State.amoMem
  grind -ring -linarith -lia -ac [put_memOk]

theorem amoPerform_memOk (h : s.memOk = true) (x : Thread) (r : AmoReq) (w : Word32) : (s.amoPerform x r w).memOk = true := by
  unfold State.amoPerform
  grind -ring -linarith -lia -ac [takeFault_memOk, amoMem_memOk, completeWord_memOk]

theorem sendThread_memOk (h : s.memOk = true) (x : Thread) (c : Nat) (w : Wait) : (s.sendThread x c w).memOk = true :=
  serveQueue_memOk (setCore_memOk (setT_memOk h _) ..) _

theorem holdBack_memOk (h : s.memOk = true) (x : Thread) (c : Nat) : (s.holdBack x c).memOk = true := h

theorem sentOff_memOk (h : s.memOk = true) (x : Thread) (c : Nat) : (s.sentOff x c).memOk = true := h

theorem amoBody_memOk (h : s.memOk = true) (i : Instr) (op : BitVec 4) (d a b : Spec) (wide : BitVec 1) (o : BitVec 2) (sc : BitVec 1) :
    (amoBody i op d a b wide o sc s).state.memOk = true := by
  unfold amoBody
  extract_lets t n ea
  split
  · exact h
  split
  · exact h
  split
  all_goals grind -ring -linarith -lia -ac [Ex.state, memOk_mk, resolve_memOk, release_memOk, drain_memOk, sendLink_memOk,
    holdBack_memOk, amoPerform_memOk, State.waitAt, sentOff_memOk, sendThread_memOk]

theorem execAmoAtHome_kept (h : s.memOk = true) (u : Nat) : Kept (execAmoAtHome u s) := by
  refine event_kept ?_
  grind -ring -linarith -lia -ac [amoPerform_memOk]

theorem execLoadDataReturn_kept (h : s.memOk = true) (u i : Nat) : Kept (execLoadDataReturn u i s) := by
  refine event_kept ?_
  grind -ring -linarith -lia -ac [setT_memOk]

theorem execWalkDone_kept (h : s.memOk = true) (core c : Nat) (va : Word) (acc : BitVec 2) : Kept (execWalkDone core c va acc s) := by
  refine event_kept ?_
  split
  · exact h
  · exact tlbFillAt_memOk ((memOk_mk ..).trans h) ..

theorem linkDone_memOk (h : s.memOk = true) (r : LinkReq) (st : BitVec 2) (data : BitVec 128) : (s.linkDone r st data).memOk = true := by
  unfold State.linkDone
  grind -ring -linarith -lia -ac [memOk_mk, takeFault_memOk, completeWord_memOk]

theorem execLinkCompletion_kept (h : s.memOk = true) (i : Nat) (st : BitVec 2) (data : BitVec 128) :
    Kept (execLinkCompletion i st data s) := by
  refine event_kept ?_
  grind -ring -linarith -lia -ac [linkDone_memOk]

end Sys2Proof.Machine
end

section
/-! Every step keeps the byte stores canonical (O57): jumps, names, threads, waiting words, channels and engine commands. -/

namespace Sys2Proof.Machine
variable {s t : State}

/-! ### Jumps and calls -/

theorem branchBody_memOk (h : s.memOk = true) (a b : Spec) (d : BitVec 10) (c : Word → Word → Bool) :
    (branchBody a b d c s).state.memOk = true := h

theorem jumpReg_memOk (h : s.memOk = true) (a : Spec) : (jumpReg a s).state.memOk = true := by
  unfold jumpReg
  grind -ring -linarith -lia -ac [Ex.state]

theorem execCallr_kept (h : s.memOk = true) (d a : Spec) : Kept (execCallr d a s) := by
  refine issueWord_kept h ?_
  grind -ring -linarith -lia -ac [Ex.state, memOk_mk]

theorem loopBody_memOk (h : s.memOk = true) (n : BitVec 32) (l : BitVec 13) : (loopBody n l s).state.memOk = true := by
  unfold loopBody
  grind -ring -linarith -lia -ac [Ex.state, memOk_mk]

/-! ### Names and calls of other cores -/

theorem resolveName_memOk (h : s.memOk = true) {core n c : Nat} (e : s.resolveName core n = some (c, t)) : t.memOk = true := by
  unfold State.resolveName at e
  grind -ring -linarith -lia -ac [setCore_memOk]

theorem learnName_memOk (h : s.memOk = true) (i : Iface) (n : Nat) : (s.learnName i n).memOk = true := by
  unfold State.learnName
  split <;> exact h

theorem dropNames_memOk (h : s.memOk = true) (c : Nat) : (s.dropNames c).memOk = true := h

theorem execNameWalkDone_kept (h : s.memOk = true) (c : Nat) (n : BitVec 16) : Kept (execNameWalkDone c n s) := by
  refine event_kept ?_
  grind -ring -linarith -lia -ac [resolveName_memOk]

theorem callxBody_memOk (h : s.memOk = true) (i : Instr) (d a b : Spec) : (callxBody i d a b s).state.memOk = true := by
  unfold callxBody
  grind -ring -linarith -lia -ac [Ex.state, memOk_mk, resolveName_memOk, holdBack_memOk, release_memOk, State.waitAt,
    setCore_memOk, sentOff_memOk, addT_memOk]

theorem answer_memOk (h : s.memOk = true) (ticket v : Word) : (s.answer ticket v).memOk = true := h

theorem execReply_kept (h : s.memOk = true) (a : Spec) : Kept (execReply a s) := by
  refine issueWord_kept h ?_
  grind -ring -linarith -lia -ac [Ex.state, release_memOk, answer_memOk, endThread_memOk]

theorem execCallxAnswer_kept (h : s.memOk = true) (u : Nat) : Kept (execCallxAnswer u s) := by
  refine event_kept ?_
  grind -ring -linarith -lia -ac [memOk_mk, keepT_memOk, takeFault_memOk, completeWord_memOk]

theorem issuePfx_kept (h : s.memOk = true) (i : Instr) (ok : Bool) (pending : Thread → Bool) (put : Thread → Thread) :
    Kept (issuePfx i ok pending put s) := by
  unfold issuePfx
  grind -ring -linarith -lia -ac [kept_next, kept_fault, trapAt_memOk, memOk_mk]

theorem execEret_kept (h : s.memOk = true) : Kept (execEret s) := by
  refine issueWord_kept h ?_
  grind -ring -linarith -lia -ac [Ex.state, returnFromHandler_memOk]

theorem execIllegalWord_kept (h : s.memOk = true) (w : Word32) : Kept (execIllegalWord w s) := by
  unfold execIllegalWord
  grind -ring -linarith -lia -ac [kept_next, kept_fault, trapAt_memOk]

theorem execUnassignedFnWord_kept (h : s.memOk = true) (w : Word32) : Kept (execUnassignedFnWord w s) := by
  unfold execUnassignedFnWord
  split
  · exact kept_fault _
  · exact kept_next (trapAt_memOk h ..)

/-! ### Threads -/

theorem joinPlace_memOk (h : s.memOk = true) {x : Thread} {j : Word} {pa : Nat} (e : s.joinPlace x j = .ok (pa, t)) : t.memOk = true := by
  unfold State.joinPlace at e
  grind -ring -linarith -lia -ac [resolve_memOk]

theorem joinAdd_memOk (h : s.memOk = true) (pa : Nat) (v : Word) : (s.joinAdd pa v).2.memOk = true := put_memOk h ..

theorem spawnBody_memOk (h : s.memOk = true) (d a b : Spec) : (spawnBody d a b s).state.memOk = true := by
  unfold spawnBody
  grind -ring -linarith -lia -ac [Ex.state, memOk_mk, joinPlace_memOk, serveQueue_memOk, release_memOk, joinAdd_memOk, addT_memOk]

theorem sendWake_memOk (h : s.memOk = true) (c core slot : Nat) : (s.sendWake c core slot).memOk = true := h

theorem wakeThread_memOk (h : s.memOk = true) (m : WakeMsg) : (s.wakeThread m).memOk = true := by
  unfold State.wakeThread
  grind -ring -linarith -lia -ac [completeWord_memOk, keepT_memOk]

theorem release_eq_memOk (h : s.memOk = true) {x : Thread} {n : Nat} {o : Option Trap} (e : s.release x n = (t, o)) : t.memOk = true := by
  simpa only [e] using release_memOk h x n

theorem exitBody_memOk (h : s.memOk = true) (a : Spec) : (exitBody a s).state.memOk = true := by
  unfold exitBody
  extract_lets x v
  split
  · exact h
  · have hr := release_memOk h x 5
    split
    · grind -ring -linarith -lia -ac [Ex.state]
    · next e =>
      extract_lets t1 last
      have hlast : ∀ u : State, u.memOk = true → (last u).state.memOk = true := by
        grind -ring -linarith -lia -ac [Ex.state, memOk_mk, poisonSlips_memOk, endThread_memOk]
      clear_value last
      have h1 := release_eq_memOk h e
      split
      · exact endThread_memOk (answer_memOk h1 ..) _
      · split
        · exact hlast _ h1
        · split
          · exact h1
          · next pa s2 e2 =>
            have h3 := joinAdd_memOk (joinPlace_memOk h1 e2) pa (BitVec.allOnes 64)
            split
            next n s3 e3 =>
            simp only [e3] at h3
            grind -ring -linarith -lia -ac [sendWake_memOk, resolveName_memOk]

theorem execSleep_kept (h : s.memOk = true) (a : Spec) : Kept (execSleep a s) := by
  refine issueWord_kept h ?_
  grind -ring -linarith -lia -ac [Ex.state, memOk_mk, State.waitAt]

theorem execWake_kept (h : s.memOk = true) (a : Spec) : Kept (execWake a s) := by
  refine issueWord_kept h ?_
  grind -ring -linarith -lia -ac [Ex.state, resolveName_memOk, release_memOk, sendWake_memOk]

theorem execWakeArrival_kept (h : s.memOk = true) (i : Nat) : Kept (execWakeArrival i s) := by
  refine event_kept ?_
  grind -ring -linarith -lia -ac [wakeThread_memOk, memOk_mk]

theorem execSleepDeadline_kept (h : s.memOk = true) (u : Nat) : Kept (execSleepDeadline u s) := by
  refine event_kept ?_
  grind -ring -linarith -lia -ac [completeWord_memOk]

/-! ### Semaphores and buses -/

theorem semV_memOk (h : s.memOk = true) (c n : Nat) : (s.semV c n).memOk = true := by
  unfold State.semV
  grind -ring -linarith -lia -ac [setCore_memOk, completeWord_memOk]

theorem execSemv_kept (h : s.memOk = true) (n : BitVec 4) : Kept (execSemv n s) := by
  refine issueWord_kept h ?_
  grind -ring -linarith -lia -ac [Ex.state, release_memOk, semV_memOk]

theorem execSemp_kept (h : s.memOk = true) (n : BitVec 4) : Kept (execSemp n s) := by
  refine issueWord_kept h ?_
  grind -ring -linarith -lia -ac [Ex.state, memOk_mk, setCore_memOk, State.waitAt]

theorem busReleased_memOk (h : s.memOk = true) (bus bid c : Nat) : (s.busReleased bus bid c).memOk = true := h

theorem busComplete_memOk (h : s.memOk = true) (before : Nat) (v : Word) (a : Arrival) : (s.busComplete before v a).memOk = true := by
  unfold State.busComplete
  grind -ring -linarith -lia -ac [keepT_memOk, completeWord_memOk]

theorem arrive_memOk (h : s.memOk = true) (x : Thread) (bus bid count : Nat) (root : Bool) (v : Word) :
    (s.arrive x bus bid count root v).memOk = true := by
  unfold State.arrive
  extract_lets
  split
  · exact h
  · exact foldl_memOk (busReleased_memOk ((memOk_mk ..).trans h) ..) _ fun u a hu => busComplete_memOk hu ..

theorem busBody_memOk (h : s.memOk = true) (i : Instr) (dst : Option Spec) (cw v : Word) : (busBody i dst cw v s).state.memOk = true := by
  unfold busBody
  grind -ring -linarith -lia -ac [Ex.state, memOk_mk, release_memOk, State.waitAt, arrive_memOk]

/-! ### Migration, pins and lock words -/

theorem execMigr_kept (h : s.memOk = true) (a : Spec) : Kept (execMigr a s) := by
  refine issueWord_kept h ?_
  grind -ring -linarith -lia -ac [Ex.state, resolveName_memOk, holdBack_memOk, release_memOk, completeWord_memOk, sentOff_memOk,
    sendThread_memOk]

theorem execPin_kept (h : s.memOk = true) (e : BitVec 3) : Kept (execPin e s) := by
  refine issueWord_kept h ?_
  grind -ring -linarith -lia -ac [Ex.state, memOk_mk, setEngine_memOk, State.waitAt]

theorem execUnpin_kept (h : s.memOk = true) (e : BitVec 3) : Kept (execUnpin e s) := by
  refine issueWord_kept h ?_
  grind -ring -linarith -lia -ac [Ex.state, memOk_mk, handoff_memOk, State.waitAt]

theorem execPinHandoff_kept (h : s.memOk = true) (e : BitVec 3) (u : Nat) : Kept (execPinHandoff e u s) := by
  refine event_kept ?_
  grind -ring -linarith -lia -ac [handoff_memOk, completeWord_memOk]

theorem execWaitl_kept (h : s.memOk = true) (a : Spec) : Kept (execWaitl a s) := by
  refine issueWord_kept h ?_
  grind -ring -linarith -lia -ac [Ex.state, memOk_mk, resolve_memOk, State.waitAt]

/-! ### Writes of the module's agents -/

theorem writePiece_memOk (h : s.memOk = true) {g : Agent} {va : Nat} {bs : List Byte} (e : s.writePiece g va bs = .ok t) :
    t.memOk = true := by
  unfold State.writePiece at e
  grind -ring -linarith -lia -ac [put_memOk]

theorem agentWrite_go_memOk {g : Agent} (l : List (Nat × List Byte)) (h : s.memOk = true) : (State.agentWrite.go g l s).1.memOk = true := by
  induction l generalizing s with
  | nil => exact h
  | cons p l ih =>
    unfold State.agentWrite.go
    grind -ring -linarith -lia -ac [writePiece_memOk]

theorem agentWrite_memOk (h : s.memOk = true) (g : Agent) (va : Nat) (bs : List Byte) : (s.agentWrite g va bs).1.memOk = true :=
  agentWrite_go_memOk _ h

theorem agentStore_memOk (h : s.memOk = true) {g : Agent} {va : Nat} {bs : List Byte} (e : s.agentStore g va bs = .ok t) :
    t.memOk = true := by
  unfold State.agentStore at e
  grind -ring -linarith -lia -ac [agentWrite_memOk]

/-! ### Channels -/

theorem ringPut_memOk (h : s.memOk = true) {c : Nat} {r q : Ring} {k : Token} (e : s.ringPut c r k = .ok (some (t, q))) :
    t.memOk = true := by
  unfold State.ringPut at e
  grind -ring -linarith -lia -ac [agentStore_memOk]

theorem setRegion_memOk (h : s.memOk = true) (r : Region) : (s.setRegion r).memOk = true := h

theorem abortLaunch_memOk (h : s.memOk = true) (n : Nat) : (s.abortLaunch n).memOk = true := h

theorem nodeFault_memOk (h : s.memOk = true) (r n : Nat) (tr : Trap) (part : Nat) : (s.nodeFault r n tr part).memOk = true := by
  unfold State.nodeFault
  grind -ring -linarith -lia -ac [setRegion_memOk, noteUe_memOk, appendLog_memOk, abortLaunch_memOk]

theorem setNode_memOk (h : s.memOk = true) (r n : Nat) (f : NodeSt → NodeSt) : (s.setNode r n f).memOk = true := by
  unfold State.setNode
  split
  · exact h
  · exact setRegion_memOk h _

theorem setChan_memOk (h : s.memOk = true) (c : Chan) : (s.setChan c).memOk = true := h

theorem chanFault_memOk (h : s.memOk = true) (c : Chan) (tr : Trap) : (s.chanFault c tr).memOk = true := by
  unfold State.chanFault
  split
  · exact nodeFault_memOk h ..
  · exact setChan_memOk h _

theorem chanPassed_memOk (h : s.memOk = true) (c : Chan) : (s.chanPassed c).memOk = true := by
  unfold State.chanPassed
  split
  · exact setNode_memOk h ..
  · exact h

theorem chgetDone_memOk (h : s.memOk = true) (u : Nat) (k : Token) : (s.chgetDone u k).memOk = true := by
  unfold State.chgetDone
  grind -ring -linarith -lia -ac [completeWord_memOk]

theorem chanPut_memOk (h : s.memOk = true) {c : Chan} {k : Token} (e : s.chanPut c k = .ok (some t)) : t.memOk = true := by
  unfold State.chanPut at e
  grind -ring -linarith -lia -ac [setChan_memOk, chgetDone_memOk, ringPut_memOk]

theorem chanTake_memOk (h : s.memOk = true) {c : Chan} {k : Token} (e : s.chanTake c = .ok (some (k, t))) : t.memOk = true := by
  unfold State.chanTake at e
  grind -ring -linarith -lia -ac [setChan_memOk, chanPassed_memOk, completeWord_memOk]

theorem chputBody_memOk (h : s.memOk = true) (i : Instr) (a b : Spec) : (chputBody i a b s).state.memOk = true := by
  unfold chputBody
  grind -ring -linarith -lia -ac [Ex.state, memOk_mk, release_memOk, setChan_memOk, State.waitAt, chanPut_memOk]

theorem chgetBody_memOk (h : s.memOk = true) (i : Instr) (d a b : Spec) : (chgetBody i d a b s).state.memOk = true := by
  unfold chgetBody
  grind -ring -linarith -lia -ac [Ex.state, memOk_mk, setChan_memOk, State.waitAt, chanTake_memOk, chanFault_memOk]

theorem execChput_kept (h : s.memOk = true) (a b : Spec) : Kept (execChput a b s) := by
  refine issueWord_kept h ?_
  grind -ring -linarith -lia -ac [Ex.state, chputBody_memOk]

theorem execChwin_kept (h : s.memOk = true) (d a : Spec) : Kept (execChwin d a s) := by
  refine issueWord_kept h ?_
  grind -ring -linarith -lia -ac [Ex.state, memOk_mk]

theorem execChsync_kept (h : s.memOk = true) (d a : Spec) : Kept (execChsync d a s) := by
  refine issueWord_kept h ?_
  grind -ring -linarith -lia -ac [Ex.state, memOk_mk, State.waitAt]

theorem execChputEnter_kept (h : s.memOk = true) (u : Nat) : Kept (execChputEnter u s) := by
  refine event_kept ?_
  repeat' split
  all_goals grind -ring -linarith -lia -ac [setChan_memOk, takeFault_memOk, chanPut_memOk, completeWord_memOk]

theorem execChgetTake_kept (h : s.memOk = true) (u : Nat) : Kept (execChgetTake u s) := by
  refine event_kept ?_
  repeat' split
  all_goals grind -ring -linarith -lia -ac [chanFault_memOk, setChan_memOk, chanTake_memOk, chgetDone_memOk]

theorem execChgetTimeout_kept (h : s.memOk = true) (u : Nat) : Kept (execChgetTimeout u s) := by
  refine event_kept ?_
  grind -ring -linarith -lia -ac [setChan_memOk, completeWord_memOk]

theorem execChsyncDrained_kept (h : s.memOk = true) (u : Nat) : Kept (execChsyncDrained u s) := by
  refine event_kept ?_
  grind -ring -linarith -lia -ac [completeWord_memOk]

theorem execSlipr_kept (h : s.memOk = true) (d a : Spec) : Kept (execSlipr d a s) := by
  refine issueWord_kept h ?_
  grind -ring -linarith -lia -ac [Ex.state, memOk_mk]

theorem execSliprep_kept (h : s.memOk = true) (a b : Spec) : Kept (execSliprep a b s) := by
  refine issueWord_kept h ?_
  grind -ring -linarith -lia -ac [Ex.state, release_memOk, → agentStore_memOk, setRegion_memOk]

/-! ### Commands of the engines -/

theorem launchLate_memOk (h : s.memOk = true) (d d2 : Option Spec) (late : Late) : (s.launchLate d d2 late).2.memOk = true := h

theorem accept_memOk (h : s.memOk = true) (e op : Nat) (d : Spec) (regs : List Word) (dst src : List Side) :
    (s.accept e op d regs dst src).state.memOk = true := by
  unfold State.accept
  grind -ring -linarith -lia -ac [Ex.state, launchLate_memOk, setCore_memOk, setEngine_memOk]

theorem retireCmd_memOk (h : s.memOk = true) (e u : Nat) : (s.retireCmd e u).memOk = true := by
  unfold State.retireCmd
  grind -ring -linarith -lia -ac [setEngine_memOk, modT_memOk, semV_memOk, setCore_memOk]

end Sys2Proof.Machine
end

section
/-! Every step keeps the byte stores canonical (O57): the runs of engine commands. -/

namespace Sys2Proof.Machine
variable {s t : State}

/-! ### Runs of engine commands -/

theorem endCmd_memOk (h : s.memOk = true) (e u : Nat) (f : Cmd → Cmd) : (s.endCmd e u f).memOk = true := by
  unfold State.endCmd
  grind -ring -linarith -lia -ac [setEngine_memOk]

theorem issuerStores_memOk (h : s.memOk = true) (e : Nat) (c : Cmd) : (s.issuerStores e c).memOk = true := drain_memOk h _

variable {r : Run}

theorem runThen_memOk (h : r.s.memOk = true) {f : Run → Run} (hf : (f r).s.memOk = true) : (r.then f).s.memOk = true := by
  unfold Run.then
  split
  · exact h
  · exact hf

theorem foldl_run_memOk {α : Type} {f : Run → α → Run} (h : r.s.memOk = true) (l : List α)
    (hf : ∀ (q : Run) (x : α), q.s.memOk = true → (f q x).s.memOk = true) : (l.foldl f r).s.memOk = true :=
  List.foldlRecOn (motive := fun q : Run => q.s.memOk = true) l f h fun q hq x _ => hf q x hq

theorem foldl_runPair_memOk {α β : Type} {f : Run × β → α → Run × β} {p : Run × β} (h : p.1.s.memOk = true) (l : List α)
    (hf : ∀ (q : Run × β) (x : α), q.1.s.memOk = true → (f q x).1.s.memOk = true) : (l.foldl f p).1.s.memOk = true :=
  List.foldlRecOn (motive := fun q : Run × β => q.1.s.memOk = true) l f h fun q hq x _ => hf q x hq

theorem runFail_memOk (h : r.s.memOk = true) (e : Trap) : (r.fail e).s.memOk = true := noteUe_memOk h e

theorem runWrite_memOk (h : r.s.memOk = true) (c : Cmd) (cls : Nat) (a : Word) (disp : Nat) (bs : List Byte) :
    (r.write c cls a disp bs).s.memOk = true := by
  unfold Run.write
  extract_lets direct
  have hd : ∀ p, (direct r p).s.memOk = true := by
    grind -ring -linarith -lia -ac [runFail_memOk, put_memOk]
  clear_value direct
  split
  · exact hd _
  · exact hd _
  · refine foldl_run_memOk h _ fun q x hq => runThen_memOk hq ?_
    grind -ring -linarith -lia -ac [runFail_memOk, put_memOk]
  · exact hd _

theorem runFinish_memOk (h : r.s.memOk = true) (e u : Nat) (w : Word) : (r.finish e u w).memOk = true := endCmd_memOk h ..

theorem runHead_memOk (h : s.memOk = true) (e u op : Nat) {f : Cmd → Run → State}
    (hf : ∀ (c : Cmd) (q : Run), q.s.memOk = true → (f c q).memOk = true) : (s.runHead e u op f).memOk = true := by
  unfold State.runHead
  split
  · exact h
  · next c l e =>
    split
    · exact h
    · extract_lets s1
      have h1 : s1.memOk = true := hf _ _ (issuerStores_memOk h ..)
      clear_value s1
      split
      · split
        · exact h
        · exact h1
      · exact h1

/-! ### Copies -/

theorem execCqpush_kept (h : s.memOk = true) (d a : Spec) : Kept (execCqpush d a s) := by
  refine issueWord_kept h ?_
  grind -ring -linarith -lia -ac [Ex.state, accept_memOk]

theorem runMove_memOk (h : r.s.memOk = true) (c : Cmd) (q : CopyReq) (src dst n : Nat) : (r.move c q src dst n).s.memOk = true := by
  refine runThen_memOk h ?_
  grind -ring -linarith -lia -ac [runFail_memOk, runWrite_memOk]

theorem sweep_run_memOk {f : Run → Nat → Nat → Run} (hf : ∀ (q : Run) (a b : Nat), q.s.memOk = true → (f q a b).s.memOk = true)
    (q : CopyReq) (w k : Nat) (h : r.s.memOk = true) (pos stop : Nat) : (q.sweep w f k r pos stop).s.memOk = true := by
  induction k generalizing r pos with
  | zero => exact h
  | succ k ih =>
    unfold CopyReq.sweep
    split
    · exact h
    · exact ih (hf _ _ _ h) _

theorem runPiece_memOk (h : r.s.memOk = true) (c : Cmd) (q : CopyReq) (pos n : Nat) : (r.piece c q pos n).s.memOk = true := by
  unfold Run.piece
  grind -ring -linarith -lia -ac [runMove_memOk, runFail_memOk]

theorem runLinear_memOk (h : r.s.memOk = true) (c : Cmd) (q : CopyReq) (pos stop : Nat) : (r.linear c q pos stop).s.memOk = true := by
  refine sweep_run_memOk (fun u a b hu => ?_) _ _ _ h ..
  grind -ring -linarith -lia -ac [runPiece_memOk, sweep_run_memOk]

theorem runIndex_memOk (h : r.s.memOk = true) (c : Cmd) (q : CopyReq) (i j : Nat) : (r.index c q i j).s.memOk = true := by
  unfold Run.index
  grind -ring -linarith -lia -ac [runFail_memOk]

theorem runRow_memOk (h : r.s.memOk = true) (c : Cmd) (q : CopyReq) (i j : Nat) : (r.row c q i j).1.s.memOk = true := by
  have hx := runIndex_memOk h c q i j
  unfold Run.row
  extract_lets u k
  split
  · exact hx
  · split
    · exact hx
    · split
      · split
        · refine foldl_run_memOk ?_ _ fun v x hv => runThen_memOk hv ?_
          · exact hx
          · exact runWrite_memOk hv ..
        · exact hx
      · refine foldl_run_memOk hx _ fun v x hv => ?_
        split <;> exact runMove_memOk hv ..

theorem runStretch_memOk (h : r.s.memOk = true) (c : Cmd) (q : CopyReq) (pos : Nat) : (r.stretch c q pos).1.s.memOk = true := by
  unfold Run.stretch
  split
  · exact runLinear_memOk h ..
  · exact runRow_memOk h ..

theorem copyFrom_memOk (c : Cmd) (q : CopyReq) (n : Nat) (h : r.s.memOk = true) (pos : Nat) :
    (Run.copyFrom c q n r pos).1.s.memOk = true := by
  induction n generalizing r pos with
  | zero => exact h
  | succ n ih =>
    unfold Run.copyFrom
    split
    · exact h
    · exact ih (runStretch_memOk h ..) _

theorem copyNames_memOk (h : s.memOk = true) (core : Nat) (q : CopyReq) : (s.copyNames core q).memOk = true := by
  unfold State.copyNames
  grind -ring -linarith -lia -ac [learnName_memOk]

theorem execCopyStart_kept (h : s.memOk = true) : Kept (execCopyStart s) := by
  refine event_kept (runHead_memOk h _ _ _ fun c u hu => ?_)
  extract_lets q p
  have hp : p.1.s.memOk = true := copyFrom_memOk c q _ (r := { u with s := _ }) (copyNames_memOk hu ..) _
  clear_value p
  split
  · exact runFinish_memOk hp ..
  · exact endCmd_memOk hp ..

/-! ### Commands of the other engines -/

theorem domainBody_memOk (h : s.memOk = true) (e op n : Nat) (d a : Spec) (legal : List Word → List Word → Bool)
    (sides : List Word → Engine → List Side × List Side) (issue : State → List Word → Option Trap) :
    (domainBody e op n d a legal sides issue s).state.memOk = true := by
  unfold domainBody
  grind -ring -linarith -lia -ac [Ex.state, accept_memOk]

theorem runEWrite_memOk (h : r.s.memOk = true) (c : Cmd) (w : Word) (disp n v : Nat) : (r.eWrite c w disp n v).s.memOk = true :=
  runThen_memOk h (runWrite_memOk h ..)

theorem runGet_memOk (h : r.s.memOk = true) (c : Cmd) (w : Word) (disp n : Nat) {k : Nat → Run → Run}
    (hk : ∀ (v : Nat) (q : Run), q.s.memOk = true → (k v q).s.memOk = true) : (r.get c w disp n k).s.memOk = true := by
  refine runThen_memOk h ?_
  split
  · exact runFail_memOk h _
  · exact hk _ _ h

theorem runFlag_memOk (h : r.s.memOk = true) (f : FFlags) : (r.flag f).s.memOk = true := h

theorem runStat_memOk (h : r.s.memOk = true) (u : Nat) (f : NblStat → NblStat) : (r.stat u f).s.memOk = true := setEngine_memOk h _

theorem nblEnd_memOk (h : r.s.memOk = true) (u engst low : Nat) : (r.nblEnd u engst low).memOk = true :=
  runFinish_memOk (runStat_memOk h ..) ..

theorem execNblBoxExec_kept (h : s.memOk = true) : Kept (execNblBoxExec s) := by
  refine event_kept (runHead_memOk h _ _ _ fun c u hu => ?_)
  grind -ring -linarith -lia -ac [runFinish_memOk, runThen_memOk, runWrite_memOk]

theorem runHeader_memOk (h : r.s.memOk = true) (c : Cmd) {k : NblHeader → Run → State} {fault : Run → State}
    (hk : ∀ (x : NblHeader) (q : Run), q.s.memOk = true → (k x q).memOk = true)
    (hf : ∀ q : Run, q.s.memOk = true → (fault q).memOk = true) : (r.header c k fault).memOk = true := by
  unfold Run.header
  extract_lets g
  split
  · exact hf _ (runFail_memOk h _)
  · exact hk _ _ h

theorem binningAdd_memOk {b : Binning} (h : b.r.s.memOk = true) (c : Cmd) (box : Box) (cap i : Nat) (x : List Nat) :
    (b.add c box cap i x).r.s.memOk = true := by
  unfold Binning.add
  grind -ring -linarith -lia -ac [runEWrite_memOk, runThen_memOk, runWrite_memOk]

theorem foldl_binning_memOk {α : Type} {f : Binning → α → Binning} {b : Binning} (h : b.r.s.memOk = true) (l : List α)
    (hf : ∀ (q : Binning) (x : α), q.r.s.memOk = true → (f q x).r.s.memOk = true) : (l.foldl f b).r.s.memOk = true :=
  List.foldlRecOn (motive := fun q : Binning => q.r.s.memOk = true) l f h fun q hq x _ => hf q x hq

theorem execNblBinExec_kept (h : s.memOk = true) : Kept (execNblBinExec s) := by
  refine event_kept (runHead_memOk h _ _ _ fun c u hu => ?_)
  extract_lets n g
  split
  · exact nblEnd_memOk hu ..
  · refine runHeader_memOk hu _ (fun x q hq => ?_) fun q hq => nblEnd_memOk hq ..
    split
    · exact nblEnd_memOk hq ..
    · split
      · exact nblEnd_memOk (runFail_memOk hq _) ..
      · split
        · exact nblEnd_memOk (runEWrite_memOk hq ..) ..
        · extract_lets r1 b0 b done
          have hb : b.r.s.memOk = true :=
            foldl_binning_memOk (foldl_run_memOk hq _ fun v k hv => runEWrite_memOk hv ..) _ fun v p hv =>
              binningAdd_memOk hv ..
          clear_value b
          split
          · exact nblEnd_memOk (runStat_memOk hb ..) ..
          · exact nblEnd_memOk (runStat_memOk
              (runEWrite_memOk (runEWrite_memOk (runEWrite_memOk (runEWrite_memOk hb ..) ..) ..) ..) ..) ..

theorem putPairs_memOk (c ch id : Nat) (l : List Token) (h : s.memOk = true) : (s.putPairs c ch id l).1.memOk = true := by
  induction l generalizing s with
  | nil => exact h
  | cons k l ih =>
    unfold State.putPairs
    grind -ring -linarith -lia -ac [setChan_memOk, → chanPut_memOk]

theorem streamPairs_memOk (h : s.memOk = true) (u : Nat) : (s.streamPairs u).memOk = true := by
  unfold State.streamPairs
  grind -ring -linarith -lia -ac [setChan_memOk, putPairs_memOk, noteUe_memOk, setEngine_memOk, endCmd_memOk]

theorem execNblPairsExec_kept (h : s.memOk = true) : Kept (execNblPairsExec s) := by
  refine event_kept (streamPairs_memOk (runHead_memOk h _ _ _ fun c u hu => ?_) _)
  extract_lets n w0 fresh
  have hn : ∀ (q : Run) (k m : Nat) (low : Nat), q.s.memOk = true → ((fresh q k).nblEnd n m low).memOk = true :=
    fun q k m low hq => nblEnd_memOk (runStat_memOk hq ..) ..
  clear_value fresh
  split
  · exact hn _ _ _ _ hu
  · refine runHeader_memOk hu _ (fun x q hq => ?_) fun q hq => hn _ _ _ _ hq
    split
    · exact hn _ _ _ _ hq
    · split
      · exact hn _ _ _ _ (runFail_memOk hq _)
      · exact hn _ _ _ _ (runFail_memOk hq _)
      · exact hn _ _ _ _ (runFail_memOk hq _)
      · split
        · exact hn _ _ _ _ hq
        · extract_lets pv rv half lim stale
          split
          · exact hn _ _ _ _ hq
          · exact endCmd_memOk (hn _ _ _ _ hq) ..

theorem execNblStatExec_kept (h : s.memOk = true) : Kept (execNblStatExec s) :=
  event_kept (runHead_memOk h _ _ _ fun _ _ hu => runFinish_memOk hu ..)

theorem runSummary_memOk (h : r.s.memOk = true) (c : Cmd) (dim p e : Nat) : (r.summary c dim p e).s.memOk = true := by
  unfold Run.summary
  extract_lets keys go
  have hg : go.1.s.memOk = true := foldl_runPair_memOk h _ fun q x hq => by
    grind -ring -linarith -lia -ac [runFail_memOk, runFlag_memOk]
  exact runThen_memOk hg (runEWrite_memOk (runFlag_memOk hg _) ..)

theorem execPgsSumExec_kept (h : s.memOk = true) : Kept (execPgsSumExec s) := by
  refine event_kept (runHead_memOk h _ _ _ fun c u hu => ?_)
  extract_lets w0 dim first n
  split
  · exact runFinish_memOk hu ..
  · refine runFinish_memOk (foldl_runPair_memOk hu _ fun q x hq => ?_) ..
    split
    · exact hq
    · exact foldl_run_memOk hq _ fun v e hv => runThen_memOk hv (runSummary_memOk hv ..)

theorem runScore_memOk (h : r.s.memOk = true) (c : Cmd) (dim p : Nat) : (r.score c dim p).1.s.memOk = true := by
  refine foldl_runPair_memOk h _ fun q x hq => ?_
  grind -ring -linarith -lia -ac [runFail_memOk, runFlag_memOk]

theorem execPgsSelExec_kept (h : s.memOk = true) : Kept (execPgsSelExec s) := by
  refine event_kept (runHead_memOk h _ _ _ fun c u hu => ?_)
  extract_lets w0 dim k first n go chosen cnt r1 copy r2
  split
  · exact runFinish_memOk hu ..
  · have hgo : go.1.s.memOk = true := foldl_runPair_memOk hu _ fun q x hq => by
      grind -ring -linarith -lia -ac [runScore_memOk, runFail_memOk]
    have h1 : r1.s.memOk = true := foldl_run_memOk hgo _ fun q x hq => runEWrite_memOk hq ..
    have hcopy : ∀ (q : Run) (src : Word) (p off : Nat), q.s.memOk = true → (copy q src p off).s.memOk = true :=
      fun q src p off hq => foldl_run_memOk hq _ fun v j hv => runGet_memOk hv _ _ _ _ fun _ _ hw => runEWrite_memOk hw ..
    have h2 : r2.s.memOk = true := by
      clear_value r1 copy
      unfold r2
      split
      · exact foldl_run_memOk h1 _ fun q x hq => hcopy _ _ _ _ (hcopy _ _ _ _ hq)
      · exact h1
    exact runFinish_memOk h2 ..

theorem execSflTabExec_kept (h : s.memOk = true) : Kept (execSflTabExec s) := by
  refine event_kept (runHead_memOk h _ _ _ fun c u hu => ?_)
  grind -ring -linarith -lia -ac [runFinish_memOk, setEngine_memOk]

theorem runPosition_memOk (h : r.s.memOk = true) (c : Cmd) (x : SflTab) (w : Bool) (acc : Chips) (pos : Nat) :
    (r.position c x w acc pos).1.s.memOk = true := by
  unfold Run.position
  grind -ring -linarith -lia -ac [runFail_memOk, foldl_run_memOk, runFlag_memOk]

theorem runPool_memOk (h : r.s.memOk = true) (c : Cmd) (x : SflTab) (acc : Chips) (b : Nat) : (r.pool c x acc b).s.memOk = true := by
  refine foldl_run_memOk h _ fun q o hq => runThen_memOk hq ?_
  exact runEWrite_memOk (runFlag_memOk hq _) ..

theorem execSflBagExec_kept (h : s.memOk = true) : Kept (execSflBagExec s) := by
  refine event_kept (runHead_memOk h _ _ _ fun c u hu => ?_)
  extract_lets w0
  split
  · exact runFinish_memOk hu ..
  · refine runFinish_memOk (foldl_runPair_memOk hu _ fun q b hq => ?_) ..
    split
    · exact hq
    · split
      · exact runFail_memOk hq _
      · exact runFail_memOk hq _
      · extract_lets p r2
        have hp : p.1.s.memOk = true := 
          foldl_runPair_memOk (p := (q.1, [])) hq _ fun v i hv => runPosition_memOk hv ..
        have h2 : r2.s.memOk = true := by
          refine runThen_memOk hp ?_
          exact runPool_memOk hp ..
        exact h2

theorem execWdqGridExec_kept (h : s.memOk = true) : Kept (execWdqGridExec s) := by
  refine event_kept (runHead_memOk h _ _ _ fun c u hu => ?_)
  grind -ring -linarith -lia -ac [runFinish_memOk, setEngine_memOk]

theorem execWdqAskExec_kept (h : s.memOk = true) : Kept (execWdqAskExec s) := by
  refine event_kept (runHead_memOk h _ _ _ fun c u hu => ?_)
  grind -ring -linarith -lia -ac [runFinish_memOk, setEngine_memOk, runEWrite_memOk]

end Sys2Proof.Machine
end

section
/-! Every step keeps the byte stores canonical (O57): float words and the tiles of a region. -/

namespace Sys2Proof.Machine
variable {s t : State}

/-! ### Float and conversion words -/

theorem roundedWord_memOk (h : s.memOk = true) (d : Spec) (code frac rm : Nat) (v : FV) (fl : FFlags) :
    (roundedWord d code frac rm v fl s).state.memOk = true := h

theorem floatBin_memOk (h : s.memOk = true) (f : BitVec 2) (d a b : Spec) (op : Nat → FV → FV → FV × FFlags) :
    (floatBin f d a b op s).state.memOk = true := by
  unfold floatBin
  extract_lets x p
  split
  · exact h
  · exact roundedWord_memOk h ..

theorem floatTri_memOk (h : s.memOk = true) (f : BitVec 2) (d a b : Spec) (op : Nat → FV → FV → FV → FV × FFlags) :
    (floatTri f d a b op s).state.memOk = true := by
  unfold floatTri
  extract_lets x p
  split
  · exact h
  · exact roundedWord_memOk h ..

theorem floatTest_memOk (h : s.memOk = true) (d : Spec) (ok : FmtPfx → Bool) (op : Thread → Word × FFlags) :
    (floatTest d ok op s).state.memOk = true := by
  unfold floatTest
  extract_lets x
  split <;> exact h

theorem execFsqrt_kept (h : s.memOk = true) (d a : Spec) (f : BitVec 2) : Kept (execFsqrt d a f s) := by
  refine issueWord_kept h ?_
  split
  · exact h
  · exact floatBin_memOk h ..

theorem cvtBody_memOk (h : s.memOk = true) (d a : Spec) (r : BitVec 3) (w : BitVec 2) (tf sf : BitVec 4) :
    (cvtBody d a r w tf sf s).state.memOk = true := by
  unfold cvtBody
  extract_lets x p tc sc ok narrow isInt scaled
  split
  · exact h
  · split
    · exact h
    · split <;> exact h

theorem cvtbBody_memOk (h : s.memOk = true) (d a : Spec) (r : BitVec 3) (tf sf : BitVec 4) :
    (cvtbBody d a r tf sf s).state.memOk = true := by
  unfold cvtbBody
  extract_lets x p ok pack
  clear_value pack ok
  split
  · grind -ring -linarith -lia -ac [Ex.state, put_memOk, memOk_mk]
  · exact h

/-! ### Firings of tiles -/

section
variable {v : FireEnv}

theorem fireBlock_memOk (h : v.s.memOk = true) (u : State) (pos d blk : Nat) : (v.block u pos d blk).2.s.memOk = true := by
  unfold FireEnv.block
  grind -ring -linarith -lia -ac []

theorem streamBlocks_memOk (c : TileCfg) (e n : Nat) (x : TileSt) (h : v.s.memOk = true) :
    (x.streamBlocks c e n v).2.2.s.memOk = true := by
  induction n generalizing x v with
  | zero => exact h
  | succ n ih => exact ih _ (fireBlock_memOk h ..)

theorem fireStore_memOk (h : v.s.memOk = true) (sp : Space) (a : Nat) (bs : List Byte) : (v.store sp a bs).s.memOk = true := by
  unfold FireEnv.store
  grind -ring -linarith -lia -ac [put_memOk]

theorem foldl_fire_memOk {α : Type} {f : FireEnv → α → FireEnv} (h : v.s.memOk = true) (l : List α)
    (hf : ∀ (q : FireEnv) (x : α), q.s.memOk = true → (f q x).s.memOk = true) : (l.foldl f v).s.memOk = true :=
  List.foldlRecOn (motive := fun q : FireEnv => q.s.memOk = true) l f h fun q hq x _ => hf q x hq

theorem storeBlock_memOk (h : v.s.memOk = true) (c : TileCfg) (blk : Nat) (k : Token) : (v.storeBlock c blk k).s.memOk = true := by
  unfold FireEnv.storeBlock
  split
  · exact h
  · refine foldl_fire_memOk h _ fun q x hq => ?_
    grind -ring -linarith -lia -ac [fireStore_memOk]

theorem mmaOperand_memOk (h : v.s.memOk = true) (c : TileCfg) (w : StageWord) (b : Bool) (k : Option Token) (x : TileSt) :
    (mmaOperand c w b k x v).2.2.s.memOk = true := by
  unfold mmaOperand
  grind -ring -linarith -lia -ac [streamBlocks_memOk]

theorem scaleBlock_memOk (h : v.s.memOk = true) (c : TileCfg) (x : TileSt) (e n : Nat) : (x.scaleBlock c e n v).2.2.s.memOk = true := by
  unfold TileSt.scaleBlock
  grind -ring -linarith -lia -ac [streamBlocks_memOk]

theorem readScales_memOk (h : v.s.memOk = true) (c : TileCfg) (x : TileSt) : (x.readScales c v).2.s.memOk = true := by
  unfold TileSt.readScales
  grind -ring -linarith -lia -ac [scaleBlock_memOk]

theorem mmaFire_memOk (h : v.s.memOk = true) (c : TileCfg) (w : StageWord) (ka kb : Option Token) (x : TileSt) :
    (mmaFire c w ka kb x v).2.s.memOk = true :=
  mmaOperand_memOk (mmaOperand_memOk (readScales_memOk h ..) ..) ..

theorem fireLds_memOk (h : v.s.memOk = true) (c : TileCfg) (x : TileSt) (fmt mask : Nat) (a : Token) :
    (v.lds c x fmt mask a).1.s.memOk = true := by
  unfold FireEnv.lds
  grind -ring -linarith -lia -ac []

theorem fireSts_memOk (h : v.s.memOk = true) (c : TileCfg) (x : TileSt) (fmt mask : Nat) (a b : Token) :
    (v.sts c x fmt mask a b).s.memOk = true := by
  refine foldl_fire_memOk h _ fun q l hq => ?_
  grind -ring -linarith -lia -ac [put_memOk]

theorem fireStage_memOk (h : v.s.memOk = true) (c : TileCfg) (x : TileSt) (i : Nat) (toks : List (Option Token)) :
    (fireStage c x i toks v).2.1.s.memOk = true := by
  unfold fireStage
  extract_lets w x1 src pace best own data
  have hd : ∀ n, (data n).2.s.memOk = true := by
    grind -ring -linarith -lia -ac [fireBlock_memOk]
  clear_value data
  repeat' split
  all_goals grind -ring -linarith -lia -ac [storeBlock_memOk, mmaFire_memOk, fireLds_memOk, fireSts_memOk]
end

/-! ### Tokens between tiles -/

theorem endsPut_memOk (h : s.memOk = true) {c circ : Nat} {k : Token} {l es : List End}
    (e : s.endsPut c circ k l = .ok (some (t, es))) : t.memOk = true := by
  induction l generalizing s es with
  | nil => grind -ring -linarith -lia -ac [State.endsPut]
  | cons x l ih =>
    unfold State.endsPut at e
    grind -ring -linarith -lia -ac [→ ringPut_memOk]

theorem sendOn_memOk (h : s.memOk = true) {r q : Region} {circ : Nat} {k : Token} (e : s.sendOn r circ k = .ok (some (t, q))) :
    t.memOk = true := by
  unfold State.sendOn at e
  grind -ring -linarith -lia -ac [→ endsPut_memOk]

section
variable {x : Try}

theorem tryPort_memOk (h : x.s.memOk = true) (f : Firing) (p : Nat) : (x.port f p).1.s.memOk = true := by
  unfold Try.port
  grind -ring -linarith -lia -ac []

theorem tryGather_memOk (f : Firing) (dead : Bool) (l : List Nat) (h : x.s.memOk = true) : (x.gather f dead l).1.s.memOk = true := by
  induction l generalizing x with
  | nil => exact h
  | cons n l ih =>
    unfold Try.gather
    grind -ring -linarith -lia -ac [tryPort_memOk]

theorem trySend_memOk (h : x.s.memOk = true) (f : Firing) (p : Nat) (k : Token) : (x.send f p k).s.memOk = true := by
  unfold Try.send
  grind -ring -linarith -lia -ac [→ sendOn_memOk]

theorem tryFire_memOk (snaps : List State) (h : x.s.memOk = true) (f : Firing) : (Try.fire snaps x f).s.memOk = true := by
  unfold Try.fire
  grind -ring -linarith -lia -ac [tryGather_memOk, fireStage_memOk, trySend_memOk]

theorem foldl_try_memOk {α : Type} {f : Try → α → Try} (h : x.s.memOk = true) (l : List α)
    (hf : ∀ (q : Try) (a : α), q.s.memOk = true → (f q a).s.memOk = true) : (l.foldl f x).s.memOk = true :=
  List.foldlRecOn (motive := fun q : Try => q.s.memOk = true) l f h fun q hq a _ => hf q a hq

theorem tryAll_memOk (h : s.memOk = true) (r : Region) (stuck : List Nat) (snaps : List State) (fs : List Firing) :
    (tryAll s r stuck snaps fs).s.memOk = true := by
  refine foldl_try_memOk ?_ _ fun q ph hq => foldl_try_memOk ?_ _ fun u f hu => tryFire_memOk _ hu f
  · exact h
  · exact hq

theorem tryClk_memOk (h : s.memOk = true) (r : Region) (stuck : List Nat) (fs : List Firing) : (tryClk s r stuck fs).s.memOk = true := by
  unfold tryClk
  grind -ring -linarith -lia -ac [tryAll_memOk]

theorem olderTry_memOk (h : s.memOk = true) (r : Region) (stuck : List Nat) (held : List Firing) {n : Nat} {fs : List Firing}
    {limit m : Nat} (e : olderTry s r stuck held n fs limit = (some x, m)) : x.s.memOk = true := by
  induction n generalizing fs limit with
  | zero => grind -ring -linarith -lia -ac [olderTry]
  | succ n ih =>
    unfold olderTry at e
    grind -ring -linarith -lia -ac [tryClk_memOk]

theorem olderFrom_memOk (h : s.memOk = true) (r : Region) (stuck : List Nat) {n : Nat} {held : List Firing}
    {limit sclk : Nat} (e : olderFrom s r stuck n held limit sclk = some x) : x.s.memOk = true := by
  induction n generalizing held limit sclk with
  | zero => grind -ring -linarith -lia -ac [olderFrom]
  | succ n ih =>
    unfold olderFrom at e
    grind -ring -linarith -lia -ac [→ olderTry_memOk]

theorem rowTokens_memOk (q : Ripple) (l : List Nat) (h : x.s.memOk = true) : (x.rowTokens q l).1.s.memOk = true := by
  induction l generalizing x with
  | nil => exact h
  | cons n l ih =>
    unfold Try.rowTokens
    grind -ring -linarith -lia -ac []

theorem tryRipple_memOk (n : Nat) (seen : List (Nat × Nat)) (l : List Ripple) (h : x.s.memOk = true) :
    (Try.ripple n seen l x).s.memOk = true := by
  induction n generalizing seen l x with
  | zero => grind -ring -linarith -lia -ac [Try.ripple]
  | succ n ih =>
    cases l with
    | nil => exact h
    | cons q l =>
      unfold Try.ripple
      grind -ring -linarith -lia -ac [rowTokens_memOk, fireStage_memOk, trySend_memOk]

theorem takeRow_memOk (h : s.memOk = true) {r : Region} {stuck : List Nat} {i : Nat} (e : takeRow s r stuck i = some x) :
    x.s.memOk = true := by
  unfold takeRow at e
  have hr := fun n seen l => tryRipple_memOk n seen l (x := Try.start s r stuck) h
  grind -ring -linarith -lia -ac []

theorem tileAbort_memOk (h : s.memOk = true) (r : Region) (p : Nat) (tr : Trap) : (s.tileAbort r p tr).memOk = true :=
  abortLaunch_memOk (appendLog_memOk (noteUe_memOk h _) ..) _

theorem tileFault_memOk (h : s.memOk = true) (r : Region) (p : Nat) (sp : Space) (a : Nat) : (s.tileFault r p sp a).memOk = true :=
  tileAbort_memOk h ..

theorem tryCommit_memOk (h : s.memOk = true) (hx : x.s.memOk = true) (adv : Bool) : (x.commit s adv).memOk = true := by
  unfold Try.commit
  split
  · exact nodeFault_memOk h ..
  · exact tileFault_memOk h ..
  · exact setRegion_memOk hx _

theorem regionMove_memOk (h : s.memOk = true) {r : Region} {adv : Bool} (e : s.regionMove r = some (x, adv)) : x.s.memOk = true := by
  unfold State.regionMove at e
  extract_lets fs stuck y at e
  have hy : y.s.memOk = true := tryClk_memOk h ..
  clear_value y
  have hl : ∀ z, y.wait.findSome? (takeRow s r stuck) = some z → z.s.memOk = true := fun z ez =>
    let ⟨_, _, hi⟩ := List.exists_of_findSome?_eq_some ez
    takeRow_memOk h hi
  split at e
  · grind -ring -linarith -lia -ac []
  · split at e
    · grind -ring -linarith -lia -ac []
    · split at e
      · next ez => grind -ring -linarith -lia -ac [olderFrom_memOk h r stuck ez]
      · obtain ⟨z, hz, hzx⟩ := Option.map_eq_some_iff.1 e
        cases hzx
        exact hl _ hz
end

theorem regionClk_memOk (h : s.memOk = true) (r : Region) : (s.regionClk r).memOk = true := by
  unfold State.regionClk
  split
  · next e => exact tryCommit_memOk h (regionMove_memOk h e) _
  · split
    · exact h
    · exact setRegion_memOk h _

theorem execRegionStep_kept (h : s.memOk = true) (r : Nat) : Kept (execRegionStep r s) := by
  refine event_kept ?_
  grind -ring -linarith -lia -ac [regionClk_memOk, memOk_mk]

end Sys2Proof.Machine
end

section
/-! Every step keeps the byte stores canonical (O57): the steps of nodes. -/

namespace Sys2Proof.Machine
variable {s t : State}

/-! ### Steps of nodes -/

theorem nodeSend_ok_memOk (h : s.memOk = true) {r q : Region} {n : Nat} {o : Option Nat} {k : Token}
    (e : s.nodeSend r n o k = .ok t q) : t.memOk = true := by
  unfold State.nodeSend at e
  grind -ring -linarith -lia -ac [→ sendOn_memOk]

theorem nodeSend_fault_memOk (h : s.memOk = true) {r : Region} {n : Nat} {o : Option Nat} {k : Token}
    (e : s.nodeSend r n o k = .fault t) : t.memOk = true := by
  unfold State.nodeSend at e
  grind -ring -linarith -lia -ac [nodeFault_memOk, setRegion_memOk]

theorem nodePass_ok_memOk (h : s.memOk = true) {r0 r q : Region} {n : Nat} {o : Option Nat} {k : Token}
    (e : s.nodePass r0 r n o k = .ok t q) : t.memOk = true := by
  unfold State.nodePass at e
  grind -ring -linarith -lia -ac [→ nodeSend_ok_memOk]

theorem nodePass_fault_memOk (h : s.memOk = true) {r0 r : Region} {n : Nat} {o : Option Nat} {k : Token}
    (e : s.nodePass r0 r n o k = .fault t) : t.memOk = true := by
  unfold State.nodePass at e
  grind -ring -linarith -lia -ac [→ nodeSend_fault_memOk]

theorem nodeTake_fault_memOk (h : s.memOk = true) {r : Region} {c : NodeCfg} {p : Nat} (e : s.nodeTake r c p = .fault t) :
    t.memOk = true := by
  unfold State.nodeTake at e
  grind -ring -linarith -lia -ac [nodeFault_memOk]

theorem nodeStep_memOk (h : s.memOk = true) (r n : Nat) (kinds : List Nat) (part : Nat)
    {f : State → Region → NodeCfg → NodeSt → Option State}
    (hf : ∀ (g : Region) (c : NodeCfg) (x : NodeSt) (u : State), f s g c x = some u → u.memOk = true) :
    (s.nodeStep r n kinds part f).memOk = true := by
  unfold State.nodeStep
  grind -ring -linarith -lia -ac [setNode_memOk, setRegion_memOk]

theorem setQueue_memOk (h : s.memOk = true) (q : Queue) : (s.setQueue q).memOk = true := h

theorem feed_memOk (h : s.memOk = true) {r : Region} {c : NodeCfg} {n : NodeSt} {next : Except Trap (Option (Token × State))}
    {idle : Option State} {bad : Trap → State} (hn : ∀ (k : Token) (u : State), next = .ok (some (k, u)) → u.memOk = true)
    (hi : ∀ u, idle = some u → u.memOk = true) (hb : ∀ tr, (bad tr).memOk = true)
    (e : s.feed r c n next idle bad = some t) : t.memOk = true := by
  unfold State.feed at e
  grind -ring -linarith -lia -ac [→ nodeSend_ok_memOk, → nodeSend_fault_memOk, setRegion_memOk]

theorem feedChan_memOk (h : s.memOk = true) {r : Region} {c : NodeCfg} {n : NodeSt} {ch : Nat} (e : s.feedChan r c n ch = some t) :
    t.memOk = true := by
  unfold State.feedChan at e
  split at e
  · exact feed_memOk h (fun _ _ hu => by simp at hu) (fun _ hu => by simp at hu) (fun _ => h) e
  · refine feed_memOk h (fun k u hu => chanTake_memOk h hu) (fun u hu => ?_) (fun tr => chanFault_memOk h _ tr) e
    grind -ring -linarith -lia -ac [setChan_memOk]

theorem execSrcSend_kept (h : s.memOk = true) (r n : Nat) : Kept (execSrcSend r n s) := by
  refine event_kept (nodeStep_memOk h _ _ _ _ fun g c x u e => ?_)
  split at e
  · exact feedChan_memOk h e
  · refine feed_memOk h (fun k v hv => ?_) (fun _ hu => by simp at hu) (fun _ => h) e
    grind -ring -linarith -lia -ac [setQueue_memOk]

theorem execInjSend_kept (h : s.memOk = true) (r n : Nat) : Kept (execInjSend r n s) :=
  event_kept (nodeStep_memOk h _ _ _ _ fun _ _ _ _ e => feedChan_memOk h e)

theorem sinksDone_memOk (h : s.memOk = true) (r : Nat) : (s.sinksDone r).memOk = true := by
  unfold State.sinksDone
  grind -ring -linarith -lia -ac [setRegion_memOk, setQueue_memOk]

theorem execSnkTake_kept (h : s.memOk = true) (r n : Nat) : Kept (execSnkTake r n s) := by
  refine event_kept (nodeStep_memOk h _ _ _ _ fun g c x u e => ?_)
  split at e
  · split at e
    · grind -ring -linarith -lia -ac []
    · split at e
      · grind -ring -linarith -lia -ac []
      · grind -ring -linarith -lia -ac [→ nodeTake_fault_memOk]
      · grind -ring -linarith -lia -ac [setRegion_memOk, sinksDone_memOk, nodeFault_memOk, → chanPut_memOk]
  · grind -ring -linarith -lia -ac []

theorem execCisternRefill_kept (h : s.memOk = true) (isChan : Bool) (a b : Nat) : Kept (execCisternRefill isChan a b s) := by
  refine event_kept ?_
  grind -ring -linarith -lia -ac [chanFault_memOk, setChan_memOk, chanPassed_memOk, nodeFault_memOk, setNode_memOk,
    setRegion_memOk]

theorem execAccnSum_kept (h : s.memOk = true) (r n : Nat) : Kept (execAccnSum r n s) := by
  refine event_kept (nodeStep_memOk h _ _ _ _ fun g c x u e => ?_)
  dsimp only at e
  repeat' split at e
  all_goals grind -ring -linarith -lia -ac [→ nodeSend_ok_memOk, → nodeSend_fault_memOk, → nodeTake_fault_memOk, setRegion_memOk]

theorem startEscape_memOk (h : s.memOk = true) {r : Region} {c : NodeCfg} {i l a b : Nat} (e : s.startEscape r c i l = some (t, a, b)) :
    t.memOk = true := by
  unfold State.startEscape at e
  grind -ring -linarith -lia -ac [serveQueue_memOk, setCore_memOk, learnName_memOk, addT_memOk, memOk_mk]

theorem execEscTake_kept (h : s.memOk = true) (r n : Nat) : Kept (execEscTake r n s) := by
  refine event_kept (nodeStep_memOk h _ _ _ _ fun g c x u e => ?_)
  dsimp only at e
  repeat' split at e
  all_goals grind -ring -linarith -lia -ac [setRegion_memOk, → startEscape_memOk, → nodeTake_fault_memOk, → agentStore_memOk,
    nodeFault_memOk]

theorem execEscEmit_kept (h : s.memOk = true) (r n : Nat) : Kept (execEscEmit r n s) := by
  refine event_kept (nodeStep_memOk h _ _ _ _ fun g c x u e => ?_)
  repeat' split at e
  all_goals grind -ring -linarith -lia -ac [setRegion_memOk, → nodeSend_ok_memOk, → nodeSend_fault_memOk, → agentStore_memOk,
    nodeFault_memOk]

theorem readBlock_memOk (h : s.memOk = true) {g : Region} {a : AgnStream} {cur : Stream} {b : Nat} {l : List Nat} {o : Option Tlb}
    (e : s.readBlock g a cur b = .ok (l, o, t)) : t.memOk = true := by
  unfold State.readBlock at e
  grind -ring -linarith -lia -ac [→ walkBy_memOk]

theorem execAgnRunStart_kept (h : s.memOk = true) (r n : Nat) : Kept (execAgnRunStart r n s) := by
  refine event_kept (nodeStep_memOk h _ _ _ _ fun g c x u e => ?_)
  dsimp only at e
  repeat' split at e
  all_goals grind -ring -linarith -lia -ac [setRegion_memOk, → nodeTake_fault_memOk]

theorem execAgnEmit_kept (h : s.memOk = true) (r n st : Nat) : Kept (execAgnEmit r n st s) := by
  refine event_kept (nodeStep_memOk h _ _ _ _ fun g c x u e => ?_)
  dsimp only at e
  repeat' split at e
  all_goals grind -ring -linarith -lia -ac [setRegion_memOk, setNode_memOk, → nodeSend_ok_memOk, → nodeSend_fault_memOk,
    → readBlock_memOk, nodeFault_memOk]

theorem map_setRegion_memOk (h : s.memOk = true) {o : Option Region} (e : o.map s.setRegion = some t) : t.memOk = true := by
  obtain ⟨r, -, rfl⟩ := Option.map_eq_some_iff.1 e
  exact setRegion_memOk h r

theorem execMemgGather_kept (h : s.memOk = true) (r n : Nat) : Kept (execMemgGather r n s) := by
  refine event_kept (nodeStep_memOk h _ _ _ _ fun g c x u e => ?_)
  dsimp only at e
  repeat' split at e
  all_goals grind -ring -linarith -lia -ac [→ map_setRegion_memOk, setRegion_memOk, → nodeSend_ok_memOk, → nodeSend_fault_memOk,
    → nodePass_ok_memOk, → nodePass_fault_memOk, → nodeTake_fault_memOk, nodeFault_memOk]

theorem scatter_memOk (h : s.memOk = true) (g : Region) (c : NodeCfg) (idx data : Token) (guard : Option Token) (lane : Nat) :
    (s.scatter g c idx data guard lane).s.memOk = true := by
  refine List.foldlRecOn (motive := fun y : Scatter => y.s.memOk = true) _ _ h fun y hy l _ => ?_
  grind -ring -linarith -lia -ac [→ agentStore_memOk]

theorem execMemsWrite_kept (h : s.memOk = true) (r n : Nat) : Kept (execMemsWrite r n s) := by
  refine event_kept (nodeStep_memOk h _ _ _ _ fun g c x u e => ?_)
  dsimp only at e
  repeat' split at e
  all_goals grind -ring -linarith -lia -ac [→ map_setRegion_memOk, setRegion_memOk, → nodeTake_fault_memOk, nodeFault_memOk,
    scatter_memOk]

theorem execSlhEmit_kept (h : s.memOk = true) (r n : Nat) : Kept (execSlhEmit r n s) := by
  refine event_kept (nodeStep_memOk h _ _ _ _ fun g c x u e => ?_)
  dsimp only at e
  repeat' split at e
  all_goals grind -ring -linarith -lia -ac [setRegion_memOk, → nodePass_ok_memOk, → nodePass_fault_memOk, → nodeTake_fault_memOk,
    nodeFault_memOk]

theorem execSluiceSend_kept (h : s.memOk = true) (r n : Nat) : Kept (execSluiceSend r n s) := by
  refine event_kept (nodeStep_memOk h _ _ _ _ fun g c x u e => ?_)
  split at e
  · extract_lets q put work at e
    have hput : ∀ v y z tag w, v.memOk = true → put v y z tag = some w → w.memOk = true := by
      grind -ring -linarith -lia -ac [setRegion_memOk]
    have hwork : ∀ w, work = some w → w.memOk = true := by
      intro w ew
      clear_value put
      dsimp only [work] at ew
      repeat' split at ew
      all_goals grind -ring -linarith -lia -ac [setRegion_memOk, → map_setRegion_memOk, → nodeTake_fault_memOk, nodeFault_memOk,
        amoMem_memOk]
    clear_value work put
    grind -ring -linarith -lia -ac [→ nodeSend_ok_memOk, → nodeSend_fault_memOk]
  · grind -ring -linarith -lia -ac []

theorem execSluiceCompletion_kept (h : s.memOk = true) (r n tag : Nat) (st : BitVec 2) (old : BitVec 64) :
    Kept (execSluiceCompletion r n tag st old s) := by
  refine event_kept (nodeStep_memOk h _ _ _ _ fun g c x u e => ?_)
  dsimp only at e
  repeat' split at e
  all_goals grind -ring -linarith -lia -ac [setRegion_memOk, nodeFault_memOk]

end Sys2Proof.Machine
end

section
/-! Every step keeps the byte stores canonical (O57): launches, their windows and threads, and the scheduler. -/

namespace Sys2Proof.Machine
variable {s t : State}

/-! ### Windows and bind records -/

theorem setLaunch_memOk (h : s.memOk = true) (l : Launch) : (s.setLaunch l).memOk = true := h

theorem putQueue_memOk (h : s.memOk = true) (q : Queue) : (s.putQueue q).memOk = true := by
  unfold State.putQueue
  split <;> exact h

theorem moduleRecord_memOk (h : s.memOk = true) (c : Nat) (tr : Trap) (ticket : Nat) (f : Bool) :
    (s.moduleRecord c tr ticket f).memOk = true := appendLog_memOk h ..

theorem regWrite_memOk (h : s.memOk = true) (l : Launch) (va : Word) (bs : List Byte) : (s.regWrite l va bs).memOk = true := by
  unfold State.regWrite
  split
  · next e => exact agentStore_memOk h e
  · exact moduleRecord_memOk (noteUe_memOk h _) ..

theorem withdraw_memOk (h : s.memOk = true) (core c : Nat) (ticket : Option Nat) : (s.withdraw core c ticket).memOk = true := by
  unfold State.withdraw
  split
  · exact h
  · exact setCells_memOk (.win core c) h (filter_wf _ (memOk_cells h (.win core c)))

theorem openWindow_memOk (h : s.memOk = true) (core c len base ticket : Nat) : (s.openWindow core c len base ticket).memOk = true := by
  unfold State.openWindow
  extract_lets s1
  split
  · exact h
  · refine foldl_memOk ((memOk_mk ..).trans h) _ fun u x hu => ?_
    grind -ring -linarith -lia -ac [writeByte_memOk]

theorem withdrawIdle_memOk (h : s.memOk = true) (core c : Nat) : (s.withdrawIdle core c).memOk = true := by
  unfold State.withdrawIdle
  split
  · exact h
  · exact withdraw_memOk h ..

theorem grantWindow_memOk (h : s.memOk = true) {core c len ticket : Nat} (e : s.grantWindow core c len ticket = some t) :
    t.memOk = true := by
  unfold State.grantWindow at e
  extract_lets grow at e
  have hg : ∀ u v : State, u.memOk = true → grow u = some v → v.memOk = true := by
    intro u v hu hv
    obtain ⟨b, -, rfl⟩ := Option.map_eq_some_iff.1 hv
    exact openWindow_memOk hu ..
  clear_value grow
  have hl := fun l => foldl_memOk h (l : List Window) fun u w hu => withdrawIdle_memOk hu core w.ctx
  grind -ring -linarith -lia -ac [withdrawIdle_memOk]

theorem grantSems_memOk (h : s.memOk = true) (c : Nat) : (s.grantSems c).memOk = true := h

theorem clearBinds_memOk (h : s.memOk = true) (p : Bind → Bool) : (s.clearBinds p).memOk = true :=
  foldl_memOk ((memOk_mk ..).trans h) _ fun _ _ hu => grantSems_memOk hu _

theorem bindCore_memOk (h : s.memOk = true) (l : Launch) (core mask : Nat) (esc : Option (Nat × Nat)) :
    (s.bindCore l core mask esc).memOk = true := by
  have hg : ((s.grantWindow core l.ctx l.spec.scrw l.ticket).getD s).memOk = true := getD_memOk h fun _ e => grantWindow_memOk h e
  exact grantSems_memOk ((memOk_mk ..).trans hg) _

theorem restoreWindows_memOk (h : s.memOk = true) (l : Launch) (slots : List (Nat × Nat)) : (s.restoreWindows l slots).memOk = true := by
  unfold State.restoreWindows
  refine (memOk_mk ..).trans (foldl_memOk ((memOk_mk ..).trans h) _ fun u w hu => ?_)
  exact getD_memOk hu fun _ e => grantWindow_memOk hu e

/-! ### Saved threads -/

theorem unwait_memOk (h : s.memOk = true) (x : Thread) : (s.unwait x).memOk = true := h

theorem saveThread_memOk (h : s.memOk = true) {x : Thread} {own : Option Nat} (e : s.saveThread x own = some t) : t.memOk = true := by
  unfold State.saveThread at e
  split at e
  · exact stow_memOk (unwait_memOk h x) e
  · cases e

theorem resumeAt_memOk (h : s.memOk = true) (x : Thread) (core slot : Nat) : (s.resumeAt x core slot).memOk = true := by
  refine setT_memOk ?_ _
  split <;> exact h

theorem readLocks_memOk (h : s.memOk = true) : s.readLocks.memOk = true := by
  refine foldl_memOk h _ fun u w hu => ?_
  grind -ring -linarith -lia -ac [learnName_memOk]

theorem resumeThread_memOk (h : s.memOk = true) (x : Thread) (spare : List Nat) : (s.resumeThread x spare).memOk = true := by
  unfold State.resumeThread
  grind -ring -linarith -lia -ac [resumeAt_memOk, → saveThread_memOk]

theorem relieve_memOk (h : s.memOk = true) (x : Thread) : (s.relieve x).memOk = true :=
  getD_memOk h fun _ e => saveThread_memOk h e

theorem stopThread_memOk (h : s.memOk = true) (x : Thread) : (s.stopThread x).memOk = true := by
  unfold State.stopThread
  split
  · exact setT_memOk (unwait_memOk h x) _
  · exact endThread_memOk h x

theorem restoreThreads_memOk (h : s.memOk = true) (l : Launch) (slots : List (Nat × Nat)) : (s.restoreThreads l slots).memOk = true := by
  refine foldl_memOk h _ fun u x hu => ?_
  grind -ring -linarith -lia -ac [drain_memOk, resumeAt_memOk, setT_memOk]

theorem restoreSems_memOk (h : s.memOk = true) (l : Launch) (slots : List (Nat × Nat)) : (s.restoreSems l slots).memOk = true := by
  refine foldl_memOk h _ fun u x hu => ?_
  grind -ring -linarith -lia -ac [setCore_memOk]

theorem createThreads_memOk (l : Launch) (slots : List (Nat × Nat)) (rank : Nat) (h : s.memOk = true) :
    (s.createThreads l slots rank).memOk = true := by
  induction slots generalizing s rank with
  | nil => exact h
  | cons x slots ih => exact ih _ (addT_memOk ((memOk_mk ..).trans h) _)

/-! ### Launches that end -/

theorem closePort_memOk (h : s.memOk = true) (l : Launch) : (s.closePort l).memOk = true := by
  unfold State.closePort
  split
  · exact h
  · exact setQueue_memOk h _

theorem endRegions_memOk (h : s.memOk = true) (ticket : Nat) (keep : Bool) : (s.endRegions ticket keep).memOk = true := h

theorem freeLaunch_memOk (h : s.memOk = true) (l : Launch) (keep : Bool) : (s.freeLaunch l keep).memOk = true := by
  unfold State.freeLaunch
  refine (memOk_mk ..).trans (endRegions_memOk (clearBinds_memOk (foldl_memOk (foldl_memOk h _ ?_) _ ?_) _) ..)
  · exact fun u x hu => stopThread_memOk hu x
  · exact fun u x hu => relieve_memOk hu x

theorem abortNow_memOk (h : s.memOk = true) (ticket : Nat) (report : Option (List Byte)) : (s.abortNow ticket report).memOk = true := by
  unfold State.abortNow
  grind -ring -linarith -lia -ac [memOk_mk, freeLaunch_memOk, closePort_memOk, regWrite_memOk]

theorem finishLaunch_memOk (h : s.memOk = true) (l : Launch) : (s.finishLaunch l).memOk = true :=
  freeLaunch_memOk (closePort_memOk (regWrite_memOk h ..) _) ..

/-! ### Launches that are dispatched -/

theorem clearTiles_memOk (h : s.memOk = true) (r : Region) : (s.clearTiles r).memOk = true :=
  setCells_memOk (.tile 0) h (filter_wf _ (memOk_cells h (.tile 0)))

theorem portOf_memOk (h : s.memOk = true) (l : Launch) (img : Image) : (s.portOf l img).memOk = true := by
  unfold State.portOf
  split
  · exact h
  · split
    · exact setQueue_memOk h _
    · exact h

theorem bindRegion_memOk (h : s.memOk = true) (l : Launch) (x : Shape) (p : Nat × Nat × Nat) (saved : Option (List NodeSt × List End)) :
    (s.bindRegion l x p saved).2.memOk = true := by
  unfold State.bindRegion
  dsimp only
  split
  · exact portOf_memOk ((memOk_mk ..).trans h) ..
  · exact (memOk_mk ..).trans h

theorem bindRegions_memOk (l : Launch) (x : Shape) (ps : List (Nat × Nat × Nat)) (saved : List (List NodeSt × List End))
    (h : s.memOk = true) : (s.bindRegions l x ps saved).2.memOk = true := by
  induction ps generalizing s saved with
  | nil => exact h
  | cons p ps ih => exact ih _ (bindRegion_memOk h ..)

theorem dispatch_memOk (h : s.memOk = true) (l : Launch) (p : Plot) : (s.dispatch l p).memOk = true := by
  unfold State.dispatch
  extract_lets fresh x rects slots all
  have h0 : (if fresh then s else s.restoreWindows l all).memOk = true := by
    grind -ring -linarith -lia -ac [restoreWindows_memOk]
  have h1 := bindRegions_memOk l x rects (if fresh then [] else l.saved) h0
  split
  next rinsts s1 e =>
    rw [e] at h1
    extract_lets s2 s3 l1 r4 s4 s5 s6
    have h2 : s2.memOk = true := foldl_memOk h1 _ fun u c hu => bindCore_memOk hu ..
    have h3 : s3.memOk = true := foldl_memOk h2 _ fun u c hu => by
      grind -ring -linarith -lia -ac [bindCore_memOk]
    have h4 : s4.memOk = true := setLaunch_memOk ((memOk_mk ..).trans h3) _
    clear_value s2 s3 s4
    have h5 : s5.memOk = true := by
      unfold s5
      grind -ring -linarith -lia -ac [createThreads_memOk]
    clear_value s5
    have h6 : s6.memOk = true := by
      unfold s6
      grind -ring -linarith -lia -ac [restoreThreads_memOk, restoreSems_memOk]
    exact foldl_memOk h6 _ fun u c hu => serveQueue_memOk hu c

/-! ### The scheduler -/

theorem orderCheckpoint_memOk (h : s.memOk = true) (ticket : Nat) (forced : Bool) : (s.orderCheckpoint ticket forced).memOk = true := h

theorem preempt_memOk (h : s.memOk = true) (l : Launch) : (s.preempt l).memOk = true := h

theorem settle_memOk (h : s.memOk = true) (ticket : Nat) : (s.settle ticket).memOk = true := by
  unfold State.settle
  split
  · exact h
  next l e =>
    extract_lets parts rs ts mine place s1
    split
    · exact h
    · split
      · exact abortNow_memOk h ..
      · split
        · exact h
        · have h1 : s1.memOk = true := foldl_memOk h _ fun u x hu => relieve_memOk hu x
          clear_value s1
          split
          · exact h1
          · refine (memOk_mk ..).trans (endRegions_memOk (foldl_memOk (clearBinds_memOk h1 _) _ fun u p hu => ?_) ..)
            grind -ring -linarith -lia -ac [withdraw_memOk]

theorem depAbort_memOk (h : s.memOk = true) (l : Launch) (e : Trap) : (s.depAbort l e).memOk = true := abortNow_memOk h ..

theorem schedPri_memOk (p n : Nat) (h : s.memOk = true) : (State.schedPri p n s).1.memOk = true := by
  induction n generalizing s with
  | zero => exact h
  | succ n ih =>
    unfold State.schedPri
    split
    · exact h
    · exact ih (depAbort_memOk h ..)
    · split
      · refine Eq.trans (b := true) ?_ rfl
        split
        · exact foldl_memOk (foldl_memOk h _ fun u l hu => preempt_memOk hu l) _ fun u l hu => settle_memOk hu _
        · exact h
      · exact ih ((memOk_mk ..).trans (dispatch_memOk h ..))

theorem sweep_memOk (h : s.memOk = true) : s.sweep.memOk = true := by
  unfold State.sweep
  refine (memOk_mk ..).trans (foldl_memOk (clearBinds_memOk (foldl_memOk (foldl_memOk h _ ?_) _ ?_) _) _ ?_)
  · exact fun u x hu => endThread_memOk hu x
  · exact fun u x hu => relieve_memOk hu x
  · exact fun u n hu => settle_memOk hu n

theorem sched_memOk (h : s.memOk = true) : s.sched.memOk = true := by
  unfold State.sched
  refine List.foldlRecOn (motive := fun p : State × Bool => p.1.memOk = true) _ _ (sweep_memOk h) fun p hp k _ => ?_
  split
  · exact hp
  · exact schedPri_memOk _ _ hp

theorem enter_memOk (h : s.memOk = true) (q : Nat) (va : Word) : (s.enter q va).2.memOk = true := by
  unfold State.enter
  grind -ring -linarith -lia -ac [memOk_mk]

theorem letOne_memOk (h : s.memOk = true) (i : Nat) (w : Nat × Word) : (s.letOne i w).memOk = true := by
  unfold State.letOne
  grind -ring -linarith -lia -ac [enter_memOk, putQueue_memOk]

theorem letIn_memOk (h : s.memOk = true) : s.letIn.memOk = true := by
  refine foldl_memOk h _ fun u q hu => foldl_memOk ?_ _ fun v w hv => letOne_memOk hv ..
  split <;> exact hu

theorem schedule_memOk (h : s.memOk = true) : s.schedule.memOk = true := by
  unfold State.schedule
  split
  · exact h
  · exact sched_memOk (letIn_memOk (sched_memOk h))

theorem takeExits_memOk (h : s.memOk = true) : s.takeExits.memOk = true := by
  unfold State.takeExits
  extract_lets s1 s2 ended
  have h1 : s1.memOk = true := foldl_memOk h _ fun u e hu => by
    grind -ring -linarith -lia -ac [setLaunch_memOk]
  have h2 : s2.memOk = true := (memOk_mk ..).trans h1
  clear_value s2
  split
  · exact h2
  · exact schedule_memOk (foldl_memOk h2 _ fun u l hu => finishLaunch_memOk hu l)

theorem execExit_kept (h : s.memOk = true) (a : Spec) : Kept (execExit a s) := by
  refine issueWord_kept h ?_
  have he := exitBody_memOk h a
  split
  · next s1 e =>
    rw [e] at he
    exact takeExits_memOk he
  · exact he

theorem execRegionComplete_kept (h : s.memOk = true) (r : Nat) : Kept (execRegionComplete r s) := by
  refine event_kept ?_
  grind -ring -linarith -lia -ac [clearBinds_memOk, setRegion_memOk, setLaunch_memOk, finishLaunch_memOk, schedule_memOk,
    settle_memOk]

theorem execCheckpointComplete_kept (h : s.memOk = true) (r : Nat) : Kept (execCheckpointComplete r s) := by
  refine event_kept ?_
  grind -ring -linarith -lia -ac [setRegion_memOk, schedule_memOk, settle_memOk]

theorem execThreadSaveComplete_kept (h : s.memOk = true) (u : Nat) : Kept (execThreadSaveComplete u s) := by
  refine event_kept ?_
  grind -ring -linarith -lia -ac [→ saveThread_memOk, settle_memOk]

theorem execLoadFinish_kept (h : s.memOk = true) (r : Nat) : Kept (execLoadFinish r s) := by
  refine event_kept ?_
  grind -ring -linarith -lia -ac [setRegion_memOk, portOf_memOk, abortNow_memOk, schedule_memOk]

theorem execConfigSwitch_kept (h : s.memOk = true) (r : Nat) : Kept (execConfigSwitch r s) := by
  refine event_kept ?_
  grind -ring -linarith -lia -ac [clearTiles_memOk, memOk_mk, setRegion_memOk, abortNow_memOk, schedule_memOk]

end Sys2Proof.Machine
end

section
/-! Every step keeps the byte stores canonical (O57): the registrar, the host and resets. -/

namespace Sys2Proof.Machine
variable {s t : State}

/-! ### The registrar's timed steps -/

theorem resumeAll_memOk (h : s.memOk = true) : s.resumeAll.memOk = true := by
  refine foldl_memOk (foldl_memOk h _ fun u x hu => ?_) _ fun u x hu => ?_
  · grind -ring -linarith -lia -ac [resumeThread_memOk]
  · grind -ring -linarith -lia -ac [resumeThread_memOk, resumeAt_memOk]

theorem execQuantumTick_kept (h : s.memOk = true) : Kept (execQuantumTick s) := by
  refine event_kept ?_
  split
  · exact h
  · exact schedule_memOk (resumeAll_memOk (readLocks_memOk
      (foldl_memOk ((memOk_mk ..).trans h) _ fun u k hu => schedule_memOk (abortNow_memOk hu ..))))

theorem execLockLend_kept (h : s.memOk = true) (u : Nat) : Kept (execLockLend u s) := by
  refine event_kept ?_
  dsimp only
  split
  · exact h
  split
  · split
    · exact h
    split
    · exact h
    split
    · exact h
    next e => exact resumeThread_memOk ((memOk_mk ..).trans (readLocks_memOk (modT_memOk (saveThread_memOk h e) ..))) ..
  · exact h

theorem execWaitlEnd_kept (h : s.memOk = true) (u : Nat) : Kept (execWaitlEnd u s) := by
  refine event_kept ?_
  grind -ring -linarith -lia -ac [resumeThread_memOk, takeFault_memOk, completeWord_memOk]

theorem execArrivalRelief_kept (h : s.memOk = true) : Kept (execArrivalRelief s) := by
  refine event_kept ?_
  grind -ring -linarith -lia -ac [setCore_memOk, → stow_memOk, moduleRecord_memOk, abortLaunch_memOk, endThread_memOk]

theorem execFaultRetry_kept (h : s.memOk = true) (isNode : Bool) (a b : Nat) : Kept (execFaultRetry isNode a b s) := by
  refine event_kept ?_
  grind -ring -linarith -lia -ac [setRegion_memOk, setT_memOk, resumeThread_memOk, resumeAt_memOk]

theorem execFaultRetryLimit_kept (h : s.memOk = true) (isNode : Bool) (a b : Nat) : Kept (execFaultRetryLimit isNode a b s) := by
  refine event_kept ?_
  grind -ring -linarith -lia -ac [setRegion_memOk, appendLog_memOk, abortLaunch_memOk, fatal_memOk]

theorem abandon_memOk (h : s.memOk = true) (ticket cause : Nat) : (s.abandon ticket cause).memOk = true := by
  unfold State.abandon
  split
  · exact h
  · exact moduleRecord_memOk (setLaunch_memOk ((memOk_mk ..).trans h) _) ..

theorem execCheckpointWatchdog_kept (h : s.memOk = true) (r : Nat) : Kept (execCheckpointWatchdog r s) := by
  refine event_kept ?_
  grind -ring -linarith -lia -ac [abandon_memOk]

theorem execThreadSaveWatchdog_kept (h : s.memOk = true) (u : Nat) : Kept (execThreadSaveWatchdog u s) := by
  refine event_kept ?_
  grind -ring -linarith -lia -ac [abandon_memOk]

theorem execForcedAbortWatchdog_kept (h : s.memOk = true) (r : Nat) : Kept (execForcedAbortWatchdog r s) := by
  refine event_kept ?_
  grind -ring -linarith -lia -ac [moduleRecord_memOk, abortNow_memOk, schedule_memOk]

/-! ### Host commands -/

theorem cancel_memOk (h : s.memOk = true) (ticket : Nat) (force : Bool) : (s.cancel ticket force).2.memOk = true := by
  unfold State.cancel
  grind -ring -linarith -lia -ac [schedule_memOk, abortNow_memOk, setLaunch_memOk, orderCheckpoint_memOk, settle_memOk]

theorem invalidate_memOk (h : s.memOk = true) (c lo len : Nat) : (s.invalidate c lo len).memOk = true :=
  quiesce_memOk (dropTlb_memOk h _) ..

theorem createCtx_memOk (h : s.memOk = true) (pa : Nat) : (s.createCtx pa).2.memOk = true := by
  unfold State.createCtx
  split
  · exact h
  extract_lets free
  split
  · exact h
  extract_lets s0 table
  split
  · exact h
  split
  · exact h
  split
  · exact h
  dsimp only
  exact put_memOk ((memOk_mk ..).trans h) ..

theorem unbind_memOk (h : s.memOk = true) (q : Nat) : (s.unbind q).memOk = true := by
  unfold State.unbind
  extract_lets gone s1
  have h1 : s1.memOk = true := foldl_memOk h _ fun u k hu => abortNow_memOk hu ..
  split
  · exact setQueue_memOk h1 _
  · exact h1

theorem lowerGrant_memOk (h : s.memOk = true) (c d g : Nat) : (s.lowerGrant c d g).memOk = true := changeSplit_memOk h ..

theorem removeCtx_memOk (h : s.memOk = true) (i : Nat) : (s.removeCtx i).memOk = true := by
  have hs := setCells_memOk (.win 0 0) h (filter_wf (fun c => c.1 / 2 ^ 18 % 64 != i) (memOk_cells h (.win 0 0)))
  have hd := setCells_memOk (.deep 0) hs (filter_wf (fun c => c.1 / 2 ^ 33 != i) (memOk_cells hs (.deep 0)))
  exact (memOk_mk ..).trans hd

theorem destroyCtx_memOk (h : s.memOk = true) (i : Nat) :
    (s.destroyCtx i).2.memOk = true ∧ ∀ t, (s.destroyCtx i).1 = some t → t.memOk = true := by
  unfold State.destroyCtx
  extract_lets qs s1 s2 s3 s4 s5
  have h1 : s1.memOk = true := foldl_memOk h _ fun u q hu => unbind_memOk hu q
  have h2 : s2.memOk = true := foldl_memOk h1 _ fun u k hu => cancel_memOk hu ..
  have h3 : s3.memOk = true := (memOk_mk ..).trans h2
  have h4 : s4.memOk = true := foldl_memOk h3 _ fun u x hu => stopThread_memOk hu x
  have h5 : s5.memOk = true := foldl_memOk (clearBinds_memOk h4 _) _ fun u d hu => lowerGrant_memOk hu ..
  clear_value s3 s4 s5
  grind -ring -linarith -lia -ac [removeCtx_memOk]

theorem complete_memOk (h : s.memOk = true) (cid res : Nat) (v : Word) : (s.complete cid res v).memOk = true :=
  sendMsi_memOk ((memOk_mk ..).trans (put_memOk h ..)) _

theorem flushJoins_memOk (n : Nat) (h : s.memOk = true) : (State.flushJoins n s).memOk = true := by
  induction n generalizing s with
  | zero => exact h
  | succ n ih =>
    unfold State.flushJoins
    split
    · exact h
    · split
      · exact h
      · exact ih (complete_memOk ((memOk_mk ..).trans h) ..)

theorem taken_memOk (h : s.memOk = true) (bs : List Byte) (now : Bool) : (s.taken bs now).memOk = true := h

theorem hostCommand_memOk (h : s.memOk = true) (want : Nat → Bool) {f : (Nat → Nat) → State → Option (Reply0 × State) × State}
    (h1 : ∀ w p, (f w s).1 = some p → p.2.memOk = true) (h2 : ∀ w, (f w s).2.memOk = true) :
    (hostCommand want f s).memOk = true := by
  unfold hostCommand
  grind -ring -linarith -lia -ac [taken_memOk, complete_memOk, memOk_mk]

theorem hostNow_kept (h : s.memOk = true) (op : Nat) {f : (Nat → Nat) → State → Reply0 × State}
    (hf : ∀ w, (f w s).2.memOk = true) : Kept (hostNow op f s) :=
  event_kept (hostCommand_memOk h _ (fun w _ e => Option.some.inj e ▸ hf w) fun _ => h)

theorem execCtxCreate_kept (h : s.memOk = true) : Kept (execCtxCreate s) := hostNow_kept h _ fun _ => createCtx_memOk h _

theorem execCtxDestroy_kept (h : s.memOk = true) : Kept (execCtxDestroy s) := by
  refine event_kept (hostCommand_memOk h _ (fun w p e => ?_) fun w => ?_)
  · grind -ring -linarith -lia -ac [destroyCtx_memOk, schedule_memOk]
  · grind -ring -linarith -lia -ac [destroyCtx_memOk]

theorem execQbind_kept (h : s.memOk = true) : Kept (execQbind s) := by
  refine hostNow_kept h _ fun w => ?_
  grind -ring -linarith -lia -ac [putQueue_memOk, memOk_mk]

theorem execQunbind_kept (h : s.memOk = true) : Kept (execQunbind s) := by
  refine hostNow_kept h _ fun w => ?_
  grind -ring -linarith -lia -ac [unbind_memOk, schedule_memOk]

theorem execLaunch_kept (h : s.memOk = true) : Kept (execLaunch s) := by
  refine hostNow_kept h _ fun w => ?_
  grind -ring -linarith -lia -ac [enter_memOk, schedule_memOk]

theorem execCancel_kept (h : s.memOk = true) : Kept (execCancel s) := by
  refine hostNow_kept h _ fun w => ?_
  grind -ring -linarith -lia -ac [cancel_memOk]

theorem execXinv_kept (h : s.memOk = true) : Kept (execXinv s) := by
  refine event_kept (hostCommand_memOk h _ (fun w p e => ?_) fun w => ?_)
  · grind -ring -linarith -lia -ac [invalidate_memOk]
  · grind -ring -linarith -lia -ac [invalidate_memOk]

theorem execSlicemap_kept (h : s.memOk = true) : Kept (execSlicemap s) := by
  have hp (w : Nat → Nat) : (s.put .mem (hostPa (w 1)) s.sliceBytes).memOk = true := put_memOk h ..
  exact hostNow_kept h _ hp

theorem execBadopc_kept (h : s.memOk = true) : Kept (execBadopc s) :=
  event_kept (hostCommand_memOk h _ (fun w p e => by cases e; exact h) fun _ => h)

theorem execCtailWrite_kept (h : s.memOk = true) (v : BitVec 32) : Kept (execCtailWrite v s) := by
  refine event_kept ?_
  split <;> exact h

theorem execCmdRingConfig_kept (h : s.memOk = true) (v : BitVec 64) : Kept (execCmdRingConfig v s) := by
  refine event_kept ?_
  split <;> exact h

theorem execCplRingConfig_kept (h : s.memOk = true) (v : BitVec 64) : Kept (execCplRingConfig v s) := by
  refine event_kept ?_
  split
  · exact h
  · exact flushJoins_memOk _ ((memOk_mk ..).trans h)

theorem execQheadWrite_kept (h : s.memOk = true) (v : BitVec 32) : Kept (execQheadWrite v s) := by
  refine event_kept ?_
  split
  · exact h
  · exact flushJoins_memOk _ ((memOk_mk ..).trans h)

/-! ### enq and the ports -/

theorem execEnq_kept (h : s.memOk = true) (d a : Spec) : Kept (execEnq d a s) := by
  refine issueWord_kept h ?_
  dsimp only
  iterate 6 (split; exact h)
  split
  · next e => exact release_eq_memOk h e
  · next e =>
    have hr := release_eq_memOk h e
    split <;> exact hr

theorem writePieces_memOk (g : Agent) (va n : Nat) (bs : List Byte) (h : s.memOk = true) : (s.writePieces g va bs n).1.memOk = true := by
  induction n generalizing s va bs with
  | zero => exact h
  | succ n ih =>
    unfold State.writePieces
    split
    · exact h
    · next e => exact ih _ _ (agentStore_memOk h e)

theorem perform_memOk (h : s.memOk = true) (e : Enq) : (s.perform e).2.memOk = true := by
  unfold State.perform
  grind -ring -linarith -lia -ac [enter_memOk, schedule_memOk, cancel_memOk, invalidate_memOk, writePieces_memOk]

theorem execEnqRetire_kept (h : s.memOk = true) (core i : Nat) : Kept (execEnqRetire core i s) := by
  refine event_kept ?_
  grind -ring -linarith -lia -ac [perform_memOk, memOk_mk, modT_memOk, semV_memOk, setCore_memOk]

theorem pushPort_memOk (h : s.memOk = true) (q : Queue) (k : Token) (launch : Bool) : (s.pushPort q k launch).memOk = true := by
  unfold State.pushPort
  grind -ring -linarith -lia -ac [putQueue_memOk, sendMsi_memOk, → agentStore_memOk]

theorem execIngressPush_kept (h : s.memOk = true) (q : Nat) (hdr : BitVec 64) : Kept (execIngressPush q hdr s) := by
  refine event_kept ?_
  grind -ring -linarith -lia -ac [putQueue_memOk, letIn_memOk, schedule_memOk, pushPort_memOk]

/-! ### Joining, retirement and the module's fate -/

theorem joinEvent_memOk (h : s.memOk = true) (ev f : Nat) : (s.joinEvent ev f).memOk = true :=
  sendMsi_memOk (flushJoins_memOk _ (showJoin_memOk ((memOk_mk ..).trans h))) 0

theorem settle24_memOk (h : s.memOk = true) : s.settle24.memOk = true := by
  unfold State.settle24
  split
  · exact h
  · exact joinEvent_memOk ((memOk_mk ..).trans h) ..

theorem remapSlices_memOk (h : s.memOk = true) : s.remapSlices.memOk = true := by
  unfold State.remapSlices
  split <;> exact h

theorem execFieldJoin_kept (h : s.memOk = true) (f : Nat) : Kept (execFieldJoin f s) := by
  refine event_kept ?_
  split
  · exact h
  · exact schedule_memOk (settle24_memOk (joinEvent_memOk (remapSlices_memOk ((memOk_mk ..).trans h)) ..))

theorem execFieldFail_kept (h : s.memOk = true) (f : Nat) : Kept (execFieldFail f s) := by
  refine event_kept ?_
  split
  · exact h
  · exact settle24_memOk (joinEvent_memOk ((memOk_mk ..).trans h) ..)

theorem execLiveSliceMapChange_kept (h : s.memOk = true) : Kept (execLiveSliceMapChange s) := by
  refine event_kept ?_
  split
  · exact h
  · exact showStatus_memOk (remapSlices_memOk h)

theorem execRetirementEffect_kept (h : s.memOk = true) (i : Nat) : Kept (execRetirementEffect i s) := by
  refine event_kept ?_
  grind -ring -linarith -lia -ac [showStatus_memOk, dropNames_memOk, memOk_mk]

theorem countError_memOk (h : s.memOk = true) (a b c : Nat) : (s.countError a b c).2.memOk = true := h

theorem execCorrectedError_kept (h : s.memOk = true) (store : BitVec 4) (unit row : Nat) (hard : Bool) :
    Kept (execCorrectedError store unit row hard s) := by
  refine event_kept ?_
  grind -ring -linarith -lia -ac [tileAbort_memOk, rowLasting_memOk, countError_memOk]

theorem goFatal_memOk (h : s.memOk = true) (tr : Trap) : (s.goFatal tr).memOk = true :=
  joinEvent_memOk ((memOk_mk ..).trans (foldl_memOk h _ fun _ _ hu => moduleRecord_memOk hu ..)) ..

theorem execModuleFatal_kept (h : s.memOk = true) (pa : BitVec 64) : Kept (execModuleFatal pa s) := by
  refine event_kept ?_
  split
  · exact h
  · exact goFatal_memOk h _

theorem execRegistrarUnresponsive_kept (h : s.memOk = true) : Kept (execRegistrarUnresponsive s) := by
  refine event_kept ?_
  split
  · exact h
  · exact goFatal_memOk h _

theorem execMeshLinkFail_kept (h : s.memOk = true) (a b : Nat) : Kept (execMeshLinkFail a b s) := by
  refine event_kept ?_
  grind -ring -linarith -lia -ac [memOk_mk, goFatal_memOk]

/-! ### Ports, the aperture and peers -/

theorem execPortTrained_kept (h : s.memOk = true) (p : Nat) : Kept (execPortTrained p s) := by
  refine event_kept ?_
  split <;> exact h

theorem portGone_memOk (h : s.memOk = true) (p : Nat) : (s.portGone p).memOk = true := by
  unfold State.portGone
  extract_lets lost s0 s1 s2 tags
  have h0 : s0.memOk = true := foldl_memOk ((memOk_mk ..).trans h) _ fun u x hu => deferError_memOk hu ..
  have h2 : s2.memOk = true := foldl_memOk ((memOk_mk ..).trans h0) _ fun u r hu => linkDone_memOk hu ..
  refine foldl_memOk h2 _ fun u q hu => ?_
  split
  · next e => exact execSluiceCompletion_kept hu _ _ _ _ _ _ e
  · exact hu

theorem execPortDown_kept (h : s.memOk = true) (p : Nat) : Kept (execPortDown p s) := by
  refine event_kept ?_
  split
  · exact portGone_memOk h p
  · exact h

theorem execPortsWrite_kept (h : s.memOk = true) (v : BitVec 64) : Kept (execPortsWrite v s) := by
  refine event_kept ?_
  split
  · exact h
  · exact foldl_memOk ((memOk_mk ..).trans h) _ fun u p hu => portGone_memOk hu p

theorem reply_memOk (h : s.memOk = true) (who : Option Nat) (a : HostReply) : (s.reply who a).memOk = true := h

theorem outsideAccess_memOk (h : s.memOk = true) (who : Option Nat) (bad : HostReply) (op : Option (BitVec 4)) (write : Bool)
    (most lim pa size v : Nat) (cmp : BitVec 64) : (s.outsideAccess who bad op write most lim pa size v cmp).memOk = true := by
  unfold State.outsideAccess
  grind -ring -linarith -lia -ac [reply_memOk, amoMem_memOk, put_memOk, foldl_memOk]

theorem execHostApertureAccess_kept (h : s.memOk = true) (op : BitVec 3) (off size : Nat) (v : BitVec 4096) (cmp : BitVec 64) :
    Kept (execHostApertureAccess op off size v cmp s) := by
  refine event_kept ?_
  grind -ring -linarith -lia -ac [reply_memOk, outsideAccess_memOk]

theorem execPeerRequest_kept (h : s.memOk = true) (op : BitVec 4) (pa size : Nat) (v : BitVec 2048) (cmp : BitVec 64) :
    Kept (execPeerRequest op pa size v cmp s) := by
  refine event_kept ?_
  grind -ring -linarith -lia -ac [reply_memOk, outsideAccess_memOk]

/-! ### Power and resets -/

theorem throttle_memOk (h : s.memOk = true) : s.throttle.memOk = true := by
  unfold State.throttle
  split <;> exact h

theorem execPlimWrite_kept (h : s.memOk = true) (v : BitVec 64) : Kept (execPlimWrite v s) := by
  refine event_kept ?_
  split <;> exact h

theorem execPowerMeasure_kept (h : s.memOk = true) (watts : Nat) : Kept (execPowerMeasure watts s) := by
  refine event_kept ?_
  split
  · exact h
  · extract_lets o0 o o1 o2 s1 s2
    have h1 : s1.memOk = true := (memOk_mk ..).trans h
    have h2 : s2.memOk = true := by
      show State.memOk (ite _ _ _) = true
      split
      · exact throttle_memOk h1
      · exact h1
    split
    · exact h2
    · exact showStatus_memOk h2

theorem execThrottleStart_kept (h : s.memOk = true) (hot : Bool) : Kept (execThrottleStart hot s) := by
  refine event_kept ?_
  grind -ring -linarith -lia -ac [memOk_mk, throttle_memOk]

theorem execThrottleEnd_kept (h : s.memOk = true) : Kept (execThrottleEnd s) := by
  refine event_kept ?_
  split <;> exact h

theorem cleared_memOk (h : s.memOk = true) (warm : Bool) : (s.cleared warm).memOk = true := by
  have hm := setCells_memOk .mem reset_memOk (filter_wf
    (fun c => (warm && !decide (statusPage ≤ c.1 ∧ c.1 < statusPage + 4096)) || decide (0x8000000000000 ≤ c.1)) (memOk_cells h .mem))
  exact (memOk_mk ..).trans (setCells_memOk .flash hm (memOk_cells h .flash))

theorem restart_memOk (h : s.memOk = true) (warm : Bool) : (s.restart warm).memOk = true :=
  (memOk_mk ..).trans (recoverLog_memOk ((memOk_mk ..).trans (cleared_memOk h warm)))

theorem execColdReset_kept (h : s.memOk = true) : Kept (execColdReset s) := event_kept (restart_memOk h _)

theorem execWarmReset_kept (h : s.memOk = true) : Kept (execWarmReset s) := by
  refine event_kept ?_
  split
  · exact restart_memOk h _
  · exact h

theorem execPowerLoss_kept (h : s.memOk = true) (done : Nat) : Kept (execPowerLoss done s) := by
  refine event_kept ((memOk_mk ..).trans (cleared_memOk ?_ false))
  split
  · split
    · exact writeBytes_memOk h ..
    · exact h
  · exact h

theorem execAttestCmd_kept (h : s.memOk = true) (v : BitVec 64) : Kept (execAttestCmd v s) := by
  refine event_kept ?_
  split <;> exact h

theorem execAttestReportDone_kept (h : s.memOk = true) : Kept (execAttestReportDone s) := by
  refine event_kept ?_
  split <;> exact h

/-! ### Register writes from outside -/

theorem follow_memOk (h : s.memOk = true) {o : Host.Outcome State Fault Refusal} (ho : Kept o) : (s.follow o).memOk = true := by
  unfold State.follow
  split
  · exact ho _ rfl
  · exact h

theorem writeMsix_memOk (h : s.memOk = true) (off : Nat) (bs : List Byte) : (s.writeMsix off bs).memOk = true :=
  foldl_memOk ((memOk_mk ..).trans h) _ fun _ v hu => sendMsi_memOk hu v

theorem writeBar2_memOk (h : s.memOk = true) (base v : Nat) : (s.writeBar2 base v).memOk = true := by
  unfold State.writeBar2
  repeat' split
  case isTrue => exact follow_memOk h (execCmdRingConfig_kept h _)
  all_goals grind -ring -linarith -lia -ac [follow_memOk, execCmdRingConfig_kept, execCplRingConfig_kept, execCtailWrite_kept,
    execQheadWrite_kept, execPlimWrite_kept, execPortsWrite_kept, memOk_mk]

theorem storeBar2_memOk (h : s.memOk = true) (off : Nat) (bs : List Byte) : (s.storeBar2 off bs).memOk = true := by
  unfold State.storeBar2
  grind -ring -linarith -lia -ac [follow_memOk, execAttestCmd_kept, memOk_mk, writeMsix_memOk, foldl_memOk, writeBar2_memOk]

theorem storeBar0_memOk (h : s.memOk = true) (off : Nat) (bs : List Byte) : (s.storeBar0 off bs).memOk = true := by
  unfold State.storeBar0
  grind -ring -linarith -lia -ac [follow_memOk, execIngressPush_kept, putQueue_memOk]

theorem writePower_memOk (h : s.memOk = true) (v : Nat) : (s.writePower v).memOk = true := by
  unfold State.writePower
  grind -ring -linarith -lia -ac [memOk_mk, restart_memOk]

theorem execRegisterWrite_kept (h : s.memOk = true) (bar : BitVec 3) (off size : Nat) (v : BitVec 64) :
    Kept (execRegisterWrite bar off size v s) := by
  refine event_kept ?_
  grind -ring -linarith -lia -ac [reply_memOk, storeBar0_memOk, storeBar2_memOk, writePower_memOk, memOk_mk]

/-! ### Prefetching, and steps that end what waits -/

theorem observe_memOk (h : s.memOk = true) (x : Thread) (load : Option (Spec × Word × Nat × Bool)) : (s.observe x load).memOk = true := by
  unfold State.observe
  grind -ring -linarith -lia -ac [setCore_memOk]

theorem execIndirectPrefetch_kept (h : s.memOk = true) : Kept (execIndirectPrefetch s) := event_kept ((memOk_mk ..).trans h)

theorem execArrivalSendRetry_kept (h : s.memOk = true) (u : Nat) : Kept (execArrivalSendRetry u s) := event_kept (modT_memOk h ..)

theorem execMigrationArrival_kept (h : s.memOk = true) : Kept (execMigrationArrival s) := event_kept (serveQueue_memOk h _)

theorem execCopyRetire_kept (h : s.memOk = true) : Kept (execCopyRetire s) := event_kept (retireCmd_memOk h ..)

theorem execEngineRetire_kept (h : s.memOk = true) (e : BitVec 3) (unit : Nat) : Kept (execEngineRetire e unit s) :=
  event_kept (retireCmd_memOk h ..)

theorem execStoreAck_kept (h : s.memOk = true) (i : Nat) : Kept (execStoreAck i s) := event_kept (drain_memOk h _)

end Sys2Proof.Machine
end

section
/-! Every step keeps the byte stores canonical (O57): every instruction, and one step. -/

namespace Sys2Proof.Machine
variable {s t : State}

theorem execStp_kept (h : s.memOk = true) (v b : Spec) (c : BitVec 2) (o : BitVec 9) : Kept (execStp v b c o s) := by
  refine issueWord_kept h ?_
  split
  · exact h
  · exact storeBody_memOk h ..

/-- A word keeps the stores canonical by its body, every other instruction by its step. -/
theorem exec_kept (h : s.memOk = true) (i : Instr) : Kept (exec i s) := by
  cases i with
  | add _ _ _ | sub _ _ _ | and _ _ _ | or _ _ _ | xor _ _ _ | andn _ _ _ | orn _ _ _ | shl _ _ _ | shr _ _ _ | sha _ _ _
  | rotl _ _ _ | min _ _ _ | max _ _ _ | minn _ _ _ | maxn _ _ _ | slt _ _ _ | sltn _ _ _ | seq _ _ _ | sne _ _ _ | sel _ _ _
  | mul _ _ _ | mulh _ _ _ | mulhn _ _ _ | clz _ _ | ctz _ _ | pop _ _ | brev _ _ | bswap _ _ | bfx _ _ _ | bfi _ _ _
  | add32 _ _ _ | sub32 _ _ _ | and32 _ _ _ | or32 _ _ _ | xor32 _ _ _ | andn32 _ _ _ | orn32 _ _ _ | shl32 _ _ _
  | shr32 _ _ _ | sha32 _ _ _ | rotl32 _ _ _ | min32 _ _ _ | max32 _ _ _ | minn32 _ _ _ | maxn32 _ _ _ | slt32 _ _ _
  | sltn32 _ _ _ | seq32 _ _ _ | sne32 _ _ _ | sel32 _ _ _ | mul32 _ _ _ | mulh32 _ _ _ | mulhn32 _ _ _ | clz32 _ _
  | ctz32 _ _ | pop32 _ _ | brev32 _ _ | bswap32 _ _ | bfx32 _ _ _ | bfi32 _ _ _ | addi _ _ _ | andi _ _ _ | ori _ _ _
  | xori _ _ _ | slti _ _ _ | sltni _ _ _ | shli _ _ _ | shri _ _ _ | shai _ _ _ | muli _ _ _ | lui _ _ | addpc _ _ =>
    dsimp only [exec]
    exact issueWord_kept h (valueWord_memOk h ..)
  | div _ _ _ | divn _ _ _ | rem _ _ _ | remn _ _ _ | div32 _ _ _ | divn32 _ _ _ | rem32 _ _ _ | remn32 _ _ _ =>
    dsimp only [exec]
    exact issueWord_kept h (divWord_memOk h ..)
  | fadd _ _ _ _ | fsub _ _ _ _ | fmul _ _ _ _ | fdiv _ _ _ _ | fmin _ _ _ _ | fmax _ _ _ _ =>
    dsimp only [exec]
    exact issueWord_kept h (floatBin_memOk h ..)
  | fsqrt _ _ _ => exact execFsqrt_kept h _ _ _
  | fma _ _ _ _ | fnma _ _ _ _ =>
    dsimp only [exec]
    exact issueWord_kept h (floatTri_memOk h ..)
  | fsgn _ _ _ _ | feq _ _ _ _ | flt _ _ _ _ | fle _ _ _ _ | fclass _ _ _ | fmv _ _ _ =>
    dsimp only [exec]
    exact issueWord_kept h (floatTest_memOk h ..)
  | cvt _ _ _ _ _ _ =>
    dsimp only [exec]
    exact issueWord_kept h (cvtBody_memOk h ..)
  | cvtb _ _ _ _ _ _ =>
    dsimp only [exec]
    exact issueWord_kept h (cvtbBody_memOk h ..)
  | csrr _ _ | csrw _ _ | csrs _ _ | csrc _ _ =>
    dsimp only [exec]
    exact issueWord_kept h (csrBody_memOk h ..)
  | ld _ _ _ _ _ | ldp _ _ _ _ | ldn _ _ _ _ _ =>
    dsimp only [exec]
    exact issueWord_kept h (loadBody_memOk h ..)
  | st _ _ _ _ _ =>
    dsimp only [exec]
    exact issueWord_kept h (storeBody_memOk h ..)
  | stp _ _ _ _ => exact execStp_kept h _ _ _ _
  | ldbit _ _ _ _ _ _ =>
    dsimp only [exec]
    exact issueWord_kept h (ldbitBody_memOk h ..)
  | stbit _ _ _ _ _ =>
    dsimp only [exec]
    exact issueWord_kept h (stbitBody_memOk h ..)
  | ldAcq _ _ _ _ _ _ =>
    dsimp only [exec]
    exact issueWord_kept h (ldAcqBody_memOk h ..)
  | stRel _ _ _ _ _ _ =>
    dsimp only [exec]
    exact issueWord_kept h (stRelBody_memOk h ..)
  | amoAdd _ _ _ _ _ _ | amoAnd _ _ _ _ _ _ | amoOr _ _ _ _ _ _ | amoXor _ _ _ _ _ _ | amoMin _ _ _ _ _ _
  | amoMax _ _ _ _ _ _ | amoMinn _ _ _ _ _ _ | amoMaxn _ _ _ _ _ _ | amoSwap _ _ _ _ _ _ | amoCas _ _ _ _ _ _ =>
    dsimp only [exec]
    exact issueWord_kept h (amoBody_memOk h ..)
  | pref _ _ _ _ =>
    dsimp only [exec]
    exact issueWord_kept h h
  | fence _ => exact execFence_kept h _
  | publ _ _ _ =>
    dsimp only [exec]
    exact issueWord_kept h (publBody_memOk h ..)
  | brEq _ _ _ | brNe _ _ _ | brLt _ _ _ | brGe _ _ _ | brLtn _ _ _ | brGen _ _ _ =>
    dsimp only [exec]
    exact issueWord_kept h (branchBody_memOk h ..)
  | jmp _ =>
    dsimp only [exec]
    exact issueWord_kept h h
  | call _ =>
    dsimp only [exec]
    exact issueWord_kept h h
  | jr _ | ret _ =>
    dsimp only [exec]
    exact issueWord_kept h (jumpReg_memOk h ..)
  | callr _ _ => exact execCallr_kept h _ _
  | callx _ _ _ =>
    dsimp only [exec]
    exact issueWord_kept h (callxBody_memOk h ..)
  | reply _ => exact execReply_kept h _
  | loopi _ _ | loop _ _ =>
    dsimp only [exec]
    exact issueWord_kept h (loopBody_memOk h ..)
  | spawn _ _ _ =>
    dsimp only [exec]
    exact issueWord_kept h (spawnBody_memOk h ..)
  | exit _ => exact execExit_kept h _
  | yield =>
    dsimp only [exec]
    exact issueWord_kept h h
  | sleep _ => exact execSleep_kept h _
  | wake _ => exact execWake_kept h _
  | semp _ => exact execSemp_kept h _
  | semv _ => exact execSemv_kept h _
  | barr _ | bcast _ _ =>
    dsimp only [exec]
    exact issueWord_kept h (busBody_memOk h ..)
  | migr _ => exact execMigr_kept h _
  | pin _ => exact execPin_kept h _
  | unpin _ => exact execUnpin_kept h _
  | waitl _ => exact execWaitl_kept h _
  | trap _ =>
    dsimp only [exec]
    exact issueWord_kept h h
  | eret => exact execEret_kept h
  | cqpush _ _ => exact execCqpush_kept h _ _
  | nblBox _ _ | nblBin _ _ | nblPairs _ _ | nblStat _ | pgsSum _ _ | pgsSel _ _ | sflTab _ _ | sflBag _ _ | wdqGrid _ _
  | wdqAsk _ _ =>
    dsimp only [exec]
    exact issueWord_kept h (domainBody_memOk h ..)
  | enq _ _ => exact execEnq_kept h _ _
  | chput _ _ => exact execChput_kept h _ _
  | chget _ _ _ =>
    dsimp only [exec]
    exact issueWord_kept h (chgetBody_memOk h ..)
  | chwin _ _ => exact execChwin_kept h _ _
  | chsync _ _ => exact execChsync_kept h _ _
  | slipr _ _ => exact execSlipr_kept h _ _
  | sliprep _ _ => exact execSliprep_kept h _ _
  | pfxFmt _ _ _ _ _ | pfxScl _ _ _ _ =>
    dsimp only [exec]
    exact issuePfx_kept h _ _ _ _
  | illegalWord _ => exact execIllegalWord_kept h _
  | loadDataReturn _ _ => exact execLoadDataReturn_kept h _ _
  | storeAck _ => exact execStoreAck_kept h _
  | walkDone _ _ _ _ => exact execWalkDone_kept h _ _ _ _
  | amoAtHome _ => exact execAmoAtHome_kept h _
  | nameWalkDone _ _ => exact execNameWalkDone_kept h _ _
  | wakeArrival _ => exact execWakeArrival_kept h _
  | sleepDeadline _ => exact execSleepDeadline_kept h _
  | waitlEnd _ => exact execWaitlEnd_kept h _
  | lockLend _ => exact execLockLend_kept h _
  | arrivalSendRetry _ => exact execArrivalSendRetry_kept h _
  | callxAnswer _ => exact execCallxAnswer_kept h _
  | pinHandoff _ _ => exact execPinHandoff_kept h _ _
  | chputEnter _ => exact execChputEnter_kept h _
  | chgetTake _ => exact execChgetTake_kept h _
  | chgetTimeout _ => exact execChgetTimeout_kept h _
  | chsyncDrained _ => exact execChsyncDrained_kept h _
  | publComplete _ => exact execPublComplete_kept h _
  | splitChangeComplete _ => exact execSplitChangeComplete_kept h _
  | engineRetire _ _ => exact execEngineRetire_kept h _ _
  | enqRetire _ _ => exact execEnqRetire_kept h _ _
  | regionStep _ => exact execRegionStep_kept h _
  | srcSend _ _ => exact execSrcSend_kept h _ _
  | injSend _ _ => exact execInjSend_kept h _ _
  | snkTake _ _ => exact execSnkTake_kept h _ _
  | regionComplete _ => exact execRegionComplete_kept h _
  | agnRunStart _ _ => exact execAgnRunStart_kept h _ _
  | agnEmit _ _ _ => exact execAgnEmit_kept h _ _ _
  | memgGather _ _ => exact execMemgGather_kept h _ _
  | memsWrite _ _ => exact execMemsWrite_kept h _ _
  | slhEmit _ _ => exact execSlhEmit_kept h _ _
  | sluiceSend _ _ => exact execSluiceSend_kept h _ _
  | sluiceCompletion _ _ _ _ _ => exact execSluiceCompletion_kept h _ _ _ _ _
  | accnSum _ _ => exact execAccnSum_kept h _ _
  | escTake _ _ => exact execEscTake_kept h _ _
  | escEmit _ _ => exact execEscEmit_kept h _ _
  | cisternRefill _ _ _ => exact execCisternRefill_kept h _ _ _
  | ingressPush _ _ => exact execIngressPush_kept h _ _
  | loadFinish _ => exact execLoadFinish_kept h _
  | configSwitch _ => exact execConfigSwitch_kept h _
  | checkpointComplete _ => exact execCheckpointComplete_kept h _
  | threadSaveComplete _ => exact execThreadSaveComplete_kept h _
  | faultRetry _ _ _ => exact execFaultRetry_kept h _ _ _
  | faultRetryLimit _ _ _ => exact execFaultRetryLimit_kept h _ _ _
  | checkpointWatchdog _ => exact execCheckpointWatchdog_kept h _
  | threadSaveWatchdog _ => exact execThreadSaveWatchdog_kept h _
  | forcedAbortWatchdog _ => exact execForcedAbortWatchdog_kept h _
  | ctailWrite _ => exact execCtailWrite_kept h _
  | cmdRingConfig _ => exact execCmdRingConfig_kept h _
  | cplRingConfig _ => exact execCplRingConfig_kept h _
  | qheadWrite _ => exact execQheadWrite_kept h _
  | plimWrite _ => exact execPlimWrite_kept h _
  | portsWrite _ => exact execPortsWrite_kept h _
  | attestCmd _ => exact execAttestCmd_kept h _
  | registerWrite _ _ _ _ => exact execRegisterWrite_kept h _ _ _ _
  | hostApertureAccess _ _ _ _ _ => exact execHostApertureAccess_kept h _ _ _ _ _
  | peerRequest _ _ _ _ _ => exact execPeerRequest_kept h _ _ _ _ _
  | linkCompletion _ _ _ => exact execLinkCompletion_kept h _ _ _
  | portTrained _ => exact execPortTrained_kept h _
  | portDown _ => exact execPortDown_kept h _
  | fieldJoin _ => exact execFieldJoin_kept h _
  | fieldFail _ => exact execFieldFail_kept h _
  | correctedError _ _ _ _ => exact execCorrectedError_kept h _ _ _ _
  | retirementEffect _ => exact execRetirementEffect_kept h _
  | powerMeasure _ => exact execPowerMeasure_kept h _
  | throttleStart _ => exact execThrottleStart_kept h _
  | moduleFatal _ => exact execModuleFatal_kept h _
  | meshLinkFail _ _ => exact execMeshLinkFail_kept h _ _
  | unassignedFnWord _ => exact execUnassignedFnWord_kept h _
  | powerLoss _ => exact execPowerLoss_kept h _
  | migrationArrival => exact execMigrationArrival_kept h
  | arrivalRelief => exact execArrivalRelief_kept h
  | indirectPrefetch => exact execIndirectPrefetch_kept h
  | copyStart => exact execCopyStart_kept h
  | copyRetire => exact execCopyRetire_kept h
  | nblBoxExec => exact execNblBoxExec_kept h
  | nblBinExec => exact execNblBinExec_kept h
  | nblPairsExec => exact execNblPairsExec_kept h
  | nblStatExec => exact execNblStatExec_kept h
  | pgsSumExec => exact execPgsSumExec_kept h
  | pgsSelExec => exact execPgsSelExec_kept h
  | sflTabExec => exact execSflTabExec_kept h
  | sflBagExec => exact execSflBagExec_kept h
  | wdqGridExec => exact execWdqGridExec_kept h
  | wdqAskExec => exact execWdqAskExec_kept h
  | quantumTick => exact execQuantumTick_kept h
  | ctxCreate => exact execCtxCreate_kept h
  | ctxDestroy => exact execCtxDestroy_kept h
  | qbind => exact execQbind_kept h
  | qunbind => exact execQunbind_kept h
  | launch => exact execLaunch_kept h
  | cancel => exact execCancel_kept h
  | xinv => exact execXinv_kept h
  | slicemap => exact execSlicemap_kept h
  | badopc => exact execBadopc_kept h
  | attestReportDone => exact execAttestReportDone_kept h
  | coldReset => exact execColdReset_kept h
  | warmReset => exact execWarmReset_kept h
  | liveSliceMapChange => exact execLiveSliceMapChange_kept h
  | throttleEnd => exact execThrottleEnd_kept h
  | registrarUnresponsive => exact execRegistrarUnresponsive_kept h

/-! ### The step: what it hands over, the fetch, the issue -/

theorem takeStep_memOk (h : s.memOk = true) (kind r n : Nat) : (takeStep kind r n s).memOk = true := by
  refine follow_memOk h ?_
  split
  · exact execSrcSend_kept h _ _
  · exact execSnkTake_kept h _ _
  · exact execAgnRunStart_kept h _ _
  · exact execMemgGather_kept h _ _
  · exact execMemsWrite_kept h _ _
  · exact execAccnSum_kept h _ _
  · exact execEscTake_kept h _ _
  · exact execSluiceSend_kept h _ _
  · exact execSlhEmit_kept h _ _
  · exact execInjSend_kept h _ _
  · exact kept_next h

theorem consumeEnd_memOk (h : s.memOk = true) (r i : Nat) : (s.consumeEnd r i).memOk = true := by
  unfold State.consumeEnd
  grind -ring -linarith -lia -ac [follow_memOk, execRegionStep_kept, takeStep_memOk]

theorem consumeChan_memOk (h : s.memOk = true) (c n : Nat) : (s.consumeChan c n).memOk = true := by
  unfold State.consumeChan
  grind -ring -linarith -lia -ac [takeStep_memOk]

theorem handOne_memOk (h : s.memOk = true) (e : s.handOne = some t) : t.memOk = true := by
  unfold State.handOne at e
  split at e
  · next u hu =>
    obtain ⟨p, -, hp⟩ := List.exists_of_findSome?_eq_some hu
    grind -ring -linarith -lia -ac [consumeEnd_memOk]
  · obtain ⟨p, -, hp⟩ := List.exists_of_findSome?_eq_some e
    grind -ring -linarith -lia -ac [consumeChan_memOk]

theorem handAll_memOk (n : Nat) (h : s.memOk = true) : (State.handAll n s).memOk = true := by
  induction n generalizing s with
  | zero => exact h
  | succ n ih =>
    unfold State.handAll
    split
    · next e => exact ih (handOne_memOk h e)
    · exact h

theorem settled_kept {o : Host.Outcome State Fault Refusal} (h : Kept o) : Kept (settled o) := by
  cases o with
  | next u => exact kept_next (handAll_memOk _ (h u rfl))
  | fault f => exact kept_fault f
  | refused r => exact kept_refused r

theorem turn_memOk (h : s.memOk = true) (x : Thread) : (s.turn x).memOk = true := (memOk_mk ..).trans (select_memOk h _)

theorem turned_memOk (h : s.memOk = true) (core slot : Nat) : (s.turned core slot).memOk = true := h

theorem codeWord_memOk (h : s.memOk = true) (core xfer pa : Nat) : (s.codeWord core xfer pa).2.memOk = true := by
  unfold State.codeWord
  grind -ring -linarith -lia -ac [setCore_memOk, memOk_mk]

theorem fetch_memOk (h : s.memOk = true) {w : Word32} (e : s.fetch = .ok (w, t)) : t.memOk = true := by
  unfold State.fetch at e
  grind -ring -linarith -lia -ac [translate_memOk, codeWord_memOk]

theorem runWord_kept (h : s.memOk = true) : Kept s.runWord := by
  unfold State.runWord
  split
  · exact kept_next (takeFault_memOk h ..)
  · split
    · exact kept_next (takeFault_memOk h ..)
    · next e => exact exec_kept (fetch_memOk h e) _

theorem afterWord_kept {o : Host.Outcome State Fault Refusal} (h : Kept o) (x : Thread) (load : Option (Spec × Word × Nat × Bool)) :
    Kept (State.afterWord x load o) := by
  cases o with
  | next u =>
    refine kept_next ?_
    split
    · exact h u rfl
    · exact observe_memOk (turned_memOk (h u rfl) ..) ..
  | fault f => exact kept_fault f
  | refused r => exact kept_refused r

theorem issueAt_kept (h : s.memOk = true) (core : Nat) : Kept (s.issueAt core) := by
  unfold State.issueAt
  split
  · exact kept_next h
  · split
    · exact kept_next h
    · exact afterWord_kept (runWord_kept (turn_memOk h _)) _ _

theorem idle_kept (h : s.memOk = true) : Kept s.idle := by
  unfold State.idle
  extract_lets s1
  have h1 : s1.memOk = true := (memOk_mk ..).trans h
  clear_value s1
  grind -ring -linarith -lia -ac [issueAt_kept, exec_kept, kept_next, unstall_memOk]

theorem planned_kept (h : s.memOk = true) (p : Plan) : Kept (s.planned p) := by
  unfold State.planned
  extract_lets s1
  have h1 : s1.memOk = true := (memOk_mk ..).trans h
  clear_value s1
  grind -ring -linarith -lia -ac [issueAt_kept, exec_kept, kept_next]

theorem step_kept (h : s.memOk = true) : Kept (step s) := by
  refine settled_kept ?_
  split
  · exact planned_kept ((memOk_mk ..).trans h) _
  · exact idle_kept h

/-! ### Reset -/

/-- Every register that a word names reads 0 in the thread that reset leaves. -/
theorem read_initial (x : Spec) : Thread.initial.read x = 0 := by
  simp only [Thread.read, Thread.initial, Vector.getElem_replicate, dite_eq_ite, ite_self]

/-- The flash log that reset leaves has its header in bank 0 (log entry 17). -/
theorem liveBank_reset : State.reset.liveBank = some 0 := by decide +kernel

end Sys2Proof.Machine
end

section
open Sys2Proof.Machine

/-- Settles O57: `step_kept` says it of the outcome of one step. -/
theorem memoryStaysCanonical : Obligations.MemoryStaysCanonical := fun _ t h e => step_kept h t e

/-- Settles O56: the canonical form is `reset_memOk`, and the rest is what `State.reset` writes. -/
theorem resetState : Obligations.ResetState := by
  unfold Obligations.ResetState
  exact ⟨reset_memOk, rfl, rfl, rfl, rfl, rfl, rfl, rfl, rfl, rfl, rfl, rfl, rfl, rfl, rfl, rfl, rfl, rfl, rfl, rfl, rfl, rfl, rfl,
    fun _ => rfl, read_initial, rfl, rfl, liveBank_reset⟩

end

section
/-! What reads and writes of byte stores leave, in the words of the statements: the bytes that agree (`SameBut`, `SameBytes`), numbers as
bytes (R5), and a store of which a part has been dropped. -/

namespace Sys2Proof.Machine
variable {s t u : State}

/-! ### Bytes that read as before -/

theorem sameBut_trans {sp : Space} {a n : Nat} (h : s.SameBut t sp a n) (k : t.SameBut u sp a n) : s.SameBut u sp a n :=
  fun sq x hx => (k sq x hx).trans (h sq x hx)

theorem sameBut_refl (s : State) (sp : Space) (a n : Nat) : s.SameBut s sp a n := fun _ _ _ => rfl

/-- The cell lists alone say what a byte reads. -/
theorem sameBytes_of_cells (hm : t.mem = s.mem) (hd : t.deep = s.deep) (hs : t.scratch = s.scratch) (ht : t.tiles = s.tiles)
    (hf : t.flash = s.flash) : s.SameBytes t := by
  intro sq x
  have hc : t.cells sq = s.cells sq := by
    cases sq with
    | mem => exact hm
    | deep => exact hd
    | win => exact hs
    | tile => exact ht
    | flash => exact hf
  rw [State.readByte, State.readByte, hc]

theorem unstall_sameBytes (s : State) : s.SameBytes s.unstall := sameBytes_of_cells rfl rfl rfl rfl rfl

theorem sendMsi_sameBytes (s : State) (v : Nat) : s.SameBytes (s.sendMsi v) := by
  unfold State.sendMsi
  split
  · exact fun _ _ => rfl
  · split <;> exact sameBytes_of_cells rfl rfl rfl rfl rfl

/-- A write among some bytes of a store leaves all others. -/
theorem put_sameBut {sp : Space} {a b n : Nat} {bs : List Byte} (hl : a ≤ b) (hh : b + bs.length ≤ a + n) :
    s.SameBut (s.put sp b bs) sp a n := by
  intro sq x hx
  refine (put_stored s sp b bs).elsewhere sq x fun ⟨hb, h1, h2⟩ => hx ⟨hb, ?_, ?_⟩
  · have := key_add sp a (b - a)
    rw [Nat.add_sub_cancel' hl] at this
    omega
  · have := key_add sp a (b - a)
    rw [Nat.add_sub_cancel' hl] at this
    omega

theorem readBytes_congr {sp : Space} {a n : Nat} (h : ∀ i < n, t.readByte sp (a + i) = s.readByte sp (a + i)) :
    t.readBytes sp a n = s.readBytes sp a n := by
  refine List.ext_getElem (by simp only [readBytes_length]) fun i h1 h2 => ?_
  rw [readBytes_getElem, readBytes_getElem]
  exact h i (by rwa [readBytes_length] at h1)

/-- A number in memory that lies apart from the bytes that changed reads as before. -/
theorem readNat_sameBut {a b n m : Nat} (h : s.SameBut t .mem b m) (hd : a + n ≤ b ∨ b + m ≤ a) : t.readNat .mem a n = s.readNat .mem a n :=
  congrArg ofLe (readBytes_congr fun i hi => h .mem (a + i) fun ⟨_, h1, h2⟩ => by
    simp only [Space.key] at h1 h2
    omega)

/-! ### Numbers as bytes (R5) -/

theorem leBytes_length (n v : Nat) : (leBytes n v).length = n := by
  induction n generalizing v with
  | zero => rfl
  | succ n ih => rw [leBytes, List.length_cons, ih]

theorem ofLe_leBytes (n v : Nat) : ofLe (leBytes n v) = v % 256 ^ n := by
  induction n generalizing v with
  | zero => simp only [leBytes, ofLe, Nat.pow_zero, Nat.mod_one]
  | succ n ih =>
    rw [leBytes, ofLe, ih, BitVec.toNat_ofNat, Nat.pow_succ' (m := 256)]
    exact Nat.mod_mul.symm

/-- A number just written. -/
theorem readNat_put_leBytes (s : State) (a n v : Nat) : (s.put .mem a (leBytes n v)).readNat .mem a n = v % 256 ^ n := by
  have h := (put_stored s .mem a (leBytes n v)).there
  rw [leBytes_length] at h
  rw [State.readNat, h, ofLe_leBytes]

/-- The first byte of bytes just written. -/
theorem readNat_put_head (s : State) (a : Nat) (b : Byte) (bs : List Byte) : (s.put .mem a (b :: bs)).readNat .mem a 1 = b.toNat := by
  have h := (List.cons.inj (put_stored s .mem a (b :: bs)).there).1
  simp only [State.readNat, State.readBytes, ofLe, h, Nat.mul_zero, Nat.add_zero]

/-- A field of a record that stands in memory. -/
theorem recNat_readBytes (s : State) (sp : Space) {a n off k : Nat} (h : off + k ≤ n) :
    recNat (s.readBytes sp a n) off k = s.readNat sp (a + off) k := by
  refine congrArg ofLe (List.ext_getElem ?_ fun i h1 h2 => ?_)
  · simp only [List.length_take, List.length_drop, readBytes_length]
    omega
  · rw [List.getElem_take, List.getElem_drop, readBytes_getElem, readBytes_getElem, Nat.add_assoc]

/-! ### Parts of a store -/

theorem cellRead_filter (d : Byte) (p : Nat → Bool) (l : List Host.Cell) (a : Nat) :
    cellRead d (l.filter (fun c => p c.1)) a = if p a then cellRead d l a else d := by
  induction l with
  | nil => simp only [List.filter_nil, cellRead, ite_self]
  | cons c l ih =>
    obtain ⟨k, v⟩ := c
    by_cases hk : k = a
    · subst hk
      cases hp : p k <;> simp [hp, cellRead, ih]
    · cases hp : p k <;> simp [hp, cellRead, ih, hk]

/-- What a run of bytes written without a mask leaves: it is the write of whole bytes. -/
theorem writeBytes_eq_writeMasked (s : State) (sp : Space) (a : Nat) (bs : List Byte) : s.writeBytes sp a bs = s.writeMasked sp a (full bs) := by
  induction bs generalizing s a with
  | nil => rfl
  | cons b bs ih =>
    have hm : b &&& 0xFF#8 = b := BitVec.and_allOnes
    have hb : maskByte (s.readByte sp a) b 0xFF = b := by simp [maskByte, hm]
    show State.writeBytes (s.writeByte sp a b) sp (a + 1) bs =
      State.writeMasked (s.writeByte sp a (maskByte (s.readByte sp a) b 0xFF)) sp (a + 1) (full bs)
    rw [hb, ih]

/-- A run of one byte written. -/
theorem readByte_writeBytes_replicate (s : State) (sp : Space) (a n x : Nat) (b : Byte) :
    (s.writeBytes sp a (List.replicate n b)).readByte sp x =
      if sp.key a ≤ sp.key x ∧ sp.key x < sp.key a + n then b else s.readByte sp x := by
  rw [writeBytes_eq_writeMasked, readByte_writeMasked_full, List.length_replicate]
  by_cases h : sp.key a ≤ sp.key x ∧ sp.key x < sp.key a + n
  · rw [if_pos ⟨rfl, h⟩, if_pos h, List.getD_eq_getElem _ _ (by rw [List.length_replicate]; omega), List.getElem_replicate]
  · rw [if_neg (fun k => h k.2), if_neg h]

/-- A write to the flash changes nothing else. -/
theorem writeBytes_flash_eq (s : State) (a : Nat) (bs : List Byte) : ∃ f, s.writeBytes .flash a bs = { s with flash := f } := by
  induction bs generalizing s a with
  | nil => exact ⟨s.flash, rfl⟩
  | cons b bs ih =>
    obtain ⟨f, e⟩ := ih (s.writeByte .flash a b) (a + 1)
    exact ⟨f, e⟩

end Sys2Proof.Machine
end

section
/-! What Aeltas changes when it writes the status page, tells the host of a join event (R367, R368), or appends to a fault log (R348); and a
module-fatal fault (R354). -/

namespace Sys2Proof.Machine
variable {s t u : State}

/-! ### The status page (R367) -/

theorem statusWords_fst_le (s : State) : ∀ p ∈ s.statusWords, p.1 ≤ 0x20 := by
  intro p hp
  simp only [State.statusWords, List.mem_append, List.mem_cons, List.not_mem_nil, or_false] at hp
  obtain ((rfl | rfl) | hp) | rfl := hp
  · exact Nat.zero_le _
  · exact show 0x10 ≤ 0x20 by decide
  · split at hp
    · cases hp
    · rw [List.mem_singleton] at hp
      subst hp
      exact show 0x18 ≤ 0x20 by decide
  · exact le_rfl

theorem showStatus_sameButStatus (s : State) : s.SameButStatus s.showStatus := by
  unfold State.showStatus
  refine List.foldlRecOn (motive := fun u : State => s.SameButStatus u) _ _ (sameBut_refl s _ _ _) fun u hu p hp => ?_
  have := statusWords_fst_le s p hp
  exact sameBut_trans hu (put_sameBut (by omega) (by rw [leBytes_length]; omega))

theorem showStatus_bare (s : State) : s.showStatus.bare = s.bare :=
  List.foldlRecOn (motive := fun u : State => u.bare = s.bare) _ _ rfl fun _ hu _ _ => (put_bare ..).trans hu

theorem showJoin_sameButStatus (s : State) : s.SameButStatus s.showJoin :=
  sameBut_trans (showStatus_sameButStatus s) (sameBut_trans (put_sameBut (by omega) (by rw [leBytes_length]; omega))
    (put_sameBut (by omega) (by rw [leBytes_length]; omega)))

theorem showJoin_bare (s : State) : s.showJoin.bare = s.bare := (put_bare ..).trans ((put_bare ..).trans (showStatus_bare s))

/-! ### What the host is told -/

/-- The state without its threads and bytes, its contexts, and the interrupts that are sent or pend. -/
def State.hushed (s : State) : State := { s.bare with ctxs := [], msi := [], out := { s.out with pba := [] } }

/-- The same without what stands in the completion ring and what waits for room there. -/
def State.unrung (s : State) : State := { s.hushed with reg := { s.reg with joinq := [], qtail := 0, phase := true } }

theorem hushed_of_bare (h : t.bare = s.bare) : t.hushed = s.hushed :=
  congrArg (fun u : State => { u with ctxs := [], msi := [], out := { u.out with pba := [] } }) h

theorem unrung_of_hushed (h : t.hushed = s.hushed) : t.unrung = s.unrung :=
  congrArg (fun u : State => { u with reg := { u.reg with joinq := [], qtail := 0, phase := true } }) h

theorem reg_of_hushed (h : t.hushed = s.hushed) : t.reg = s.reg := (congrArg State.reg h :)

theorem sendMsi_hushed (s : State) (v : Nat) : (s.sendMsi v).hushed = s.hushed := by
  unfold State.sendMsi
  split
  · rfl
  · split <;> rfl

theorem complete_unrung (s : State) (cid res : Nat) (v : Word) : (s.complete cid res v).unrung = s.unrung := by
  unfold State.complete
  extract_lets r bytes s1 next
  have h1 : s1.unrung = s.unrung := unrung_of_hushed (hushed_of_bare (put_bare ..))
  clear_value s1
  exact (unrung_of_hushed (sendMsi_hushed ..)).trans h1

theorem flushJoins_unrung (n : Nat) (s : State) : (State.flushJoins n s).unrung = s.unrung := by
  induction n generalizing s with
  | zero => rfl
  | succ n ih =>
    unfold State.flushJoins
    split
    · rfl
    · split
      · rfl
      · exact (ih _).trans (complete_unrung ..)

/-- Without a completion ring, join events wait. -/
theorem flushJoins_ringless (n : Nat) (h : s.reg.qbase = 0) : State.flushJoins n s = s := by
  cases n with
  | zero => rfl
  | succ n =>
    unfold State.flushJoins
    split
    · rfl
    · rw [if_pos (Or.inr h)]

/-! ### A module without threads -/

theorem threads_nil_iff (s : State) : s.threads = [] ↔ s.th.mode = .empty ∧ s.others = [] := by
  unfold State.threads
  split
  · next h => exact ⟨fun k => ⟨h, k⟩, fun ⟨_, k⟩ => k⟩
  · next h => exact ⟨fun k => absurd k (List.cons_ne_nil _ _), fun ⟨k, _⟩ => absurd k h⟩

theorem writeMasked_threads_eq (s : State) (sp : Space) (a : Nat) (bs : List (Byte × Byte)) : (s.writeMasked sp a bs).threads = s.threads := by
  induction bs generalizing s a with
  | nil => rfl
  | cons b bs ih =>
    refine (ih (s.writeByte sp a _) (a + 1)).trans ?_
    cases sp <;> rfl

theorem put_threads_nil (h : s.threads = []) (sp : Space) (a : Nat) (bs : List Byte) : (s.put sp a bs).threads = [] := by
  have h1 := (writeMasked_threads_eq s sp a (full bs)).trans h
  have h2 : (if (full bs).all (fun p => p.2 == 0xFF) then (s.writeMasked sp a (full bs)).clearBad sp a (full bs).length
      else s.writeMasked sp a (full bs)).threads = [] := by
    split
    · cases sp <;> exact h1
    · exact h1
  rw [threads_nil_iff] at h2 ⊢
  obtain ⟨hm, ho⟩ := h2
  unfold State.put State.putBytes
  cases sp with
  | mem =>
    dsimp only
    refine ⟨?_, by rw [ho]; rfl⟩
    split
    · split
      · exact hm
      · exact hm
    · exact hm
  | _ => exact ⟨hm, ho⟩

theorem sendMsi_threads (s : State) (v : Nat) : (s.sendMsi v).threads = s.threads := by
  unfold State.sendMsi
  split
  · rfl
  · split <;> rfl

theorem complete_threads_nil (h : s.threads = []) (cid res : Nat) (v : Word) : (s.complete cid res v).threads = [] := by
  unfold State.complete
  extract_lets r bytes s1 next
  have h1 : s1.threads = [] := put_threads_nil h ..
  clear_value s1
  exact (sendMsi_threads ..).trans h1

theorem flushJoins_threads_nil (n : Nat) (h : s.threads = []) : (State.flushJoins n s).threads = [] := by
  induction n generalizing s with
  | zero => exact h
  | succ n ih =>
    unfold State.flushJoins
    split
    · exact h
    · split
      · exact h
      · next v vs _ _ =>
        have h1 : ({ s with reg := { s.reg with joinq := vs } } : State).threads = [] := h
        exact ih (complete_threads_nil h1 ..)

theorem showStatus_threads_nil (h : s.threads = []) : s.showStatus.threads = [] :=
  List.foldlRecOn (motive := fun u : State => u.threads = []) _ _ h fun _ hu _ _ => put_threads_nil hu ..

theorem showJoin_threads_nil (h : s.threads = []) : s.showJoin.threads = [] := by
  unfold State.showJoin
  extract_lets s1
  have h1 : s1.threads = [] := put_threads_nil (showStatus_threads_nil h) ..
  exact put_threads_nil h1 ..

theorem unstall_threads_nil (h : s.threads = []) : s.unstall.threads = [] := by
  rw [threads_nil_iff] at h ⊢
  obtain ⟨hm, ho⟩ := h
  refine ⟨?_, by rw [State.unstall, ho]; rfl⟩
  show (if s.th.mode = .stalled then { s.th with mode := .ready } else s.th).mode = .empty
  rw [if_neg (by rw [hm]; exact nofun)]
  exact hm

/-! ### Join events (R368) -/

/-- The state in which Aeltas shows a join event: counted, and due in the completion ring. -/
def State.joinDue (s : State) (ev field : Nat) : State :=
  { s with out := { s.out with joingen := (s.out.joingen + 1) % 2 ^ 64, joinclk := s.clk },
           reg := { s.reg with joinq := s.reg.joinq ++ [BitVec.ofNat 64 (ev * 256 + field)] } }

theorem joinEvent_eq (s : State) (ev field : Nat) :
    s.joinEvent ev field = (State.flushJoins (s.joinDue ev field).reg.joinq.length (s.joinDue ev field).showJoin).sendMsi 0 := rfl

theorem joinEvent_unrung (s : State) (ev field : Nat) : (s.joinEvent ev field).unrung = (s.joinDue ev field).unrung := by
  rw [joinEvent_eq]
  refine (unrung_of_hushed (sendMsi_hushed ..)).trans ((flushJoins_unrung ..).trans ?_)
  exact unrung_of_hushed (hushed_of_bare (showJoin_bare _))

theorem joinEvent_threads_nil (h : s.threads = []) (ev field : Nat) : (s.joinEvent ev field).threads = [] :=
  (sendMsi_threads ..).trans (flushJoins_threads_nil _ (showJoin_threads_nil (s := s.joinDue ev field) h))

/-- Without a completion ring a join event only writes the status page and sends vector 0. -/
theorem joinEvent_ringless (h : s.reg.qbase = 0) (ev field : Nat) : s.joinEvent ev field = (s.joinDue ev field).showJoin.sendMsi 0 := by
  rw [joinEvent_eq, flushJoins_ringless]
  exact (congrArg (fun u : State => u.reg.qbase) (showJoin_bare (s.joinDue ev field))).trans h

theorem joinEvent_joinq (h : s.reg.qbase = 0) (ev field : Nat) :
    (s.joinEvent ev field).reg.joinq = s.reg.joinq ++ [BitVec.ofNat 64 (ev * 256 + field)] := by
  rw [joinEvent_ringless h]
  have e : ((s.joinDue ev field).showJoin.sendMsi 0).hushed = (s.joinDue ev field).hushed :=
    (sendMsi_hushed ..).trans (hushed_of_bare (showJoin_bare _))
  rw [reg_of_hushed e]
  rfl

theorem joinEvent_sameButStatus (h : s.reg.qbase = 0) (ev field : Nat) : s.SameButStatus (s.joinEvent ev field) := by
  rw [joinEvent_ringless h]
  have h1 : s.SameButStatus (s.joinDue ev field) := fun sq x _ => sameBytes_of_cells (s := s) rfl rfl rfl rfl rfl sq x
  exact sameBut_trans h1 (sameBut_trans (showJoin_sameButStatus _) fun sq x _ => sendMsi_sameBytes _ _ sq x)

/-! ### Fault logs (R348) -/

theorem appendLog_hushed (s : State) (ctx : Nat) (mk : Nat → List Byte) : (s.appendLog ctx mk).hushed = s.hushed := by
  unfold State.appendLog
  split
  · rfl
  · extract_lets n place k moved s1 s2
    have h1 : moved.hushed = s.hushed :=
      List.foldlRecOn (motive := fun u : State => u.hushed = s.hushed) _ _ rfl fun _ hu _ _ => (hushed_of_bare (put_bare ..)).trans hu
    have h2 : s1.hushed = moved.hushed := hushed_of_bare (put_bare ..)
    have h3 : s2.hushed = s1.hushed := hushed_of_bare (put_bare ..)
    exact (sendMsi_hushed ..).trans (h3.trans (h2.trans h1))

/-- A log without a record of the clk has none that a new one would stand before. -/
theorem laterRecords_fresh {c : Ctx} (h : s.LogFresh c) (key f n : Nat) : s.laterRecords c.saveBase s.clk key f n = 0 := by
  unfold State.laterRecords
  split
  · next f n =>
    refine if_neg fun ⟨hc, _⟩ => h (n % 1023) (Nat.mod_lt _ (by decide)) ?_
    rwa [recNat_readBytes s .mem (by decide)] at hc
  · rfl

theorem ctx?_sole {c : Ctx} (h : s.ctxs = [c]) : s.ctx? c.idx = some c := by
  simp only [State.ctx?, h, List.find?_cons, beq_self_eq_true]

theorem faultRecord_cons (r : RecordAt) (tr : Trap) (fatal : Bool) (clk seq : Nat) :
    ∃ bs, faultRecord r tr fatal clk seq = BitVec.ofNat 8 tr.code.num :: bs := ⟨_, rfl⟩

/-- A record of the module goes to the next place of the only context's log, which is fresh (R345, R348). -/
theorem moduleRecord_fresh_eq {c : Ctx} (hc : s.ctxs = [c]) (hf : s.LogFresh c) (tr : Trap) (ticket : Nat) (fatal : Bool) :
    ∃ bs, s.moduleRecord c.idx tr ticket fatal =
      (((s.put .mem (c.saveBase + 64 * (1 + c.logNext % 2 ^ 32 % 1023)) (BitVec.ofNat 8 tr.code.num :: bs)).put .mem c.saveBase
        (leBytes 4 (c.logNext % 2 ^ 32 + 1))).setCtx { c with logNext := (c.logNext % 2 ^ 32 + 1) % 2 ^ 32 }).sendMsi s.vec := by
  obtain ⟨bs, hb⟩ := faultRecord_cons
    { kind := 4, coord := 0, slot := 0, ctx := 0x3F, pc := 0, word := 0, nid := 0, rinst := 0, pxs := 0, ticket := ticket }
    tr fatal s.clk (c.logNext % 2 ^ 32)
  refine ⟨bs, ?_⟩
  rw [← hb, State.moduleRecord, State.appendLog, ctx?_sole hc]
  simp only [laterRecords_fresh hf, Nat.sub_zero]
  rfl

theorem setCtx_sameBytes (s : State) (c : Ctx) : s.SameBytes (s.setCtx c) := sameBytes_of_cells rfl rfl rfl rfl rfl

theorem readNat_sameBytes (h : s.SameBytes t) (sp : Space) (a n : Nat) : t.readNat sp a n = s.readNat sp a n :=
  congrArg ofLe (readBytes_congr fun _ _ => h _ _)

theorem code_num_lt (c : Code) : c.num < 256 := by cases c <;> decide

/-- What that record shows: its code, and NEXT counts on. -/
theorem moduleRecord_fresh {c : Ctx} (hc : s.ctxs = [c]) (hf : s.LogFresh c) (tr : Trap) (ticket : Nat) (fatal : Bool) :
    (s.moduleRecord c.idx tr ticket fatal).readNat .mem (c.saveBase + 64 * (1 + c.logNext % 2 ^ 32 % 1023)) 1 = tr.code.num ∧
      (s.moduleRecord c.idx tr ticket fatal).readNat .mem c.saveBase 4 = (c.logNext % 2 ^ 32 + 1) % 2 ^ 32 := by
  obtain ⟨bs, e⟩ := moduleRecord_fresh_eq hc hf tr ticket fatal
  rw [e]
  generalize c.logNext % 2 ^ 32 = n
  simp only [readNat_sameBytes (sendMsi_sameBytes _ _), readNat_sameBytes (setCtx_sameBytes _ _)]
  refine ⟨?_, readNat_put_leBytes ..⟩
  rw [readNat_sameBut (put_sameBut (n := 4) le_rfl (by rw [leBytes_length])) (Or.inr (by omega)), readNat_put_head, BitVec.toNat_ofNat,
    Nat.mod_eq_of_lt (code_num_lt _)]

/-! ### Module-fatal faults (R354) -/

/-- The logs that a module-fatal fault writes. -/
def State.fatalLogs (s : State) (tr : Trap) : State := s.ctxs.foldl (fun s c => s.moduleRecord c.idx tr 0 true) s

theorem fatalLogs_hushed (s : State) (tr : Trap) : (s.fatalLogs tr).hushed = s.hushed :=
  List.foldlRecOn (motive := fun u : State => u.hushed = s.hushed) _ _ rfl fun _ hu _ _ => (appendLog_hushed ..).trans hu

/-- What a module-fatal fault leaves but for its join event: nothing that runs. -/
def State.stopped (s : State) : State :=
  { s with
    th := Thread.initial, others := [], binds := [], regions := [], links := [], answers := [], wakes := [], buses := [],
    dying := [], exits := [],
    chans := s.chans.map (fun c => { c with getters := [], run := none }),
    cores := s.cores.map (fun c => (c.1, { c.2 with sb := [], queue := [], senders := [] })),
    engines := s.engines.map (fun x => { x with holder := none, waiters := [], fifo := [] }),
    reg := { s.reg with launches := [], enqs := [] },
    out := { s.out with fatal := true } }

theorem goFatal_eq (s : State) (tr : Trap) : s.goFatal tr = (s.fatalLogs tr).stopped.joinEvent 4 0 := rfl

/-- The fields that a module-fatal fault leaves, but for rings, contexts, bytes and threads. -/
theorem goFatal_unrung (s : State) (tr : Trap) : (s.goFatal tr).unrung = (s.stopped.joinDue 4 0).unrung := by
  have h : (s.fatalLogs tr).unrung = s.unrung := unrung_of_hushed (fatalLogs_hushed s tr)
  rw [goFatal_eq, joinEvent_unrung]
  exact (congrArg (fun u : State => (u.stopped.joinDue 4 0).unrung) h :)

theorem goFatal_fellDown (s : State) (tr : Trap) : s.FellDown (s.goFatal tr).unstall := by
  have h := goFatal_unrung s tr
  have hr : (s.fatalLogs tr).reg = s.reg := reg_of_hushed (fatalLogs_hushed s tr)
  exact {
    flag := (congrArg (fun u : State => u.out.fatal) h :)
    threads := unstall_threads_nil (joinEvent_threads_nil ((threads_nil_iff _).2 ⟨rfl, rfl⟩) 4 0)
    launches := ⟨(congrArg (fun u : State => u.reg.launches) h :), (congrArg (fun u : State => u.reg.enqs) h :)⟩
    regions := ⟨(congrArg State.regions h :), (congrArg State.binds h :)⟩
    event := fun hq => by
      have := joinEvent_joinq (s := (s.fatalLogs tr).stopped) (by show (s.fatalLogs tr).reg.qbase = 0; rw [hr]; exact hq) 4 0
      rw [State.unstall_reg, goFatal_eq, this]
      show (s.fatalLogs tr).reg.joinq ++ [0x400] = _
      rw [hr]
    joingen := (congrArg (fun u : State => u.out.joingen) h :) }

theorem goFatal_recorded (s : State) (tr : Trap) : s.Recorded (s.goFatal tr).unstall tr.code := by
  intro c hc hq hp hf
  have hr : (s.fatalLogs tr).reg = s.reg := reg_of_hushed (fatalLogs_hushed s tr)
  have hl : s.fatalLogs tr = s.moduleRecord c.idx tr 0 true := by rw [State.fatalLogs, hc]; rfl
  have h1 : (s.fatalLogs tr).SameButStatus (s.goFatal tr).unstall := by
    have h2 : (s.fatalLogs tr).SameButStatus (s.fatalLogs tr).stopped := fun sq x _ =>
      sameBytes_of_cells (s := s.fatalLogs tr) rfl rfl rfl rfl rfl sq x
    have h3 := joinEvent_sameButStatus (s := (s.fatalLogs tr).stopped) (by show (s.fatalLogs tr).reg.qbase = 0; rw [hr]; exact hq) 4 0
    exact sameBut_trans h2 (sameBut_trans h3 fun sq x _ => unstall_sameBytes _ sq x)
  have hm := moduleRecord_fresh hc hf tr 0 true
  rw [← hl] at hm
  have hn := Nat.mod_lt (c.logNext % 2 ^ 32) (show 0 < 1023 by decide)
  intro n
  rw [readNat_sameBut h1 (by omega), readNat_sameBut h1 (by omega)]
  exact hm

/-- The links of the mesh that have failed stay so. -/
theorem goFatal_links (s : State) (tr : Trap) : (s.goFatal tr).out.links = s.out.links :=
  (congrArg (fun u : State => u.out.links) (goFatal_unrung s tr) :)

end Sys2Proof.Machine
end

section
/-! Resets and the loss of power (R362, R371): what the recovery of the log changes, and what is cleared. -/

namespace Sys2Proof.Machine
variable {s t u : State}

/-! ### The retirement log lives in the flash (R360 to R362) -/

/-- Two states differ in nothing but the flash, the units that are retired, and which slot was written last. -/
def State.Relogged (s t : State) : Prop :=
  ∃ f cores units slot, t = { s with flash := f, retiredCores := cores, out := { s.out with retired := units, lastSlot := slot } }

theorem relogged_refl (s : State) : s.Relogged s := ⟨s.flash, s.retiredCores, s.out.retired, s.out.lastSlot, rfl⟩

theorem relogged_trans (h : s.Relogged t) (k : t.Relogged u) : s.Relogged u := by
  obtain ⟨_, _, _, _, rfl⟩ := h
  obtain ⟨f, cores, units, slot, rfl⟩ := k
  exact ⟨f, cores, units, slot, rfl⟩

theorem eraseBank_relogged (s : State) (b : Nat) : s.Relogged (s.eraseBank b) :=
  ⟨(s.eraseBank b).flash, s.retiredCores, s.out.retired, s.out.lastSlot, rfl⟩

theorem writeBytes_flash_relogged (s : State) (a : Nat) (bs : List Byte) : s.Relogged (s.writeBytes .flash a bs) := by
  obtain ⟨f, e⟩ := writeBytes_flash_eq s a bs
  exact ⟨f, s.retiredCores, s.out.retired, s.out.lastSlot, e⟩

theorem markRetired_relogged (s : State) (e : Bool) (k n : Nat) : s.Relogged (s.markRetired e k n) := by
  unfold State.markRetired
  split
  · exact relogged_refl s
  · exact ⟨s.flash, s.retiredCores, _, s.out.lastSlot, rfl⟩

theorem compact_relogged (s : State) (b : Nat) : s.Relogged (s.compact b) := by
  unfold State.compact
  extract_lets other gen one recs s1 s2
  have h1 : s.Relogged s1.2 :=
    List.foldlRecOn (motive := fun p : Nat × State => s.Relogged p.2) _ _ (eraseBank_relogged s other)
      fun _ hp _ _ => relogged_trans hp (writeBytes_flash_relogged ..)
  have h2 : s.Relogged s2 := relogged_trans h1 (writeBytes_flash_relogged ..)
  clear_value s2
  exact relogged_trans h2 ⟨s2.flash, s2.retiredCores, s2.out.retired, _, rfl⟩

/-- Marking the units of the log changes the retired units alone. -/
theorem foldl_markRetired_eq (l : List (Nat × Nat)) (s : State) :
    ∃ units, l.foldl (fun s p => s.markRetired true p.1 p.2) s = { s with out := { s.out with retired := units } } := by
  refine List.foldlRecOn (motive := fun u : State => ∃ units, u = { s with out := { s.out with retired := units } }) _ _
    ⟨s.out.retired, rfl⟩ ?_
  rintro _ ⟨units, rfl⟩ p -
  unfold State.markRetired
  split
  · exact ⟨units, rfl⟩
  · exact ⟨_, rfl⟩

theorem recoverLog_relogged (s : State) : s.Relogged s.recoverLog := by
  unfold State.recoverLog
  extract_lets o s0
  have h0 : s.Relogged s0 := ⟨s.flash, [], [], s.out.lastSlot, rfl⟩
  clear_value s0
  split
  · exact relogged_trans h0 (relogged_trans (eraseBank_relogged s0 0) (relogged_trans (eraseBank_relogged _ 1)
      (writeBytes_flash_relogged ..)))
  · next bank _ =>
    extract_lets units s1 s2
    have h1 : s0.Relogged s1 :=
      List.foldlRecOn (motive := fun u : State => s0.Relogged u) _ _ (relogged_refl s0)
        fun _ hu _ _ => relogged_trans hu (markRetired_relogged ..)
    have h2 : s0.Relogged s2 := relogged_trans h1 ⟨s1.flash, _, s1.out.retired, s1.out.lastSlot, rfl⟩
    clear_value s2
    split
    · exact relogged_trans h0 (relogged_trans h2 (compact_relogged ..))
    · exact relogged_trans h0 h2

/-- The flash alone says what the slots of a bank hold. -/
theorem slotBytes_congr (h : t.flash = s.flash) (bank slot : Nat) : t.slotBytes bank slot = s.slotBytes bank slot :=
  readBytes_congr fun _ _ => congrArg (fun l => cellRead Space.flash.blank l _) h

theorem liveBank_congr (h : t.flash = s.flash) : t.liveBank = s.liveBank := by
  simp only [State.liveBank, State.bankGen, slotBytes_congr h]

theorem logTight_congr (h : t.flash = s.flash) (bank : Nat) : t.logTight bank = s.logTight bank := by
  have e : t.lastSlot bank = s.lastSlot bank := by simp only [State.lastSlot, h]
  rw [State.logTight, State.logTight, e]

/-- A log with a live bank that has room is only read. -/
theorem recoverLog_flash {bank : Nat} (hb : s.liveBank = some bank) (hr : s.logTight bank = false) : s.recoverLog.flash = s.flash := by
  unfold State.recoverLog
  extract_lets o s0
  have h0 : s0.flash = s.flash := rfl
  clear_value s0
  rw [liveBank_congr h0, hb]
  dsimp only
  generalize s0.logRecords bank 16383 1 = recs
  obtain ⟨units, e⟩ := foldl_markRetired_eq (recs.flatMap recordUnits) s0
  have h1 : ((recs.flatMap recordUnits).foldl (fun s p => s.markRetired true p.1 p.2) s0).flash = s.flash := by rw [e]; exact h0
  clear e
  generalize (recs.flatMap recordUnits).foldl (fun s p => s.markRetired true p.1 p.2) s0 = s1 at h1 ⊢
  split
  · next k =>
    have k1 : s1.logTight bank = true := k
    rw [logTight_congr h1, hr] at k1
    cases k1
  · exact h1

/-! ### What is cleared (R371) -/

/-- A byte that a reset leaves: that of HBM and the capacity tier over a warm one but for the status page, and that of the host and of peers
over every one. -/
theorem readByte_cleared (s : State) (warm : Bool) (a : Nat) : (s.cleared warm).readByte .mem a =
    if (warm && !decide (statusPage ≤ a ∧ a < statusPage + 4096)) || decide (0x8000000000000 ≤ a) then s.readByte .mem a else 0 :=
  cellRead_filter 0 (fun a => (warm && !decide (statusPage ≤ a ∧ a < statusPage + 4096)) || decide (0x8000000000000 ≤ a)) s.mem a

theorem readByte_cleared_own (s : State) (warm : Bool) {a : Nat} (h : a < 0x8000000000000) : (s.cleared warm).readByte .mem a =
    if warm = true ∧ ¬ (statusPage ≤ a ∧ a < statusPage + 0x1000) then s.readByte .mem a else 0 := by
  rw [readByte_cleared, decide_eq_false (Nat.not_le.2 h), Bool.or_false]
  simp only [Bool.and_eq_true, Bool.not_eq_true', decide_eq_false_iff_not]

theorem readByte_cleared_beyond (s : State) (warm : Bool) {a : Nat} (h : 0x8000000000000 ≤ a) :
    (s.cleared warm).readByte .mem a = s.readByte .mem a := by
  rw [readByte_cleared, decide_eq_true h, Bool.or_true, if_pos rfl]

/-- What a reset adds to the cleared state: the log's contents, the count of boots, the measurement, and whether there is power. -/
def State.booted (s : State) (flash : List Host.Cell) (cores : List Nat) (o : Outside) : State :=
  { s with flash := flash, retiredCores := cores,
           out := { s.out with bootcnt := o.bootcnt, retired := o.retired, mlog := o.mlog, lastSlot := o.lastSlot, powered := o.powered } }

theorem cleared_booted (s : State) (warm : Bool) (flash : List Host.Cell) (cores : List Nat) (o : Outside) :
    s.Cleared ((s.cleared warm).booted flash cores o).unstall :=
  { state := rfl, outside := rfl, beyond := fun _ h => readByte_cleared_beyond s warm h }

/-- A reset is the cleared state with what the recovery of the log adds to it. -/
theorem restart_eq (s : State) (warm : Bool) : ∃ flash cores o, s.restart warm = (s.cleared warm).booted flash cores o ∧
    o.bootcnt = (s.out.bootcnt + 1) % 2 ^ 32 ∧ o.powered = true ∧
    ∀ b, s.liveBank = some b → s.logTight b = false → flash = s.flash := by
  let s1 : State := { s.cleared warm with out := { (s.cleared warm).out with bootcnt := (s.out.bootcnt + 1) % 2 ^ 32 } }
  have hf : s1.flash = s.flash := rfl
  have hk : ∀ b, s.liveBank = some b → s.logTight b = false → s1.recoverLog.flash = s.flash := fun b hb hr =>
    recoverLog_flash ((liveBank_congr hf).trans hb) ((logTight_congr hf b).trans hr)
  obtain ⟨flash, cores, units, slot, e⟩ := recoverLog_relogged s1
  rw [e] at hk
  refine ⟨flash, cores, { s1.out with retired := units, lastSlot := slot, mlog := s1.recoverLog.logBytes }, ?_, rfl, rfl, hk⟩
  show { s1.recoverLog with out := { s1.recoverLog.out with mlog := s1.recoverLog.logBytes } } = _
  generalize s1.recoverLog.logBytes = log
  rw [e]
  rfl

/-- All that the statement says of a reset (R371). -/
theorem restart_clears (s : State) (warm : Bool) :
    let t := (s.restart warm).unstall
    s.Cleared t ∧ t.out.bootcnt = (s.out.bootcnt + 1) % 2 ^ 32 ∧ t.out.powered = true ∧
      t.clk = (if warm then s.clk else 0) ∧ t.reg.counts = (if warm then s.reg.counts else []) ∧
      t.reg.ticks = (if warm then s.reg.ticks else 0) ∧
      (∀ b, s.liveBank = some b → s.logTight b = false → t.flash = s.flash) ∧
      ∀ a < 0x8000000000000, t.readByte .mem a =
        (if warm = true ∧ ¬ (statusPage ≤ a ∧ a < statusPage + 0x1000) then s.readByte .mem a else 0) := by
  obtain ⟨flash, cores, o, e, hb, hp, hf⟩ := restart_eq s warm
  rw [e]
  exact ⟨cleared_booted .., hb, hp, rfl, rfl, rfl, hf, fun _ ha => readByte_cleared_own s warm ha⟩

/-! ### The loss of power (R362) -/

/-- How much of the slot that is being written stands already, by the steps done (R362). -/
def tornCut : Nat → Nat
  | 0 => 0
  | 1 => 59
  | 2 => 60
  | _ => 64

theorem tornCut_eq (done : Nat) : tornCut done = if done = 0 then 0 else if done = 1 then 59 else if done = 2 then 60 else 64 := by
  match done with
  | 0 | 1 | 2 => rfl
  | n + 3 => rw [if_neg (by omega), if_neg (by omega), if_neg (by omega)]; rfl

theorem tornCut_le (done : Nat) : tornCut done ≤ 64 := by
  rw [tornCut_eq]
  split_ifs <;> decide

/-- The state whose flash is torn by a loss of power: what was not written of the slot of this clk reads as erased. -/
def State.torn (s : State) (done : Nat) : State :=
  match s.out.lastSlot with
  | some (clk, a) => if clk = s.clk then s.writeBytes .flash (a + tornCut done) (List.replicate (64 - tornCut done) 0xFF) else s
  | none => s

theorem torn_eq (s : State) (done : Nat) : ∃ flash, s.torn done = { s with flash := flash } := by
  unfold State.torn
  split
  · split
    · exact writeBytes_flash_eq ..
    · exact ⟨s.flash, rfl⟩
  · exact ⟨s.flash, rfl⟩

theorem torn_none (done : Nat) (h : s.out.lastSlot = none) : s.torn done = s := by
  rw [State.torn, h]

theorem torn_past (done : Nat) {clk a : Nat} (h : s.out.lastSlot = some (clk, a)) (hc : clk ≠ s.clk) : s.torn done = s := by
  rw [State.torn, h]
  exact if_neg hc

theorem readByte_torn (done : Nat) {a : Nat} (h : s.out.lastSlot = some (s.clk, a)) (x : Nat) : (s.torn done).readByte .flash x =
    if a + tornCut done ≤ x ∧ x < a + 64 then 0xFF else s.readByte .flash x := by
  have := tornCut_le done
  have e : s.torn done = s.writeBytes .flash (a + tornCut done) (List.replicate (64 - tornCut done) 0xFF) := by
    rw [State.torn, h]
    exact if_pos rfl
  rw [e, readByte_writeBytes_replicate]
  simp only [Space.key, show a + tornCut done + (64 - tornCut done) = a + 64 by omega]

/-- A loss of power clears the module, with the flash torn. -/
theorem execPowerLoss_eq (s : State) (done : Nat) : execPowerLoss done s = .next
    ((s.cleared false).booted (s.torn done).flash [] { Outside.start with bootcnt := s.out.bootcnt, powered := false }).unstall := by
  have e : execPowerLoss done s = .next
      ({ (s.torn done).cleared false with out := { ((s.torn done).cleared false).out with powered := false } } : State).unstall := rfl
  obtain ⟨flash, h⟩ := torn_eq s done
  rw [e, h]
  rfl

end Sys2Proof.Machine
end

section
/-! Power and heat (R168, R370, R372), attestation (R373, R374) and prefetches (R293). -/

namespace Sys2Proof.Machine
variable {s t u : State}

theorem event_eq {f : State → State} (h : f s = t) : event f s = .next t.unstall :=
  congrArg (fun u : State => Host.Outcome.next u.unstall) h

/-! ### Throttling (R168) -/

theorem throttle_tlf (s : State) : s.throttle.tlf = true := by
  unfold State.throttle
  split
  · next h => exact h
  · rfl

/-- TLF and the CLK at which it was set are all that throttling touches. -/
theorem throttle_eq (s : State) :
    s.throttle = { s with tlf := true, out := { s.out with tlfSince := if s.tlf then s.out.tlfSince else s.clk } } := by
  unfold State.throttle
  cases h : s.tlf
  · rfl
  · rw [if_pos rfl, if_pos rfl, ← h]

theorem throttle_if_tlf (s : State) (p : Prop) [Decidable p] : (if p then s.throttle else s).tlf = (s.tlf || decide p) := by
  by_cases h : p
  · rw [if_pos h, throttle_tlf, decide_eq_true h, Bool.or_true]
  · rw [if_neg h, decide_eq_false h, Bool.or_false]

theorem throttle_if_eq (s : State) (p : Prop) [Decidable p] :
    ∃ l since, (if p then s.throttle else s) = { s with tlf := l, out := { s.out with tlfSince := since } } := by
  split
  · exact ⟨true, _, throttle_eq s⟩
  · exact ⟨s.tlf, s.out.tlfSince, rfl⟩

theorem coolLong_iff (s : State) : s.coolLong = true ↔ ∃ c, s.out.coolSince = some c ∧ c + 1900000 ≤ s.clk := by
  unfold State.coolLong
  split
  · next c h =>
    rw [decide_eq_true_iff]
    simp only [h, Option.some.injEq, exists_eq_left', Config.quantum]
  · next h => simp only [h, reduceCtorEq, false_and, exists_false, Bool.false_eq_true]

theorem execThrottleStart_eq {hot : Bool} (h : hot = true ∨ s.out.allow = 0) : execThrottleStart hot s = .next
    ({ s with tlf := true, out := { s.out with tlfSince := if s.tlf then s.out.tlfSince else s.clk,
                                               coolSince := if hot then none else s.out.coolSince } } : State).unstall := by
  refine event_eq ((if_pos h).trans ?_)
  cases hot with
  | false => exact throttle_eq s
  | true => exact throttle_eq { s with out := { s.out with coolSince := none } }

/-- The condition of R168 under which throttling ends, its millisecond in clk. -/
theorem throttleEnds_iff (s : State) : (s.coolLong = true ∧ s.out.allow = 1000 ∧ s.out.tlfSince + Config.quantum ≤ s.clk) ↔
    ((∃ c, s.out.coolSince = some c ∧ c + 1900000 ≤ s.clk) ∧ s.out.allow = 1000 ∧ s.out.tlfSince + 1900000 ≤ s.clk) := by
  rw [coolLong_iff, show Config.quantum = 1900000 from rfl]

theorem execThrottleEnd_eq (h : s.coolLong = true ∧ s.out.allow = 1000 ∧ s.out.tlfSince + Config.quantum ≤ s.clk) :
    execThrottleEnd s = .next ({ s with tlf := false } : State).unstall := event_eq (if_pos h)

theorem execThrottleEnd_idle (h : ¬ (s.coolLong = true ∧ s.out.allow = 1000 ∧ s.out.tlfSince + Config.quantum ≤ s.clk)) :
    execThrottleEnd s = .next s.unstall := event_eq (if_neg h)

/-! ### Power samples (R367, R370, R372) -/

/-- The allowance and its two counts after a sample above the limit, or at or below it (R372). -/
def Outside.metered (o : Outside) (hot : Prop) [Decidable hot] : Outside :=
  { o with
    allow := if hot then (if 9 ≤ o.above then o.allow - 1 else o.allow)
      else if 99 ≤ o.below then Nat.min 1000 (o.allow + 1) else o.allow,
    above := if hot then (if 9 ≤ o.above then 0 else o.above + 1) else o.above,
    below := if hot then o.below else if 99 ≤ o.below then 0 else o.below + 1 }

/-- Every tenth sample above the limit takes 1 from the allowance, every hundredth one at or below it gives 1 back (R372). -/
theorem metered_eq (o : Outside) (hot : Prop) [Decidable hot] : o.metered hot =
    if hot then
      if o.above + 1 < 10 then { o with above := o.above + 1 } else { o with above := 0, allow := o.allow - 1 }
    else
      if o.below + 1 < 100 then { o with below := o.below + 1 } else { o with below := 0, allow := Nat.min 1000 (o.allow + 1) } := by
  unfold Outside.metered
  by_cases hh : hot
  · by_cases h : 9 ≤ o.above
    · simp only [hh, h, if_true, if_neg (show ¬ o.above + 1 < 10 by omega)]
    · simp only [hh, h, if_true, if_false, if_pos (show o.above + 1 < 10 by omega)]
  · by_cases h : 99 ≤ o.below
    · simp only [hh, h, if_true, if_false, if_neg (show ¬ o.below + 1 < 100 by omega)]
    · simp only [hh, h, if_false, if_pos (show o.below + 1 < 100 by omega)]

/-- The outside after a power sample (R367, R370). -/
def State.meter (s : State) (watts : Nat) : Outside :=
  let o := { s.out with samples := (watts :: s.out.samples).take 1000, tjmax := (Config.sensors s.free).toNat }
  { o.metered (s.out.plim * 100 < watts) with
    coolSince := if o.tjmax ≤ 190 then some (s.out.coolSince.getD s.clk) else none }

/-- The state that a power sample leaves, before it throttles and before Aeltas shows it. -/
def State.sampled (s : State) (watts : Nat) : State :=
  { s with free := s.free + 1, pwx := decide (7200 < watts), out := s.meter watts }

/-- Aeltas shows the status page once it has booted. -/
def State.shown (s : State) : State := if s.out.booting then s else s.showStatus

theorem shown_sameButStatus (s : State) : s.SameButStatus s.shown := by
  unfold State.shown
  split
  · exact sameBut_refl s _ _ _
  · exact showStatus_sameButStatus s

theorem shown_bare (s : State) : s.shown.bare = s.bare := by
  unfold State.shown
  split
  · rfl
  · exact showStatus_bare s

theorem execPowerMeasure_eq (watts : Nat) (h : s.out.powered = true) : execPowerMeasure watts s = .next
    (if (s.sampled watts).out.allow = 0 ∨ 210 < (s.sampled watts).out.tjmax ∨ 8000 < watts then (s.sampled watts).throttle
      else s.sampled watts).shown.unstall := by
  refine event_eq ((if_neg (by rw [h]; exact Bool.noConfusion)).trans ?_)
  extract_lets src o o1 o2 s1 s2
  have h1 : o1 = o.metered (s.out.plim * 100 < watts) := (metered_eq o _).symm
  have h2 : s1 = s.sampled watts := by
    show ({ s with free := s.free + 1, pwx := decide (7200 < watts), out := o2 } : State) = _
    have h3 : o2 = s.meter watts := by
      show ({ o1 with coolSince := if o.tjmax ≤ 190 then some (o.coolSince.getD s.clk) else none } : Outside) = _
      rw [h1]
      rfl
    rw [h3]
    rfl
  have h4 : o1.allow = (s.sampled watts).out.allow := by rw [h1]; rfl
  show (if o1.allow = 0 ∨ 210 < o.tjmax ∨ 8000 < watts then s1.throttle else s1).shown = _
  rw [h4, h2]
  rfl

/-! ### Attestation (R374) -/

theorem reportBody_eq (h : s.out.nonce.length = 48) : s.reportBody =
    leBytes 4 1 ++ leBytes 4 s.out.bootcnt ++ leBytes 48 Config.romMeasure.toNat ++ leBytes 48 Config.fuseMeasure.toNat ++
      sha384 s.out.mlog ++ s.out.nonce ++ leBytes 8 s.clk := by
  rw [State.reportBody, List.take_left' h, bytes48, bytes48]

theorem execAttestReportDone_eq (h : s.out.attBusy = true) : execAttestReportDone s = .next
    ({ s with free := s.free + 1,
              out := { s.out with attBusy := false, attDone := true,
                                  report := s.reportBody ++ bytes48 (ecdsaSign s.reportBody s.free).1 ++
                                    bytes48 (ecdsaSign s.reportBody s.free).2 } } : State).unstall := by
  exact event_eq (if_pos h)

/-! ### Prefetches (R293) -/

/-- The state with a core's lines fetched as a function of the core. -/
def State.fetchedLines (s : State) : State :=
  { s with cores := s.cores.map (fun c => if c.2.watches = [] then c else (c.1, { c.2 with prefetched := s.prefLines c.1 })) }

theorem assoc_map_keys {α : Type} (f : Nat × α → Nat × α) (hf : ∀ p, (f p).1 = p.1) (l : List (Nat × α)) (k : Nat) :
    assoc (l.map f) k = (assoc l k).map (fun x => (f (k, x)).2) := by
  induction l with
  | nil => rfl
  | cons p l ih =>
    rw [List.map_cons, assoc_cons, assoc_cons, hf, ih]
    split
    · next h => subst h; rfl
    · rfl

/-- A prefetch changes the lines that a core holds, and nothing else of it. -/
theorem fetchedLines_core (s : State) (c : Nat) : { s.fetchedLines.core c with prefetched := (s.core c).prefetched } = s.core c := by
  unfold State.core State.fetchedLines
  rw [assoc_map_keys _ (fun p => by split <;> rfl)]
  cases assoc s.cores c with
  | none => rfl
  | some x =>
    simp only [Option.map_some, Option.getD_some]
    split <;> rfl

/-- A thread whose mode alone may have changed from stalled to ready. -/
def Thread.looked (t : Thread) : Thread := if t.mode = .stalled then { t with mode := .ready } else t

theorem looked_rest (t : Thread) : t.looked.rest = t.rest := by
  unfold Thread.looked
  split <;> rfl

theorem looked_uid (t : Thread) : t.looked.uid = t.uid := by
  unfold Thread.looked
  split <;> rfl

theorem looked_empty (t : Thread) : t.looked.mode = .empty ↔ t.mode = .empty := by
  unfold Thread.looked
  split
  · next h => rw [h]; exact ⟨nofun, nofun⟩
  · rfl

theorem unstall_threads (s : State) : s.unstall.threads = s.threads.map Thread.looked := by
  have ho : s.unstall.others = s.others.map Thread.looked := rfl
  have ht : s.unstall.th = s.th.looked := rfl
  unfold State.threads
  rw [ho, ht]
  by_cases h : s.th.mode = .empty
  · rw [if_pos h, if_pos ((looked_empty _).2 h)]
  · rw [if_neg h, if_neg (mt (looked_empty _).1 h), List.map_cons]

/-- A thread after those that stalled look again. -/
theorem unstall_getT (s : State) (n : Nat) : s.unstall.getT n = (s.getT n).map Thread.looked := by
  rw [State.getT, unstall_threads, List.find?_map, State.getT]
  congr 2
  funext t
  exact congrArg (· == n) (looked_uid t)

end Sys2Proof.Machine
end

section
/-! The parts of `Obligations.PowerFaultsAndResets`, one theorem for each. -/

namespace Sys2Proof.Machine
variable {s t u : State}

/-- A power sample (R168, R367, R370, R372). -/
theorem powerMeasure_sampled (s : State) (watts : Nat) (h : s.out.powered = true) :
    let hot := s.out.plim * 100 < watts
    ∃ t, exec (.powerMeasure watts) s = .next t ∧ s.SameButStatus t ∧ t.pwx = decide (7200 < watts) ∧
      t.out.samples = (watts :: s.out.samples).take 1000 ∧
      t.out.allow = (if hot then (if 9 ≤ s.out.above then s.out.allow - 1 else s.out.allow)
        else if 99 ≤ s.out.below then Nat.min 1000 (s.out.allow + 1) else s.out.allow) ∧
      t.out.above = (if hot then (if 9 ≤ s.out.above then 0 else s.out.above + 1) else s.out.above) ∧
      t.out.below = (if hot then s.out.below else if 99 ≤ s.out.below then 0 else s.out.below + 1) ∧
      t.out.coolSince = (if t.out.tjmax ≤ 190 then some (s.out.coolSince.getD s.clk) else none) ∧
      t.tlf = (s.tlf || decide (t.out.allow = 0) || decide (210 < t.out.tjmax) || decide (8000 < watts)) := by
  intro hot
  have e := execPowerMeasure_eq watts h
  have ht := throttle_if_tlf (s.sampled watts)
    ((s.sampled watts).out.allow = 0 ∨ 210 < (s.sampled watts).out.tjmax ∨ 8000 < watts)
  obtain ⟨l, since, hu⟩ := throttle_if_eq (s.sampled watts)
    ((s.sampled watts).out.allow = 0 ∨ 210 < (s.sampled watts).out.tjmax ∨ 8000 < watts)
  rw [hu] at e ht
  let u : State := { s.sampled watts with tlf := l, out := { (s.sampled watts).out with tlfSince := since } }
  have hb : u.shown.bare = u.bare := shown_bare u
  have hout : u.shown.unstall.out = u.out := (congrArg State.out hb :)
  have htlf : u.shown.unstall.tlf = l := (congrArg State.tlf hb :)
  have hpwx : u.shown.unstall.pwx = decide (7200 < watts) := (congrArg State.pwx hb :)
  have hsame : s.SameButStatus u.shown.unstall :=
    sameBut_trans (t := u) (fun sq x _ => sameBytes_of_cells (s := s) rfl rfl rfl rfl rfl sq x)
      (sameBut_trans (shown_sameButStatus u) fun sq x _ => unstall_sameBytes _ sq x)
  refine ⟨u.shown.unstall, e, hsame, hpwx, ?_⟩
  rw [hout, htlf]
  have hl : l = (s.tlf || decide ((s.sampled watts).out.allow = 0) || decide (210 < (s.sampled watts).out.tjmax) || decide (8000 < watts)) := by
    rw [Bool.or_assoc, Bool.or_assoc, ← Bool.decide_or, ← Bool.decide_or]
    exact ht
  exact ⟨rfl, rfl, rfl, rfl, rfl, hl⟩

/-- Throttling starts and ends (R168). -/
theorem throttle_starts_and_ends (s : State) (hot : Bool) :
    (hot = true ∨ s.out.allow = 0 → ∃ t, exec (.throttleStart hot) s = .next t ∧ t.tlf = true ∧
      { t with th := s.th, others := s.others, tlf := s.tlf, out := s.out } = s ∧
      t.out = { s.out with tlfSince := if s.tlf then s.out.tlfSince else s.clk, coolSince := if hot then none else s.out.coolSince }) ∧
    (¬ (hot = true ∨ s.out.allow = 0) → exec (.throttleStart hot) s = .next s.unstall) ∧
    (let ends := (∃ c, s.out.coolSince = some c ∧ c + 1900000 ≤ s.clk) ∧ s.out.allow = 1000 ∧ s.out.tlfSince + 1900000 ≤ s.clk
     (ends → ∃ t, exec .throttleEnd s = .next t ∧ t.tlf = false ∧ { t with th := s.th, others := s.others, tlf := s.tlf } = s) ∧
     (¬ ends → exec .throttleEnd s = .next s.unstall)) := by
  refine ⟨fun h => ⟨_, execThrottleStart_eq h, rfl, rfl, rfl⟩, fun h => ?_, fun h => ?_, fun h => ?_⟩
  · exact event_eq ((if_neg h).trans (if_neg fun k => h (Or.inl k)))
  · exact ⟨_, execThrottleEnd_eq ((throttleEnds_iff s).2 h), rfl, rfl⟩
  · exact execThrottleEnd_idle fun k => h ((throttleEnds_iff s).1 k)

/-- Module-fatal faults (R354). -/
theorem moduleFatal_stops (s : State) (h : s.out.booting = false) :
    (∀ pa, ∃ t, exec (.moduleFatal pa) s = .next t ∧ s.FellDown t ∧ s.Recorded t .eccUe) ∧
    (∃ t, exec .registrarUnresponsive s = .next t ∧ s.FellDown t ∧ s.Recorded t .watchdog) := by
  have hb : ¬ s.out.booting = true := by rw [h]; exact Bool.false_ne_true
  exact ⟨fun pa => ⟨_, event_eq (if_neg hb), goFatal_fellDown s _, goFatal_recorded s _⟩,
    ⟨_, event_eq (if_neg hb), goFatal_fellDown s _, goFatal_recorded s _⟩⟩

/-- Links of the mesh (R12, R354). -/
theorem meshLinkFail_parts (s : State) (a b : Nat) :
    let s1 : State := { s with out := { s.out with links := s.out.links ++ [(a, b)] } }
    (s.out.linkUp a b = false → exec (.meshLinkFail a b) s = .next s.unstall) ∧
    (a < 24 → b < 24 → s.out.linkUp a b = true → s1.meshWhole = true ∨ s.out.booting = true → ∃ t, exec (.meshLinkFail a b) s = .next t ∧
      t = s1.unstall) ∧
    (a < 24 → b < 24 → s.out.linkUp a b = true → s1.meshWhole = false → s.out.booting = false → ∃ t, exec (.meshLinkFail a b) s = .next t ∧
      s1.FellDown t ∧ s1.Recorded t .watchdog ∧ t.out.links = s.out.links ++ [(a, b)]) := by
  intro s1
  have up (ha : a < 24) (hb : b < 24) (hu : s.out.linkUp a b = true) : ¬ (24 ≤ a ∨ 24 ≤ b ∨ s.out.linkUp a b = false) := by
    rw [hu]
    rintro (h | h | h)
    · omega
    · omega
    · cases h
  refine ⟨fun h => ?_, fun ha hb hu h => ⟨s1.unstall, ?_, rfl⟩, fun ha hb hu hw hn => ⟨(s1.goFatal { code := .watchdog }).unstall, ?_, ?_⟩⟩
  · exact event_eq (if_pos (Or.inr (Or.inr h)))
  · exact event_eq ((if_neg (up ha hb hu)).trans (if_pos h))
  · have hp : ¬ (s1.meshWhole = true ∨ s.out.booting = true) := by
      rw [hw, hn]
      simp
    exact event_eq ((if_neg (up ha hb hu)).trans (if_neg hp))
  · exact ⟨goFatal_fellDown s1 _, goFatal_recorded s1 _, goFatal_links s1 _⟩

/-- Loss of power (R362). -/
theorem powerLoss_clears (s : State) (done : Nat) : ∃ t, exec (.powerLoss done) s = .next t ∧ s.Cleared t ∧ t.out.powered = false ∧ t.clk = 0 ∧
    (∀ a < 0x8000000000000, t.readByte .mem a = 0) ∧
    (∀ c a, s.out.lastSlot = some (c, a) → c ≠ s.clk → t.flash = s.flash) ∧ (s.out.lastSlot = none → t.flash = s.flash) ∧
    (∀ a, s.out.lastSlot = some (s.clk, a) →
      let cut := if done = 0 then 0 else if done = 1 then 59 else if done = 2 then 60 else 64
      ∀ x, t.readByte .flash x = if a + cut ≤ x ∧ x < a + 64 then 0xFF else s.readByte .flash x) := by
  refine ⟨_, execPowerLoss_eq s done, cleared_booted .., rfl, rfl, fun a ha => ?_, fun c a h hc => ?_, fun h => ?_, fun a h => ?_⟩
  · exact (readByte_cleared_own s false ha).trans (if_neg fun k => Bool.false_ne_true k.1)
  · exact (congrArg State.flash (torn_past done h hc) :)
  · exact (congrArg State.flash (torn_none done h) :)
  · rw [← tornCut_eq]
    exact readByte_torn done h

/-- A report (R373, R374). -/
theorem attestReportDone_signed (s : State) (hb : s.out.attBusy = true) (hn : s.out.nonce.length = 48) :
    ∃ t, exec .attestReportDone s = .next t ∧ { t with th := s.th, others := s.others, free := s.free, out := s.out } = s ∧
      t.out.attBusy = false ∧ t.out.attDone = true ∧
      let body := leBytes 4 1 ++ leBytes 4 s.out.bootcnt ++ leBytes 48 Config.romMeasure.toNat ++ leBytes 48 Config.fuseMeasure.toNat ++
        sha384 s.out.mlog ++ s.out.nonce ++ leBytes 8 s.clk
      ∃ x y : BitVec 384, (x, y) = ecdsaSign body s.free ∧
        t.out.report = body ++ leBytes 48 x.toNat ++ leBytes 48 y.toNat := by
  refine ⟨_, execAttestReportDone_eq hb, rfl, rfl, rfl, ?_⟩
  rw [← reportBody_eq hn]
  exact ⟨_, _, rfl, rfl⟩

/-- A prefetch (R293). -/
theorem indirectPrefetch_silent (s : State) : ∃ t, exec .indirectPrefetch s = .next t ∧ s.SameBytes t ∧
    { t with th := s.th, others := s.others, cores := s.cores } = s ∧ (∀ u x, s.Holds u x → ∃ y, t.getT u = some y ∧ y.rest = x.rest) ∧
    ∀ c, { t.core c with prefetched := (s.core c).prefetched } = s.core c := by
  refine ⟨s.fetchedLines.unstall, rfl, sameBytes_of_cells rfl rfl rfl rfl rfl, rfl, fun n x h => ⟨x.looked, ?_, looked_rest x⟩,
    fetchedLines_core s⟩
  have hg : s.fetchedLines.getT n = some x := h.got
  rw [unstall_getT, hg]
  rfl

end Sys2Proof.Machine
end

section
open Sys2Proof Sys2Proof.Machine

/-- Settles O55: each part by the theorem of its step; a reset is `restart_clears`. -/
theorem powerFaultsAndResets : Obligations.PowerFaultsAndResets := by
  unfold Obligations.PowerFaultsAndResets
  refine ⟨powerMeasure_sampled, throttle_starts_and_ends, moduleFatal_stops, meshLinkFail_parts, fun s i warm h => ?_, fun s h => ?_,
    powerLoss_clears, attestReportDone_signed, indirectPrefetch_silent⟩
  · obtain ⟨rfl, rfl⟩ | ⟨rfl, rfl, hp⟩ := h
    · exact ⟨_, rfl, restart_clears s false⟩
    · exact ⟨_, event_eq (if_pos hp), restart_clears s true⟩
  · exact event_eq (if_neg (by rw [h]; exact Bool.false_ne_true))

end

section
/-! The two-operand functions of R121 and R29, and sel: what each gives in w bits is the integer of its table row, cut to w bits. -/

namespace Sys2Proof.Machine
variable {w : Nat}

/-! ### Integers cut to w bits -/

theorem ofInt_sub (x y : Int) : BitVec.ofInt w (x - y) = BitVec.ofInt w x - BitVec.ofInt w y := by
  rw [Int.sub_eq_add_neg, BitVec.ofInt_add, BitVec.ofInt_neg, BitVec.sub_eq_add_neg]

theorem ofInt_toNat (x : BitVec w) : BitVec.ofInt w x.toNat = x := by
  rw [BitVec.ofInt_natCast, BitVec.ofNat_toNat, BitVec.setWidth_eq]

theorem signedOf_toNat (hw : 0 < w) (x : BitVec w) : signedOf w x.toNat = x.toInt := by
  have hp : 2 ^ w = 2 * 2 ^ (w - 1) := by rw [← Nat.pow_succ', Nat.succ_eq_add_one, Nat.sub_add_cancel hw]
  have hc : x.toNat < 2 ^ (w - 1) ↔ 2 * x.toNat < 2 ^ w := by omega
  rw [BitVec.toInt_eq_toNat_cond, signedOf]
  simp only [hc, Nat.cast_pow, Nat.cast_ofNat]

/-- The most negative value divided by -1 is its own quotient in w bits (R29). -/
theorem ofInt_two_pow_pred (w : Nat) : BitVec.ofInt w (2 ^ (w - 1) : Nat) = BitVec.ofInt w (-(2 ^ (w - 1) : Nat)) := by
  have h : BitVec.ofInt w (-(2 ^ (w - 1) : Nat)) = BitVec.intMin w := by
    rw [BitVec.intMin_eq_neg_two_pow, Nat.cast_pow, Nat.cast_ofNat]
  rw [h, ← BitVec.neg_intMin, ← h, BitVec.ofInt_neg, BitVec.neg_neg]

theorem flag_decide (p : Prop) [Decidable p] : (flag (decide p) : BitVec w) = BitVec.ofInt w (if p then 1 else 0) := by
  unfold flag
  by_cases h : p
  · rw [if_pos h, decide_eq_true h]
    rfl
  · rw [if_neg h, decide_eq_false h]
    rfl

theorem shiftLeft_eq_ofInt (x : BitVec w) (n : Nat) : x <<< n = BitVec.ofInt w (x.toNat * 2 ^ n : Nat) := by
  rw [BitVec.ofInt_natCast]
  apply BitVec.eq_of_toNat_eq
  rw [BitVec.toNat_shiftLeft, Nat.shiftLeft_eq, BitVec.toNat_ofNat]

theorem ushiftRight_eq_ofInt (x : BitVec w) (n : Nat) : x >>> n = BitVec.ofInt w (x.toNat / 2 ^ n : Nat) := by
  rw [← Nat.shiftRight_eq_div_pow, ← BitVec.toNat_ushiftRight, ofInt_toNat]

/-! ### Rows with two operands (R29, R121), and sel -/

section
variable (x y z : BitVec w)

theorem add_eq_ofInt : x + y = BitVec.ofInt w ((x.toNat : Int) + y.toNat) := by
  rw [BitVec.ofInt_add, ofInt_toNat, ofInt_toNat]

theorem sub_eq_ofInt : x - y = BitVec.ofInt w ((x.toNat : Int) - y.toNat) := by
  rw [ofInt_sub, ofInt_toNat, ofInt_toNat]

theorem mul_eq_ofInt : x * y = BitVec.ofInt w (x.toNat * y.toNat : Nat) := by
  rw [Nat.cast_mul, BitVec.ofInt_mul, ofInt_toNat, ofInt_toNat]

theorem and_eq_ofInt : x &&& y = BitVec.ofInt w (x.toNat &&& y.toNat : Nat) := by
  rw [← BitVec.toNat_and, ofInt_toNat]

theorem or_eq_ofInt : x ||| y = BitVec.ofInt w (x.toNat ||| y.toNat : Nat) := by
  rw [← BitVec.toNat_or, ofInt_toNat]

theorem xor_eq_ofInt : x ^^^ y = BitVec.ofInt w (x.toNat ^^^ y.toNat : Nat) := by
  rw [← BitVec.toNat_xor, ofInt_toNat]

theorem opAndn_eq_ofInt : opAndn x y = BitVec.ofInt w (x.toNat &&& (2 ^ w - 1 - y.toNat) : Nat) := by
  rw [← BitVec.toNat_not, ← and_eq_ofInt, opAndn]

theorem opOrn_eq_ofInt : opOrn x y = BitVec.ofInt w (x.toNat ||| (2 ^ w - 1 - y.toNat) : Nat) := by
  rw [← BitVec.toNat_not, ← or_eq_ofInt, opOrn]

theorem opShl_eq_ofInt : opShl x y = BitVec.ofInt w (x.toNat * 2 ^ (y.toNat % w) : Nat) := shiftLeft_eq_ofInt x _

theorem opShr_eq_ofInt : opShr x y = BitVec.ofInt w (x.toNat / 2 ^ (y.toNat % w) : Nat) := ushiftRight_eq_ofInt x _

theorem opSha_eq_ofInt (hw : 0 < w) : opSha x y = BitVec.ofInt w (signedOf w x.toNat / (2 ^ (y.toNat % w) : Nat)) := by
  rw [signedOf_toNat hw, ← Int.shiftRight_eq_div_pow, ← BitVec.toInt_sshiftRight, BitVec.ofInt_toInt, opSha, shiftBy]

/-- The parts that a rotation moves up and down do not meet. -/
theorem opRotl_eq_ofInt (hw : 0 < w) :
    opRotl x y = BitVec.ofInt w (x.toNat * 2 ^ (y.toNat % w) + x.toNat / 2 ^ (w - y.toNat % w) : Nat) := by
  have hn : y.toNat % w < w := Nat.mod_lt _ hw
  rw [opRotl, shiftBy]
  generalize y.toNat % w = n at hn ⊢
  have hd : x <<< n &&& x >>> (w - n) = 0#w := by
    ext i hi
    simp only [BitVec.getElem_and, BitVec.getElem_shiftLeft, BitVec.getElem_ushiftRight, BitVec.getElem_zero]
    by_cases h : i < n
    · simp [h]
    · rw [BitVec.getLsbD_of_ge x _ (by omega), Bool.and_false]
  rw [BitVec.rotateLeft_def, Nat.mod_eq_of_lt hn, ← BitVec.add_eq_or_of_and_eq_zero _ _ hd, shiftLeft_eq_ofInt, ushiftRight_eq_ofInt,
    ← BitVec.ofInt_add, Nat.cast_add]

theorem opMin_eq_ofInt (hw : 0 < w) :
    opMin x y = BitVec.ofInt w (if signedOf w y.toNat < signedOf w x.toNat then signedOf w y.toNat else signedOf w x.toNat) := by
  rw [signedOf_toNat hw, signedOf_toNat hw, ← apply_ite, BitVec.ofInt_toInt, opMin]
  simp only [BitVec.slt_iff_toInt_lt]
  rcases Int.lt_trichotomy x.toInt y.toInt with h | h | h
  · rw [if_pos h, if_neg (by omega)]
  · rw [BitVec.toInt_inj.1 h, ite_self]
  · rw [if_neg (by omega), if_pos h]

theorem opMax_eq_ofInt (hw : 0 < w) :
    opMax x y = BitVec.ofInt w (if signedOf w x.toNat < signedOf w y.toNat then signedOf w y.toNat else signedOf w x.toNat) := by
  rw [signedOf_toNat hw, signedOf_toNat hw, ← apply_ite, BitVec.ofInt_toInt, opMax]
  simp only [BitVec.slt_iff_toInt_lt]

theorem opMinn_eq_ofInt : opMinn x y = BitVec.ofInt w (if y.toNat < x.toNat then y.toNat else x.toNat : Nat) := by
  rw [← apply_ite, ofInt_toNat, opMinn]
  simp only [BitVec.ult_iff_toNat_lt]
  rcases Nat.lt_trichotomy x.toNat y.toNat with h | h | h
  · rw [if_pos h, if_neg (by omega)]
  · rw [BitVec.toNat_inj.1 h, ite_self]
  · rw [if_neg (by omega), if_pos h]

theorem opMaxn_eq_ofInt : opMaxn x y = BitVec.ofInt w (if x.toNat < y.toNat then y.toNat else x.toNat : Nat) := by
  rw [← apply_ite, ofInt_toNat, opMaxn]
  simp only [BitVec.ult_iff_toNat_lt]

theorem opSlt_eq_ofInt (hw : 0 < w) : opSlt x y = BitVec.ofInt w (if signedOf w x.toNat < signedOf w y.toNat then 1 else 0) := by
  rw [signedOf_toNat hw, signedOf_toNat hw, opSlt, BitVec.slt_eq_decide, flag_decide]

theorem opSltn_eq_ofInt : opSltn x y = BitVec.ofInt w (if x.toNat < y.toNat then 1 else 0) := by
  rw [opSltn, BitVec.ult_eq_decide, flag_decide]

theorem opSeq_eq_ofInt : opSeq x y = BitVec.ofInt w (if x.toNat = y.toNat then 1 else 0) := by
  rw [opSeq, beq_eq_decide, flag_decide]
  simp only [BitVec.toNat_inj]

theorem opSne_eq_ofInt : opSne x y = BitVec.ofInt w (if x.toNat = y.toNat then 0 else 1) := by
  rw [opSne, bne, beq_eq_decide, ← decide_not, flag_decide, ite_not]
  simp only [BitVec.toNat_inj]

theorem opMulh_eq_ofInt (hw : 0 < w) : opMulh x y = BitVec.ofInt w (signedOf w x.toNat * signedOf w y.toNat / (2 ^ w : Nat)) := by
  rw [signedOf_toNat hw, signedOf_toNat hw, opMulh]

theorem opMulhn_eq_ofInt : opMulhn x y = BitVec.ofInt w (x.toNat * y.toNat / 2 ^ w : Nat) := (BitVec.ofInt_natCast ..).symm

theorem toNat_eq_zero_iff : y.toNat = 0 ↔ y = 0 := by rw [← BitVec.toNat_inj, BitVec.ofNat_eq_ofNat, BitVec.toNat_ofNat, Nat.zero_mod]

theorem opSel_eq_ofInt : opSel x y z = BitVec.ofInt w (if z.toNat = 0 then y.toNat else x.toNat : Nat) := by
  simp only [toNat_eq_zero_iff]
  rw [← apply_ite, ofInt_toNat, opSel]

theorem opDiv_eq_ofInt (hw : 0 < w) : opDiv x y = BitVec.ofInt w (if y.toNat = 0 then -1
    else if signedOf w x.toNat = -(2 ^ (w - 1) : Nat) ∧ signedOf w y.toNat = -1 then -(2 ^ (w - 1) : Nat)
    else (signedOf w x.toNat).tdiv (signedOf w y.toNat)) := by
  simp only [signedOf_toNat hw, toNat_eq_zero_iff, opDiv]
  split
  · rw [← BitVec.neg_one_eq_allOnes, BitVec.ofInt_neg]
    rfl
  · split
    · next h => rw [h.1, h.2, Int.neg_tdiv_neg, Int.tdiv_one, ofInt_two_pow_pred]
    · rfl

theorem opDivn_eq_ofInt : opDivn x y = BitVec.ofInt w (if y.toNat = 0 then 2 ^ w - 1 else (x.toNat / y.toNat : Nat)) := by
  simp only [toNat_eq_zero_iff, opDivn]
  split
  · rw [← ofInt_toNat (BitVec.allOnes w), BitVec.toNat_allOnes, Nat.cast_sub Nat.one_le_two_pow, Nat.cast_pow, Nat.cast_ofNat,
      Nat.cast_one]
  · rw [← BitVec.toNat_udiv, ofInt_toNat, BitVec.udiv_eq]

theorem opRem_eq_ofInt (hw : 0 < w) : opRem x y = BitVec.ofInt w (if y.toNat = 0 then signedOf w x.toNat
    else if signedOf w x.toNat = -(2 ^ (w - 1) : Nat) ∧ signedOf w y.toNat = -1 then 0
    else signedOf w x.toNat - signedOf w y.toNat * (signedOf w x.toNat).tdiv (signedOf w y.toNat)) := by
  simp only [signedOf_toNat hw, toNat_eq_zero_iff, opRem]
  split
  · rw [BitVec.ofInt_toInt]
  · split
    · next h => rw [h.2, Int.tmod_neg, Int.tmod_one]
    · rw [Int.tmod_def]

theorem opRemn_eq_ofInt :
    opRemn x y = BitVec.ofInt w (if y.toNat = 0 then x.toNat else (x.toNat - y.toNat * (x.toNat / y.toNat) : Nat)) := by
  simp only [toNat_eq_zero_iff, opRemn]
  split
  · rw [ofInt_toNat]
  · rw [← Nat.mod_eq_sub, ← BitVec.toNat_umod, ofInt_toNat, BitVec.umod_eq]

end
end Sys2Proof.Machine
end

section
/-! The functions of R121 that count or move bits, and the fields of R122, in terms of the positions at which an operand has a 1. -/

namespace Sys2Proof.Machine

/-! ### Positions of ones -/

theorem ones_one (v : Nat) : ones 1 v = if v.testBit 0 then [0] else [] := by
  rw [ones, List.range_one, List.filter_singleton]
  cases v.testBit 0 <;> rfl

theorem lt_of_mem_ones {w v i : Nat} (h : i ∈ ones w v) : i < w := List.mem_range.1 (List.mem_of_mem_filter h)

/-- The ones among the low m + n bits are those among the low m bits and, shifted up, those of what is above. -/
theorem ones_add (m n v : Nat) : ones (m + n) v = ones m v ++ (ones n (v / 2 ^ m)).map (m + ·) := by
  simp only [ones, List.range_add, List.filter_append, List.filter_map]
  congr 3
  funext i
  simp only [Function.comp_apply, Nat.testBit_div_two_pow, Nat.add_comm]

/-- The lowest bit and the rest. -/
theorem ones_succ (n v : Nat) : ones (n + 1) v = (if v.testBit 0 then [0] else []) ++ (ones n (v / 2)).map (1 + ·) := by
  rw [Nat.add_comm n 1, ones_add, ones_one, Nat.pow_one]

/-- The highest bit and the rest. -/
theorem ones_succ' (n v : Nat) : ones (n + 1) v = ones n v ++ if v.testBit n then [n] else [] := by
  rw [ones_add, ones_one, Nat.testBit_div_two_pow, Nat.zero_add]
  split <;> rfl

theorem clzBits_eq_ones (w v : Nat) : clzBits w v = match (ones w v).getLast? with | some i => w - 1 - i | none => w := by
  induction w with
  | zero => rfl
  | succ n ih =>
    rw [ones_succ', clzBits]
    cases hb : v.testBit n with
    | true => simp
    | false =>
      simp only [Bool.false_eq_true, if_false, List.append_nil, ih]
      cases hl : (ones n v).getLast? with
      | none => simp [Nat.add_comm]
      | some i =>
        have := lt_of_mem_ones (List.mem_of_getLast? hl)
        simp only
        omega

theorem ctzBits_eq_ones (w v : Nat) : ctzBits w v = match (ones w v).head? with | some i => i | none => w := by
  induction w generalizing v with
  | zero => rfl
  | succ n ih =>
    rw [ones_succ, ctzBits, Nat.testBit_zero, ih]
    by_cases hb : v % 2 = 1
    · simp [hb]
    · simp only [hb, decide_false, Bool.false_eq_true, if_false, List.nil_append, List.head?_map]
      cases (ones n (v / 2)).head? with
      | none => exact Nat.add_comm 1 n
      | some i => rfl

theorem popBits_eq_ones (w v : Nat) : popBits w v = (ones w v).length := by
  induction w generalizing v with
  | zero => rfl
  | succ n ih =>
    rw [ones_succ, popBits, Nat.testBit_zero, ih, List.length_append, List.length_map]
    rcases Nat.mod_two_eq_zero_or_one v with h | h <;> simp [h]

theorem sumBits_append (l m : List Nat) : sumBits (l ++ m) = sumBits l + sumBits m := by
  rw [sumBits, List.map_append, List.sum_append, sumBits, sumBits]

theorem sumBits_map_add (k : Nat) (l : List Nat) : sumBits (l.map (k + ·)) = 2 ^ k * sumBits l := by
  simp only [sumBits, List.map_map, Function.comp_def, Nat.pow_add, List.sum_map_mul_left]

theorem sumBits_ones (w v : Nat) : sumBits (ones w v) = v % 2 ^ w := by
  induction w generalizing v with
  | zero => exact (Nat.mod_one v).symm
  | succ n ih =>
    rw [ones_succ, sumBits_append, sumBits_map_add, ih, Nat.pow_one, Nat.pow_succ', Nat.mod_mul, Nat.testBit_zero]
    rcases Nat.mod_two_eq_zero_or_one v with h | h <;> simp [h, sumBits]

theorem revBits_eq_sumBits (w v : Nat) : revBits w v = sumBits ((ones w v).map (fun i => w - 1 - i)) := by
  induction w generalizing v with
  | zero => rfl
  | succ n ih =>
    have hm : (ones n (v / 2)).map ((fun i => n + 1 - 1 - i) ∘ (1 + ·)) = (ones n (v / 2)).map (fun i => n - 1 - i) :=
      List.map_congr_left fun i _ => show n + 1 - 1 - (1 + i) = n - 1 - i by omega
    rw [ones_succ, revBits, ih, List.map_append, List.map_map, hm, sumBits_append, Nat.testBit_zero]
    rcases Nat.mod_two_eq_zero_or_one v with h | h <;> simp [h, sumBits]

/-! ### Bytes -/

theorem ofLe_append (l : List Byte) (b : Byte) : ofLe (l ++ [b]) = ofLe l + 256 ^ l.length * b.toNat := by
  induction l with
  | nil => simp [ofLe]
  | cons x l ih =>
    rw [List.cons_append, ofLe, ofLe, ih, List.length_cons, Nat.pow_succ']
    ring

/-- Bit i of the number that k bytes hold in reverse order stands at 8 (k - 1 - i / 8) + i mod 8. -/
theorem ofLe_reverse_leBytes (k v : Nat) :
    ofLe (leBytes k v).reverse = sumBits ((ones (8 * k) v).map (fun i => 8 * (k - 1 - i / 8) + i % 8)) := by
  induction k generalizing v with
  | zero => rfl
  | succ k ih =>
    have hlow : (ones 8 v).map (fun i => 8 * (k + 1 - 1 - i / 8) + i % 8) = (ones 8 v).map (8 * k + ·) :=
      List.map_congr_left fun i hi => by
        have := lt_of_mem_ones hi
        rw [Nat.div_eq_of_lt this, Nat.mod_eq_of_lt this]
        rfl
    have hhigh : (ones (8 * k) (v / 2 ^ 8)).map ((fun i => 8 * (k + 1 - 1 - i / 8) + i % 8) ∘ (8 + ·)) =
        (ones (8 * k) (v / 256)).map (fun i => 8 * (k - 1 - i / 8) + i % 8) :=
      List.map_congr_left fun i _ => show 8 * (k + 1 - 1 - (8 + i) / 8) + (8 + i) % 8 = _ by omega
    rw [Nat.mul_succ, Nat.add_comm (8 * k) 8, ones_add, List.map_append, List.map_map, hlow, hhigh, sumBits_append, ← ih,
      sumBits_map_add, sumBits_ones, leBytes, List.reverse_cons, ofLe_append, List.length_reverse, leBytes_length, BitVec.toNat_ofNat,
      Nat.pow_mul, Nat.add_comm]

/-! ### Rows that count and move bits -/

section
variable {w : Nat} (x y z : BitVec w)

theorem opClz_eq_ofInt : opClz x = BitVec.ofInt w (match (ones w x.toNat).getLast? with | some i => w - 1 - i | none => w : Nat) := by
  rw [BitVec.ofInt_natCast, ← clzBits_eq_ones, opClz]

theorem opCtz_eq_ofInt : opCtz x = BitVec.ofInt w (match (ones w x.toNat).head? with | some i => i | none => w : Nat) := by
  rw [BitVec.ofInt_natCast, ← ctzBits_eq_ones, opCtz]

theorem opPop_eq_ofInt : opPop x = BitVec.ofInt w ((ones w x.toNat).length : Nat) := by
  rw [BitVec.ofInt_natCast, ← popBits_eq_ones, opPop]

theorem opBrev_eq_ofInt : opBrev x = BitVec.ofInt w (sumBits ((ones w x.toNat).map (fun i => w - 1 - i)) : Nat) := by
  rw [BitVec.ofInt_natCast, ← revBits_eq_sumBits, opBrev]

theorem opBswap_eq_ofInt (h8 : 8 ∣ w) :
    opBswap x = BitVec.ofInt w (sumBits ((ones w x.toNat).map (fun i => 8 * (w / 8 - 1 - i / 8) + i % 8)) : Nat) := by
  have h := ofLe_reverse_leBytes (w / 8) x.toNat
  rw [Nat.mul_div_cancel' h8] at h
  rw [BitVec.ofInt_natCast, ← h, opBswap]

/-! ### Fields -/

theorem fieldLen_eq_cutLen : fieldLen y = cutLen w y.toNat := rfl

/-- A field that is not empty lies within the width. -/
theorem cutLen_add_le {b : Nat} (h : 0 < cutLen w b) : cutLen w b + b % 64 ≤ w := by
  unfold cutLen at h ⊢
  split at h
  · exact absurd h (Nat.lt_irrefl 0)
  · next hp =>
    rw [if_neg hp]
    omega

/-- A field cut out by a mask. -/
theorem and_mask_div (a l p : Nat) : (a &&& (2 ^ l - 1) * 2 ^ p) / 2 ^ p = a / 2 ^ p % 2 ^ l := by
  rw [Nat.and_div_two_pow, Nat.mul_div_cancel _ (Nat.two_pow_pos p), Nat.and_two_pow_sub_one_eq_mod]

/-- A field of l bits as a signed number (R122). -/
theorem toSigned_of_lt {l f : Nat} (hl : 0 < l) (hf : f < 2 ^ l) : toSigned l f = if f.testBit (l - 1) then (f : Int) - 2 ^ l else f := by
  have hp : 2 ^ (l - 1 + 1) = 2 ^ l := by rw [Nat.sub_add_cancel hl]
  rw [toSigned, Nat.mod_eq_of_lt hf]
  by_cases h : f < 2 ^ (l - 1)
  · rw [Nat.testBit_lt_two_pow h, if_pos (by omega), if_neg Bool.false_ne_true]
  · rw [Nat.testBit_of_two_pow_le_and_two_pow_add_one_gt (Nat.le_of_not_lt h) (hp ▸ hf), if_neg (by omega), if_pos rfl, Nat.cast_pow,
      Nat.cast_ofNat]

theorem opBfx_eq_ofInt : opBfx x y = BitVec.ofInt w (bfxOf w x.toNat y.toNat) := by
  simp only [opBfx, bfxOf]
  rw [and_mask_div, fieldLen_eq_cutLen, fieldPos, BitVec.testBit_toNat]
  generalize cutLen w y.toNat = l
  have hf := Nat.mod_lt (x.toNat / 2 ^ (y.toNat % 64)) (Nat.two_pow_pos l)
  generalize x.toNat / 2 ^ (y.toNat % 64) % 2 ^ l = f at hf ⊢
  by_cases h : y.getLsbD 16 = true ∧ 0 < l
  · rw [if_pos h, toSigned_of_lt h.2 hf]
    simp only [h, true_and]
  · rw [if_neg h, if_neg fun ⟨hs, hl, _⟩ => h ⟨hs, hl⟩, BitVec.ofInt_natCast]

/-- The mask of a field stays within the width. -/
theorem mask_lt (b : Nat) : (2 ^ cutLen w b - 1) * 2 ^ (b % 64) < 2 ^ w := by
  rcases Nat.eq_zero_or_pos (cutLen w b) with h | h
  · rw [h, Nat.pow_zero, Nat.sub_self, Nat.zero_mul]
    exact Nat.two_pow_pos w
  · calc (2 ^ cutLen w b - 1) * 2 ^ (b % 64)
      _ < 2 ^ cutLen w b * 2 ^ (b % 64) := Nat.mul_lt_mul_of_pos_right (Nat.sub_one_lt (Nat.two_pow_pos _).ne') (Nat.two_pow_pos _)
      _ = 2 ^ (cutLen w b + b % 64) := (Nat.pow_add ..).symm
      _ ≤ 2 ^ w := Nat.pow_le_pow_right Nat.two_pos (cutLen_add_le h)

theorem ofNat_complement {m : Nat} (h : m < 2 ^ w) : BitVec.ofNat w (2 ^ w - 1 - m) = ~~~ BitVec.ofNat w m := by
  apply BitVec.eq_of_toNat_eq
  rw [BitVec.toNat_not, BitVec.toNat_ofNat, BitVec.toNat_ofNat, Nat.mod_eq_of_lt h, Nat.mod_eq_of_lt (by omega)]

theorem opBfi_eq_ofInt : opBfi x y z = BitVec.ofInt w (bfiOf w x.toNat y.toNat z.toNat : Nat) := by
  simp only [opBfi, bfiOf]
  rw [BitVec.ofInt_natCast, BitVec.ofNat_or, BitVec.ofNat_and, ofNat_complement (mask_lt _), BitVec.ofNat_toNat, BitVec.setWidth_eq,
    fieldLen_eq_cutLen, fieldPos]

end
end Sys2Proof.Machine
end

section
/-! The integer words (R121): each is issued with the function of its low byte, and completes with the result of its table row. -/

namespace Sys2Proof.Machine

/-- The function of an integer word in w bits, by its low byte (R59): of the operands a, b and d, in the model's own operations. -/
def intFun (w : Nat) : Nat → Option (BitVec w → BitVec w → BitVec w → BitVec w)
  | 0x00 => some fun a b _ => a + b
  | 0x01 => some fun a b _ => a - b
  | 0x02 => some fun a b _ => a &&& b
  | 0x03 => some fun a b _ => a ||| b
  | 0x04 => some fun a b _ => a ^^^ b
  | 0x05 => some fun a b _ => opAndn a b
  | 0x06 => some fun a b _ => opOrn a b
  | 0x08 => some fun a b _ => opShl a b
  | 0x09 => some fun a b _ => opShr a b
  | 0x0A => some fun a b _ => opSha a b
  | 0x0B => some fun a b _ => opRotl a b
  | 0x10 => some fun a b _ => opMin a b
  | 0x11 => some fun a b _ => opMax a b
  | 0x12 => some fun a b _ => opMinn a b
  | 0x13 => some fun a b _ => opMaxn a b
  | 0x14 => some fun a b _ => opSlt a b
  | 0x15 => some fun a b _ => opSltn a b
  | 0x16 => some fun a b _ => opSeq a b
  | 0x17 => some fun a b _ => opSne a b
  | 0x18 => some fun a b d => opSel a b d
  | 0x20 => some fun a b _ => a * b
  | 0x21 => some fun a b _ => opMulh a b
  | 0x22 => some fun a b _ => opMulhn a b
  | 0x24 => some fun a b _ => opDiv a b
  | 0x25 => some fun a b _ => opDivn a b
  | 0x26 => some fun a b _ => opRem a b
  | 0x27 => some fun a b _ => opRemn a b
  | 0x30 => some fun a _ _ => opClz a
  | 0x31 => some fun a _ _ => opCtz a
  | 0x32 => some fun a _ _ => opPop a
  | 0x33 => some fun a _ _ => opBrev a
  | 0x34 => some fun a _ _ => opBswap a
  | 0x40 => some fun a b _ => opBfx a b
  | 0x41 => some fun a b d => opBfi a b d
  | _ => none

/-- What an integer word does once it issues: its function of the operands, cut to w bits, goes to d; a division takes note of a divisor
that is 0. -/
def intBody (w fn : Nat) (f : BitVec w → BitVec w → BitVec w → BitVec w) (d a b : Spec) (s : State) : Ex :=
  if isDivision fn then divWord w d (fun x y => f x y ((s.th.read d).setWidth w)) a b s
  else valueWord d (fun t => tri w f (t.read a) (t.read b) (t.read d)) s

variable {i : Instr} {w fn : Nat} {d a b : Spec}

theorem intWord_width (h : intWord i = some (w, fn, d, a, b)) : w = 64 ∨ w = 32 := by
  unfold intWord at h
  split at h <;> cases h <;> decide

/-- Each of the 68 words is issued with the function that the table has for its low byte. -/
theorem exec_intWord (h : intWord i = some (w, fn, d, a, b)) (s : State) :
    ∃ f, intFun w fn = some f ∧ exec i s = issueWord i (intBody w fn f d a b) s := by
  unfold intWord at h
  split at h <;> cases h <;> exact ⟨_, rfl, rfl⟩

/-- An integer word with nothing in its way completes with the value of its function; a division by 0 sets TS.DZ (R29). -/
theorem intBody_computed {s : State} (h : s.Free i) (f : BitVec w → BitVec w → BitVec w → BitVec w) {v : Word}
    (hv : v = tri w f (s.th.read a) (s.th.read b) (s.th.read d)) :
    ∃ t, issueWord i (intBody w fn f d a b) s = .next t ∧
      s.Computed t d v s.th.ffl (s.th.dz || (isDivision fn && decide ((s.th.read b).toNat % 2 ^ w = 0))) s.th.srnd := by
  have hz : (s.th.read b).setWidth w = 0 ↔ (s.th.read b).toNat % 2 ^ w = 0 := by
    rw [← BitVec.toNat_inj, BitVec.toNat_setWidth, BitVec.ofNat_eq_ofNat, BitVec.toNat_ofNat, Nat.zero_mod]
  obtain ⟨hrest, hffl, hdz, hsrnd, hy0, hy0Id, hpc, hla, hlc, hls, hle, -, hxfer⟩ := write_rest s.th d v
  cases hd : isDivision fn with
  | true =>
    have hb : intBody w fn f d a b s =
        .done { s with th := { s.th.write d v with dz := s.th.dz || decide ((s.th.read b).setWidth w = 0) } } v none .seq := by
      rw [hv]
      exact if_pos hd
    have hc := done_computed i _ s h d v _ hb rfl rfl rfl ⟨hy0, hy0Id⟩ ⟨hpc, hla, hlc, hls, hle⟩ hrest hxfer
    simpa only [hffl, hsrnd, hz, Bool.true_and] using hc
  | false =>
    have hb : intBody w fn f d a b s = .done { s with th := s.th.write d v } v none .seq := by
      rw [hv]
      exact if_neg (hd ▸ Bool.false_ne_true)
    have hc := done_computed i _ s h d v _ hb rfl rfl rfl ⟨hy0, hy0Id⟩ ⟨hpc, hla, hlc, hls, hle⟩ hrest hxfer
    simpa only [hffl, hdz, hsrnd, Bool.false_and, Bool.or_false] using hc

/-- The function of each low byte is the result of its table row, cut to w bits (R29, R121, R122). -/
theorem intFun_eq_ofInt (hw : 0 < w) (h8 : 8 ∣ w) {f : BitVec w → BitVec w → BitVec w → BitVec w} (h : intFun w fn = some f)
    (x y z : BitVec w) :
    ∃ r, (intTwo w fn x.toNat y.toNat).or ((intOne w fn x.toNat).or (intThree w fn x.toNat y.toNat z.toNat)) = some r ∧
      f x y z = BitVec.ofInt w r := by
  unfold intFun at h
  split at h <;> cases h
  · exact ⟨_, rfl, add_eq_ofInt x y⟩
  · exact ⟨_, rfl, sub_eq_ofInt x y⟩
  · exact ⟨_, rfl, and_eq_ofInt x y⟩
  · exact ⟨_, rfl, or_eq_ofInt x y⟩
  · exact ⟨_, rfl, xor_eq_ofInt x y⟩
  · exact ⟨_, rfl, opAndn_eq_ofInt x y⟩
  · exact ⟨_, rfl, opOrn_eq_ofInt x y⟩
  · exact ⟨_, rfl, opShl_eq_ofInt x y⟩
  · exact ⟨_, rfl, opShr_eq_ofInt x y⟩
  · exact ⟨_, rfl, opSha_eq_ofInt x y hw⟩
  · exact ⟨_, rfl, opRotl_eq_ofInt x y hw⟩
  · exact ⟨_, rfl, opMin_eq_ofInt x y hw⟩
  · exact ⟨_, rfl, opMax_eq_ofInt x y hw⟩
  · exact ⟨_, rfl, opMinn_eq_ofInt x y⟩
  · exact ⟨_, rfl, opMaxn_eq_ofInt x y⟩
  · exact ⟨_, rfl, opSlt_eq_ofInt x y hw⟩
  · exact ⟨_, rfl, opSltn_eq_ofInt x y⟩
  · exact ⟨_, rfl, opSeq_eq_ofInt x y⟩
  · exact ⟨_, rfl, opSne_eq_ofInt x y⟩
  · exact ⟨_, rfl, opSel_eq_ofInt x y z⟩
  · exact ⟨_, rfl, mul_eq_ofInt x y⟩
  · exact ⟨_, rfl, opMulh_eq_ofInt x y hw⟩
  · exact ⟨_, rfl, opMulhn_eq_ofInt x y⟩
  · exact ⟨_, rfl, opDiv_eq_ofInt x y hw⟩
  · exact ⟨_, rfl, opDivn_eq_ofInt x y⟩
  · exact ⟨_, rfl, opRem_eq_ofInt x y hw⟩
  · exact ⟨_, rfl, opRemn_eq_ofInt x y⟩
  · exact ⟨_, rfl, opClz_eq_ofInt x⟩
  · exact ⟨_, rfl, opCtz_eq_ofInt x⟩
  · exact ⟨_, rfl, opPop_eq_ofInt x⟩
  · exact ⟨_, rfl, opBrev_eq_ofInt x⟩
  · exact ⟨_, rfl, opBswap_eq_ofInt x h8⟩
  · exact ⟨_, rfl, opBfx_eq_ofInt x y⟩
  · exact ⟨_, rfl, opBfi_eq_ofInt x y z⟩

/-- What the tables give for the operands of a word is its function of them, sign-extended (R121). -/
theorem intResult_eq (hw : 0 < w) (h8 : 8 ∣ w) {f : BitVec w → BitVec w → BitVec w → BitVec w} (h : intFun w fn = some f)
    (a b d : Word) :
    intResult w fn a b d = some (tri w f a b d) := by
  obtain ⟨r, hr, hf⟩ := intFun_eq_ofInt hw h8 h (a.setWidth w) (b.setWidth w) (d.setWidth w)
  simp only [BitVec.toNat_setWidth] at hr
  simp only [intResult, hr, Option.map_some, wrapTo, tri, hf]

end Sys2Proof.Machine
end

section
open Sys2Proof Sys2Proof.Machine

/-- Settles O2: a word is issued with the function of its low byte (`exec_intWord`), completes with that function's value
(`intBody_computed`), and the value is that of the tables (`intResult_eq`). -/
theorem integerResults : Obligations.IntegerResults := by
  unfold Obligations.IntegerResults
  intro s i w fn d a b hi hfree
  obtain ⟨f, hf, he⟩ := exec_intWord hi s
  have hw : 0 < w ∧ 8 ∣ w := by
    obtain rfl | rfl := intWord_width hi
    · decide
    · decide
  obtain ⟨t, ht, hc⟩ := intBody_computed hfree f rfl
  exact ⟨_, t, intResult_eq hw.1 hw.2 hf _ _ _, he.trans ht, hc⟩

end

section
/-! Decoding and encoding (R52 to R79, R81): a word is packed from its fields, so that what the decoder reads from it encodes to it again;
and each instruction's own lemma gives the other direction. -/

namespace Sys2Proof.Laws.RoundTrip

/-! ### Words and their fields (R52) -/

/-- A word without its k low bits. -/
def above (w : Word32) (k : Nat) : Nat := shiftRight w.toNat k

theorem ofNat_above_zero (w : Word32) : BitVec.ofNat 32 (above w 0) = w := by
  rw [above, shiftRight_zero, BitVec.ofNat_toNat, BitVec.setWidth_eq]

theorem fld_toNat (w : Word32) (lo len : Nat) : (fld w lo len).toNat = above w lo % 2 ^ len := by
  rw [fld, BitVec.extractLsb'_toNat, Nat.shiftRight_eq_div_pow]
  rfl

theorem above_add (w : Word32) (k n : Nat) : above w (k + n) = above w k / 2 ^ n := by
  rw [above, shiftRight, Nat.pow_add, ← Nat.div_div_eq_div_mul]
  rfl

/-- A packed number is the top of a word exactly if its parts are the word's field there and what lies above. -/
theorem pk_eq_above_iff {n hi k : Nat} {x : BitVec n} {w : Word32} :
    pk hi x = above w k ↔ hi = above w (k + n) ∧ x.toNat = (fld w k n).toNat := by
  rw [above_add, fld_toNat, pk]
  have hx := x.isLt
  constructor
  · intro h
    rw [← h, Nat.mul_comm, Nat.mul_add_div (Nat.two_pow_pos n), Nat.mul_add_mod, Nat.div_eq_of_lt hx, Nat.mod_eq_of_lt hx]
    exact ⟨rfl, rfl⟩
  · rintro ⟨rfl, h⟩
    rw [h, Nat.div_add_mod']

/-- The major of a word is what lies above its 26 low bits. -/
theorem above_major (w : Word32) : above w 26 = (fld w 26 6).toNat := by
  rw [fld_toNat, Nat.mod_eq_of_lt]
  exact Nat.div_lt_of_lt_mul w.isLt

/-- An instruction is what a word stands for: it encodes to the word, and is not the constructor of an unassigned major. -/
structure Reads (w : Word32) (i : Instr) : Prop where
  back : encode i = w
  assigned : ∀ v, i ≠ .illegalWord v

variable {w : Word32}

theorem Reads.noInstruction (w : Word32) : Reads w (.unassignedFnWord w) := ⟨rfl, nofun⟩

theorem Reads.packed {i : Instr} {v : Nat} (he : encode i = .ofNat 32 v) (hv : v = above w 0) (hi : ∀ u, i ≠ .illegalWord u) : Reads w i :=
  ⟨he.trans (hv ▸ ofNat_above_zero w), hi⟩

theorem reads_decInt64 (h : (fld w 26 6).toNat = 0x01) : Reads w (decInt64 w) := by
  unfold decInt64
  split
  all_goals try split
  all_goals first
  | exact .noInstruction w
  | exact .packed rfl (by simp [pk_eq_above_iff, above_major, *]) nofun

theorem reads_decInt32 (h : (fld w 26 6).toNat = 0x02) : Reads w (decInt32 w) := by
  unfold decInt32
  split
  all_goals try split
  all_goals first
  | exact .noInstruction w
  | exact .packed rfl (by simp [pk_eq_above_iff, above_major, *]) nofun

theorem reads_decFloat (h : (fld w 26 6).toNat = 0x03) : Reads w (decFloat w) := by
  unfold decFloat
  split
  all_goals try split
  all_goals first
  | exact .noInstruction w
  | exact .packed rfl (by simp [pk_eq_above_iff, above_major, *]) nofun

theorem reads_decConv (h : (fld w 26 6).toNat = 0x04) : Reads w (decConv w) := by
  unfold decConv
  split
  all_goals first
  | exact .noInstruction w
  | exact .packed rfl (by simp [pk_eq_above_iff, above_major, *]) nofun

theorem reads_decCsr (h : (fld w 26 6).toNat = 0x05) : Reads w (decCsr w) := by
  unfold decCsr
  split
  all_goals try split
  all_goals first
  | exact .noInstruction w
  | exact .packed rfl (by simp [pk_eq_above_iff, above_major, *]) nofun

theorem reads_decShift (h : (fld w 26 6).toNat = 0x0E) : Reads w (decShift w) := by
  unfold decShift
  split
  all_goals try split
  all_goals first
  | exact .noInstruction w
  | exact .packed rfl (by simp [pk_eq_above_iff, above_major, *]) nofun

theorem reads_decLd (h : (fld w 26 6).toNat = 0x14) : Reads w (decLd w) := by
  unfold decLd
  split
  all_goals try split
  all_goals first
  | exact .noInstruction w
  | exact .packed rfl (by simp [pk_eq_above_iff, above_major, *]) nofun

theorem reads_decLdn (h : (fld w 26 6).toNat = 0x15) : Reads w (decLdn w) := by
  unfold decLdn
  split
  all_goals first
  | exact .noInstruction w
  | exact .packed rfl (by simp [pk_eq_above_iff, above_major, *]) nofun

theorem reads_decSt (h : (fld w 26 6).toNat = 0x16) : Reads w (decSt w) := by
  unfold decSt
  split
  all_goals try split
  all_goals first
  | exact .noInstruction w
  | exact .packed rfl (by simp [pk_eq_above_iff, above_major, *]) nofun

theorem reads_decLdbit (h : (fld w 26 6).toNat = 0x17) : Reads w (decLdbit w) := by
  unfold decLdbit
  split
  all_goals try split
  all_goals first
  | exact .noInstruction w
  | exact .packed rfl (by simp [pk_eq_above_iff, above_major, *]) nofun

theorem reads_decStbit (h : (fld w 26 6).toNat = 0x18) : Reads w (decStbit w) := by
  unfold decStbit
  split
  all_goals try split
  all_goals first
  | exact .noInstruction w
  | exact .packed rfl (by simp [pk_eq_above_iff, above_major, *]) nofun

theorem reads_decLdAcq (h : (fld w 26 6).toNat = 0x19) : Reads w (decLdAcq w) := by
  unfold decLdAcq
  split
  all_goals first
  | exact .noInstruction w
  | exact .packed rfl (by simp [pk_eq_above_iff, above_major, *]) nofun

theorem reads_decStRel (h : (fld w 26 6).toNat = 0x1A) : Reads w (decStRel w) := by
  unfold decStRel
  split
  all_goals first
  | exact .noInstruction w
  | exact .packed rfl (by simp [pk_eq_above_iff, above_major, *]) nofun

theorem reads_decAmo (h : (fld w 26 6).toNat = 0x1B) : Reads w (decAmo w) := by
  unfold decAmo
  split
  all_goals first
  | exact .noInstruction w
  | exact .packed rfl (by simp [pk_eq_above_iff, above_major, *]) nofun

theorem reads_decPref (h : (fld w 26 6).toNat = 0x1C) : Reads w (decPref w) := by
  unfold decPref
  split
  all_goals first
  | exact .noInstruction w
  | exact .packed rfl (by simp [pk_eq_above_iff, above_major, *]) nofun

theorem reads_decOrder (h : (fld w 26 6).toNat = 0x1D) : Reads w (decOrder w) := by
  unfold decOrder
  split
  all_goals try split
  all_goals first
  | exact .noInstruction w
  | exact .packed rfl (by simp [pk_eq_above_iff, above_major, *]) nofun

theorem reads_decBr (h : (fld w 26 6).toNat = 0x20) : Reads w (decBr w) := by
  unfold decBr
  split
  all_goals first
  | exact .noInstruction w
  | exact .packed rfl (by simp [pk_eq_above_iff, above_major, *]) nofun

theorem reads_decIndirect (h : (fld w 26 6).toNat = 0x23) : Reads w (decIndirect w) := by
  unfold decIndirect
  split
  all_goals try split
  all_goals first
  | exact .noInstruction w
  | exact .packed rfl (by simp [pk_eq_above_iff, above_major, *]) nofun

theorem reads_decLoop (h : (fld w 26 6).toNat = 0x24) : Reads w (decLoop w) := by
  unfold decLoop
  split
  all_goals try split
  all_goals first
  | exact .noInstruction w
  | exact .packed rfl (by simp [pk_eq_above_iff, above_major, *]) nofun

theorem reads_decThread (h : (fld w 26 6).toNat = 0x28) : Reads w (decThread w) := by
  unfold decThread
  split
  all_goals try split
  all_goals first
  | exact .noInstruction w
  | exact .packed rfl (by simp [pk_eq_above_iff, above_major, *]) nofun

theorem reads_decSystem (h : (fld w 26 6).toNat = 0x29) : Reads w (decSystem w) := by
  unfold decSystem
  split
  all_goals try split
  all_goals first
  | exact .noInstruction w
  | exact .packed rfl (by simp [pk_eq_above_iff, above_major, *]) nofun

theorem reads_decEngine (h : (fld w 26 6).toNat = 0x2C) : Reads w (decEngine w) := by
  unfold decEngine
  split
  all_goals try split
  all_goals first
  | exact .noInstruction w
  | exact .packed rfl (by simp [pk_eq_above_iff, above_major, *]) nofun

theorem reads_decChannel (h : (fld w 26 6).toNat = 0x2D) : Reads w (decChannel w) := by
  unfold decChannel
  split
  all_goals try split
  all_goals first
  | exact .noInstruction w
  | exact .packed rfl (by simp [pk_eq_above_iff, above_major, *]) nofun

theorem reads_decPfx (h : (fld w 26 6).toNat = 0x30) : Reads w (decPfx w) := by
  unfold decPfx
  split
  all_goals try split
  all_goals first
  | exact .noInstruction w
  | exact .packed rfl (by simp [pk_eq_above_iff, above_major, *]) nofun


/-- Every word of a major with a group stands for what the decoder answers. -/
theorem reads_decode (h : majorAssigned (w.extractLsb' 26 6) = true) : Reads w (decode w) := by
  unfold decode
  split
  · next h => exact reads_decInt64 h
  · next h => exact reads_decInt32 h
  · next h => exact reads_decFloat h
  · next h => exact reads_decConv h
  · next h => exact reads_decCsr h
  · next h => exact .packed rfl (by simp [pk_eq_above_iff, above_major, h]) nofun
  · next h => exact .packed rfl (by simp [pk_eq_above_iff, above_major, h]) nofun
  · next h => exact .packed rfl (by simp [pk_eq_above_iff, above_major, h]) nofun
  · next h => exact .packed rfl (by simp [pk_eq_above_iff, above_major, h]) nofun
  · next h => exact .packed rfl (by simp [pk_eq_above_iff, above_major, h]) nofun
  · next h => exact .packed rfl (by simp [pk_eq_above_iff, above_major, h]) nofun
  · next h => exact reads_decShift h
  · next h => exact .packed rfl (by simp [pk_eq_above_iff, above_major, h]) nofun
  · next h => exact .packed rfl (by simp [pk_eq_above_iff, above_major, h]) nofun
  · next h => exact .packed rfl (by simp [pk_eq_above_iff, above_major, h]) nofun
  · next h => exact reads_decLd h
  · next h => exact reads_decLdn h
  · next h => exact reads_decSt h
  · next h => exact reads_decLdbit h
  · next h => exact reads_decStbit h
  · next h => exact reads_decLdAcq h
  · next h => exact reads_decStRel h
  · next h => exact reads_decAmo h
  · next h => exact reads_decPref h
  · next h => exact reads_decOrder h
  · next h => exact reads_decBr h
  · next h => exact .packed rfl (by simp [pk_eq_above_iff, above_major, h]) nofun
  · next h => exact .packed rfl (by simp [pk_eq_above_iff, above_major, h]) nofun
  · next h => exact reads_decIndirect h
  · next h => exact reads_decLoop h
  · next h => exact reads_decThread h
  · next h => exact reads_decSystem h
  · next h => exact reads_decEngine h
  · next h => exact reads_decChannel h
  · next h => exact reads_decPfx h
  · simp only [majorAssigned, decide_eq_true_eq, show w.extractLsb' 26 6 = fld w 26 6 from rfl] at h
    simp only [imp_false] at *
    omega

theorem decode_unassigned (h : majorAssigned (w.extractLsb' 26 6) = false) : decode w = .illegalWord w := by
  unfold decode
  split
  all_goals first | rfl | next e => simp [majorAssigned, show w.extractLsb' 26 6 = fld w 26 6 from rfl, e] at h

theorem encode_decode (w : Word32) : encode (decode w) = w := by
  cases h : majorAssigned (w.extractLsb' 26 6) with
  | false => rw [decode_unassigned h]; rfl
  | true => exact (reads_decode h).back

/-! ### Instructions and their words -/

/-- Every instruction that a word stands for is read back: each constructor by its own lemma. -/
theorem statement_scalar {i : Instr} (hs : i.isScalar = true) : Statement i := by
  cases i <;> first
  | exact absurd hs Bool.false_ne_true
  | simp only [
    add, sub, and, or, xor, andn, orn, shl, shr, sha, rotl, min, max, minn, maxn, slt, sltn, seq, sne, sel, mul, mulh, mulhn, div,
    divn, rem, remn, clz, ctz, pop, brev, bswap, bfx, bfi, add32, sub32, and32, or32, xor32, andn32, orn32, shl32, shr32, sha32,
    rotl32, min32, max32, minn32, maxn32, slt32, sltn32, seq32, sne32, sel32, mul32, mulh32, mulhn32, div32, divn32, rem32, remn32,
    clz32, ctz32, pop32, brev32, bswap32, bfx32, bfi32, fadd, fsub, fmul, fdiv, fsqrt, fma, fnma, fmin, fmax, fsgn, feq, flt, fle,
    fclass, fmv, cvt, cvtb, csrr, csrw, csrs, csrc, addi, andi, ori, xori, slti, sltni, shli, shri, shai, muli, lui, addpc, ld, ldp,
    ldn, st, stp, ldbit, stbit, ldAcq, stRel, amoAdd, amoAnd, amoOr, amoXor, amoMin, amoMax, amoMinn, amoMaxn, amoSwap, amoCas,
    pref, fence, publ, brEq, brNe, brLt, brGe, brLtn, brGen, jmp, call, jr, callr, ret, callx, reply, loopi, loop, spawn, exit,
    yield, sleep, wake, semp, semv, barr, bcast, migr, pin, unpin, waitl, trap, eret, cqpush, nblBox, nblBin, nblPairs, nblStat,
    pgsSum, pgsSel, sflTab, sflBag, wdqGrid, wdqAsk, enq, chput, chget, chwin, chsync, slipr, sliprep, pfxFmt, pfxScl, illegalWord,
    unassignedFnWord]

theorem decode_encode {i : Instr} (hs : i.isScalar = true) (hw : i.wf = true) (hu : ∀ w, i ≠ .unassignedFnWord w) :
    decode (encode i) = i := by
  have h := statement_scalar hs
  rw [Statement, if_pos hs] at h
  exact h hw hu

end Sys2Proof.Laws.RoundTrip
end

section
open Sys2Proof Sys2Proof.Laws.RoundTrip

/-- Settles O58: `decode_encode` by the lemma of each constructor, `encode_decode` by the group of the word's major. -/
theorem decodeInvertsEncode : Obligations.DecodeInvertsEncode := ⟨fun _ => decode_encode, encode_decode⟩

/-- Settles O60: sixteen words, decoded. -/
theorem decodedWords : Obligations.DecodedWords :=
  ⟨rfl, rfl, rfl, rfl, rfl, rfl, rfl, rfl, rfl, rfl, rfl, rfl, rfl, rfl, rfl, rfl⟩

end

section

/-!
# Which words are issued with a body, and what a specifier reads and writes (R54, R81)

Every scalar instruction but the prefixes and the words that are no instruction is issued by `issueWord` with a body of its own, so what
`issueWord` says of a word that is not well formed holds of them all.
-/

namespace Sys2Proof.Machine

/-- Every scalar instruction but the prefixes and the words that are none is issued with a body of its own (R81). -/
theorem exec_issueWord {i : Instr} (hs : i.isScalar = true) (hf : ∀ a b d r f, i ≠ .pfxFmt a b d r f) (hc : ∀ g r c k, i ≠ .pfxScl g r c k)
    (hi : ∀ w, i ≠ .illegalWord w) (hu : ∀ w, i ≠ .unassignedFnWord w) (s : State) : ∃ body, exec i s = issueWord i body s := by
  cases i with
  | pfxFmt => exact (hf _ _ _ _ _ rfl).elim
  | pfxScl => exact (hc _ _ _ _ rfl).elim
  | illegalWord => exact (hi _ rfl).elim
  | unassignedFnWord => exact (hu _ rfl).elim
  | _ =>
    first
    | exact absurd hs Bool.false_ne_true
    | dsimp only [exec]
      exact ⟨_, rfl⟩

/-- A word that is not well formed raises ILLEGAL (R81). -/
theorem issueWord_illegal {s : State} {i : Instr} {body : State → Ex} (hm : s.th.mode = .ready) (hw : i.wf = false) :
    issueWord i body s = .next (s.trapAt i { code := .illegal }) := by
  rw [issueWord, if_neg (not_not_intro hm), if_pos hw]

/-- A specifier that may not be read or written makes a word not well formed (R54, R55). -/
theorem wf_false_of_specifier {i : Instr} (h : (∃ x ∈ i.uses, 42 ≤ x.toNat) ∨ (∃ x ∈ i.dests, 40 ≤ x.toNat)) : i.wf = false := by
  rw [Instr.wf, Bool.and_eq_false_iff, Bool.and_eq_false_iff, List.all_eq_false, List.all_eq_false]
  refine .inl (h.imp ?_ ?_)
  · rintro ⟨x, hx, hn⟩
    exact ⟨x, hx, by simpa [Spec.readable] using hn⟩
  · rintro ⟨x, hx, hn⟩
    exact ⟨x, hx, by simpa [Spec.writable] using hn⟩

theorem read_g (t : Thread) (x : Spec) (h : x.toNat < 32) (h0 : 0 < x.toNat) : t.read x = t.g[x.toNat] := by
  simp [Thread.read, h, Nat.ne_of_gt h0]

theorem read_q (t : Thread) (x : Spec) (h : 32 ≤ x.toNat ∧ x.toNat ≤ 39) : t.read x = t.q[x.toNat - 32] := by
  have h1 : ¬ x.toNat < 32 := by omega
  have h2 : x.toNat - 32 < 8 := by omega
  have h3 : x.toNat ≠ 0 := by omega
  simp [Thread.read, h1, h2, h3]

theorem write_g (t : Thread) (x : Spec) (v : Word) (h : x.toNat < 32) (h0 : 0 < x.toNat) :
    (t.write x v).g = t.g.set x.toNat v ∧ (t.write x v).q = t.q := by
  simp [Thread.write, Thread.put, h, Nat.ne_of_gt h0]

theorem write_q (t : Thread) (x : Spec) (v : Word) (h : 32 ≤ x.toNat ∧ x.toNat ≤ 39) :
    (t.write x v).q = t.q.set (x.toNat - 32) v ∧ (t.write x v).g = t.g := by
  have h1 : ¬ x.toNat < 32 := by omega
  have h2 : x.toNat - 32 < 8 := by omega
  have h3 : x.toNat ≠ 0 := by omega
  simp [Thread.write, Thread.put, h1, h2, h3]

theorem eq_zero_of_toNat {x : Spec} (h : x.toNat = 0) : x = 0 := BitVec.eq_of_toNat_eq h

/-- The payload words have no specifier, so a word with one that may not be read or written is issued with a body. -/
theorem exec_issueWord_of_specifier {i : Instr} (hs : i.isScalar = true)
    (h : (∃ x ∈ i.uses, 42 ≤ x.toNat) ∨ (∃ x ∈ i.dests, 40 ≤ x.toNat)) (s : State) : ∃ body, exec i s = issueWord i body s := by
  refine exec_issueWord hs ?_ ?_ ?_ ?_ s
  · rintro _ _ _ _ _ rfl
    simp [Instr.uses, Instr.dests] at h
  · rintro _ _ _ _ rfl
    simp [Instr.uses, Instr.dests] at h
  · rintro _ rfl
    simp [Instr.uses, Instr.dests] at h
  · rintro _ rfl
    simp [Instr.uses, Instr.dests] at h

/-- A ready thread with a pfx.fmt pending and a reply that it waits for. -/
def prefixedThread : Thread :=
  { Thread.initial with mode := .ready, fv := true, inflight := [{ id := 0, dst := none, late := .status }] }

/-- What keeps the thread from issuing after a step, so that a fault that it waits with can be read off. -/
def waitAfter : Host.Outcome State Fault Refusal → Wait
  | .next t => t.th.wait
  | _ => .none

end Sys2Proof.Machine
end

section
open Sys2Proof Sys2Proof.Machine

/-- Settles O1: the reads and writes by the specifier's range (`read_g`, `read_q`, `write_g`, `write_q`); a word that names a specifier
outside them is not well formed (`wf_false_of_specifier`), and is issued (`exec_issueWord_of_specifier`). -/
theorem operandSpecifiers : Obligations.OperandSpecifiers := by
  unfold Obligations.OperandSpecifiers
  refine ⟨fun t x => ⟨?_, read_g t x, read_q t x, ?_, ?_⟩, fun t x v => ⟨?_, write_g t x v, write_q t x v⟩, fun s i hm hs h => ?_⟩
  · intro h
    rw [eq_zero_of_toNat h, read_zero]
  · intro h
    simp [Thread.read, h]
  · intro h
    simp [Thread.read, h]
  · intro h
    rw [eq_zero_of_toNat h, write_zero]
    exact ⟨rfl, rfl⟩
  · obtain ⟨body, hb⟩ := exec_issueWord_of_specifier hs h s
    exact hb.trans (issueWord_illegal hm (wf_false_of_specifier h))

/-- Refutes O23: the clause on a pending payload that the instruction may not take leaves out the prefixes but not the words that are no
instruction. A word of an unassigned major is such a word; with a pfx.fmt pending it still raises ILLEGAL, not PREFIX. In the state below
the thread has a reply in flight, so it waits with the fault, and the wait tells which one. -/
theorem not_wordsThatAreNoInstruction : ¬ Obligations.WordsThatAreNoInstruction := by
  unfold Obligations.WordsThatAreNoInstruction
  rintro ⟨-, -, -, -, -, pendingPrefix, -⟩
  have raises := pendingPrefix { State.reset with th := prefixedThread } (.illegalWord 0) rfl rfl rfl nofun nofun (.inl ⟨rfl, rfl⟩)
  have waits := congrArg waitAfter raises
  revert waits
  decide

end

section

/-!
# Prefix words (R75 to R79)

A pfx word is issued by `issuePfx`: it raises PREFIX or makes its payload pending, and the payload reads back as the fields that the
encoder wrote.
-/

namespace Sys2Proof.Machine
open Laws.RoundTrip

/-- Nothing is wrong with a pfx word: its payload is legal, none of its kind is pending, and it is not the last word of a loop body
(R75, R76, R78). -/
def PfxGood (t : Thread) (legal : Prop) (pending : Bool) : Prop := legal ∧ pending = false ∧ ¬ (t.la = true ∧ t.pc + 4 = t.le)

section
variable {s : State} {i : Instr} {legal : Prop} [Decidable legal] {pending : Thread → Bool} {put : Thread → Thread}

theorem pfxBad_iff {t : Thread} {p : Bool} : pfxBad t (decide legal) p = true ↔ ¬ PfxGood t legal p := by
  by_cases legal <;> cases p <;> simp [pfxBad, PfxGood, *]

theorem issuePfx_bad (hm : s.th.mode = .ready) (h : ¬ PfxGood s.th legal (pending s.th)) :
    issuePfx i (decide legal) pending put s = .next (s.trapAt i { code := .pfx }) := by
  rw [issuePfx, if_neg (not_not_intro hm), if_pos (pfxBad_iff.2 h)]

theorem issuePfx_good (hm : s.th.mode = .ready) (h : PfxGood s.th legal (pending s.th)) :
    issuePfx i (decide legal) pending put s = .next { s with th := { put s.th with pc := s.th.pc + 4, retry := none } } := by
  rw [issuePfx, if_neg (not_not_intro hm), if_neg fun hb => pfxBad_iff.1 hb h]

end

theorem exec_pfxFmt (a b d : BitVec 4) (r : BitVec 3) (f : BitVec 6) (s : State) :
    exec (.pfxFmt a b d r f) s =
      issuePfx (.pfxFmt a b d r f) (decide (a.toNat < 14 ∧ b.toNat < 14 ∧ d.toNat < 14 ∧ r.toNat ≠ 6)) Thread.fv
        (fun t => { t with fv := true, fmt := (encode (.pfxFmt a b d r f)).setWidth 24 }) s := rfl

theorem exec_pfxScl (g : BitVec 2) (r : BitVec 6) (i : BitVec 1) (c : BitVec 8) (s : State) :
    exec (.pfxScl g r i c) s =
      issuePfx (.pfxScl g r i c) (decide ((g = 1 ∨ g = 2) ∧ r.toNat < 42 ∧ (i = 1 → r = 0) ∧ (i = 0 → c = 0))) Thread.sv
        (fun t => { t with sv := true, scl := (encode (.pfxScl g r i c)).setWidth 24 }) s := rfl

theorem fieldOf_setWidth (w : Word32) {lo len : Nat} (h : lo + len ≤ 24) : fieldOf (w.setWidth 24) lo len = (fld w lo len).toNat := by
  obtain ⟨k, hk⟩ := Nat.exists_eq_add_of_le h
  have := mod_div_mod w.toNat lo len k
  rw [← hk] at this
  rw [fieldOf, BitVec.toNat_setWidth, this, fld_toNat]
  rfl

theorem getLsbD_eq_fieldOf (p : BitVec 24) (n : Nat) : p.getLsbD n = decide (fieldOf p n 1 = 1) := by
  rw [BitVec.getLsbD, Nat.testBit_eq_decide_div_mod_eq]
  rfl

theorem extract_eq_of_fieldOf {p : BitVec 24} {lo len : Nat} {v : BitVec len} (h : fieldOf p lo len = v.toNat) :
    p.extractLsb' lo len = v := by
  apply BitVec.eq_of_toNat_eq
  rw [BitVec.extractLsb'_toNat, Nat.shiftRight_eq_div_pow]
  exact h

theorem fmtPfx_of_encode {t : Thread} {a b d : BitVec 4} {r : BitVec 3} {f : BitVec 6} (hv : t.fv = true)
    (ht : t.fmt = (encode (.pfxFmt a b d r f)).setWidth 24) :
    t.fmtPfx = { fa := a.toNat, fb := b.toNat, fd := d.toNat, rnd := r.toNat, frac := f.toNat } := by
  rw [Thread.fmtPfx, if_pos hv, ht,
    show encode (.pfxFmt a b d r f) = .ofNat 32 (pk (pk (pk (pk (pk (pk (pk 0x30 0x0#2) a) b) d) r) f) 0x0#3) from rfl]
  simp (disch := decide) only [fieldOf_setWidth, fld_ofNat, shiftRight_pk, shiftRight_zero, pk_low, Nat.reduceSub]

theorem bit_eq_one (i : BitVec 1) : decide (i.toNat = 1) = (i == 1) := by
  decide +revert

theorem sclPfx_of_encode {t : Thread} {g : BitVec 2} {r : BitVec 6} {i : BitVec 1} {c : BitVec 8} (hv : t.sv = true)
    (ht : t.scl = (encode (.pfxScl g r i c)).setWidth 24) :
    t.sclPfx = some { g := g.toNat, sr := r, imm := i == 1, sc := c.toNat } := by
  have he : encode (.pfxScl g r i c) = .ofNat 32 (pk (pk (pk (pk (pk (pk 0x30 0x1#2) g) r) i) c) 0x0#7) := rfl
  have hr : t.scl.extractLsb' 16 6 = r := by
    apply extract_eq_of_fieldOf
    rw [ht, he]
    simp (disch := decide) only [fieldOf_setWidth, fld_ofNat, shiftRight_pk, shiftRight_zero, pk_low, Nat.reduceSub]
  rw [Thread.sclPfx, if_pos hv, hr, getLsbD_eq_fieldOf, ht, he]
  simp (disch := decide) only [fieldOf_setWidth, fld_ofNat, shiftRight_pk, shiftRight_zero, pk_low, Nat.reduceSub, bit_eq_one]

theorem pxs_fv (t : Thread) : t.pxs.getLsbD 24 = t.fv := by
  have hf := t.fmt.isLt
  rw [Thread.pxs, BitVec.getLsbD_ofNat, Nat.testBit_eq_decide_div_mod_eq]
  cases t.fv <;> cases t.sv <;> simp <;> omega

theorem pxs_sv (t : Thread) : t.pxs.getLsbD 49 = t.sv := by
  have hf := t.fmt.isLt
  have hs := t.scl.isLt
  rw [Thread.pxs, BitVec.getLsbD_ofNat, Nat.testBit_eq_decide_div_mod_eq]
  cases t.fv <;> cases t.sv <;> simp <;> omega

end Sys2Proof.Machine
end

section
open Sys2Proof Sys2Proof.Machine

/-- Settles O22: `issuePfx` by whether something is wrong with the word (`issuePfx_bad`, `issuePfx_good`); the payload that it leaves pending
reads as the word's fields (`fmtPfx_of_encode`, `sclPfx_of_encode`). -/
theorem prefixWords : Obligations.PrefixWords := by
  unfold Obligations.PrefixWords
  refine ⟨fun s a b d r f hm => ?_, fun s g r i c hm => ?_⟩
  · intro ok
    have good : PfxGood s.th (a.toNat < 14 ∧ b.toNat < 14 ∧ d.toNat < 14 ∧ r.toNat ≠ 6) s.th.fv ↔ ok := by
      simp only [PfxGood, and_assoc, ok]
    refine ⟨fun h => (exec_pfxFmt a b d r f s).trans (issuePfx_bad hm (good.not.2 h)), fun h => ?_⟩
    exact ⟨_, (exec_pfxFmt a b d r f s).trans (issuePfx_good hm (good.2 h)), rfl, rfl, rfl, fmtPfx_of_encode rfl rfl, pxs_fv _⟩
  · intro ok
    have good : PfxGood s.th ((g = 1 ∨ g = 2) ∧ r.toNat < 42 ∧ (i = 1 → r = 0) ∧ (i = 0 → c = 0)) s.th.sv ↔ ok := by
      simp only [PfxGood, and_assoc, ok]
    refine ⟨fun h => (exec_pfxScl g r i c s).trans (issuePfx_bad hm (good.not.2 h)), fun h => ?_⟩
    exact ⟨_, (exec_pfxScl g r i c s).trans (issuePfx_good hm (good.2 h)), rfl, rfl, rfl, sclPfx_of_encode rfl rfl, pxs_sv _⟩

end

section

/-!
# One step and the word that it runs (R53, R134, R137, R251)

Which move comes next, what the issue of a word comes to, what the rotation and the prefetcher change after it, and the placed word.
-/

namespace Sys2Proof.Machine

variable {s : State} {t : Thread} {core : Nat}

/-! ### The move that comes next -/

theorem step_of_plan {p : Plan} {ps : List Plan} (h : s.nextPlan = some (p, ps)) :
    step s = settled (State.planned { s with agenda := ps } p) := by
  rw [step, h]

theorem nextPlan_nil (h : s.agenda = []) : s.nextPlan = none := by
  rw [State.nextPlan, h]

theorem planned_issue {p : Plan} (h : p.move = .issue core) :
    s.planned p = ({ s with clk := s.clk + p.dt, unit := p.unit } : State).issueAt core := by
  rw [State.planned, h]

theorem planned_event {p : Plan} {i : Instr} (h : p.move = .event i) (hs : i.isScalar = false) :
    s.planned p = exec i { s with clk := s.clk + p.dt, unit := p.unit } := by
  simp [State.planned, h, hs]

theorem lesser_self (a : Option Nat) : lesser a a = false := by
  cases a <;> simp [lesser]

theorem before_self (p : Plan) : s.before p p = false := by
  simp [State.before, lesser_self]

theorem find_range_zero {n : Nat} {f g : Nat → Bool} (hf : f 0 = true) (hg : g 0 = true) :
    (((upto (n + 1)).filter f).find? g).getD 0 = 0 := by
  rw [upto, List.range_succ_eq_map, List.filter_cons_of_pos hf, List.find?_cons_of_pos hg]
  rfl

/-- The move at the head of the agenda comes first where no other of its clk comes before it: it keeps behind none. -/
theorem firstOf_cons {p : Plan} {qs : List Plan} (h : ∀ q ∈ qs, s.before q p = false) : s.firstOf (p :: qs) = 0 := by
  have none_before (i : Nat) : ((p :: qs)[i]?).toList.any (fun q => s.before q p) = false := by
    rw [List.any_eq_false]
    intro q hq
    rcases List.mem_cons.1 (List.mem_of_getElem? (Option.mem_toList.1 hq)) with rfl | hm
    · rw [before_self]
      exact Bool.false_ne_true
    · rw [h q hm]
      exact Bool.false_ne_true
  refine find_range_zero rfl ?_
  rw [Bool.not_eq_true', List.any_eq_false]
  intro i _
  have first : ((p :: qs)[i]?).toList.any (fun q => ((p :: qs)[0]?).toList.any (s.before q)) = false := by
    simpa only [List.getElem?_cons_zero, Option.toList_some, List.any_cons, List.any_nil, Bool.or_false] using none_before i
  rw [first]
  exact Bool.false_ne_true

theorem nextPlan_head {p : Plan} {ps : List Plan} (ha : s.agenda = p :: ps)
    (h : ∀ q ∈ ps.takeWhile (fun q => q.dt == 0), s.before q p = false) : s.nextPlan = some (p, ps) := by
  rw [State.nextPlan, ha]
  dsimp only
  split
  · rfl
  · next qs hq =>
    rw [firstOf_cons (fun q m => h q m)]

/-! ### The issue of a word -/

theorem issueAt_thread (hg : s.gated = false) (hm : s.mayIssue core = true) (ht : s.nextThread core = some t) :
    s.issueAt core = State.afterWord t (s.turn t).nextLoad (s.turn t).runWord := by
  simp [State.issueAt, hg, hm, ht]

theorem issueAt_passes (h : s.gated = true ∨ s.mayIssue core = false ∨ s.nextThread core = none) : s.issueAt core = .next s := by
  unfold State.issueAt
  split
  · rfl
  · next hn =>
    rw [not_or] at hn
    rw [(h.resolve_left hn.1).resolve_left hn.2]

theorem idle_issue {s1 : State} (h1 : s1 = { s with clk := s.clk + 1 }) (h : s1.nextThread s.th.core = some t) : s.idle = s1.issueAt s.th.core := by
  subst h1
  simp [State.idle, h]

/-- A planned word of a core, and with nothing planned one of the selected thread's core, is issued there. -/
theorem step_issueAt {s1 : State}
    (h : (∃ p ps, s.nextPlan = some (p, ps) ∧ p.move = .issue core ∧ s1 = { s with agenda := ps, clk := s.clk + p.dt, unit := p.unit }) ∨
      (s.agenda = [] ∧ core = s.th.core ∧ s1 = { s with clk := s.clk + 1 })) (ht : s1.nextThread core = some t) :
    step s = settled (s1.issueAt core) := by
  rcases h with ⟨p, ps, hp, hi, rfl⟩ | ⟨ha, rfl, h1⟩
  · rw [step_of_plan hp, planned_issue hi]
  · rw [step, nextPlan_nil ha, ← idle_issue h1 ht]

/-- Such a step is what the thread's word comes to, and what it hands over. -/
theorem step_runWord {s1 : State}
    (h : (∃ p ps, s.nextPlan = some (p, ps) ∧ p.move = .issue core ∧ s1 = { s with agenda := ps, clk := s.clk + p.dt, unit := p.unit }) ∨
      (s.agenda = [] ∧ core = s.th.core ∧ s1 = { s with clk := s.clk + 1 }))
    (hg : s1.gated = false) (hm : s1.mayIssue core = true) (ht : s1.nextThread core = some t) :
    step s = settled (State.afterWord t (s1.turn t).nextLoad (s1.turn t).runWord) := by
  rw [step_issueAt h ht, issueAt_thread hg hm ht]

theorem runWord_fault {e : Trap} (h : s.th.wait = .fault e) : s.runWord = .next (s.takeFault s.th e s.th.word) := by
  rw [State.runWord, h]

theorem runWord_error {e : Trap} (hw : ∀ x, s.th.wait ≠ .fault x) (h : s.fetch = .error e) : s.runWord = .next (s.takeFault s.th e 0) := by
  unfold State.runWord
  split
  · next x hx => exact absurd hx (hw x)
  · rw [h]

theorem runWord_ok {w : Word32} {s1 : State} (hw : ∀ x, s.th.wait ≠ .fault x) (h : s.fetch = .ok (w, s1)) : s.runWord = exec (decode w) s1 := by
  unfold State.runWord
  split
  · next x hx => exact absurd hx (hw x)
  · rw [h]

theorem fetch_ok {pa a : Nat} {s1 : State} (h : s.translate s.th.core s.th.ctx s.th.pc .ex s.th.prv = .ok (pa, s1))
    (hr : s1.reachPa s.th.pc .ex pa = .ok a) (hb : s1.badAt .mem a 4 = false) : s.fetch = .ok (s1.codeWord s.th.core s.th.xfer a) := by
  simp [State.fetch, h, hr, hb]

/-- A core's entry that is set with no change but to the words that it holds is kept but for them. -/
theorem setCore_icache_kept (s : State) (core : Nat) (l : List CodeWord) :
    s.CoresKept (s.setCore core { s.core core with icache := l }) := by
  intro k
  rw [core_setCore]
  split
  · next h => rw [h]
  · rfl

/-- Where no word that the core holds is an old one the fetch gives the word that memory has (R53). -/
theorem codeWord_now {core xfer pa : Nat} (h : ∀ x ∈ (s.core core).icache, x.pa = pa → x.word = s.codeNow core pa) :
    ∃ s1, s.codeWord core xfer pa = (s.codeNow core pa, s1) ∧ s.CoresKept s1 ∧ { s1 with cores := s.cores } = s := by
  unfold State.codeWord
  dsimp only
  split
  · exact ⟨_, rfl, setCore_icache_kept _ _ _, rfl⟩
  · next x hx =>
    have hp : x.pa = pa := by simpa using List.find?_some hx
    rw [if_pos (h x (List.mem_of_find?_eq_some hx) hp)]
    exact ⟨s, rfl, coresKept_refl s s rfl, rfl⟩

/-- A word that the fetch reaches is decoded and executed as memory has it (R53, R137). -/
theorem runWord_now {pa a : Nat} {s1 : State} (hw : ∀ x, s.th.wait ≠ .fault x)
    (ht : s.translate s.th.core s.th.ctx s.th.pc .ex s.th.prv = .ok (pa, s1)) (hr : s1.reachPa s.th.pc .ex pa = .ok a)
    (hb : s1.badAt .mem a 4 = false) (h : ∀ x ∈ (s1.core s.th.core).icache, x.pa = a → x.word = s1.codeNow s.th.core a) :
    ∃ s2, s.runWord = exec (decode (s1.codeNow s.th.core a)) s2 ∧ s1.CoresKept s2 ∧ { s2 with cores := s1.cores } = s1 := by
  obtain ⟨s2, hc, hk, hs⟩ := codeWord_now (xfer := s.th.xfer) h
  exact ⟨s2, runWord_ok hw ((fetch_ok ht hr hb).trans (congrArg Except.ok hc)), hk, hs⟩

/-! ### After the word -/

/-- The prefetcher changes only the words that it watches (R293). -/
theorem observe_cases (s : State) (t : Thread) (load : Option (Spec × Word × Nat × Bool)) :
    s.observe t load = s ∨ ∃ ws, s.observe t load = s.setCore t.core { s.core t.core with watches := ws } := by
  unfold State.observe
  dsimp only
  split
  · exact .inr ⟨_, rfl⟩
  · exact .inr ⟨_, rfl⟩
  · split
    · exact .inl rfl
    · exact .inr ⟨_, rfl⟩

theorem sameBytes_setCore (s : State) (c : Nat) (x : CoreSt) : s.SameBytes (s.setCore c x) := fun sq _ => by cases sq <;> rfl

theorem sawIssue_skip (c slot : Nat) (t : Thread) : { t.sawIssue c slot with skip := t.skip } = t := by
  unfold Thread.sawIssue
  split <;> rfl

theorem afterWord_stalled {load : Option (Spec × Word × Nat × Bool)} (hu : s.th.uid = t.uid) (hm : s.th.mode = .stalled) :
    State.afterWord t load (.next s) = .next s := by
  rw [State.afterWord, if_pos ⟨hu, hm⟩]

theorem afterWord_issued {load : Option (Spec × Word × Nat × Bool)} (h : ¬ (s.th.uid = t.uid ∧ s.th.mode = .stalled)) :
    State.afterWord t load (.next s) = .next ((s.turned t.core t.slot).observe t load) := by
  rw [State.afterWord, if_neg h]

theorem turned_core_rot (s : State) (c slot : Nat) : ((s.turned c slot).core c).rot = slot := by
  show ((s.setCore c _).core c).rot = slot
  rw [core_setCore, if_pos rfl]

theorem observe_rot (s : State) (t : Thread) (load : Option (Spec × Word × Nat × Bool)) :
    ((s.observe t load).core t.core).rot = (s.core t.core).rot := by
  obtain h | ⟨ws, h⟩ := observe_cases s t load
  · rw [h]
  · rw [h, core_setCore, if_pos rfl]

theorem sameBytes_turned (s : State) (c slot : Nat) : s.SameBytes (s.turned c slot) := fun sq _ => by cases sq <;> rfl

/-- A word that has issued moves the rotation on, and nothing but that, what waits for it, and what the prefetcher watches. -/
theorem observe_turned (s : State) (t : Thread) (load : Option (Spec × Word × Nat × Bool)) :
    let u := (s.turned t.core t.slot).observe t load
    s.SameBytes u ∧ u.issued = some (s.clk, t.core) ∧ (u.core t.core).rot = t.slot ∧ { u.th with skip := s.th.skip } = s.th ∧
      { u with th := s.th, others := s.others, cores := s.cores, issued := s.issued } = s := by
  have hrot := (observe_rot (s.turned t.core t.slot) t load).trans (turned_core_rot ..)
  obtain h | ⟨ws, h⟩ := observe_cases (s.turned t.core t.slot) t load
  · rw [h] at hrot ⊢
    exact ⟨sameBytes_turned _ _ _, rfl, hrot, sawIssue_skip .., rfl⟩
  · rw [h] at hrot ⊢
    exact ⟨fun sq x => (sameBytes_setCore _ _ _ sq x).trans (sameBytes_turned _ _ _ sq x), rfl, hrot, sawIssue_skip .., rfl⟩

/-! ### What is handed over -/

theorem handOne_none (he : s.handedEnds = []) (hc : s.handedChans = []) : s.handOne = none := by
  rw [State.handOne, he, hc]
  rfl

theorem handAll_none (n : Nat) (h : s.handOne = none) : State.handAll n s = s := by
  cases n with
  | zero => rfl
  | succ n => rw [State.handAll, h]

theorem settled_quiet (he : s.handedEnds = []) (hc : s.handedChans = []) : settled (.next s) = .next s := by
  rw [settled, State.handedOver, handAll_none _ (handOne_none he hc)]

/-! ### The placed word (log entry 16) -/

theorem viewBytes_no_stores (h : s.stores = []) (core : Nat) (sp : Space) (a n : Nat) : s.viewBytes core sp a n = s.readBytes sp a n := by
  induction n generalizing a with
  | zero => rfl
  | succ n ih => rw [State.viewBytes, State.readBytes, ih, State.viewByte, h, List.foldl_nil]

theorem writeBytes_mem_eq (s : State) (a : Nat) (bs : List Byte) : ∃ m, s.writeBytes .mem a bs = { s with mem := m } := by
  induction bs generalizing s a with
  | nil => exact ⟨s.mem, rfl⟩
  | cons b bs ih =>
    obtain ⟨m, h⟩ := ih (s.writeByte .mem a b) (a + 1)
    exact ⟨m, h⟩

theorem readBytes_writeBytes (s : State) (sp : Space) (a : Nat) (bs : List Byte) :
    (s.writeBytes sp a bs).readBytes sp a bs.length = bs := by
  refine Eq.trans (readBytes_congr fun i _ => ?_) (put_stored s sp a bs).there
  rw [writeBytes_eq_writeMasked, put_readByte]

theorem readNat_writeNat (s : State) (sp : Space) (a n v : Nat) : (s.writeNat sp a n v).readNat sp a n = v % 256 ^ n := by
  have h := readBytes_writeBytes s sp a (leBytes n v)
  rw [leBytes_length] at h
  rw [State.readNat, State.writeNat, h, ofLe_leBytes]

theorem codeNow_no_stores (h : s.stores = []) (core pa : Nat) : s.codeNow core pa = .ofNat 32 (s.readNat .mem pa 4) := by
  have hn : ({ s with stores := s.stores.filter Store.rel } : State).stores = [] := by
    rw [h]
    rfl
  rw [State.codeNow, viewBytes_no_stores hn]
  rfl

/-- What reset leaves with a word placed for its thread, in the clk of the next step; the word stands in memory. -/
def placedNow (m : List Host.Cell) : State := { State.reset.placeWord 0 with mem := m, clk := 1 }

/-- The thread that is made for the word. -/
def placedThread : Thread := (State.reset.placeWord 0).th

theorem placeWord_eq (w : Nat) :
    ({ State.reset.placeWord w with clk := 1 } : State) = placedNow (State.reset.placeWord w).mem := rfl

section
variable (m : List Host.Cell)

theorem placedNow_nextThread : (placedNow m).nextThread 0 = some placedThread := by
  have : (placedNow []).nextThread 0 = some placedThread := by decide +kernel
  exact this

theorem placedNow_turn : (placedNow m).turn placedThread = placedNow m := rfl

theorem placedNow_translate :
    (placedNow m).translate 0 0 0x1000 .ex true = .ok (0x1000, placedNow m) := rfl

theorem placedNow_reachPa : (placedNow m).reachPa 0x1000 .ex 0x1000 = .ok 0x1000 := rfl

theorem placedNow_badAt : (placedNow m).badAt .mem 0x1000 4 = false := rfl

end

theorem ofNat_mod_two_pow (n w : Nat) : BitVec.ofNat n (w % 2 ^ n) = .ofNat n w := by
  apply BitVec.eq_of_toNat_eq
  rw [BitVec.toNat_ofNat, BitVec.toNat_ofNat, Nat.mod_mod]

theorem placeWord_codeNow (w : Nat) :
    (placedNow (State.reset.placeWord w).mem).codeNow 0 0x1000 = .ofNat 32 w := by
  have h : (State.reset.placeWord w).readNat .mem 0x1000 4 = w % 2 ^ 32 := readNat_writeNat ..
  have hn : (placedNow (State.reset.placeWord w).mem).readNat .mem 0x1000 4 = w % 2 ^ 32 := h
  rw [codeNow_no_stores rfl, hn]
  exact ofNat_mod_two_pow 32 w

theorem placedNow_wait (e : Trap) : placedThread.wait ≠ .fault e := Wait.noConfusion

/-- The word that is placed for the first step is the one that it runs (log entry 16). -/
theorem step_placeWord (w : Nat) : ∃ t load s1,
    step (State.reset.placeWord w) = settled (State.afterWord t load (exec (decode (.ofNat 32 w)) s1)) ∧
    s1.th.mode = .ready ∧ s1.th.pc = 0x1000 ∧ s1.th.prv = true ∧ s1.clk = 1 := by
  have hs := step_runWord (s := State.reset.placeWord w) (core := 0) (.inr ⟨rfl, rfl, (placeWord_eq w).symm⟩) rfl rfl (placedNow_nextThread _)
  rw [placedNow_turn] at hs
  obtain ⟨s1, hr, -, hk⟩ :=
    runWord_now (s := placedNow _) placedNow_wait (placedNow_translate (State.reset.placeWord w).mem) (placedNow_reachPa _) (placedNow_badAt _)
      (fun x hx => absurd hx List.not_mem_nil)
  have hth : s1.th = placedThread := (congrArg State.th hk :)
  have hclk : s1.clk = 1 := (congrArg State.clk hk :)
  have hcode := placeWord_codeNow w
  refine ⟨_, _, s1, hs.trans (congrArg (fun o => settled (State.afterWord _ _ o)) (hcode ▸ hr)), ?_⟩
  rw [hth, hclk]
  exact ⟨rfl, rfl, rfl, rfl⟩

end Sys2Proof.Machine
end

section
open Sys2Proof Sys2Proof.Machine

/-- Settles O59: a step is what the issue of the thread's word comes to (`step_runWord`), which is the word of memory (`runWord_now`) or a
fault; after it the rotation moves on (`observe_turned`), and a placed word is such a word (`step_placeWord`). -/
theorem stepRunsDecodedWord : Obligations.StepRunsDecodedWord := by
  unfold Obligations.StepRunsDecodedWord
  refine ⟨?runs, fun t load s => ⟨afterWord_stalled, fun h => ?_⟩, ?passes, ?events, fun s p ps => nextPlan_head, fun s => settled_quiet,
    fun e r => ⟨rfl, rfl⟩, fun w => ?_⟩
  case runs =>
    intro s s1 core t hplan hg hm ht s2 after
    have hstep : step s = after s2.runWord := step_runWord hplan hg hm ht
    refine ⟨?fetched, fun e hw he => ?_, fun e he => ?_⟩
    case fetched =>
      intro pa a s3 hw htr hr hb w hold
      obtain ⟨s4, hc, hk⟩ := runWord_now hw htr hr hb hold
      exact ⟨s4, hstep.trans (congrArg after hc), hk⟩
    · rw [hstep, runWord_error hw he]
    · rw [hstep, runWord_fault he]
  case passes =>
    intro s p ps core hp hm s1 h
    rw [step_of_plan hp, planned_issue hm]
    exact congrArg settled (issueAt_passes h)
  case events =>
    intro s p ps i hp hm hi
    rw [step_of_plan hp, planned_event hm hi]
  · exact ⟨_, afterWord_issued h, observe_turned s t load⟩
  · have h := step_placeWord (w % 2 ^ 32)
    rwa [ofNat_mod_two_pow] at h

end

section

/-!
# The return from a handler (R136, R154)

The context at SAVEA lies in one page, so it is one read of memory; a thread that is restored from it holds its words.
-/

namespace Sys2Proof.Machine

variable {s s1 : State} {t : Thread}

/-! ### Reading the context -/

/-- A translation fills translation caches and changes nothing else. -/
theorem translate_frame {core ctx : Nat} {va : Word} {acc : Acc} {prv : Bool} {pa : Nat} (h : s.translate core ctx va acc prv = .ok (pa, s1)) :
    ∃ ws cs, s1 = { s with walkers := ws, cores := cs } := by
  unfold State.translate State.walkBy at h
  split at h
  · cases h
    exact ⟨_, _, rfl⟩
  · split at h
    · cases h
    · next hw =>
      cases h
      split at hw
      · cases hw
        exact ⟨_, _, rfl⟩
      · split at hw
        · cases hw
        · cases hw
          exact ⟨_, _, rfl⟩

/-- A range within one page is one piece. -/
theorem pagePieces_one {va n : Nat} (h0 : 0 < n) (h : va % 4096 + n ≤ 4096) (f : Nat) :
    pagePieces (f + 2) va (List.replicate n 0) = [(va, List.replicate n 0)] := by
  obtain ⟨m, rfl⟩ : ∃ m, n = m + 1 := ⟨n - 1, by omega⟩
  have hl : (List.replicate (m + 1) (0 : Byte)).length ≤ 4096 - va % 4096 := by
    rw [List.length_replicate]
    omega
  rw [List.replicate_succ, pagePieces, ← List.replicate_succ, List.take_of_length_le hl, List.drop_of_length_le hl, pagePieces]
  exact nofun

/-- A range within one page, with no posted store and no error about, is read as memory holds it. -/
theorem readVirt_page {va : Word} {n pa0 pa : Nat} (h0 : 0 < n) (hp : va.toNat % 4096 + n ≤ 4096)
    (ht : s.translate t.core t.ctx va .rd true = .ok (pa0, s1)) (hr : s1.reachPa va .rd pa0 = .ok pa) (hs : s.stores = []) (hb : s.bad = []) :
    s.readVirt t va n = .ok (s.readBytes .mem pa n, s1) := by
  have hv : BitVec.ofNat 64 va.toNat = va := BitVec.ofNat_toNat .. |>.trans (BitVec.setWidth_eq va)
  obtain ⟨ws, cs, rfl⟩ := translate_frame ht
  have hbad : ({ s with walkers := ws, cores := cs } : State).badAt .mem pa n = false := by
    show s.badAt .mem pa n = false
    rw [State.badAt, hb]
    rfl
  have hview : ({ s with walkers := ws, cores := cs } : State).viewBytes t.core .mem pa n = s.readBytes .mem pa n :=
    (viewBytes_no_stores (s := { s with walkers := ws, cores := cs }) hs ..).trans (readBytes_congr fun _ _ => rfl)
  rw [State.readVirt, pagePieces_one h0 hp, State.readVirt.go, hv, ht]
  simp only [hr, List.length_replicate, hbad, Bool.false_eq_true, if_false, State.readVirt.go, hview, List.append_nil]

/-! ### What a saved context gives back -/

theorem pxs_setPxs (t : Thread) (w : Word) : (t.setPxs w).pxs = BitVec.ofNat 64 (w.toNat % 2 ^ 50) := by
  have bit (n : Nat) : (if w.getLsbD n = true then 2 ^ n else 0) = w.toNat / 2 ^ n % 2 * 2 ^ n := by
    rw [BitVec.getLsbD, Nat.testBit_eq_decide_div_mod_eq]
    split <;> simp_all
  show BitVec.ofNat 64 ((w.extractLsb' 0 24).toNat + (if w.getLsbD 24 = true then 2 ^ 24 else 0) + (w.extractLsb' 25 24).toNat * 2 ^ 25 +
    (if w.getLsbD 49 = true then 2 ^ 49 else 0)) = _
  rw [bit 24, bit 49, BitVec.extractLsb'_toNat, BitVec.extractLsb'_toNat, Nat.shiftRight_eq_div_pow, Nat.shiftRight_eq_div_pow]
  congr 1
  omega

theorem ofLe_take (l : List Byte) (k : Nat) : ofLe (l.take k) = ofLe l % 256 ^ k := by
  induction k generalizing l with
  | zero => rw [List.take_zero, ofLe, Nat.pow_zero, Nat.mod_one]
  | succ k ih =>
    cases l with
    | nil => rw [List.take_nil, ofLe, Nat.zero_mod]
    | cons b l =>
      have hb : b.toNat < 256 := b.isLt
      rw [List.take_succ_cons, ofLe, ofLe, ih, Nat.pow_succ', Nat.mod_mul, Nat.add_mul_mod_self_left, Nat.mod_eq_of_lt hb,
        Nat.add_mul_div_left _ _ (by decide), Nat.div_eq_of_lt hb, Nat.zero_add]

/-- The low bytes of a number in memory. -/
theorem readNat_mod (s : State) (sp : Space) {a n k : Nat} (h : k ≤ n) : s.readNat sp a n % 256 ^ k = s.readNat sp a k := by
  have hr := recNat_readBytes s sp (a := a) (off := 0) (n := n) (k := k) (by omega)
  rw [recNat, List.drop_zero, ofLe_take, Nat.add_zero] at hr
  exact hr

theorem getLsbD_ofNat_word {k : Nat} (hk : k < 64) (n : Nat) : (BitVec.ofNat 64 n).getLsbD k = n.testBit k := by
  rw [BitVec.getLsbD_ofNat, decide_eq_true hk, Bool.true_and]

/-- A thread that is restored from a saved context holds the words of memory. -/
theorem reloads_restore {w : Nat → Word} {a : Nat} (hw : ∀ i < 64, w i = BitVec.ofNat 64 (s.readNat .mem (a + 8 * i) 8)) :
    s.Reloads a (t.restore w) := by
  have bit {i k : Nat} (hi : i < 64) (hk : k < 64) : (w i).getLsbD k = (s.readNat .mem (a + 8 * i) 8).testBit k := by
    rw [hw i hi, getLsbD_ofNat_word hk]
  have part {i n : Nat} (hi : i < 64) (hn : n ≤ 64) : (w i).setWidth n = .ofNat n (s.readNat .mem (a + 8 * i) 8) := by
    rw [hw i hi, BitVec.setWidth_ofNat_of_le hn]
  exact {
    registers := fun x h0 h => by
      rw [← hw x.toNat (by omega)]
      by_cases hx : x.toNat < 32
      · rw [read_g _ x hx h0]
        simp [Thread.restore, Thread.setPxs, Nat.ne_of_gt h0]
      · rw [read_q _ x (by omega)]
        simp [Thread.restore, Thread.setPxs, show 32 + (x.toNat - 32) = x.toNat by omega]
    result := ⟨hw 40 (by decide), hw 41 (by decide)⟩
    cursors := fun j => by
      have hk : (t.restore w).k[j] = (w (42 + j.val)).setWidth 40 := by simp [Thread.restore, Thread.setPxs]
      rw [hk, part (by omega) (by decide), show a + 336 + 8 * j.val = a + 8 * (42 + j.val) by omega, ← readNat_mod s .mem (show 5 ≤ 8 by decide)]
      exact (ofNat_mod_two_pow 40 _).symm
    pc := hw 46 (by decide)
    ts := ⟨bit (i := 47) (by decide) (by decide), bit (i := 47) (by decide) (by decide)⟩
    pxs := by
      have h48 : (w 48).toNat % 2 ^ 50 = s.readNat .mem (a + 384) 8 % 2 ^ 50 := by
        rw [hw 48 (by decide), BitVec.toNat_ofNat]
        exact Nat.mod_mod_of_dvd _ (pow_dvd_pow 2 (by decide))
      rw [Thread.restore, pxs_setPxs, h48]
    float := ⟨part (i := 49) (by decide) (by decide), part (i := 50) (by decide) (by decide), part (i := 51) (by decide) (by decide)⟩
    loop := ⟨part (i := 52) (by decide) (by decide), congrArg maskLoopAddr (hw 53 (by decide)), congrArg maskLoopAddr (hw 54 (by decide))⟩
    family := ⟨hw 55 (by decide), hw 56 (by decide), hw 57 (by decide)⟩
    wait := ⟨hw 59 (by decide), bit (i := 60) (by decide) (by decide), bit (i := 60) (by decide) (by decide)⟩
    rest := ⟨hw 61 (by decide), hw 62 (by decide)⟩ }

/-! ### The word -/

/-- The word of a saved context, by its place among the 64. -/
def savedWord (bs : List Byte) (i : Nat) : Word := BitVec.ofNat 64 (ofLe ((bs.drop (8 * i)).take 8))

theorem savedWord_eq (s : State) (a : Nat) {i : Nat} (hi : i < 64) :
    savedWord (s.readBytes .mem a 512) i = BitVec.ofNat 64 (s.readNat .mem (a + 8 * i) 8) :=
  congrArg (BitVec.ofNat 64) (recNat_readBytes s .mem (by omega))

theorem landAll_nil (h : t.inflight = []) : s.landAll t = t := by
  rw [State.landAll, h, List.foldl_nil]

/-- The thread that goes on from a saved context. -/
def returned (t u : Thread) : Thread :=
  { u with prv := t.bornPrv, inHandler := false, mode := .ready, wait := .none,
           inflight := u.inflight.map (fun f => { f with dst := none, dst2 := none }) }

theorem setT_selected (h : s.th.uid = t.uid) : s.setT t = { s with th := t } := if_pos h

theorem returned_uid (t : Thread) (w : Nat → Word) (n : Nat) : ((returned t (t.restore w)).transferred n).uid = t.uid := by
  simp only [Thread.transferred, returned, Thread.restore, Thread.setPxs]

theorem returned_peng (t : Thread) (w : Nat → Word) (n : Nat) : ((returned t (t.restore w)).transferred n).peng = t.peng := by
  simp only [Thread.transferred, returned, Thread.restore, Thread.setPxs]

theorem sameBytes_reloaded (s : State) (ws : List (Nat × List Tlb)) (cs : List (Nat × CoreSt)) (t : Thread) :
    s.SameBytes { s with walkers := ws, cores := cs, th := t } := fun sq _ => by cases sq <;> rfl

theorem returnFromHandler_align {bs : List Byte} (h : s.readVirt t t.savea 512 = .ok (bs, s1)) (hp : (savedWord bs 46).toNat % 4 ≠ 0) :
    s.returnFromHandler t = .error { code := .align, addr := savedWord bs 46 } := by
  rw [State.returnFromHandler, h]
  exact if_pos hp

theorem returnFromHandler_ok {bs : List Byte} (h : s.readVirt t t.savea 512 = .ok (bs, s1)) (hp : (savedWord bs 46).toNat % 4 = 0)
    (hl : t.inflight = []) (hu : s1.th.uid = t.uid) :
    s.returnFromHandler t = .ok { s1 with th := (returned t (t.restore (savedWord bs))).transferred s1.fences } := by
  rw [State.returnFromHandler, h]
  dsimp only
  rw [landAll_nil hl]
  rw [← setT_selected (t := (returned t (t.restore (savedWord bs))).transferred s1.fences) (hu.trans (returned_uid ..).symm)]
  exact if_neg (not_not_intro hp)

/-- A word whose body raises a fault raises it. -/
theorem issueWord_trap {i : Instr} {body : State → Ex} {tr : Trap} (h : s.Free i) (hb : body s = .trap s tr) :
    issueWord i body s = .next (s.takeFault s.th tr (encode i)) := by
  rw [issueWord_free i body s h, hb]
  rfl

theorem issueWord_stop {i : Instr} {body : State → Ex} (h : s.Free i) (hb : body s = .stop s1) : issueWord i body s = .next s1 := by
  rw [issueWord_free i body s h, hb]

/-- What `eret` does once the checks of issue have passed. -/
def eretBody (s : State) : Ex :=
  if s.th.prv = false then .trap s { code := .priv }
  else if s.th.inHandler = false then .trap s { code := .illegal }
  else match s.returnFromHandler s.th with
    | .error e => .trap s e
    | .ok s1 => .stop s1

theorem exec_eret (s : State) : exec .eret s = issueWord .eret eretBody s := rfl

theorem eretBody_unprivileged (hp : s.th.prv = false) : eretBody s = .trap s { code := .priv } := if_pos hp

theorem eretBody_outside (hp : s.th.prv = true) (hh : s.th.inHandler = false) : eretBody s = .trap s { code := .illegal } := by
  simp [eretBody, hp, hh]

theorem eretBody_error {e : Trap} (hp : s.th.prv = true) (hh : s.th.inHandler = true) (h : s.returnFromHandler s.th = .error e) :
    eretBody s = .trap s e := by
  simp [eretBody, hp, hh, h]

theorem eretBody_ok (hp : s.th.prv = true) (hh : s.th.inHandler = true) (h : s.returnFromHandler s.th = .ok s1) : eretBody s = .stop s1 := by
  simp [eretBody, hp, hh, h]

/-- A thread that goes on from a saved context holds the words of memory. -/
theorem reloads_returned {u : Thread} {a : Nat} (h : s.Reloads a u) (t : Thread) (n : Nat) : s.Reloads a ((returned t u).transferred n) :=
  { registers := h.registers, result := h.result, cursors := h.cursors, pc := h.pc, ts := h.ts, pxs := h.pxs, float := h.float,
    loop := h.loop, family := h.family, wait := h.wait, rest := h.rest }

end Sys2Proof.Machine
end

section
open Sys2Proof Sys2Proof.Machine

/-- Settles O25: the two checks are the body's (`eretBody_unprivileged`, `eretBody_outside`); the context is one read of memory
(`readVirt_page`), and the thread that is restored from it holds its words (`reloads_restore`). -/
theorem returnFromHandler : Obligations.ReturnFromHandler := by
  unfold Obligations.ReturnFromHandler
  intro s s1 pa0 pa hfree
  refine ⟨fun hp => ?_, fun hp hh => ?_, ?reload⟩
  · exact (exec_eret s).trans (issueWord_trap hfree (eretBody_unprivileged hp))
  · exact (exec_eret s).trans (issueWord_trap hfree (eretBody_outside hp hh))
  case reload =>
    intro hp hh hpage hs ht hr hb hl back
    have hread := readVirt_page (t := s.th) (n := 512) (by decide) hpage ht hr hs hb
    have hword {i : Nat} (hi : i < 64) := savedWord_eq s pa hi
    have hback : savedWord (s.readBytes .mem pa 512) 46 = back := hword (by decide)
    refine ⟨fun hbad => ?_, fun hgood => ?_⟩
    · have hret := returnFromHandler_align hread (hback ▸ hbad)
      rw [hback] at hret
      exact (exec_eret s).trans (issueWord_trap hfree (eretBody_error hp hh hret))
    · obtain ⟨ws, cs, rfl⟩ := translate_frame ht
      have hret := returnFromHandler_ok hread (hback ▸ hgood) hl rfl
      exact ⟨_, (exec_eret s).trans (issueWord_stop hfree (eretBody_ok hp hh hret)), sameBytes_reloaded _ _ _ _,
        reloads_returned (reloads_restore fun i => hword) .., rfl, returned_peng .., rfl, rfl, rfl⟩

end

section

/-!
# Writes of control registers (R115 to R120)

What an engine is after one is set, what a control register reads after a write, and what the three words that write complete with.
-/

namespace Sys2Proof.Machine

variable {s s1 : State} {t : Thread}

/-! ### Engines -/

theorem setEngine_eq (s : State) (x : Engine) : ∃ es, s.setEngine x = { s with engines := es } := by
  unfold State.setEngine
  split
  · exact ⟨_, rfl⟩
  · exact ⟨_, rfl⟩

theorem setEngine_only (s : State) (x : Engine) : ({ s.setEngine x with th := s.th, engines := s.engines } : State) = s := by
  obtain ⟨es, h⟩ := setEngine_eq s x
  rw [h]

theorem engine_place (s : State) (e u : Nat) : (s.engine e u).code = e ∧ (s.engine e u).unit = u := by
  unfold State.engine
  cases h : s.engines.find? (fun x => x.code == e && x.unit == u) with
  | none => exact ⟨rfl, rfl⟩
  | some x => simpa using List.find?_some h

/-- The engine of a place among engines one of which has been replaced. -/
theorem find_map_engine (l : List Engine) (x : Engine) (e u : Nat) :
    (l.map (fun o => if o.code = x.code ∧ o.unit = x.unit then x else o)).find? (fun o => o.code == e && o.unit == u) =
      if e = x.code ∧ u = x.unit then (if l.any (fun o => o.code == x.code && o.unit == x.unit) then some x else none)
      else l.find? (fun o => o.code == e && o.unit == u) := by
  induction l with
  | nil => simp
  | cons o l ih =>
    rw [List.map_cons, List.find?_cons, List.find?_cons, ih, List.any_cons]
    by_cases ho : o.code = x.code ∧ o.unit = x.unit
    · by_cases he : e = x.code ∧ u = x.unit
      · simp [ho, he]
      · have hx : (x.code == e && x.unit == u) = false := by
          rw [Bool.and_eq_false_iff, beq_eq_false_iff_ne, beq_eq_false_iff_ne, ← not_and_or]
          exact fun h => he ⟨h.1.symm, h.2.symm⟩
        simp [ho, he, hx]
    · by_cases he : e = x.code ∧ u = x.unit
      · obtain ⟨rfl, rfl⟩ := he
        have hx : (o.code == x.code && o.unit == x.unit) = false := by
          rw [Bool.and_eq_false_iff, beq_eq_false_iff_ne, beq_eq_false_iff_ne, ← not_and_or]
          exact ho
        simp [ho, hx]
      · simp [ho, he]

/-- An engine's entry after one is set. -/
theorem engine_setEngine (s : State) (x : Engine) (e u : Nat) :
    (s.setEngine x).engine e u = if e = x.code ∧ u = x.unit then x else s.engine e u := by
  unfold State.setEngine State.engine
  split
  · next h =>
    dsimp only
    rw [find_map_engine, if_pos h]
    split <;> rfl
  · next h =>
    dsimp only
    rw [List.find?_append]
    by_cases he : e = x.code ∧ u = x.unit
    · obtain ⟨rfl, rfl⟩ := he
      have hn : s.engines.find? (fun o => o.code == x.code && o.unit == x.unit) = none :=
        List.find?_eq_none.2 fun o ho hx => h (List.any_eq_true.2 ⟨o, ho, hx⟩)
      simp [hn]
    · have hx : (x.code == e && x.unit == u) = false := by
        rw [Bool.and_eq_false_iff, beq_eq_false_iff_ne, beq_eq_false_iff_ne, ← not_and_or]
        exact fun h => he ⟨h.1.symm, h.2.symm⟩
      simp [he, hx]

/-! ### Completion in sequence without a destination -/

/-- A word that writes no register completes with its value in y0 and moves on. -/
theorem completeWord_done (s : State) (v : Word) :
    ∃ u, s.completeWord s.th v none .seq = { s with th := u } ∧ s.th.Done u 0 v s.th.ffl s.th.dz s.th.srnd := by
  have hz := write_zero s.th v
  have hd := complete_done s.th s.th 0 v (by rw [hz]) (by rw [hz]) (by rw [hz]) ⟨rfl, rfl⟩ ⟨rfl, rfl, rfl, rfl, rfl⟩ rfl
  refine ⟨_, completeWord_seq s s.th v none rfl, ?_⟩
  split
  · exact done_transferred hd _
  · exact hd

theorem issueWord_done {i : Instr} {body : State → Ex} {v : Word} (h : s.Free i) (hb : body s = .done s1 v none .seq) :
    ∃ u, issueWord i body s = .next { s1 with th := u } ∧ s1.th.Done u 0 v s1.th.ffl s1.th.dz s1.th.srnd := by
  obtain ⟨u, hu, hd⟩ := completeWord_done s1 v
  refine ⟨u, ?_, hd⟩
  rw [issueWord_free i body s h, hb, ← hu]

/-! ### What a register reads after a write -/

theorem setWidth_setWidth_mask (v : Word) (k : Nat) : (v.setWidth k).setWidth 64 = v &&& (BitVec.allOnes k).setWidth 64 := by
  ext j hj
  by_cases hk : j < k <;> simp [hj, hk]

/-- A write to a register leaves what the others read: each has a field of the thread, or a part of one, of its own. -/
theorem csrRead_csrWrite_other {n m : Nat} (v : Word) (hm : geomOf m = none) (h : m ≠ n) :
    s.csrRead (t.csrWrite n v) m = s.csrRead t m := by
  have other {i j : Nat} (hi : i < 4) (hj : j < 4) (x : BitVec 40) (hij : i ≠ j) :
      ((t.k.set i x)[j]).setWidth 64 = (t.k[j]).setWidth 64 := congrArg _ (Vector.getElem_set_ne hi hj hij)
  unfold Thread.csrWrite
  split
  case h_3 =>
    split
    · rfl
    · unfold State.csrRead
      rw [hm]
      dsimp only [Thread.ts, Thread.pxs, Thread.tid]
      split
      case h_3 => exact absurd rfl h
      all_goals rfl
  case h_12 => rfl
  all_goals
    unfold State.csrRead
    rw [hm]
    dsimp only [Thread.ts, Thread.pxs, Thread.tid]
    split <;> first | with_reducible rfl | exact absurd rfl h | exact other _ _ _ (by decide)

/-- TS but for its lowest bit, TS.DZ (R117). -/
def tsAbove (t : Thread) : Nat :=
  (if t.fv ∨ t.sv then 1 else 0) + (if t.prv then 4 else 0) + (if t.la then 8 else 0) + t.peng.toNat * 16

theorem ts_eq_bit (t : Thread) : t.ts = BitVec.ofNat 64 (Nat.bit t.dz (tsAbove t)) := by
  have hz : (if t.dz = true then 1 else 0) = t.dz.toNat := by cases t.dz <;> rfl
  have hv : (if t.fv = true ∨ t.sv = true then 2 else 0) = 2 * (if t.fv = true ∨ t.sv = true then 1 else 0) := by split <;> rfl
  have hp : (if t.prv = true then 8 else 0) = 2 * (if t.prv = true then 4 else 0) := by split <;> rfl
  have hl : (if t.la = true then 16 else 0) = 2 * (if t.la = true then 8 else 0) := by split <;> rfl
  rw [Thread.ts, Nat.bit_val, tsAbove, hz, hv, hp, hl]
  congr 1
  omega

theorem ofNat_bit_eq_masked (b : Bool) (r : Nat) (v : Word) :
    BitVec.ofNat 64 (Nat.bit (v.getLsbD 0) r) = (BitVec.ofNat 64 (Nat.bit b r) &&& ~~~1#64) ||| (v &&& 1#64) := by
  apply BitVec.eq_of_getLsbD_eq
  intro j hj
  rw [BitVec.getLsbD_or, BitVec.getLsbD_and, BitVec.getLsbD_and, BitVec.getLsbD_not, BitVec.getLsbD_one, getLsbD_ofNat_word hj,
    getLsbD_ofNat_word hj, decide_eq_true hj]
  cases j with
  | zero => simp
  | succ j => simp [Nat.testBit_bit_succ]

theorem csrRead_csrWrite_same {n : Nat} (v : Word) :
    s.csrRead (t.csrWrite n v) n = csrKeeps n (s.csrRead t n) v := by
  have cursor {i : Nat} (hi : i < 4) : ((t.k.set i (v.setWidth 40))[i]).setWidth 64 = v &&& 0xFFFFFFFFFF#64 :=
    (congrArg _ (Vector.getElem_set_self hi)).trans (setWidth_setWidth_mask v 40)
  unfold Thread.csrWrite
  split
  · show Thread.ts { t with dz := v.getLsbD 0 } = (t.ts &&& ~~~1#64) ||| (v &&& 1#64)
    rw [ts_eq_bit, ts_eq_bit t]
    exact ofNat_bit_eq_masked ..
  · exact setWidth_setWidth_mask v 5
  · show State.csrRead _ (if 6 ≤ (v.setWidth 3).toNat then t else { t with frm := v.setWidth 3 }) 3 =
      if v.toNat % 8 < 6 then v &&& 7#64 else s.csrRead t 3
    rw [BitVec.toNat_setWidth]
    split
    · next h => rw [if_neg (by omega)]
    · next h => exact (setWidth_setWidth_mask v 3).trans (if_pos (by omega)).symm
  · show (if v.setWidth 32 = 0#32 then 1#32 else v.setWidth 32).setWidth 64 =
      if v &&& 0xFFFFFFFF#64 = 0#64 then 1#64 else v &&& 0xFFFFFFFF#64
    have hm : (v.setWidth 32).setWidth 64 = v &&& 0xFFFFFFFF#64 := setWidth_setWidth_mask v 32
    rw [← hm]
    split
    · next h => simp [h]
    · next h =>
      rw [if_neg]
      intro e
      have := congrArg (BitVec.setWidth 32) e
      rw [BitVec.setWidth_setWidth_of_le _ (by decide), BitVec.setWidth_eq] at this
      exact h this
  · exact setWidth_setWidth_mask v 32
  · rfl
  · rfl
  · exact cursor _
  · exact cursor _
  · exact cursor _
  · exact cursor _
  · next a0 a2 a3 a4 a8 a9 aA a10 a11 a12 a13 =>
    have hk : ¬ (0x010 ≤ n ∧ n ≤ 0x013) := by
      have hn : n ≠ 0x010 ∧ n ≠ 0x011 ∧ n ≠ 0x012 ∧ n ≠ 0x013 := ⟨a10, a11, a12, a13⟩
      omega
    rw [csrKeeps, if_neg a0, if_neg a2, if_neg a3, if_neg a4, if_neg a8, if_neg (not_or.2 ⟨a9, aA⟩), if_neg hk]

/-! ### The words -/

theorem exec_csrForm {i : Instr} {n : Nat} {a : Spec} {f : Word → Word → Word} (h : csrForm i = some (n, a, f)) (s : State) :
    exec i s = issueWord i (fun s => csrBody i n 0 (some (fun old => f old (s.th.read a))) s) s := by
  unfold csrForm at h
  split at h <;> cases h <;> rfl

section
variable {i : Instr} {n : Nat} {d : Spec} {g : Word → Word}

theorem csrBody_unprivileged {form : Option (Word → Word)} (h : 0x800 ≤ n ∧ s.th.prv = false) :
    csrBody i n d form s = .trap s { code := .priv } := if_pos h

theorem csrBody_thread (h : n < 0x800) (hg : geomOf n = none) :
    csrBody i n d (some g) s = .done { s with th := s.th.csrWrite n (g (s.csrRead s.th n)) } (s.csrRead s.th n) none .seq := by
  have h1 : ¬ (0x800 ≤ n ∧ s.th.prv = false) := fun x => absurd x.1 (by omega)
  have h2 : n ≠ 0x802 := by omega
  have h3 : n ≠ 0x801 := by omega
  simp only [csrBody, if_neg h1, hg, if_neg h2, if_neg h3]

theorem geomOf_low {p : Nat × Nat} (h : geomOf n = some p) : n < 0x800 := by
  unfold geomOf at h
  split at h
  · omega
  · split at h
    · omega
    · cases h

theorem csrBody_unpinned {e j : Nat} (hg : geomOf n = some (e, j)) (hx : (s.engine e (engineUnit e s.th.core)).holder ≠ some s.th.uid) :
    csrBody i n d (some g) s = .trap s { code := .priv } := by
  have h1 : ¬ (0x800 ≤ n ∧ s.th.prv = false) := fun x => absurd x.1 (Nat.not_le.2 (geomOf_low hg))
  simp only [csrBody, if_neg h1, hg, if_pos hx]

theorem csrBody_pinned {e j : Nat} (hg : geomOf n = some (e, j)) (hx : (s.engine e (engineUnit e s.th.core)).holder = some s.th.uid) :
    let x := s.engine e (engineUnit e s.th.core)
    csrBody i n d (some g) s =
      .done (s.setEngine { x with geom := x.geom.set j (g (s.csrRead s.th n) &&& geomMask e j) }) (s.csrRead s.th n) none .seq := by
  have h1 : ¬ (0x800 ≤ n ∧ s.th.prv = false) := fun x => absurd x.1 (Nat.not_le.2 (geomOf_low hg))
  simp only [csrBody, if_neg h1, hg, if_neg (not_not_intro hx)]

theorem csrBody_pxs (h : s.th.prv = true) :
    csrBody i 0x801 d (some g) s = .stop { s.completeWord s.th (s.csrRead s.th 0x801) none .seq with
      th := (s.completeWord s.th (s.csrRead s.th 0x801) none .seq).th.setPxs (g (s.csrRead s.th 0x801)) } := by
  have hg : geomOf 0x801 = none := rfl
  simp [csrBody, h, hg]

end

end Sys2Proof.Machine
end

section
open Sys2Proof Sys2Proof.Machine

/-- Settles O9: the registers by their numbers (`csrRead_csrWrite_same`, `csrRead_csrWrite_other`); the words by the branches of `csrBody`,
each of which completes in sequence (`issueWord_done`, `completeWord_done`); the geometry by `engine_setEngine`. -/
theorem controlRegisterWrites : Obligations.ControlRegisterWrites := by
  unfold Obligations.ControlRegisterWrites
  refine ⟨fun s t n m v _ _ _ hm => ⟨csrRead_csrWrite_same v, csrRead_csrWrite_other v hm⟩, fun s i n a f hi hfree => ?_⟩
  have hexec := exec_csrForm hi s
  intro old v
  refine ⟨fun hp => ?_, fun hn hg => ?_, fun e j hg => ⟨fun hx => ?_, fun hx => ?_⟩, fun hn hp => ?_⟩
  · exact hexec.trans (issueWord_trap hfree (csrBody_unprivileged hp))
  · obtain ⟨u, hu, hd⟩ := issueWord_done hfree (csrBody_thread hn hg)
    exact ⟨_, hexec.trans hu, rfl, hd⟩
  · exact hexec.trans (issueWord_trap hfree (csrBody_unpinned hg hx))
  · obtain ⟨hcode, hunit⟩ := engine_place s e (engineUnit e s.th.core)
    obtain ⟨u, hu, hd⟩ := issueWord_done hfree (csrBody_pinned hg hx)
    rw [State.setEngine_th] at hd
    refine ⟨_, hexec.trans hu, setEngine_only .., hd, ?_, fun k w hk => ?_⟩
    · exact (engine_setEngine ..).trans (if_pos ⟨hcode.symm, hunit.symm⟩)
    · refine (engine_setEngine ..).trans (if_neg fun hkw => hk ?_)
      exact Prod.ext (hkw.1.trans hcode) (hkw.2.trans hunit)
  · subst hn
    obtain ⟨u, hu, hd⟩ := completeWord_done s old
    have hstop := issueWord_stop hfree (csrBody_pxs (i := i) (d := 0) (g := fun old => f old (s.th.read a)) hp)
    rw [hu] at hstop
    exact ⟨_, hexec.trans hstop, rfl, u, hd, rfl⟩

end

section

/-!
# How an engine takes a command (R299, R303 to R307)

The words that command an engine share one body: the pin, the block, its registers, its legality, its semaphore, and then the acceptance.
-/

namespace Sys2Proof.Machine

variable {s s1 : State} {t : Thread} {i : Instr} {e op n : Nat} {d a : Spec}

/-! ### A status in flight (R110) -/

theorem advance_y0Id (t : Thread) (x : Option Nat) :
    ({ t with y0Id := x } : Thread).advance = ({ t.advance.1 with y0Id := x }, t.advance.2) := by
  by_cases h : t.la = true ∧ t.pc + 4 = t.le
  · by_cases h0 : (if t.lc = 0 then 0 else t.lc - 1) = 0
    · simp only [Thread.advance, if_pos h, if_pos h0]
    · simp only [Thread.advance, if_pos h, if_neg h0]
  · simp only [Thread.advance, if_neg h]

/-- A thread whose word completes with a value that is there, before it moves on (R78, R110). -/
def shifted (t : Thread) (v : Word) : Thread :=
  { t with y1 := t.y0, y1Id := t.y0Id, y0 := v, y0Id := none, fv := false, fmt := if t.fv then 0 else t.fmt, sv := false,
           scl := if t.sv then 0 else t.scl, mode := .ready, wait := .none, retry := none }

theorem complete_late (t : Thread) (v : Word) (id : Nat) :
    (t.complete v (some id) .seq).1 = { (t.complete v none .seq).1 with y0Id := some id } :=
  congrArg Prod.fst (advance_y0Id (shifted t v) (some id))

/-- A word whose value is in flight completes as one whose value is there, but that y0 names the value. -/
theorem completeWord_late (s : State) (v : Word) (id : Nat) :
    ∃ u, s.completeWord s.th v (some id) .seq = { s with th := { u with y0Id := some id } } ∧
      s.th.Done u 0 v s.th.ffl s.th.dz s.th.srnd := by
  obtain ⟨u, hu, hd⟩ := completeWord_done s v
  refine ⟨u, ?_, hd⟩
  rw [completeWord_seq s s.th v none rfl] at hu
  have hth := congrArg State.th hu
  dsimp only at hth
  rw [completeWord_seq s s.th v (some id) rfl, complete_late, ← hth]
  split <;> rfl

theorem issueWord_late {body : State → Ex} {v : Word} {id : Nat} (h : s.Free i) (hb : body s = .done s1 v (some id) .seq) :
    ∃ u, issueWord i body s = .next { s1 with th := { u with y0Id := some id } } ∧ s1.th.Done u 0 v s1.th.ffl s1.th.dz s1.th.srnd := by
  obtain ⟨u, hu, hd⟩ := completeWord_late s1 v id
  refine ⟨u, ?_, hd⟩
  rw [issueWord_free i body s h, hb, ← hu]

/-- The thread that waits for no register, with a command's status in flight for d. -/
def launching (t : Thread) (id : Nat) (d : Spec) : Thread :=
  { t with inflight := t.inflight.map (InFlight.cancel d) ++ [{ id := id, dst := if d = 0 then none else some d, late := .status }] }

theorem cancel_id (d : Spec) (f : InFlight) : (f.cancel d).id = f.id := by
  unfold InFlight.cancel
  split <;> rfl

theorem launched_of_done {u : Thread} {id : Nat} {v : Word}
    (h : (launching t id d).Done u 0 v t.ffl t.dz t.srnd) : t.Launched { u with y0Id := some id } id d where
  registers x hx := by
    by_cases h0 : x = 0
    · subst h0
      rw [read_zero, read_zero]
    · exact h.wrote.others x hx h0
  late := ⟨rfl, h.shifted.y1, h.shifted.y1Id⟩
  flight := by
    refine ⟨t.inflight.map (InFlight.cancel d), ?_, ?_⟩
    · rw [List.map_map]
      exact List.map_congr_left fun f _ => cancel_id d f
    · exact h.wrote.landing.trans (congrArg Thread.inflight (write_zero (launching t id d) v))
  advanced := { seq := h.advanced.seq, last := h.advanced.last, back := h.advanced.back }
  kept := ⟨h.kept, h.flags⟩

/-! ### Acceptance (R299, R305, R307) -/

/-- The command that an engine queues for the selected thread. -/
def queued (s : State) (x : Engine) (op : Nat) (regs : List Word) (dst src : List Side) : Cmd :=
  { id := s.nextId, uid := s.th.uid, ctx := s.th.ctx, core := s.th.core, op := op, regs := regs, geom := x.geom,
    deep := (scratchSides (dst ++ src)).any (fun y => y.cls == 2), resolved := !dst.any (fun y => y.cls == 0 && decide (y.lo < y.hi)),
    pubRec := none, status := none, toks := [] }

/-- The scoreboard entries of a command: one, but none for a domain engine's command without a scratch side. -/
def entries (s : State) (e : Nat) (dst src : List Side) : List SbEntry :=
  if e ≠ 0 ∧ scratchSides (dst ++ src) = [] then []
  else [{ cmd := s.nextId, dst := hull s.th.core s.th.ctx dst, src := hull s.th.core s.th.ctx src }]

/-- What keeps an engine from taking a command now. -/
def Full (s : State) (e : Nat) (d : Spec) (dst src : List Side) : Prop :=
  (if e = 0 then 32 else 8) ≤ (s.engine e (engineUnit e s.th.core)).fifo.length ∨
    (¬ (e ≠ 0 ∧ scratchSides (dst ++ src) = []) ∧ 32 ≤ (s.core s.th.core).sb.length) ∨ s.th.busy d = true

section
variable {regs : List Word} {dst src : List Side}

theorem accept_full (h : Full s e d dst src) : s.accept e op d regs dst src = .stall s := by
  unfold State.accept
  dsimp only
  rcases h with h | ⟨he, hl⟩ | h
  · exact if_pos h
  · rw [if_neg he]
    have hs (p : Option Range × Option Range) : (some p).isSome = true ∧ Config.scoreboardSize ≤ (s.core s.th.core).sb.length := ⟨rfl, hl⟩
    rw [if_pos (hs _), ite_self]
  · rw [if_pos h, ite_self, ite_self]

/-- The state with a command's scoreboard entry. -/
def booked (s : State) (e : Nat) (d : Spec) (dst src : List Side) : State :=
  let s1 : State := { s with nextId := s.nextId + 1, th := launching s.th s.nextId d }
  if e ≠ 0 ∧ scratchSides (dst ++ src) = [] then s1
  else s1.setCore s.th.core { s.core s.th.core with sb := (s.core s.th.core).sb ++ entries s e dst src }

/-- The state in which an engine has taken a command and its word is to complete. -/
def accepted (s : State) (e op : Nat) (d : Spec) (regs : List Word) (dst src : List Side) : State :=
  let x := s.engine e (engineUnit e s.th.core)
  (booked s e d dst src).setEngine { x with fifo := x.fifo ++ [queued s x op regs dst src] }

theorem accept_free (h : ¬ Full s e d dst src) :
    s.accept e op d regs dst src = .done (accepted s e op d regs dst src) 0 (some s.nextId) .seq := by
  obtain ⟨hf, hs, hb⟩ : _ ∧ _ ∧ _ := by rwa [Full, not_or, not_or] at h
  unfold State.accept accepted booked entries
  dsimp only
  refine (if_neg hf).trans ?_
  by_cases he : e ≠ 0 ∧ scratchSides (dst ++ src) = []
  · simp only [if_pos he]
    rw [if_neg (fun x => Bool.false_ne_true x.1), if_neg hb]
    rfl
  · simp only [if_neg he]
    rw [if_neg (fun x => hs ⟨he, x.2⟩), if_neg hb]
    rfl

theorem booked_eq (s : State) (e : Nat) (d : Spec) (dst src : List Side) :
    ∃ cs, booked s e d dst src = { s with nextId := s.nextId + 1, th := launching s.th s.nextId d, cores := cs } := by
  unfold booked
  split
  · exact ⟨_, rfl⟩
  · exact ⟨_, rfl⟩

theorem booked_sb : ((booked s e d dst src).core s.th.core).sb = (s.core s.th.core).sb ++ entries s e dst src := by
  unfold booked
  split
  · next h =>
    rw [entries, if_pos h, List.append_nil]
    rfl
  · rw [core_setCore, if_pos rfl]

/-- Taking a command changes the thread, its core's scoreboard, the engine and the next name. -/
theorem accepted_eq (s : State) (e op : Nat) (d : Spec) (regs : List Word) (dst src : List Side) :
    ∃ cs es, accepted s e op d regs dst src =
      { s with nextId := s.nextId + 1, th := launching s.th s.nextId d, cores := cs, engines := es } := by
  obtain ⟨cs, hc⟩ := booked_eq s e d dst src
  obtain ⟨es, he⟩ := setEngine_eq (booked s e d dst src) { s.engine e (engineUnit e s.th.core) with
    fifo := (s.engine e (engineUnit e s.th.core)).fifo ++ [queued s (s.engine e (engineUnit e s.th.core)) op regs dst src] }
  exact ⟨cs, es, he.trans (by rw [hc])⟩

theorem accepted_engine :
    let x := s.engine e (engineUnit e s.th.core)
    (accepted s e op d regs dst src).engine e (engineUnit e s.th.core) = { x with fifo := x.fifo ++ [queued s x op regs dst src] } := by
  obtain ⟨hcode, hunit⟩ := engine_place s e (engineUnit e s.th.core)
  exact (engine_setEngine ..).trans (if_pos ⟨hcode.symm, hunit.symm⟩)

theorem accepted_sb : ((accepted s e op d regs dst src).core s.th.core).sb = (s.core s.th.core).sb ++ entries s e dst src := by
  refine Eq.trans ?_ (booked_sb (d := d))
  unfold accepted State.core
  rw [State.setEngine_cores]

theorem queued_deep (s : State) (x : Engine) :
    (queued s x op regs dst src).deep = true ↔ ∃ y ∈ scratchSides (dst ++ src), y.cls = 2 := by
  simp only [queued, List.any_eq_true, beq_iff_eq]

end

/-! ### The words -/

/-- What a command's issue checks of its own: an nbl.pairs wants a channel that the engine feeds (R313). -/
def commandIssue (i : Instr) (s : State) (w : List Word) : Option Trap :=
  match i with
  | .nblPairs .. => (match s.chan? s.th.ctx (fieldOf (wordAt w 0) 0 12) with
      | some c => if c.prod = 2 then none else some (rangeProt 0)
      | none => some (rangeProt 0))
  | _ => none

/-- The selected thread has pinned the engine where it stands (R72). -/
def Pinned (s : State) (e : Nat) : Prop := s.th.peng.toNat = e ∧ (s.engine e (engineUnit e s.th.core)).holder = some s.th.uid

/-- What a command does with the words of its block (R299, R305). -/
def takeBlock (i : Instr) (e op n : Nat) (d : Spec) (ws : List Word) (s : State) : Ex :=
  let x := s.engine e (engineUnit e s.th.core)
  if commandLegal i e ws x = false then .trap s { code := .illegal }
  else if n ≠ 0 ∧ (wordAt ws 0).getLsbD 48 = true ∧ s.semGranted s.th (fieldOf (wordAt ws 0) 44 4) = false then .trap s { code := .priv }
  else match commandIssue i s ws with
    | some tr => .trap s tr
    | none => s.accept e op d ws (blockSides i ws x).1 (blockSides i ws x).2

/-- What a word that commands an engine does once the checks of issue have passed (R299, R305). -/
def commandBody (i : Instr) (e op n : Nat) (d a : Spec) (s : State) : Ex :=
  if ¬ (s.th.peng.toNat = e ∧ (s.engine e (engineUnit e s.th.core)).holder = some s.th.uid) then .trap s { code := .priv }
  else if n ≠ 0 ∧ blockOk n a = false then .trap s { code := .illegal }
  else if (regBlock a n).any s.th.busy then .stall s
  else takeBlock i e op n d (s.th.block a n) s

theorem block_isEmpty (t : Thread) (a : Spec) (n : Nat) : (t.block a n).isEmpty = true ↔ n = 0 := by
  simp [Thread.block, regBlock, upto]

/-- A domain engine's checks of a block, in the order in which it makes them, are that the command is legal. -/
theorem commandLegal_domain (he : e ≠ 0) (t : Thread) (x : Engine) :
    commandLegal i e (t.block a n) x = false ↔
      (n ≠ 0 ∧ semFields (wordAt (t.block a n) 0) = false) ∨ blockLegal i (t.block a n) x.geom = false ∨
        sidesAgree (blockSides i (t.block a n) x).1 = false ∨ sidesAgree (blockSides i (t.block a n) x).2 = false := by
  have hb : (t.block a n).isEmpty = false ↔ n ≠ 0 := by rw [← Bool.not_eq_true, block_isEmpty]
  simp only [commandLegal, beq_eq_false_iff_ne.2 he, Bool.false_or, Bool.and_eq_false_iff, Bool.or_eq_false_iff, hb]
  tauto

theorem domainBody_eq (he : e ≠ 0) :
    domainBody e op n d a (blockLegal i) (blockSides i) (commandIssue i) s = commandBody i e op n d a s := by
  simp only [domainBody, commandBody, takeBlock, not_and_or, commandLegal_domain he] <;> rfl

/-- What `cqpush` does once the checks of issue have passed (R299). -/
def cqpushBody (d a : Spec) (s : State) : Ex :=
  let t := s.th
  if t.peng ≠ 0 ∨ (s.engine 0 t.core).holder ≠ some t.uid then .trap s { code := .priv }
  else if (regBlock a 4).any t.busy then .stall s
  else
    let ws := t.block a 4
    let q := copyReq ws (s.engine 0 t.core).geom
    if q.legal (wordAt ws 0) = false then .trap s { code := .illegal }
    else if q.sv = true ∧ s.semGranted t q.sem = false then .trap s { code := .priv }
    else s.accept 0 0 d ws q.sides.1 q.sides.2

theorem exec_cqpush (d a : Spec) (s : State) : exec (.cqpush d a) s = issueWord (.cqpush d a) (cqpushBody d a) s := rfl

theorem commandLegal_copy (w : List Word) (x : Engine) :
    commandLegal (.cqpush d a) 0 w x = (copyReq w x.geom).legal (wordAt w 0) := Bool.and_true _

/-- A copy's checks are those of a command; its block is one that the word can name, being well formed. -/
theorem cqpushBody_eq (hw : blockOk 4 a = true) : cqpushBody d a s = commandBody (.cqpush d a) 0 0 4 d a s := by
  have hp : s.th.peng ≠ 0 ↔ ¬ s.th.peng.toNat = 0 := not_congr ⟨fun h => by rw [h]; rfl, fun h => BitVec.eq_of_toNat_eq h⟩
  have hn (p : Prop) : (4 ≠ 0 ∧ p) ↔ p := and_iff_right (by decide)
  have hb : ¬ blockOk 4 a = false := fun h => Bool.false_ne_true (h.symm.trans hw)
  simp only [cqpushBody, commandBody, takeBlock, not_and_or, commandLegal_copy, hp, hn, if_neg hb] <;> rfl

theorem exec_domain (h : engineWord i = some (e, op, n, d, a)) (he : e ≠ 0) (s : State) :
    exec i s = issueWord i (domainBody e op n d a (blockLegal i) (blockSides i) (commandIssue i)) s := by
  unfold engineWord at h
  split at h
  case h_1 => 
    cases h
    exact absurd rfl he
  case h_12 => cases h
  all_goals
    cases h
    rfl

/-- Every word that commands an engine has the one body. -/
theorem exec_command (h : engineWord i = some (e, op, n, d, a)) (hfree : s.Free i) :
    exec i s = issueWord i (commandBody i e op n d a) s := by
  have congr {b c : State → Ex} (hb : b s = c s) : issueWord i b s = issueWord i c s := by
    rw [issueWord, issueWord, hb]
  by_cases he : e = 0
  · subst he
    unfold engineWord at h
    split at h <;> cases h
    exact (exec_cqpush d a s).trans (congr (cqpushBody_eq (Bool.and_eq_true_iff.1 hfree.wf).2))
  · exact (exec_domain h he s).trans (congr (domainBody_eq he))

/-! ### The branches of the body -/

theorem commandBody_unpinned (hp : ¬ Pinned s e) : commandBody i e op n d a s = .trap s { code := .priv } := if_pos hp

theorem commandBody_misplaced (hp : Pinned s e) (hb : n ≠ 0 ∧ blockOk n a = false) :
    commandBody i e op n d a s = .trap s { code := .illegal } := (if_neg (not_not_intro hp)).trans (if_pos hb)

theorem commandBody_landed (hp : Pinned s e) (hb : n ≠ 0 → blockOk n a = true) (hl : ∀ r ∈ regBlock a n, s.th.busy r = false) :
    commandBody i e op n d a s = takeBlock i e op n d (s.th.block a n) s := by
  have hb' : ¬ (n ≠ 0 ∧ blockOk n a = false) := fun h => Bool.false_ne_true (h.2.symm.trans (hb h.1))
  have hl' : ¬ (regBlock a n).any s.th.busy = true := by
    rw [Bool.not_eq_true, List.any_eq_false]
    exact fun r hr => by rw [hl r hr]; exact Bool.false_ne_true
  exact (if_neg (not_not_intro hp)).trans ((if_neg hb').trans (if_neg hl'))

section
variable {ws : List Word}

/-- The semaphore that the block names, where it asks for a signal, is granted (R305). -/
def Granted (s : State) (n : Nat) (ws : List Word) : Prop :=
  n ≠ 0 → (wordAt ws 0).getLsbD 48 = true → s.semGranted s.th (fieldOf (wordAt ws 0) 44 4) = true

/-- An nbl.pairs has a channel that the engine feeds (R313). -/
def Fed (i : Instr) (s : State) (ws : List Word) : Prop :=
  ∀ d a, i = .nblPairs d a → ∃ c, s.chan? s.th.ctx (fieldOf (wordAt ws 0) 0 12) = some c ∧ c.prod = 2

theorem commandIssue_fed (h : Fed i s ws) : commandIssue i s ws = none := by
  unfold commandIssue
  split
  · obtain ⟨c, hc, hp⟩ := h _ _ rfl
    rw [hc]
    exact if_pos hp
  · rfl

theorem commandIssue_unfed (h : ¬ Fed i s ws) : commandIssue i s ws = some { code := .prot } := by
  unfold commandIssue
  split
  · split
    · next c hc =>
      refine if_neg fun hp => h ?_
      rintro _ _ ⟨⟩
      exact ⟨c, hc, hp⟩
    · rfl
  · next hn => exact absurd (fun d a hi => absurd hi (hn d a)) h

theorem takeBlock_illegal (hg : commandLegal i e ws (s.engine e (engineUnit e s.th.core)) = false) :
    takeBlock i e op n d ws s = .trap s { code := .illegal } := if_pos hg

theorem takeBlock_ungranted (hg : commandLegal i e ws (s.engine e (engineUnit e s.th.core)) = true) (hs : ¬ Granted s n ws) :
    takeBlock i e op n d ws s = .trap s { code := .priv } := by
  have hs' : n ≠ 0 ∧ (wordAt ws 0).getLsbD 48 = true ∧ s.semGranted s.th (fieldOf (wordAt ws 0) 44 4) = false := by
    simpa only [Granted, Classical.not_imp, Bool.not_eq_true] using hs
  exact (if_neg fun h => Bool.false_ne_true (h.symm.trans hg)).trans (if_pos hs')

/-- A block that is legal, with its semaphore granted, is taken unless the command has a check of its own that fails. -/
theorem takeBlock_granted (hg : commandLegal i e ws (s.engine e (engineUnit e s.th.core)) = true) (hs : Granted s n ws) :
    takeBlock i e op n d ws s = match commandIssue i s ws with
      | some tr => .trap s tr
      | none => s.accept e op d ws (blockSides i ws (s.engine e (engineUnit e s.th.core))).1
          (blockSides i ws (s.engine e (engineUnit e s.th.core))).2 := by
  have hs' : ¬ (n ≠ 0 ∧ (wordAt ws 0).getLsbD 48 = true ∧ s.semGranted s.th (fieldOf (wordAt ws 0) 44 4) = false) :=
    fun h => Bool.false_ne_true (h.2.2.symm.trans (hs h.1 h.2.1))
  exact (if_neg fun h => Bool.false_ne_true (h.symm.trans hg)).trans (if_neg hs')

theorem takeBlock_unfed (hg : commandLegal i e ws (s.engine e (engineUnit e s.th.core)) = true) (hs : Granted s n ws) (hc : ¬ Fed i s ws) :
    takeBlock i e op n d ws s = .trap s { code := .prot } := by
  rw [takeBlock_granted hg hs, commandIssue_unfed hc]

theorem takeBlock_fed (hg : commandLegal i e ws (s.engine e (engineUnit e s.th.core)) = true) (hs : Granted s n ws) (hc : Fed i s ws) :
    takeBlock i e op n d ws s = s.accept e op d ws (blockSides i ws (s.engine e (engineUnit e s.th.core))).1
      (blockSides i ws (s.engine e (engineUnit e s.th.core))).2 := by
  rw [takeBlock_granted hg hs, commandIssue_fed hc]

end

theorem issueWord_stall {body : State → Ex} (h : s.Free i) (hb : body s = .stall s) : issueWord i body s = .next s.stallAt := by
  rw [issueWord_free i body s h, hb]

/-- The state after a word whose command has been taken: the engine holds it, and its status is in flight. -/
theorem issueWord_accepted {body : State → Ex} {regs : List Word} {dst src : List Side} (h : s.Free i)
    (hb : body s = .done (accepted s e op d regs dst src) 0 (some s.nextId) .seq) :
    let x := s.engine e (engineUnit e s.th.core)
    ∃ v, issueWord i body s = .next v ∧ v.engine e (engineUnit e s.th.core) = { x with fifo := x.fifo ++ [queued s x op regs dst src] } ∧
      (v.core s.th.core).sb = (s.core s.th.core).sb ++ entries s e dst src ∧ s.th.Launched v.th s.nextId d ∧ v.nextId = s.nextId + 1 ∧
      { v with th := s.th, cores := s.cores, nextId := s.nextId, engines := s.engines } = s := by
  obtain ⟨u, hu, hd⟩ := issueWord_late h hb
  obtain ⟨cs, es, he⟩ := accepted_eq s e op d regs dst src
  refine ⟨_, hu, accepted_engine, accepted_sb, ?_, ?_, ?_⟩
  · rw [he] at hd
    exact launched_of_done hd
  · rw [he]
  · rw [he]

end Sys2Proof.Machine
end

section
open Sys2Proof Sys2Proof.Machine

/-- Settles O36: every such word has the one body (`exec_command`), whose branches are those of the statement (`commandBody_landed` and the
`takeBlock` lemmas); what the acceptance leaves is `issueWord_accepted`. -/
theorem engineCommandsAccepted : Obligations.EngineCommandsAccepted := by
  unfold Obligations.EngineCommandsAccepted
  intro s i e op n d a hi hfree
  have hexec := exec_command hi hfree
  intro t u x ws w0 sd pinned granted landed channel legal entry full old
  refine ⟨fun hp => ?_, fun hp hn hb _ => ?_, fun hp hb hl hg => ?_, fun hp hb hl hg hs => ?_, fun hp hb hl hg hs hc => ?_,
    fun hp hb hl hg hs hc hf => ?_, fun hp hb hl hg hs hc hf => ?_⟩
  · exact hexec.trans (issueWord_trap hfree (commandBody_unpinned hp))
  · exact hexec.trans (issueWord_trap hfree (commandBody_misplaced hp ⟨hn, hb⟩))
  · exact hexec.trans (issueWord_trap hfree ((commandBody_landed hp hb hl).trans (takeBlock_illegal hg)))
  · exact hexec.trans (issueWord_trap hfree ((commandBody_landed hp hb hl).trans (takeBlock_ungranted hg hs)))
  · exact hexec.trans (issueWord_trap hfree ((commandBody_landed hp hb hl).trans (takeBlock_unfed hg hs hc)))
  · exact hexec.trans (issueWord_stall hfree ((commandBody_landed hp hb hl).trans ((takeBlock_fed hg hs hc).trans (accept_full hf))))
  · obtain ⟨v, hv, hengine, hsb, hlaunched, hid, honly⟩ :=
      issueWord_accepted hfree ((commandBody_landed hp hb hl).trans ((takeBlock_fed hg hs hc).trans (accept_free hf)))
    exact ⟨v, _, hexec.trans hv, hengine, ⟨rfl, rfl, rfl, rfl, rfl, rfl, rfl, rfl, rfl, rfl⟩, queued_deep s x, hsb, hlaunched, hid, honly⟩

end

section

/-!
# schedule() where nothing waits (R336)

Where no launch waits to be dispatched, none that is pre-empted can settle, and no queue is bound, schedule() clears the records that ended
launches have left and forgets the lendings that are over; all else stays.
-/

namespace Sys2Proof.Machine
variable {s : State} {l : Launch} {n : Nat}

/-- A region of a launch has not ended its checkpoint. -/
def State.Unsettled (s : State) (ticket : Nat) : Prop :=
  ∃ o ∈ s.regions, o.ticket = ticket ∧ o.phase ≠ .idle ∧ o.phase ≠ .stopped

/-- schedule() has no launch to dispatch or to settle, no queue to look at, and no thread of an ended launch. -/
structure State.Resting (s : State) : Prop where
  running : ∀ l ∈ s.reg.launches, l.queued = false
  going : ∀ l ∈ s.reg.launches, l.phase = .preempting → s.Unsettled l.ticket
  queues : s.reg.queues = []
  settled : s.Settled

/-- What schedule() may change of such a state. -/
def State.rebound (s : State) (cores : List (Nat × CoreSt)) (binds : List Bind) (lends : List Lend) : State :=
  { s with cores := cores, binds := binds, reg := { s.reg with lends := lends } }

/-- A state that differs in what schedule() may have changed. -/
def State.Rebound (s t : State) : Prop := ∃ cores binds lends, t = s.rebound cores binds lends

theorem State.Rebound.trans {t u : State} (h : s.Rebound t) (k : t.Rebound u) : s.Rebound u := by
  obtain ⟨_, _, _, rfl⟩ := h
  obtain ⟨_, _, _, rfl⟩ := k
  exact ⟨_, _, _, rfl⟩

theorem State.Resting.rebound {t : State} (h : s.Resting) (k : s.Rebound t) : t.Resting := by
  obtain ⟨_, _, _, rfl⟩ := k
  exact ⟨h.running, h.going, h.queues, h.settled.ended, h.settled.guests⟩

theorem clearBinds_rebound (s : State) (p : Bind → Bool) : s.Rebound (s.clearBinds p) :=
  ⟨(s.clearBinds p).cores, (s.clearBinds p).binds, s.reg.lends,
    (congrArg (fun u : State => { u with cores := (s.clearBinds p).cores, binds := (s.clearBinds p).binds }) (clearBinds_only s p) :)⟩

theorem State.Rebound.sameBytes {t : State} (h : s.Rebound t) : s.SameBytes t := by
  obtain ⟨_, _, _, rfl⟩ := h
  exact sameBytes_of_cells rfl rfl rfl rfl rfl

theorem State.Rebound.regions {t : State} (h : s.Rebound t) : t.regions = s.regions := by
  obtain ⟨_, _, _, rfl⟩ := h
  rfl

theorem State.Rebound.launches {t : State} (h : s.Rebound t) : t.reg.launches = s.reg.launches := by
  obtain ⟨_, _, _, rfl⟩ := h
  rfl

/-! ### Launches that do not settle -/

/-- While a region of a launch still saves its parts, the launch does not settle. -/
theorem settle_unsettled (h : s.Unsettled n) : s.settle n = s := by
  obtain ⟨o, ho, ht, hi, hs⟩ := h
  unfold State.settle
  split
  · rfl
  · extract_lets parts rs
    have hlt : rs.length < parts.length := by
      refine List.length_filter_lt_length_iff_exists.2 ⟨o, List.mem_filter.2 ⟨ho, ?_⟩, ?_⟩
      · simp [ht, hi]
      · simp [hs]
    exact if_pos (by omega)

/-- A launch that is neither pre-empted nor aborted does not settle. -/
theorem settle_running (hl : s.launch? n = some l) (hp : l.phase ≠ .preempting) (ha : l.abort = false) : s.settle n = s := by
  unfold State.settle
  rw [hl]
  dsimp only
  split
  · rfl
  · rw [if_neg (by simp [ha]), if_pos (Or.inl hp)]

/-! ### schedule() -/

theorem sweep_rebound (h : s.Resting) : s.Rebound s.sweep := by
  have h1 : s.threads.filter s.finished = [] := List.filter_eq_nil_iff.2 fun t ht => by simp [h.settled.ended t ht]
  have h2 : s.threads.filter (fun t => t.place == .slot && !t.isOf t.bindTicket && (s.launch? t.bindTicket).isNone) = [] := by
    refine List.filter_eq_nil_iff.2 fun t ht hf => ?_
    simp only [Bool.and_eq_true, Bool.not_eq_true', beq_iff_eq, Option.isNone_iff_eq_none] at hf
    obtain ⟨⟨hp, ho⟩, hn⟩ := hf
    rcases h.settled.guests t ht hp with hg | hg
    · simp [ho] at hg
    · simp [hn] at hg
  unfold State.sweep
  simp only [h1, h2, List.foldl_nil]
  have hc := clearBinds_rebound s (fun b => s.overdue b && !s.occupied b)
  generalize s.clearBinds (fun b => s.overdue b && !s.occupied b) = u at hc
  have hu := h.rebound hc
  have hf : ((u.reg.launches.filter (fun l => l.phase == .preempting)).map Launch.ticket).foldl State.settle u = u := by
    refine List.foldlRecOn (motive := fun v : State => v = u) _ _ rfl fun v hv k hk => ?_
    obtain ⟨l, hl, rfl⟩ := List.mem_map.1 hk
    obtain ⟨hm, hp⟩ := List.mem_filter.1 hl
    rw [hv]
    exact settle_unsettled (hu.going l hm (beq_iff_eq.1 hp))
  rw [hf]
  exact hc.trans ⟨u.cores, u.binds, _, rfl⟩

theorem schedPri_none (h : ∀ l ∈ s.reg.launches, l.queued = false) (p n : Nat) : State.schedPri p n s = (s, false) := by
  cases n with
  | zero => rfl
  | succ n => rw [State.schedPri, nextReady_none s p h]

/-- Without a launch that waits, the procedure of R336 is its sweep. -/
theorem sched_eq_sweep (h : ∀ l ∈ s.sweep.reg.launches, l.queued = false) : s.sched = s.sweep := by
  unfold State.sched
  generalize s.sweep = u at h
  generalize upto 8 = ps
  refine congrArg Prod.fst (List.foldlRecOn (motive := fun p : State × Bool => p = (u, false)) _ _ rfl fun p hp k _ => ?_)
  rw [hp, if_neg Bool.false_ne_true, schedPri_none h]

theorem sched_rebound (h : s.Resting) : s.Rebound s.sched := by
  have hs := sweep_rebound h
  rw [sched_eq_sweep (h.rebound hs).running]
  exact hs

theorem schedule_rebound (h : s.Resting) : s.Rebound s.schedule := by
  unfold State.schedule
  split
  · exact ⟨_, _, _, rfl⟩
  · have h1 := sched_rebound h
    have hr := h.rebound h1
    have hq : s.sched.letIn = s.sched := letIn_none _ (by simp [hr.queues])
    rw [hq]
    exact h1.trans (sched_rebound hr)

end Sys2Proof.Machine
end

section

/-!
# The end of a launch without threads (R261, R330, R333, R335)

The registrar writes the completion word, closes the port, and frees the launch: with no thread of it about, and no queue bound, all that
stays is the word, and regions that are empty.
-/

namespace Sys2Proof.Machine
variable {s t : State} {l : Launch} {n pa : Nat}

/-! ### Threads that differ in their wait -/

/-- Each thread of t is one of s but for what it waits for. -/
def State.ThreadsFrom (s t : State) : Prop := ∀ x ∈ t.threads, ∃ y ∈ s.threads, ∃ w, x = { y with wait := w }

theorem threadsFrom_of_eq (h : t.threads = s.threads) : s.ThreadsFrom t := fun x hx => ⟨x, h ▸ hx, x.wait, rfl⟩

theorem State.ThreadsFrom.noThreads (h : s.ThreadsFrom t) (hn : s.NoThreads n) : t.NoThreads n := by
  intro x hx
  obtain ⟨y, hy, w, rfl⟩ := h x hx
  exact hn y hy

/-- Whether ended launches have left threads depends on the threads, the engines, and which of their launches are there. -/
theorem State.ThreadsFrom.settled (h : s.ThreadsFrom t) (hs : s.Settled) (he : t.engines = s.engines)
    (hl : ∀ x ∈ s.threads, (t.launch? x.origin).isSome = (s.launch? x.origin).isSome ∧
      (t.launch? x.bindTicket).isSome = (s.launch? x.bindTicket).isSome) : t.Settled where
  ended x hx := by
    obtain ⟨y, hy, w, rfl⟩ := h x hx
    have hn : (t.launch? y.origin).isNone = (s.launch? y.origin).isNone := by
      rw [← Option.not_isSome, ← Option.not_isSome, (hl y hy).1]
    have hc : t.hasCmds { y with wait := w } = s.hasCmds y := by
      simp only [State.hasCmds, he]
    have := hs.ended y hy
    simp only [State.finished, hn, hc] at this ⊢
    exact this
  guests x hx hp := by
    obtain ⟨y, hy, w, rfl⟩ := h x hx
    exact (hs.guests y hy hp).imp id fun hg => (hl y hy).2.trans hg

/-! ### The completion word -/

/-- A write at the home ends the waits for lock words that it touches (R152). -/
def Thread.touched (a len : Nat) (t : Thread) : Thread :=
  match t.wait with
  | .lock va pa _ => if a < pa + 8 ∧ pa < a + len then { t with wait := .lock va pa true } else t
  | _ => t

theorem touched_eq (a len : Nat) (t : Thread) : ∃ w, t.touched a len = { t with wait := w } := by
  unfold Thread.touched
  split
  · split
    · exact ⟨_, rfl⟩
    · exact ⟨t.wait, rfl⟩
  · exact ⟨t.wait, rfl⟩

/-- A write to memory changes memory and what threads wait for, nothing else. -/
theorem put_mem_eq (s : State) (a : Nat) (bs : List Byte) : ∃ m len,
    s.put .mem a bs = { s with mem := m, th := s.th.touched a len, others := s.others.map (Thread.touched a len) } := by
  obtain ⟨m, hm⟩ := writeBytes_mem_eq s a bs
  rw [writeBytes_eq_writeMasked] at hm
  refine ⟨m, (full bs).length, ?_⟩
  unfold State.put State.putBytes
  rw [hm]
  simp only [State.clearBad, ite_self]
  rfl

theorem put_mem_threadsFrom (s : State) (a : Nat) (bs : List Byte) : s.ThreadsFrom (s.put .mem a bs) := by
  obtain ⟨m, len, e⟩ := put_mem_eq s a bs
  have hm : (s.th.touched a len).mode = s.th.mode := by
    obtain ⟨w, hw⟩ := touched_eq a len s.th
    rw [hw]
  have ht : (s.put .mem a bs).threads = s.threads.map (Thread.touched a len) := by
    rw [e]
    unfold State.threads
    dsimp only
    rw [hm]
    split <;> rfl
  intro x hx
  rw [ht] at hx
  obtain ⟨y, hy, rfl⟩ := List.mem_map.1 hx
  obtain ⟨w, hw⟩ := touched_eq a len y
  exact ⟨y, hy, w, hw⟩

/-- Bytes within one page are one piece. -/
theorem pagePieces_whole {va : Nat} {bs : List Byte} (h0 : bs ≠ []) (h : va % 4096 + bs.length ≤ 4096) (f : Nat) :
    pagePieces (f + 2) va bs = [(va, bs)] := by
  obtain ⟨b, cs, rfl⟩ := List.exists_cons_of_ne_nil h0
  have hl : (b :: cs).length ≤ 4096 - va % 4096 := by omega
  rw [pagePieces, List.take_of_length_le hl, List.drop_of_length_le hl, pagePieces]
  exact nofun

/-- An aligned word that an agent stores in memory without errors lands. -/
theorem agentStore_word {g : Agent} {va : Nat} {bs : List Byte} (hg : g.cls = 0) (hb : s.bad = []) (ha : va % 8 = 0) (hl : bs.length = 8)
    (hpa : s.agentPa g va .wr = .ok pa) : s.agentStore g va bs = .ok (s.put .mem pa bs) := by
  have hp : pagePieces (bs.length / 4096 + 2) va bs = [(va, bs)] :=
    pagePieces_whole (List.ne_nil_of_length_eq_add_one hl) (by omega) _
  have hw : s.writePiece g va bs = .ok (s.put .mem pa bs) := by
    simp [State.writePiece, State.agentPlace, hg, hpa, State.badAt, hb]
  simp only [State.agentStore, State.agentWrite, hp, State.agentWrite.go, hw]

theorem regWrite_compl (hb : s.bad = []) (ha : l.spec.compl.toNat % 8 = 0)
    (hpa : s.agentPa (ctxAgent l.ctx) l.spec.compl.toNat .wr = .ok pa) (v : Nat) :
    s.regWrite l l.spec.compl (leBytes 8 v) = s.put .mem pa (leBytes 8 v) := by
  rw [State.regWrite, agentStore_word rfl hb ha (leBytes_length 8 v) hpa]

/-! ### The launch is freed -/

theorem closePort_queueless (h : s.reg.queues = []) : s.closePort l = s := by
  rw [State.closePort, State.queue?, h]
  rfl

theorem portOf_queueless (h : s.reg.queues = []) (img : Image) : s.portOf l img = s := by
  unfold State.portOf State.queue?
  rw [h]
  exact ite_self s

theorem launch?_sole (h : s.Sole l) : s.launch? l.ticket = some l := by
  simp only [State.launch?, h.launches, List.find?_cons, beq_self_eq_true]

theorem launch?_none (h : s.reg.launches = []) (k : Nat) : s.launch? k = none := by rw [State.launch?, h]; rfl

theorem launch?_sole_ne (h : s.Sole l) (hk : n ≠ l.ticket) : s.launch? n = none := by
  rw [State.launch?, h.launches, List.find?_cons_of_neg (by simpa using hk.symm)]
  rfl

/-- What freeing a launch leaves, but for bind records and what the cores hold. -/
def State.freed (s : State) (l : Launch) (keep : Bool) : State :=
  { s.endRegions l.ticket keep with
    dying := s.dying.filter (fun k => k != l.ticket)
    exits := s.exits.filter (fun e => e.1 != l.ticket)
    reg := { s.reg with launches := s.reg.launches.filter (fun o => o.ticket != l.ticket)
                        savedWin := s.reg.savedWin.filter (fun w => w.ticket != some l.ticket) } }

theorem freeLaunch_threadless (h : s.NoThreads l.ticket) (keep : Bool) : (s.freed l keep).Rebound (s.freeLaunch l keep) := by
  have h1 : s.threads.filter (fun t => t.isOf l.ticket && !(keep && t.escape.isSome)) = [] :=
    List.filter_eq_nil_iff.2 fun t ht => by simp [Thread.isOf, (h t ht).1]
  have h2 : s.guests l.ticket = [] := List.filter_eq_nil_iff.2 fun t ht => by simp [(h t ht).2]
  unfold State.freeLaunch
  simp only [h1, List.foldl_nil, h2]
  obtain ⟨_, _, _, e⟩ := clearBinds_rebound s (fun b => b.ticket == l.ticket && (b.region || !s.occupied b))
  rw [e]
  exact ⟨_, _, _, rfl⟩

theorem freed_launches (h : s.Sole l) (keep : Bool) : (s.freed l keep).reg.launches = [] := by
  show s.reg.launches.filter _ = []
  rw [h.launches, List.filter_cons_of_neg (by simp)]
  rfl

/-- Without its only launch, that had no threads, the registrar rests. -/
theorem freed_resting (h : s.Sole l) (hn : s.NoThreads l.ticket) (keep : Bool) : (s.freed l keep).Resting := by
  have hl := freed_launches h keep
  have hnone : ∀ k, (s.freed l keep).launch? k = none := launch?_none hl
  refine ⟨by rw [hl]; exact nofun, by rw [hl]; exact nofun, h.queues, ?_⟩
  refine (threadsFrom_of_eq (t := s.freed l keep) (s := s) rfl).settled h.settled rfl fun x hx => ⟨?_, ?_⟩
  · rw [hnone, launch?_sole_ne h (hn x hx).1]
  · rw [hnone, launch?_sole_ne h (hn x hx).2]

theorem freeLaunch_schedule (h : s.Sole l) (hn : s.NoThreads l.ticket) (keep : Bool) :
    (s.freed l keep).Rebound (s.freeLaunch l keep).schedule := by
  have hf := freeLaunch_threadless hn keep
  exact hf.trans (schedule_rebound ((freed_resting h hn keep).rebound hf))

theorem freed_sameBytes (s : State) (l : Launch) (keep : Bool) : s.SameBytes (s.freed l keep) := sameBytes_of_cells rfl rfl rfl rfl rfl

/-- A write to memory leaves the registrar's one launch as it is. -/
theorem put_mem_sole (h : s.Sole l) (a : Nat) (bs : List Byte) : (s.put .mem a bs).Sole l := by
  have hreg : (s.put .mem a bs).reg = s.reg := (congrArg State.reg (put_bare s .mem a bs) :)
  have hlaunch (k : Nat) : (s.put .mem a bs).launch? k = s.launch? k := by simp only [State.launch?, hreg]
  refine ⟨by rw [hreg, h.launches], by rw [hreg, h.queues], ?_⟩
  exact (put_mem_threadsFrom s a bs).settled h.settled (congrArg State.engines (put_bare s .mem a bs) :) fun x _ => by
    rw [hlaunch, hlaunch]
    exact ⟨rfl, rfl⟩

/-- What an ended launch leaves: its completion word in memory, its regions as `endRegions` leaves them, no launch, and no other byte
changed. -/
structure State.LaunchEnded (s t : State) (l : Launch) (keep : Bool) (pa v : Nat) : Prop where
  launches : t.reg.launches = []
  regions : t.regions = (s.endRegions l.ticket keep).regions
  word : t.readNat .mem pa 8 = v
  elsewhere : s.SameBut t .mem pa 8

theorem State.LaunchEnded.unstall {keep : Bool} {v : Nat} (h : s.LaunchEnded t l keep pa v) : s.LaunchEnded t.unstall l keep pa v where
  launches := h.launches
  regions := h.regions
  word := (readNat_sameBytes (unstall_sameBytes t) ..).trans h.word
  elsewhere := sameBut_trans h.elsewhere fun sq x _ => unstall_sameBytes t sq x

theorem launch_ends (h : s.Sole l) (hn : s.NoThreads l.ticket) (hb : s.bad = []) (ha : l.spec.compl.toNat % 8 = 0)
    (hpa : s.agentPa (ctxAgent l.ctx) l.spec.compl.toNat .wr = .ok pa) {v : Nat} (hv : v < 2 ^ 64) (keep : Bool) :
    s.LaunchEnded (((s.regWrite l l.spec.compl (leBytes 8 v)).closePort l).freeLaunch l keep).schedule l keep pa v := by
  have hsole := put_mem_sole h pa (leBytes 8 v)
  have hregions : (s.put .mem pa (leBytes 8 v)).regions = s.regions := (congrArg State.regions (put_bare s .mem pa (leBytes 8 v)) :)
  have hword : (s.put .mem pa (leBytes 8 v)).readNat .mem pa 8 = v := (readNat_put_leBytes ..).trans (Nat.mod_eq_of_lt hv)
  have hrest : s.SameBut (s.put .mem pa (leBytes 8 v)) .mem pa 8 := put_sameBut le_rfl (by rw [leBytes_length])
  have hnone := (put_mem_threadsFrom s pa (leBytes 8 v)).noThreads hn
  rw [regWrite_compl hb ha hpa, closePort_queueless hsole.queues]
  generalize s.put .mem pa (leBytes 8 v) = w at *
  have hu := freeLaunch_schedule hsole hnone keep
  have hbytes : w.SameBytes (w.freeLaunch l keep).schedule := fun sq x => (hu.sameBytes sq x).trans (freed_sameBytes w l keep sq x)
  exact {
    launches := hu.launches.trans (freed_launches hsole keep)
    regions := hu.regions.trans (by simp only [State.freed, State.endRegions, hregions])
    word := (readNat_sameBytes hbytes ..).trans hword
    elsewhere := sameBut_trans hrest fun sq x _ => hbytes sq x }

end Sys2Proof.Machine
end

section

/-!
# Regions: loads, switches, ends and checkpoints (R107, R165, R260 to R264, R335)
-/

namespace Sys2Proof.Machine
variable {s t : State} {l : Launch} {r q : Region} {c : Ctx} {img : Image} {n pa : Nat}

/-! ### Entries of lists by a key -/

/-- An entry that is replaced is found in its place. -/
theorem find?_replaced {α : Type} (key : α → Nat) {xs : List α} {x y : α} (h : xs.find? (fun o => key o == key x) = some y) :
    (xs.map (fun o => if key o = key x then x else o)).find? (fun o => key o == key x) = some x := by
  induction xs with
  | nil => cases h
  | cons o xs ih =>
    rw [List.map_cons]
    by_cases ho : key o = key x
    · rw [if_pos ho]
      exact List.find?_cons_of_pos (beq_self_eq_true _)
    · have hn : ¬ (key o == key x) = true := fun e => ho (beq_iff_eq.1 e)
      rw [if_neg ho]
      rw [List.find?_cons_of_neg (p := fun o => key o == key x) hn] at h ⊢
      exact ih h

/-- The first entry of some kind is the first of those that are kept, if it is kept. -/
theorem find?_filter_kept {α : Type} {p k : α → Bool} {xs : List α} {x : α} (h : xs.find? p = some x) (hk : k x = true) :
    (xs.filter k).find? p = some x := by
  obtain ⟨hp, as, bs, rfl, ha⟩ := List.find?_eq_some_iff_append.1 h
  rw [List.filter_append, List.filter_cons_of_pos hk]
  exact List.find?_eq_some_iff_append.2 ⟨hp, _, _, rfl, fun a hm => ha a (List.mem_of_mem_filter hm)⟩

theorem region?_rinst (h : s.region? n = some r) : r.rinst = n := by simpa using List.find?_some h

theorem region?_mem (h : s.region? n = some r) : r ∈ s.regions := List.mem_of_find?_eq_some h

theorem region?_setRegion (h : s.region? n = some r) (e : q.rinst = r.rinst) : (s.setRegion q).region? n = some q := by
  obtain rfl : q.rinst = n := e.trans (region?_rinst h)
  exact find?_replaced Region.rinst h

/-! ### Loads (R107, R264, R335) -/

/-- The image of a region's load, or why it has none. -/
def State.loaded (s : State) (c : Ctx) (l : Launch) (r : Region) : Except LoadFail Image :=
  if r.shadowBad then .error (cfgUe 0) else s.checkImage r.ctx r.code.toNat (s.loadEnv c l r)

theorem loadFinish_eq_ok (hr : s.region? n = some r) (hp : r.phase = .loading) (hl : s.launch? r.ticket = some l)
    (hc : s.ctx? r.ctx = some c) (hi : s.loaded c l r = .ok img) :
    execLoadFinish n s = .next ((s.setRegion { r with phase := .checked, shadow := some img }).portOf l img).unstall := by
  refine event_eq ?_
  rw [State.loaded] at hi
  simp only [hr, hp, if_true, hl, hc, hi]

theorem loadFinish_eq_error {f : LoadFail} (hr : s.region? n = some r) (hp : r.phase = .loading) (hl : s.launch? r.ticket = some l)
    (hc : s.ctx? r.ctx = some c) (hi : s.loaded c l r = .error f) :
    execLoadFinish n s = .next (s.abortNow l.ticket (some (loadReport f))).schedule.unstall := by
  refine event_eq ?_
  rw [State.loaded] at hi
  simp only [hr, hp, if_true, hl, hc, hi]

theorem loadFinish_passes (hr : s.region? n = some r) (hp : r.phase = .loading) (hs : s.Sole l) (ht : l.ticket = r.ticket)
    (hc : s.ctx? r.ctx = some c) (hb : r.shadowBad = false) (hi : s.checkImage r.ctx r.code.toNat (s.loadEnv c l r) = .ok img) :
    ∃ t, exec (.loadFinish n) s = .next t ∧ s.SameBytes t ∧ t.region? n = some { r with phase := .checked, shadow := some img } := by
  have hload : s.loaded c l r = .ok img := (if_neg (by simp [hb])).trans hi
  have hport : (s.setRegion { r with phase := .checked, shadow := some img }).portOf l img =
      s.setRegion { r with phase := .checked, shadow := some img } := portOf_queueless (s := s.setRegion _) hs.queues img
  refine ⟨_, loadFinish_eq_ok hr hp (ht ▸ launch?_sole hs) hc hload, ?_⟩
  rw [hport]
  exact ⟨sameBytes_of_cells rfl rfl rfl rfl rfl, region?_setRegion hr rfl⟩

/-- The counts of a launch fit its completion word (R261). -/
def Launch.Fits (l : Launch) : Prop := l.npois ≤ 0xFFFFFF ∧ l.late ≤ 0xFFFF

theorem absorb_fits (l : Launch) (r : Region) : (l.absorb r).Fits := ⟨Nat.min_le_right .., Nat.min_le_right ..⟩

theorem foldl_absorb_fits {rs : List Region} (h : rs ≠ []) (l : Launch) : (rs.foldl Launch.absorb l).Fits := by
  rw [← List.dropLast_append_getLast h, List.foldl_append]
  exact absorb_fits ..

theorem foldl_absorb_spec (rs : List Region) (l : Launch) : (rs.foldl Launch.absorb l).spec = l.spec :=
  List.foldlRecOn (motive := fun k : Launch => k.spec = l.spec) rs _ rfl fun _ hk _ _ => hk

theorem word_of_region (h : l.spec.region = true) (aborted : Bool) :
    l.word aborted = (if aborted then 3 else if l.npois = 0 then 1 else 2) * 2 ^ 56 + l.npois * 2 ^ 32 + l.late * 2 ^ 16 + l.flg.toNat :=
  if_pos h

theorem word_lt (hf : l.Fits) (h : l.spec.region = true) (aborted : Bool) : l.word aborted < 2 ^ 64 := by
  obtain ⟨hn, hl⟩ := hf
  have hg := l.flg.isLt
  have hs : (if aborted then 3 else if l.npois = 0 then 1 else 2) ≤ 3 := by split <;> [skip; split] <;> omega
  rw [word_of_region h]
  omega

theorem word_aborted (hf : l.Fits) (h : l.spec.region = true) : l.word true / 2 ^ 56 = 3 := by
  obtain ⟨hn, hl⟩ := hf
  have hg := l.flg.isLt
  rw [word_of_region h, if_pos rfl]
  omega

/-- The regions of a launch that are not empty. -/
def State.partsOf (s : State) (ticket : Nat) : List Region := s.regions.filter (fun r => r.ticket == ticket && r.phase != .idle)

theorem abortNow_unreported (hl : s.launch? n = some l) (hr : l.spec.report = 0) (f : List Byte) :
    s.abortNow n (some f) = ((s.regWrite l l.spec.compl (leBytes 8
      (((s.partsOf n).foldl Launch.absorb l).word true))).closePort l).freeLaunch l false := by
  rw [State.abortNow, hl]
  dsimp only
  rw [if_pos hr]
  rfl

theorem mem_endRegions_idle {o : Region} {keep : Bool} (h : o ∈ (s.endRegions n keep).regions) (ht : o.ticket = n) : o.phase = .idle := by
  obtain ⟨p, -, rfl⟩ := List.mem_map.1 h
  by_cases hp : p.ticket = n ∧ p.phase ≠ .idle
  · rw [if_pos hp]
  · rw [if_neg hp] at ht ⊢
    exact not_not.1 fun hi => hp ⟨ht, hi⟩

theorem mem_endRegions_other {o : Region} (keep : Bool) (h : o ∈ s.regions) (ht : o.ticket ≠ n) : o ∈ (s.endRegions n keep).regions :=
  List.mem_map.2 ⟨o, List.mem_filter.2 ⟨h, by simp [ht]⟩, if_neg fun k => ht k.1⟩

theorem loadFinish_fails (hr : s.region? n = some r) (hp : r.phase = .loading) (hs : s.Sole l) (ht : l.ticket = r.ticket)
    (hc : s.ctx? r.ctx = some c) (hi : r.shadowBad = true ∨ ∃ f, s.checkImage r.ctx r.code.toNat (s.loadEnv c l r) = .error f)
    (hk : l.spec.region = true) (h0 : l.spec.report = 0) (hb : s.bad = []) (hn : s.NoThreads l.ticket) (ha : l.spec.compl.toNat % 8 = 0)
    (hpa : s.agentPa (ctxAgent l.ctx) l.spec.compl.toNat .wr = .ok pa) :
    ∃ t, exec (.loadFinish n) s = .next t ∧ t.reg.launches = [] ∧ (∀ o ∈ t.regions, o.ticket = r.ticket → o.phase = .idle) ∧
      (∀ o ∈ s.regions, o.ticket ≠ r.ticket → o ∈ t.regions) ∧ t.readNat .mem pa 8 / 2 ^ 56 = 3 ∧ s.SameBut t .mem pa 8 := by
  obtain ⟨f, hf⟩ : ∃ f, s.loaded c l r = .error f := by
    rw [State.loaded]
    cases hbad : r.shadowBad with
    | true => exact ⟨_, rfl⟩
    | false => exact hi.resolve_left (by simp [hbad])
  have hparts : s.partsOf l.ticket ≠ [] :=
    List.ne_nil_of_mem (List.mem_filter.2 ⟨region?_mem hr, by simp [ht, hp]⟩)
  have hfits := foldl_absorb_fits hparts l
  have hregion := (congrArg LaunchRec.region (foldl_absorb_spec (s.partsOf l.ticket) l)).trans hk
  have hend := (launch_ends hs hn hb ha hpa (word_lt hfits hregion true) false).unstall
  refine ⟨_, loadFinish_eq_error hr hp (ht ▸ launch?_sole hs) hc hf, ?_⟩
  rw [abortNow_unreported (launch?_sole hs) h0]
  refine ⟨hend.launches, fun o ho he => ?_, fun o ho he => ?_, ?_, hend.elsewhere⟩
  · rw [hend.regions] at ho
    exact mem_endRegions_idle ho (he.trans ht.symm)
  · rw [hend.regions]
    exact mem_endRegions_other false ho (ht ▸ he)
  · rw [hend.word]
    exact word_aborted hfits hregion

/-! ### The switch (R165, R263) -/

theorem configSwitch_eq (hr : s.region? n = some r) (hp : r.phase = .checked) (hi : r.shadow = some img) (hb : r.shadowBad = false) :
    execConfigSwitch n s = .next (if s.regions.any (fun o => r.meets o && o.phase != .idle) then s
      else State.setRegion { s.clearTiles r with regions := s.regions.filter (fun o => !r.meets o) } (r.switched img) : State).unstall := by
  refine event_eq ?_
  simp only [hr, hp, hi, hb, Bool.false_eq_true, if_false]
  rfl

theorem configSwitch_waits (hr : s.region? n = some r) (hp : r.phase = .checked) (hi : r.shadow = some img) (hb : r.shadowBad = false)
    (hm : ∃ o ∈ s.regions, r.meets o = true ∧ o.phase ≠ .idle) : exec (.configSwitch n) s = .next s.unstall := by
  obtain ⟨o, ho, hmeets, hidle⟩ := hm
  exact (configSwitch_eq hr hp hi hb).trans (by rw [if_pos (List.any_eq_true.2 ⟨o, ho, by simp [hmeets, hidle]⟩)])

theorem switched_rinst (r : Region) (img : Image) : (r.switched img).rinst = r.rinst := by
  unfold Region.switched
  split <;> rfl

theorem meets_rinst {o : Region} (h : r.meets o = true) : o.rinst ≠ r.rinst := by
  simp only [Region.meets, Bool.and_eq_true, bne_iff_ne] at h
  exact h.1

theorem meets_self (r : Region) : r.meets r = false := by simp [Region.meets]

/-- A region has a tile, by the number of its scratch. -/
def Region.has (r : Region) (k : Nat) : Bool := r.on (k / 256) (k % 256 / 32) (k % 32) 1 1

/-- A tile of a region that no other region of its context has: it is cleared for the region (R165). -/
abbrev State.Clears (s : State) (r : Region) (k : Nat) : Prop :=
  r.has k = true ∧ (∀ o ∈ s.regions, o.rinst ≠ r.rinst → o.ctx = r.ctx → o.has k = false)

/-- The test of `clearTiles` for a tile that keeps its bytes. -/
def State.keepsTile (s : State) (r : Region) (k : Nat) : Bool :=
  !(r.has k && !s.regions.any (fun o => o.rinst != r.rinst && o.ctx == r.ctx && o.has k))

theorem keepsTile_iff (s : State) (r : Region) (k : Nat) : s.keepsTile r k = true ↔ ¬ s.Clears r k := by
  simp [State.keepsTile, State.Clears, imp_iff_not_or, and_assoc]

/-- What a tile's scratch reads once a region's tiles have been cleared (R165). -/
theorem readByte_clearTiles (s : State) (r : Region) {k a : Nat} (ha : a < 2 ^ 18) :
    (s.clearTiles r).readByte (.tile k) a = if s.Clears r k then 0 else s.readByte (.tile k) a := by
  have hk : (k * 2 ^ 18 + a) / 2 ^ 18 = k := by omega
  have hread := cellRead_filter (Space.blank (.tile k)) (fun x => s.keepsTile r (x / 2 ^ 18)) s.tiles (k * 2 ^ 18 + a)
  rw [hk] at hread
  refine hread.trans ?_
  by_cases hc : s.Clears r k
  · rw [if_pos hc, if_neg fun h => (keepsTile_iff s r k).1 h hc]
    rfl
  · rw [if_neg hc, if_pos ((keepsTile_iff s r k).2 hc)]
    rfl

theorem configSwitch_switches (hr : s.region? n = some r) (hp : r.phase = .checked) (hi : r.shadow = some img) (hb : r.shadowBad = false)
    (hm : ∀ o ∈ s.regions, r.meets o = true → o.phase = .idle) :
    ∃ t, exec (.configSwitch n) s = .next t ∧ t.region? n = some (r.switched img) ∧
      (∀ o ∈ s.regions, r.meets o = true → o ∉ t.regions) ∧
      (∀ sp a, (∀ k, sp ≠ .tile k) → t.readByte sp a = s.readByte sp a) ∧
      ∀ k a, a < 2 ^ 18 → t.readByte (.tile k) a = if s.Clears r k then 0 else s.readByte (.tile k) a := by
  have hidle : ¬ s.regions.any (fun o => r.meets o && o.phase != .idle) = true := by
    rw [List.any_eq_true]
    rintro ⟨o, ho, h⟩
    simp only [Bool.and_eq_true, bne_iff_ne] at h
    exact h.2 (hm o ho h.1)
  refine ⟨_, (configSwitch_eq hr hp hi hb).trans (by rw [if_neg hidle]), ?_, fun o ho hmeets hmem => ?_,
    fun sp a hsp => ?_, fun k a ha => ?_⟩
  · refine region?_setRegion (s := { s.clearTiles r with regions := s.regions.filter (fun o => !r.meets o) }) ?_ (switched_rinst r img)
    exact find?_filter_kept hr (by rw [meets_self]; rfl)
  · obtain ⟨p, hpm, rfl⟩ := List.mem_map.1 hmem
    split at hmeets
    · exact meets_rinst hmeets (switched_rinst r img)
    · simp [hmeets] at hpm
  · cases sp with
    | tile k => exact absurd rfl (hsp k)
    | _ => rfl
  · exact readByte_clearTiles s r ha

end Sys2Proof.Machine
end

section

/-!
# Regions that have drained or checkpointed (R260 to R262, R333, R337)
-/

namespace Sys2Proof.Machine
variable {s t : State} {l : Launch} {r : Region} {n pa : Nat}

/-! ### A launch whose records alone change -/

theorem State.Sole.rebound (h : s.Sole l) (k : s.Rebound t) : t.Sole l := by
  obtain ⟨_, _, _, rfl⟩ := k
  exact ⟨h.launches, h.queues, h.settled.ended, h.settled.guests⟩

theorem State.Sole.resting (h : s.Sole l) (hq : l.queued = false) (hp : l.phase = .preempting → s.Unsettled l.ticket) : s.Resting where
  running k hk := by
    rw [h.launches, List.mem_singleton] at hk
    rw [hk, hq]
  going k hk := by
    rw [h.launches, List.mem_singleton] at hk
    rw [hk]
    exact hp
  queues := h.queues
  settled := h.settled

theorem State.Sole.setRegion (h : s.Sole l) (q : Region) : (s.setRegion q).Sole l :=
  ⟨h.launches, h.queues, h.settled.ended, h.settled.guests⟩

theorem State.Sole.setLaunch (h : s.Sole l) {m : Launch} (e : m.ticket = l.ticket) : (s.setLaunch m).Sole m := by
  have hl : (s.setLaunch m).reg.launches = [m] := by
    show s.reg.launches.map _ = [m]
    rw [h.launches, List.map_singleton, if_pos e.symm]
  have hsome (k : Nat) : ((s.setLaunch m).launch? k).isSome = (s.launch? k).isSome := by
    simp only [State.launch?, hl, h.launches, List.find?_singleton, e]
    split <;> rfl
  exact ⟨hl, h.queues, (threadsFrom_of_eq (t := s.setLaunch m) (s := s) rfl).settled h.settled rfl fun x _ => ⟨hsome _, hsome _⟩⟩

/-! ### Translation beside the registrars -/

/-- The walk of the page tables looks at memory and its errors alone (R183). -/
theorem walkFrom_frame (s : State) (cs : List (Nat × CoreSt)) (bs : List Bind) (rs : List Region) (g : Registrar) (c : Ctx) (va : Nat)
    (acc : Acc) (prv : Bool) (fuel tbl : Nat) :
    State.walkFrom { s with cores := cs, binds := bs, regions := rs, reg := g } c va acc prv fuel tbl =
      s.walkFrom c va acc prv fuel tbl := by
  induction fuel generalizing tbl with
  | zero => rfl
  | succ fuel ih =>
    simp only [State.walkFrom, ih]
    rfl

theorem agentPa_frame (s : State) (cs : List (Nat × CoreSt)) (bs : List Bind) (rs : List Region) (g : Registrar) (a : Agent) (va : Nat)
    (acc : Acc) : State.agentPa { s with cores := cs, binds := bs, regions := rs, reg := g } a va acc = s.agentPa a va acc := by
  unfold State.agentPa State.walk
  simp only [walkFrom_frame]
  rfl

theorem State.Rebound.agentPa (h : s.Rebound t) (a : Agent) (va : Nat) (acc : Acc) : t.agentPa a va acc = s.agentPa a va acc := by
  obtain ⟨cs, bs, ls, rfl⟩ := h
  exact agentPa_frame s cs bs s.regions _ a va acc

theorem State.Rebound.bad (h : s.Rebound t) : t.bad = s.bad := by
  obtain ⟨_, _, _, rfl⟩ := h
  rfl

theorem State.Rebound.threads (h : s.Rebound t) : t.threads = s.threads := by
  obtain ⟨_, _, _, rfl⟩ := h
  rfl

/-! ### A region has drained (R260, R261, R333) -/

/-- A launch with the counts of a part that has ended, one part fewer. -/
def Launch.lessOne (l : Launch) (r : Region) : Launch := { l.absorb r with left := l.left - 1 }

theorem region?_congr (h : t.regions = s.regions) (n : Nat) : t.region? n = s.region? n := by rw [State.region?, h]; rfl

/-- The state in which a region has drained, but for bind records. -/
def State.drained (s : State) (l : Launch) (r : Region) : State := (s.setLaunch (l.lessOne r)).setRegion { r with phase := .idle }

theorem drained_sole (h : s.Sole l) (r : Region) : (s.drained l r).Sole (l.lessOne r) := (h.setLaunch (m := l.lessOne r) rfl).setRegion _

theorem drained_region? (h : s.region? n = some r) (l : Launch) : (s.drained l r).region? n = some { r with phase := .idle } :=
  region?_setRegion (s := s.setLaunch (l.lessOne r)) h rfl

theorem drained_sameBytes (s : State) (l : Launch) (r : Region) : s.SameBytes (s.drained l r) := sameBytes_of_cells rfl rfl rfl rfl rfl

theorem drained_agentPa (s : State) (l : Launch) (r : Region) (a : Agent) (va : Nat) (acc : Acc) :
    (s.drained l r).agentPa a va acc = s.agentPa a va acc := agentPa_frame s s.cores s.binds _ _ a va acc

theorem regionComplete_eq (hr : s.region? n = some r) (hp : r.phase = .draining) (h3 : r.reached 3 = true)
    (hl : s.launch? r.ticket = some l) :
    ∃ w, (s.drained l r).Rebound w ∧ execRegionComplete n s =
      .next (if l.left - 1 = 0 then (w.finishLaunch (l.lessOne r)).schedule else (w.settle l.ticket).schedule : State).unstall := by
  refine ⟨_,
    clearBinds_rebound _ (fun b => b.rinst == n && (b.region || (b.escape.isSome && !(s.drained l r).occupied b))), event_eq ?_⟩
  simp only [hr, hp, h3, and_self, if_true, hl]
  rfl

theorem regionComplete_more (hr : s.region? n = some r) (hp : r.phase = .draining) (h3 : r.reached 3 = true) (hs : s.Sole l)
    (ht : l.ticket = r.ticket) (hrun : l.phase = .running) (ha : l.abort = false) (hmore : 1 < l.left) :
    ∃ t, exec (.regionComplete n) s = .next t ∧ s.SameBytes t ∧ t.reg.launches = [l.lessOne r] ∧
      (t.region? n).map Region.phase = some .idle := by
  obtain ⟨w, hw, he⟩ := regionComplete_eq hr hp h3 (ht ▸ launch?_sole hs)
  rw [if_neg (by omega)] at he
  have hsole := (drained_sole hs r).rebound hw
  have hpre : (l.lessOne r).phase ≠ .preempting := by
    show l.phase ≠ _
    rw [hrun]
    exact nofun
  have hq : (l.lessOne r).queued = false := by
    show (l.phase == .queued || l.phase == .preempted) = false
    rw [hrun]
    rfl
  have hlaunch : w.launch? l.ticket = some (l.lessOne r) := launch?_sole hsole
  have hset : w.settle l.ticket = w := settle_running hlaunch hpre ha
  rw [hset] at he
  have hu := hw.trans (schedule_rebound (hsole.resting hq fun h => absurd h hpre))
  generalize w.schedule = u at he hu
  refine ⟨u.unstall, he, fun sq x => ?_, hu.launches.trans (drained_sole hs r).launches, ?_⟩
  · exact (unstall_sameBytes u sq x).trans ((hu.sameBytes sq x).trans (drained_sameBytes s l r sq x))
  · show (u.region? n).map Region.phase = _
    rw [region?_congr hu.regions, drained_region? hr]
    rfl

/-- A region that is empty stays where its launch ends. -/
theorem region?_endRegions (h : s.region? n = some r) (hp : r.phase = .idle) (k : Nat) (keep : Bool) :
    (s.endRegions k keep).region? n = some r := by
  unfold State.endRegions State.region?
  have hkey : (fun o : Region => o.rinst == n) ∘
      (fun o => if o.ticket = k ∧ o.phase ≠ .idle then { o with phase := .idle, handle := if keep then o.handle else 0 } else o) =
        fun o => o.rinst == n := by
    funext o
    dsimp only [Function.comp]
    split <;> rfl
  have hpending : r.pending = false := by rw [Region.pending, hp]
  rw [List.find?_map, hkey, find?_filter_kept h (by simp [hpending]), Option.map_some, if_neg fun hc => hc.2 hp]

theorem finishLaunch_ends (h : s.Sole l) (hn : s.NoThreads l.ticket) (hb : s.bad = []) (ha : l.spec.compl.toNat % 8 = 0)
    (hpa : s.agentPa (ctxAgent l.ctx) l.spec.compl.toNat .wr = .ok pa) (hv : l.word false < 2 ^ 64) :
    s.LaunchEnded (s.finishLaunch l).schedule l true pa (l.word false) := launch_ends h hn hb ha hpa hv true

theorem regionComplete_last (hr : s.region? n = some r) (hp : r.phase = .draining) (h3 : r.reached 3 = true) (hs : s.Sole l)
    (ht : l.ticket = r.ticket) (hk : l.spec.region = true) (hb : s.bad = []) (hn : s.NoThreads l.ticket) (hlast : l.left = 1)
    (ha : l.spec.compl.toNat % 8 = 0) (hpa : s.agentPa (ctxAgent l.ctx) l.spec.compl.toNat .wr = .ok pa) :
    ∃ t, exec (.regionComplete n) s = .next t ∧ t.reg.launches = [] ∧ (t.region? n).map Region.phase = some .idle ∧
      t.readNat .mem pa 8 = (l.lessOne r).word false ∧ s.SameBut t .mem pa 8 := by
  obtain ⟨w, hw, he⟩ := regionComplete_eq hr hp h3 (ht ▸ launch?_sole hs)
  rw [if_pos (by omega)] at he
  have hsole := (drained_sole hs r).rebound hw
  have hregion : w.region? n = some { r with phase := .idle } := (region?_congr hw.regions n).trans (drained_region? hr l)
  have hbytes : s.SameBytes w := fun sq x => (hw.sameBytes sq x).trans (drained_sameBytes s l r sq x)
  have hpw : w.agentPa (ctxAgent (l.lessOne r).ctx) (l.lessOne r).spec.compl.toNat .wr = .ok pa :=
    (hw.agentPa ..).trans ((drained_agentPa ..).trans hpa)
  have hnw : w.NoThreads (l.lessOne r).ticket := (threadsFrom_of_eq (s := s) hw.threads).noThreads hn
  have hbw : w.bad = [] := hw.bad.trans hb
  clear hw
  have hend := (finishLaunch_ends hsole hnw hbw ha hpw (word_lt (absorb_fits l r) hk false)).unstall
  refine ⟨_, he, hend.launches, ?_, hend.word, sameBut_trans (fun sq x _ => hbytes sq x) hend.elsewhere⟩
  rw [region?_congr hend.regions, region?_endRegions hregion rfl]
  rfl

/-! ### A region has checkpointed (R262) -/

theorem checkpointComplete_eq {forced : Bool} (hr : s.region? n = some r) (hp : r.phase = .checkpoint forced) :
    execCheckpointComplete n s = .next (if r.reached 4 = true ∧ r.nodes.all (fun n => n.fault.isNone) = true then
      ((s.setRegion { r with phase := .stopped }).settle r.ticket).schedule else s : State).unstall := by
  refine event_eq ?_
  simp only [hr, hp]

theorem all_unfaulted_iff (ns : List NodeSt) : ns.all (fun n => n.fault.isNone) = true ↔ ∀ n ∈ ns, n.fault = none := by
  simp

theorem checkpointComplete_waits {forced : Bool} (hr : s.region? n = some r) (hp : r.phase = .checkpoint forced)
    (h : r.reached 4 = false ∨ (∃ n ∈ r.nodes, n.fault ≠ none)) : exec (.checkpointComplete n) s = .next s.unstall := by
  refine (checkpointComplete_eq hr hp).trans ?_
  rw [if_neg]
  rw [all_unfaulted_iff]
  rintro ⟨h4, hf⟩
  obtain h | ⟨m, hm, hn⟩ := h
  · exact Bool.false_ne_true (h.symm.trans h4)
  · exact hn (hf m hm)

theorem checkpointComplete_stops {forced : Bool} (hr : s.region? n = some r) (hp : r.phase = .checkpoint forced) (h4 : r.reached 4 = true)
    (hf : ∀ n ∈ r.nodes, n.fault = none) (hs : s.Sole l) (ht : l.ticket = r.ticket) (hl : l.phase = .running ∨ l.phase = .preempting)
    (ho : ∃ o ∈ s.regions, o.ticket = r.ticket ∧ o.rinst ≠ n ∧ o.phase ≠ .idle ∧ o.phase ≠ .stopped) :
    ∃ t, exec (.checkpointComplete n) s = .next t ∧ s.SameBytes t ∧ t.region? n = some { r with phase := .stopped } ∧
      t.reg.launches = [l] := by
  have he := checkpointComplete_eq hr hp
  rw [if_pos ⟨h4, (all_unfaulted_iff _).2 hf⟩] at he
  have hregion : (s.setRegion { r with phase := .stopped }).region? n = some { r with phase := .stopped } := region?_setRegion hr rfl
  have hopen : (s.setRegion { r with phase := .stopped }).Unsettled r.ticket := by
    obtain ⟨o, hm, hto, hne, hphase⟩ := ho
    exact ⟨o, List.mem_map.2 ⟨o, hm, if_neg fun e => hne (Eq.trans (b := r.rinst) e (region?_rinst hr))⟩, hto, hphase⟩
  have hsole := hs.setRegion { r with phase := .stopped }
  have hbytes : s.SameBytes (s.setRegion { r with phase := .stopped }) := sameBytes_of_cells rfl rfl rfl rfl rfl
  have hq : l.queued = false := by obtain h | h := hl <;> rw [Launch.queued, h] <;> rfl
  generalize s.setRegion { r with phase := .stopped } = w at *
  rw [settle_unsettled hopen] at he
  have hu := schedule_rebound (hsole.resting hq fun _ => ht ▸ hopen)
  generalize w.schedule = u at he hu
  refine ⟨u.unstall, he, fun sq x => ?_, ?_, hu.launches.trans hsole.launches⟩
  · exact (unstall_sameBytes u sq x).trans ((hu.sameBytes sq x).trans (hbytes sq x))
  · exact (region?_congr hu.regions n).trans hregion

end Sys2Proof.Machine
end

section

/-!
# Tokens pushed at ingress ports (R325)
-/

namespace Sys2Proof.Machine
variable {s t : State} {q p : Queue} {n i : Nat} {k : Token} {hdr : BitVec 64}

/-! ### Queues -/

theorem queue?_idx (h : s.queue? n = some q) : q.idx = n := by simpa using List.find?_some h

theorem putQueue_eq (h : s.queue? n = some q) (e : p.idx = q.idx) : s.putQueue p = s.setQueue p := by
  obtain rfl : p.idx = n := e.trans (queue?_idx h)
  exact if_pos (by rw [h]; rfl)

theorem queue?_putQueue (h : s.queue? n = some q) (e : p.idx = q.idx) : (s.putQueue p).queue? n = some p := by
  rw [putQueue_eq h e]
  obtain rfl : p.idx = n := e.trans (queue?_idx h)
  exact find?_replaced Queue.idx h

theorem putQueue_sameBytes (s : State) (p : Queue) : s.SameBytes (s.putQueue p) := by
  unfold State.putQueue
  split <;> exact sameBytes_of_cells rfl rfl rfl rfl rfl

theorem queue?_congr (h : t.reg = s.reg) (n : Nat) : t.queue? n = s.queue? n := by rw [State.queue?, h]; rfl

/-! ### Writes of the module's agents -/

theorem writePiece_reg {g : Agent} {va : Nat} {bs : List Byte} (e : s.writePiece g va bs = .ok t) : t.reg = s.reg := by
  unfold State.writePiece at e
  split at e
  · cases e
  · split_ifs at e <;> cases e <;> exact (congrArg State.reg (put_bare ..) :)

theorem agentWrite_go_reg {g : Agent} (l : List (Nat × List Byte)) (s : State) : (State.agentWrite.go g l s).1.reg = s.reg := by
  induction l generalizing s with
  | nil => rfl
  | cons x l ih =>
    unfold State.agentWrite.go
    split
    · rfl
    · next h => exact (ih _).trans (writePiece_reg h)

/-- What an agent stores is no part of what the registrars hold. -/
theorem agentStore_reg {g : Agent} {va : Nat} {bs : List Byte} (e : s.agentStore g va bs = .ok t) : t.reg = s.reg := by
  unfold State.agentStore at e
  split at e
  · next h =>
    cases e
    exact (congrArg (fun x : State × Option Trap => x.1.reg) h).symm.trans (agentWrite_go_reg _ s)
  · cases e

/-! ### What a push comes to -/

/-- The token that a header and the payload of its port make. -/
def Queue.pushed (q : Queue) (hdr : BitVec 64) : Token := { tag := fieldOf hdr 16 3, mask := fieldOf hdr 0 16, lanes := lanesOf q.payload }

/-- A token of a queue's latest number has a launch that may take it (R325). -/
def State.Takes (s : State) (q : Queue) : Prop :=
  q.awaits = true ∨ ∃ ticket, assoc q.opened q.epoch = some ticket ∧ s.takesTokens ticket = true

theorem queueOf_eq (h : s.queue? n = some q) : s.queueOf n = q := by rw [State.queueOf, h]; rfl

theorem ingressPush_taken (hb : s.out.booting = false) (hq : s.queue? n = some q) (hbound : q.bound = true)
    (hk : ¬ ((q.pushed hdr).tag = 6 ∧ (q.pushed hdr).mask = 3)) (ht : s.Takes q) :
    exec (.ingressPush n hdr) s = .next (s.pushPort q (q.pushed hdr) false).unstall := by
  have he : execIngressPush n hdr s = .next (s.pushPort q (q.pushed hdr) false).unstall := by
    unfold Queue.pushed at hk ⊢
    refine event_eq ?_
    simp only [hb, Bool.false_eq_true, if_false, queueOf_eq hq, hbound, reduceCtorEq, hk]
    by_cases ha : q.awaits = true
    · rw [if_pos ha]
    · obtain ⟨ticket, ho, hticket⟩ := ht.resolve_left ha
      simp only [ha, Bool.false_eq_true, if_false, ho, hticket, if_true]
  exact he

theorem ingressPush_orphan (hb : s.out.booting = false) (hq : s.queue? n = some q) (hbound : q.bound = true)
    (hk : ¬ ((q.pushed hdr).tag = 6 ∧ (q.pushed hdr).mask = 3)) (ha : q.awaits = false)
    (hn : ∀ ticket, assoc q.opened q.epoch = some ticket → s.takesTokens ticket = false) :
    ∃ t, exec (.ingressPush n hdr) s = .next t ∧ s.SameBytes t ∧
      t.queue? n = some { q with orphan := Nat.min (q.orphan + 1) 0xFFFF } := by
  have he : execIngressPush n hdr s = .next (s.putQueue { q with orphan := Nat.min (q.orphan + 1) 0xFFFF }).unstall := by
    unfold Queue.pushed at hk
    refine event_eq ?_
    simp only [hb, Bool.false_eq_true, if_false, queueOf_eq hq, hbound, reduceCtorEq, hk, ha]
    cases ho : assoc q.opened q.epoch with
    | none => rfl
    | some ticket => simp only [hn ticket ho, Bool.false_eq_true, if_false]
  exact ⟨_, he, fun sq x => (unstall_sameBytes _ sq x).trans (putQueue_sameBytes s _ sq x), queue?_putQueue hq rfl⟩

/-! ### Where a token that is taken goes -/

theorem pushPort_free (hr : s.refilled q = q) (h : q.cist = [] ∧ q.port.length + q.waiting.length < 64) :
    s.pushPort q k false = s.putQueue { q with port := q.port ++ [(q.epoch, k)], accept := (q.accept + 1) % 2 ^ 32 } := by
  unfold State.pushPort
  rw [hr]
  exact if_pos h

theorem pushPort_spills (hr : s.refilled q = q) (h : ¬ (q.cist = [] ∧ q.port.length + q.waiting.length < 64)) (hi : q.spillAt = some i)
    (hst : s.agentStore (ctxAgent q.ctx) (q.cvbase + 72 * i) k.entry = .ok t) :
    s.pushPort q k false = t.putQueue { q with accept := (q.accept + 1) % 2 ^ 32, ctail := (i + 1) % (q.csize / 72), cist := q.cist ++
      [{ epoch := q.epoch, launch := false, ctx := q.ctx, va := q.cvbase + 72 * i }] } := by
  unfold State.pushPort
  rw [hr]
  refine (if_neg h).trans ?_
  simp only [hi, hst]

/-- A token that is discarded is counted, and the first one tells the host. -/
theorem pushPort_drops (hr : s.refilled q = q) (h : ¬ (q.cist = [] ∧ q.port.length + q.waiting.length < 64)) (hi : q.spillAt = none) :
    s.pushPort q k false = if q.dropped then s.putQueue { q with drop := Nat.min (q.drop + 1) 0xFFFF, dropped := true }
      else (s.putQueue { q with drop := Nat.min (q.drop + 1) 0xFFFF, dropped := true }).sendMsi (1 + q.idx % 2047) := by
  unfold State.pushPort
  rw [hr]
  refine (if_neg h).trans ?_
  simp only [hi, Bool.false_eq_true, if_false]

theorem pushPort_drops_queue? (hq : s.queue? n = some q) (hr : s.refilled q = q)
    (h : ¬ (q.cist = [] ∧ q.port.length + q.waiting.length < 64)) (hi : q.spillAt = none) :
    (s.pushPort q k false).queue? n = some { q with drop := Nat.min (q.drop + 1) 0xFFFF, dropped := true } := by
  have hput : (s.putQueue { q with drop := Nat.min (q.drop + 1) 0xFFFF, dropped := true }).queue? n = _ := queue?_putQueue hq rfl
  rw [pushPort_drops hr h hi]
  split
  · exact hput
  · exact (queue?_congr (reg_of_hushed (sendMsi_hushed ..)) n).trans hput

/-- A token that is taken stands in its port or cistern, or is discarded and counted (R325). -/
theorem ingressPush_places (hb : s.out.booting = false) (hq : s.queue? n = some q) (hbound : q.bound = true)
    (hk : ¬ ((q.pushed hdr).tag = 6 ∧ (q.pushed hdr).mask = 3)) (ht : s.Takes q) (hr : s.refilled q = q) :
    (q.cist = [] → q.port.length + q.waiting.length < 64 → ∃ t, exec (.ingressPush n hdr) s = .next t ∧ s.SameBytes t ∧
      t.queue? n = some { q with port := q.port ++ [(q.epoch, q.pushed hdr)], accept := (q.accept + 1) % 2 ^ 32 }) ∧
    (∀ i s1, ¬ (q.cist = [] ∧ q.port.length + q.waiting.length < 64) → q.spillAt = some i →
      s.agentStore (ctxAgent q.ctx) (q.cvbase + 72 * i) (q.pushed hdr).entry = .ok s1 →
      ∃ t, exec (.ingressPush n hdr) s = .next t ∧ s1.SameBytes t ∧
        t.queue? n = some { q with accept := (q.accept + 1) % 2 ^ 32, ctail := (i + 1) % (q.csize / 72), cist := q.cist ++
          [{ epoch := q.epoch, launch := false, ctx := q.ctx, va := q.cvbase + 72 * i }] }) ∧
    (¬ (q.cist = [] ∧ q.port.length + q.waiting.length < 64) → q.spillAt = none → ∃ t, exec (.ingressPush n hdr) s = .next t ∧
      t.queue? n = some { q with drop := Nat.min (q.drop + 1) 0xFFFF, dropped := true }) := by
  have he := ingressPush_taken hb hq hbound hk ht
  refine ⟨fun hc hp => ⟨_, he, ?_⟩, fun i s1 hfull hi hst => ⟨_, he, ?_⟩,
    fun hfull hi => ⟨_, he, pushPort_drops_queue? hq hr hfull hi⟩⟩
  · rw [pushPort_free hr ⟨hc, hp⟩]
    exact ⟨fun sq x => (unstall_sameBytes _ sq x).trans (putQueue_sameBytes s _ sq x), queue?_putQueue hq rfl⟩
  · rw [pushPort_spills hr hfull hi hst]
    exact ⟨fun sq x => (unstall_sameBytes _ sq x).trans (putQueue_sameBytes s1 _ sq x),
      queue?_putQueue ((queue?_congr (agentStore_reg hst) n).trans hq) rfl⟩

end Sys2Proof.Machine
end

section
open Sys2Proof Sys2Proof.Machine

/-- Settles O49: a load by whether its image checks (`loadFinish_passes`, `loadFinish_fails`), the switch, the end of a region and its
checkpoint by the theorem of each outcome, a pushed token by whether its launch takes it (`ingressPush_orphan`, `ingressPush_places`). -/
theorem regionLifecycle : Obligations.RegionLifecycle := by
  unfold Obligations.RegionLifecycle
  refine ⟨fun s n r l c hr hp hs ht _ hc => ⟨fun img hb hi => ?_, fun pa hi hk h0 hb hn ha hpa => ?_⟩,
    fun s n r img hr hp hi hb => ⟨fun hm => ?_, fun hm => ?_⟩,
    fun s n r l hr hp h3 hs ht hrun hab hk hb hn => ⟨fun hmore => ?_, fun pa hlast ha hpa => ?_⟩,
    fun s n r l forced hr hp => ⟨fun h => ?_, fun h4 hf hs ht hl ho => ?_⟩,
    fun s n hdr q hboot hq hbound => ⟨fun hk ha hn => ?_, fun hk ht hr => ?_⟩⟩
  · exact loadFinish_passes hr hp hs ht hc hb hi
  · exact loadFinish_fails hr hp hs ht hc hi hk h0 hb hn ha hpa
  · exact configSwitch_waits hr hp hi hb hm
  · exact configSwitch_switches hr hp hi hb hm
  · exact regionComplete_more hr hp h3 hs ht hrun hab hmore
  · exact regionComplete_last hr hp h3 hs ht hk hb hn hlast ha hpa
  · exact checkpointComplete_waits hr hp h
  · exact checkpointComplete_stops hr hp h4 hf hs ht hl ho
  · exact ingressPush_orphan hboot hq hbound hk ha hn
  · exact ingressPush_places hboot hq hbound hk ht hr

end

section

/-!
# Immediate words (R123)

Each is a word that only computes, with the integer of its table row cut to 64 bits.
-/

namespace Sys2Proof.Machine

theorem imm14_eq_ofInt (i : BitVec 14) : imm14 i = BitVec.ofInt 64 i.toInt := rfl

/-- The upper immediate (R123): 20 bits times 2^12 fit in 32 bits with their sign. -/
theorem imm20_eq_ofInt (i : BitVec 20) : imm20 i = BitVec.ofInt 64 (i.toInt * 2 ^ 12) := by
  have h : (i.setWidth 32 <<< 12).toInt = i.toInt * 2 ^ 12 := by
    have hi := i.isLt
    rw [BitVec.toInt_eq_toNat_cond, BitVec.toInt_eq_toNat_cond, BitVec.toNat_shiftLeft, BitVec.toNat_setWidth, Nat.shiftLeft_eq]
    split <;> split <;> omega
  rw [imm20, BitVec.signExtend, h]

theorem sshiftRight_eq_ofInt {w : Nat} (x : BitVec w) (n : Nat) : x.sshiftRight n = BitVec.ofInt w (x.toInt / (2 ^ n : Nat)) := by
  rw [← Int.shiftRight_eq_div_pow, ← BitVec.toInt_sshiftRight, BitVec.ofInt_toInt]

variable {i : Instr} {d : Spec} {f : Thread → Int}

/-- Each of the twelve words computes the integer of its row, cut to 64 bits. -/
theorem exec_immWord (h : immWord i = some (d, f)) (s : State) :
    ∃ g, exec i s = issueWord i (valueWord d g) s ∧ ∀ t, g t = BitVec.ofInt 64 (f t) := by
  unfold immWord at h
  split at h <;> cases h <;> dsimp only [exec] <;> refine ⟨_, rfl, fun t => ?_⟩
  case h_1 => rw [BitVec.ofInt_add, ofInt_toNat, imm14_eq_ofInt]
  case h_2 => rw [imm14_eq_ofInt, and_eq_ofInt]
  case h_3 => rw [imm14_eq_ofInt, or_eq_ofInt]
  case h_4 => rw [imm14_eq_ofInt, xor_eq_ofInt]
  case h_5 a i =>
    have hi : (imm14 i).toInt = i.toInt := BitVec.toInt_signExtend_of_le (by decide)
    rw [opSlt, BitVec.slt_eq_decide, flag_decide, hi]
  case h_6 a i =>
    have hi : ((imm14 i).toNat : Int) = i.toInt % 2 ^ 64 := by
      rw [imm14_eq_ofInt, BitVec.toNat_ofInt, Int.toNat_of_nonneg (Int.emod_nonneg _ (by decide))]
      rfl
    rw [opSltn, BitVec.ult_eq_decide, flag_decide, ← hi]
    simp only [Nat.cast_lt]
  case h_7 => exact shiftLeft_eq_ofInt ..
  case h_8 => exact ushiftRight_eq_ofInt ..
  case h_9 => exact sshiftRight_eq_ofInt ..
  case h_10 => rw [BitVec.ofInt_mul, ofInt_toNat, imm14_eq_ofInt]
  case h_11 => exact imm20_eq_ofInt _
  case h_12 => rw [BitVec.ofInt_add, ofInt_toNat, imm20_eq_ofInt]

end Sys2Proof.Machine
end

section
open Sys2Proof Sys2Proof.Machine

/-- Settles O3: each word computes the integer of its row (`exec_immWord`), and a word that only computes completes (`valueWord_plain`). -/
theorem immediateResults : Obligations.ImmediateResults := by
  unfold Obligations.ImmediateResults
  intro s i d f hi hfree
  obtain ⟨g, he, hg⟩ := exec_immWord hi s
  obtain ⟨t, ht, hp⟩ := valueWord_plain i s hfree d g
  exact ⟨t, he.trans ht, hg s.th ▸ hp⟩

end

section

/-!
# Rounded float words (R125, R128, R132)

A word whose result is rounded completes with the rounded value, its flags and its draw; a pfx.fmt that it does not take raises PREFIX.
-/

namespace Sys2Proof.Machine

variable {s : State} {i : Instr} {body : State → Ex}

/-! ### Flags and draws -/

/-- The thread with flags ORed into FFL and its generator at a value (R42, R46). -/
def Thread.flagged (t : Thread) (fl : FFlags) (r : BitVec 32) : Thread := { t with ffl := t.ffl ||| fl, srnd := r }

theorem orFlags_eq (t : Thread) (fl : FFlags) : t.orFlags fl = t.flagged fl t.srnd := rfl

theorem orFlags_drawIf (t : Thread) (fl : FFlags) (c : Bool) :
    (t.orFlags fl).drawIf c = t.flagged fl (if c = true then lfsrNext t.srnd else t.srnd) := by
  cases c <;> rfl

theorem flagged_rest (t : Thread) (fl : FFlags) (r : BitVec 32) : (t.flagged fl r).rest = t.rest := rfl

/-- A body that writes its destination, sets flags and leaves the generator at a value completes. -/
theorem flagged_computed (h : s.Free i) {d : Spec} {v : Word} {fl : FFlags} {r : BitVec 32}
    (hb : body s = .done { s with th := (s.th.write d v).flagged fl r } v none .seq) :
    ∃ t, issueWord i body s = .next t ∧ s.Computed t d v (s.th.ffl ||| fl) s.th.dz r := by
  obtain ⟨hrest, hffl, hdz, -, hy0, hy0Id, hpc, hla, hlc, hls, hle, -, hxfer⟩ := write_rest s.th d v
  have hc := done_computed i body s h d v _ hb rfl rfl rfl ⟨hy0, hy0Id⟩ ⟨hpc, hla, hlc, hls, hle⟩ ((flagged_rest ..).trans hrest) hxfer
  rwa [show ((s.th.write d v).flagged fl r).ffl = s.th.ffl ||| fl from congrArg (· ||| fl) hffl,
    show ((s.th.write d v).flagged fl r).dz = s.th.dz from hdz] at hc

theorem roundedWord_eq (d : Spec) (code frac rm : Nat) (v : FV) (fl : FFlags) (s : State) :
    let st := storeValue code frac rm s.th.srnd.toNat v
    let r := if rm = 5 ∧ rounds code v = true then lfsrNext s.th.srnd else s.th.srnd
    roundedWord d code frac rm v fl s = .done { s with th := (s.th.write d st.1).flagged (fl ||| st.2) r } st.1 none .seq := by
  intro st r
  obtain ⟨-, -, -, hsrnd, -⟩ := write_rest s.th d st.1
  have hdraw : ((s.th.write d st.1).orFlags (fl ||| st.2)).drawIf (decide (rm = 5) && rounds code v) =
      (s.th.write d st.1).flagged (fl ||| st.2) r := by
    rw [orFlags_drawIf, hsrnd]
    simp only [Bool.and_eq_true, decide_eq_true_eq, r]
  rw [← hdraw]
  rfl

/-! ### Rounded words (R125) -/

/-- A pfx.fmt names format 0xA, which no float word takes (R128, R132). -/
def namesA (p : FmtPfx) : Prop := p.fa = 0xA ∨ p.fb = 0xA ∨ p.fd = 0xA

theorem floatTri_trap {f : BitVec 2} {d a b : Spec} {op : Nat → FV → FV → FV → FV × FFlags} (h : namesA s.th.fmtPfx) :
    floatTri f d a b op s = .trap s { code := .pfx } := if_pos h

/-- Every rounded word is one of three operands; fsqrt takes no second operand's format. -/
theorem exec_floatWord {f : BitVec 2} {d a b : Spec} {op : Nat → FV → FV → FV → FV × FFlags} (h : floatWord i = some (f, d, a, b, op))
    (s : State) :
    ∃ body, exec i s = issueWord i body s ∧
      ((∃ d a f, i = .fsqrt d a f) → s.th.fmtPfx.fb ≠ 0 → body s = .trap s { code := .pfx }) ∧
      (¬ ((∃ d a f, i = .fsqrt d a f) ∧ s.th.fmtPfx.fb ≠ 0) → body s = floatTri f d a b op s) := by
  unfold floatWord at h
  split at h <;> cases h <;> dsimp only [exec]
  case h_5 =>
    exact ⟨_, rfl, fun _ hb => if_pos hb, fun hn => if_neg fun hb => hn ⟨⟨_, _, _, rfl⟩, hb⟩⟩
  all_goals exact ⟨_, rfl, nofun, fun _ => rfl⟩

end Sys2Proof.Machine
end

section
open Sys2Proof Sys2Proof.Machine

/-- Settles O4: each word is one of three operands (`exec_floatWord`), which raises PREFIX (`floatTri_trap`) or completes with the rounded
value (`roundedWord_eq`, `flagged_computed`). -/
theorem floatResults : Obligations.FloatResults := by
  unfold Obligations.FloatResults
  intro s i f d a b op hi hfree p bad rm dst x y z r st
  obtain ⟨body, he, hone, htri⟩ := exec_floatWord hi s
  refine ⟨fun hbad => he.trans (issueWord_trap hfree ?_), fun hgood => ?_⟩
  · by_cases hsqrt : (∃ d a f, i = .fsqrt d a f) ∧ p.fb ≠ 0
    · exact hone hsqrt.1 hsqrt.2
    · have hA : namesA p := by
        obtain h | h | h | h := hbad
        exacts [.inl h, .inr (.inl h), .inr (.inr h), absurd h hsqrt]
      exact (htri hsqrt).trans (floatTri_trap hA)
  · have hA : ¬ namesA p := fun h => hgood (h.imp_right (Or.imp_right .inl))
    have hbody := htri fun h => hgood (.inr (.inr (.inr h)))
    have hround : floatTri f d a b op s = roundedWord d dst p.frac rm r.1 r.2 s := if_neg hA
    obtain ⟨t, ht, hc⟩ := flagged_computed hfree (hbody.trans (hround.trans (roundedWord_eq d dst p.frac rm r.1 r.2 s)))
    exact ⟨t, he.trans ht, hc⟩

end

section

/-!
# Float comparisons, classification and moves (R126 to R128, R132)

They share the body `floatTest`: a pfx.fmt that it does not take raises PREFIX, else it completes with its value and flags.
-/

namespace Sys2Proof.Machine

variable {s : State} {i : Instr} {d : Spec} {ok : FmtPfx → Bool} {op : Thread → Word × FFlags}

theorem floatTest_completes (he : exec i s = issueWord i (floatTest d ok op) s) (h : s.Free i) (hp : ok s.th.fmtPfx = true) :
    ∃ t, exec i s = .next t ∧ s.Computed t d (op s.th).1 (s.th.ffl ||| (op s.th).2) s.th.dz s.th.srnd := by
  obtain ⟨-, -, -, hsrnd, -⟩ := write_rest s.th d (op s.th).1
  have hb : floatTest d ok op s =
      .done { s with th := (s.th.write d (op s.th).1).flagged (op s.th).2 s.th.srnd } (op s.th).1 none .seq := by
    refine (if_neg (by simp [hp])).trans ?_
    rw [← hsrnd, ← orFlags_eq]
  rw [he]
  exact flagged_computed h hb

/-- A test or a move that sets no flag. -/
theorem floatTest_plain (he : exec i s = issueWord i (floatTest d ok op) s) (h : s.Free i) (hp : ok s.th.fmtPfx = true) {v : Word}
    (hv : op s.th = (v, 0)) : ∃ t, exec i s = .next t ∧ s.Plain t d v := by
  have hc := floatTest_completes he h hp
  rwa [hv, show s.th.ffl ||| (v, (0 : FFlags)).2 = s.th.ffl from BitVec.or_zero] at hc

theorem floatTest_traps (he : exec i s = issueWord i (floatTest d ok op) s) (h : s.Free i) (hp : ok s.th.fmtPfx = false) :
    s.Traps i { code := .pfx } :=
  he.trans (issueWord_trap h (if_pos hp))

/-! ### Comparisons (R126) -/

theorem testPfxOk_iff (p : FmtPfx) : testPfxOk p = true ↔ p.fd = 0 ∧ p.fa ≠ 0xA ∧ p.fb ≠ 0xA := decide_eq_true_iff

/-- The result and the flags of a comparison of the thread's operands (R126). -/
def compared (f : BitVec 2) (a b : Spec) (op : FV → FV → Bool × FFlags) (t : Thread) : Word × FFlags :=
  let r := op (t.pair f a b).1 (t.pair f a b).2
  (ofBool r.1, r.2)

/-- A comparison that a NaN makes false with INV. -/
theorem compared_nan (c b : Bool) : (if c = true then ((0 : Word), fINV) else (ofBool b, 0)) =
    (ofBool (if c = true then (false, fINV) else (b, 0)).1, (if c = true then (false, fINV) else (b, 0)).2) := by
  cases c <;> rfl

theorem exec_compareWord {f : BitVec 2} {a b : Spec} {op : FV → FV → Bool × FFlags} (h : compareWord i = some (f, d, a, b, op))
    (s : State) : exec i s = issueWord i (floatTest d testPfxOk (compared f a b op)) s := by
  have of_eq {g : Thread → Word × FFlags} (hg : ∀ t, g t = compared f a b op t) :
      issueWord i (floatTest d testPfxOk g) s = issueWord i (floatTest d testPfxOk (compared f a b op)) s := by rw [funext hg]
  unfold compareWord at h
  split at h <;> cases h <;> dsimp only [exec]
  case h_1 => rfl
  case h_2 => exact of_eq fun t => compared_nan ..
  case h_3 => exact of_eq fun t => compared_nan ..

/-! ### Moves (R127) -/

/-- The sign bit of one operand above the other bits of another (R127). -/
theorem signBit_eq (b top : Nat) : (if b.testBit top = true then 2 ^ top else 0) = 2 ^ top * (b / 2 ^ top % 2) := by
  rw [Nat.testBit_eq_decide_div_mod_eq]
  rcases Nat.mod_two_eq_zero_or_one (b / 2 ^ top) with h | h <;> simp [h]

/-- fsgn and fmv move the bits of a float format. -/
theorem exec_moveWord {f : BitVec 2} {x : FFmt} {v : Word} (hx : ffmt (fnFormat f) = some x) (s : State)
    (h : (∃ a b, i = .fsgn d a b f ∧
        v = BitVec.ofNat 64 ((s.th.read a).toNat % 2 ^ (x.width - 1) + 2 ^ (x.width - 1) * ((s.th.read b).toNat / 2 ^ (x.width - 1) % 2))) ∨
      (∃ a, i = .fmv d a f ∧ v = BitVec.ofNat 64 ((s.th.read a).toNat % 2 ^ x.width))) :
    ∃ op, exec i s = issueWord i (floatTest d (movePfxOk f) op) s ∧ op s.th = (v, 0) := by
  have hw : x.width - 1 = x.ew + x.mw := by
    rw [FFmt.width]
    omega
  rcases h with ⟨a, b, rfl, rfl⟩ | ⟨a, rfl, rfl⟩ <;> dsimp only [exec] <;> refine ⟨_, rfl, ?_⟩ <;> rw [hx]
  · rw [hw, ← signBit_eq]

end Sys2Proof.Machine
end

section
open Sys2Proof Sys2Proof.Machine

/-- Settles O5: comparisons (`exec_compareWord`), fclass, and moves (`exec_moveWord`) share one body, which raises PREFIX
(`floatTest_traps`) or completes (`floatTest_completes`, `floatTest_plain`). -/
theorem floatTestsAndMoves : Obligations.FloatTestsAndMoves := by
  unfold Obligations.FloatTestsAndMoves
  refine ⟨fun s i f d a b op hi hfree => ?_, fun s d a f hfree => ?_, fun s i f x v d hx hi hfree => ?_⟩
  · have he := exec_compareWord hi s
    exact ⟨fun hp => floatTest_completes he hfree ((testPfxOk_iff _).2 hp),
      fun hp => floatTest_traps he hfree (Bool.eq_false_iff.2 (mt (testPfxOk_iff _).1 hp))⟩
  · exact ⟨fun hp => floatTest_plain rfl hfree ((testPfxOk_iff _).2 hp) rfl,
      fun hp => floatTest_traps rfl hfree (Bool.eq_false_iff.2 (mt (testPfxOk_iff _).1 hp))⟩
  · obtain ⟨op, he, hv⟩ := exec_moveWord hx s hi
    exact ⟨fun hp => floatTest_plain he hfree hp hv, fun hp => floatTest_traps he hfree hp⟩

end

section

/-!
# Conversion of one value (R129, R130)

The body of `cvt` in the words of the statement: the pfx words that it takes, the value that it converts, and what it makes of it.
-/

namespace Sys2Proof.Machine

variable {s : State} {t : Thread} {d a : Spec} {r : BitVec 3} {w : BitVec 2} {tf sf : BitVec 4}

/-! ### Formats -/

theorem isNarrow_iff (c : Nat) : isNarrow c = true ↔ 5 ≤ c ∧ c ≤ 9 := decide_eq_true_iff

theorem isWhole_iff (c : Nat) : isWhole c = true ↔ c = 0xB ∨ c = 0xC := decide_eq_true_iff

theorem isNarrow_of_ffmt_none {c : Nat} (h : ffmt c = none) : isNarrow c = false := by
  refine Bool.eq_false_iff.2 fun hn => ?_
  obtain ⟨h5, h9⟩ := (isNarrow_iff c).1 hn
  interval_cases c <;> cases h

theorem isWhole_of_ffmt {c : Nat} {f : FFmt} (h : ffmt c = some f) : isWhole c = false := by
  refine Bool.eq_false_iff.2 fun hw => ?_
  obtain rfl | rfl := (isWhole_iff c).1 hw <;> cases h

/-- The source of a well-formed conversion is a float, an integer, a natural or e8m0 (R61). -/
theorem cvt_source_e8m0 (h : (Instr.cvt d a r w tf sf).wf = true) (hf : ffmt sf.toNat = none) (hw : isWhole sf.toNat = false) :
    sf.toNat = 0xD := by
  have hs : sf ≠ 0x0 ∧ sf ≠ 0xA ∧ sf ≠ 0xE ∧ sf ≠ 0xF := by
    simp only [Instr.wf, Instr.fieldsOk, cvtFieldsOk, Bool.and_eq_true, decide_eq_true_eq] at h
    obtain ⟨-, ⟨⟨-, hs⟩, -⟩, -⟩ := h
    exact hs
  have codes : ∀ c : BitVec 4, (c ≠ 0x0 ∧ c ≠ 0xA ∧ c ≠ 0xE ∧ c ≠ 0xF) → ffmt c.toNat = none → isWhole c.toNat = false → c.toNat = 0xD := by
    decide
  exact codes sf hs hf hw

theorem cvtMode_eq (t : Thread) (r : BitVec 3) : cvtMode t r = if r.toNat ≠ 7 then r.toNat else t.modeOf := by
  rw [cvtMode]
  simp only [ne_eq, ← BitVec.toNat_inj]
  rfl

/-! ### The value -/

/-- The value that the body reads (R129): a narrow source under its scale, every other one as it stands. -/
def cvtRead (t : Thread) (a : Spec) (tc sc iw : Nat) : FV :=
  match ffmt sc with
  | some f =>
    (match scaleCode t with
     | some k => if isNarrow sc then decodeScaled f (t.read a).toNat k else f.decode (t.read a).toNat
     | none => f.decode (t.read a).toNat)
  | none =>
    if sc = 0xD then decodeE8m0 (t.read a).toNat
    else intValue (sc == 0xB) (if isWhole tc then 64 else iw) t.fmtPfx.frac (t.read a).toNat

/-- The value that it rounds: a narrow destination takes the value over the scale (R130). -/
def cvtScaled (t : Thread) (tc sc : Nat) (v : FV) : FV :=
  match scaleCode t with
  | some k => if (isNarrow tc && !isNarrow sc) = true then v.scale (127 - (k : Int)) else v
  | none => v

theorem scale_sigFlag (k : Int) (v : FV) : (v.scale k).sigFlag = v.sigFlag := by cases v <;> rfl

/-- A scale leaves whether a value is a signalling NaN. -/
theorem cvtScaled_sigFlag (t : Thread) (tc sc : Nat) (v : FV) : (cvtScaled t tc sc v).sigFlag = v.sigFlag := by
  unfold cvtScaled
  split
  · split
    · exact scale_sigFlag ..
    · rfl
  · rfl

/-- The value that is read and then scaled is that of the statement. -/
theorem cvtScaled_cvtRead (t : Thread) {tc sc : Nat} (iw : Nat) (h : ffmt sc = none → isWhole sc = false → sc = 0xD) :
    cvtScaled t tc sc (cvtRead t a tc sc iw) = cvtSource t a tc sc iw := by
  unfold cvtScaled cvtRead cvtSource operandValue
  cases hf : ffmt sc with
  | some f =>
    have hw := isWhole_of_ffmt hf
    cases scaleCode t with
    | none => simp [hw]
    | some k => cases isNarrow sc <;> cases isNarrow tc <;> simp [hw]
  | none =>
    have hn := isNarrow_of_ffmt_none hf
    have hr : (if sc = 0xD then decodeE8m0 (t.read a).toNat
        else intValue (sc == 0xB) (if isWhole tc then 64 else iw) t.fmtPfx.frac (t.read a).toNat) =
      if isWhole sc then intValue (sc == 0xB) (if isWhole tc then 64 else iw) t.fmtPfx.frac (t.read a).toNat
        else if sc = 0xD then decodeE8m0 (t.read a).toNat else intValue (sc == 0xB) 64 0 (t.read a).toNat := by
      cases hw : isWhole sc with
      | true =>
        have hd : sc ≠ 0xD := by rcases (isWhole_iff sc).1 hw with rfl | rfl <;> decide
        rw [if_neg hd, if_pos rfl]
      | false =>
        rw [if_pos (h hf hw), if_pos (h hf hw)]
        rfl
    rw [hn, hr]
    cases scaleCode t <;> cases isNarrow tc <;> rfl

/-! ### The body -/

/-- The values of a conversion's scale have arrived (R110). -/
def ScaleReady (t : Thread) : Prop := ∀ q, t.sclPfx = some q → q.imm = true ∨ t.busy q.sr = false

/-- The pending pfx words fit a `cvt` (R130). -/
def CvtFits (t : Thread) (tc sc : Nat) : Prop := cvtPfxOk t tc sc = true ∧ (t.sv = true → (isNarrow sc || isNarrow tc) = true)

/-- A scale of 0xFF into a narrow format (R38). -/
def NoScale (t : Thread) (tc sc : Nat) : Prop := scaleCode t = some 0xFF ∧ isNarrow tc = true ∧ isNarrow sc = false

theorem cvtBody_trap (h : ¬ CvtFits s.th tf.toNat sf.toNat) : cvtBody d a r w tf sf s = .trap s { code := .pfx } := by
  refine if_pos ?_
  rcases not_and_or.1 h with hp | hs
  · exact .inl (Bool.eq_false_iff.2 hp)
  · obtain ⟨hv, hn⟩ := Classical.not_imp.1 hs
    exact .inr ⟨hv, Bool.eq_false_iff.2 hn⟩

/-- With pfx words that fit and its scale at hand `cvt` reads its source, and a scale of 0xFF or the rounding gives the result. -/
theorem cvtBody_reads (h : CvtFits s.th tf.toNat sf.toNat) (hr : ScaleReady s.th) :
    let v := cvtRead s.th a tf.toNat sf.toNat (8 * 2 ^ w.toNat)
    let rm := cvtMode s.th r
    let z := cvtScaled s.th tf.toNat sf.toNat v
    let x := cvtTarget s.th tf.toNat sf.toNat (8 * 2 ^ w.toNat) rm z
    cvtBody d a r w tf sf s =
      if (isNarrow tf.toNat && !isNarrow sf.toNat && scaleCode s.th == some 0xFF) = true then
        .done { s with th := (s.th.write d 0).orFlags (fINV ||| v.sigFlag) } 0 none .seq
      else .done { s with th := ((s.th.write d x.1).orFlags (x.2 ||| v.sigFlag)).drawIf (decide (rm = 5) && rounds tf.toNat z) } x.1 none .seq := by
  intro v rm z x
  obtain ⟨hp, hs⟩ := h
  refine (if_neg ?fits).trans ((if_neg ?landed).trans ?_)
  case fits =>
    rintro (hn | ⟨hv, hn⟩)
    · exact Bool.eq_false_iff.1 hn hp
    · exact Bool.eq_false_iff.1 hn (hs hv)
  case landed =>
    intro hany
    obtain ⟨q, hq, hb⟩ := (Option.any_eq_true _ _).1 hany
    rcases hr q hq with hi | hl
    · simp [hi] at hb
    · simp [hl] at hb
  rw [← cvtMode_eq]
  rfl

theorem noScale_iff (t : Thread) (tc sc : Nat) :
    (isNarrow tc && !isNarrow sc && scaleCode t == some 0xFF) = true ↔ NoScale t tc sc := by
  simp only [NoScale, Bool.and_eq_true, Bool.not_eq_true', beq_iff_eq, and_assoc, and_comm]

theorem cvtBody_noScale (h : CvtFits s.th tf.toNat sf.toNat) (hr : ScaleReady s.th) (hn : NoScale s.th tf.toNat sf.toNat) :
    let sig := (cvtRead s.th a tf.toNat sf.toNat (8 * 2 ^ w.toNat)).sigFlag
    cvtBody d a r w tf sf s = .done { s with th := (s.th.write d 0).flagged (fINV ||| sig) s.th.srnd } 0 none .seq := by
  intro sig
  obtain ⟨-, -, -, hsrnd, -⟩ := write_rest s.th d 0
  rw [cvtBody_reads h hr, if_pos ((noScale_iff ..).2 hn), orFlags_eq, hsrnd]

theorem cvtBody_rounds (h : CvtFits s.th tf.toNat sf.toNat) (hr : ScaleReady s.th) (hn : ¬ NoScale s.th tf.toNat sf.toNat) :
    let v := cvtRead s.th a tf.toNat sf.toNat (8 * 2 ^ w.toNat)
    let z := cvtScaled s.th tf.toNat sf.toNat v
    let x := cvtTarget s.th tf.toNat sf.toNat (8 * 2 ^ w.toNat) (cvtMode s.th r) z
    let g := if cvtMode s.th r = 5 ∧ rounds tf.toNat z = true then lfsrNext s.th.srnd else s.th.srnd
    cvtBody d a r w tf sf s = .done { s with th := (s.th.write d x.1).flagged (x.2 ||| v.sigFlag) g } x.1 none .seq := by
  intro v z x g
  obtain ⟨-, -, -, hsrnd, -⟩ := write_rest s.th d x.1
  rw [cvtBody_reads h hr, if_neg (mt (noScale_iff ..).1 hn), orFlags_drawIf, hsrnd]
  simp only [Bool.and_eq_true, decide_eq_true_eq, g, x, z, v]

end Sys2Proof.Machine
end

section
open Sys2Proof Sys2Proof.Machine

/-- Settles O6: the body by its pfx words and its scale (`cvtBody_trap`, `cvtBody_noScale`, `cvtBody_rounds`); the value that it reads and
scales is the one converted (`cvtScaled_cvtRead`, `cvtScaled_sigFlag`). -/
theorem convertResults : Obligations.ConvertResults := by
  unfold Obligations.ConvertResults
  intro s d a r w tf sf hfree i tc sc iw scaled src x fits ready noScale
  have hsrc : cvtScaled s.th tc sc (cvtRead s.th a tc sc iw) = src := cvtScaled_cvtRead s.th iw (cvt_source_e8m0 hfree.wf)
  have hsig : (cvtRead s.th a tc sc iw).sigFlag = src.sigFlag := by rw [← hsrc, cvtScaled_sigFlag]
  refine ⟨fun hn => issueWord_trap hfree (cvtBody_trap hn), fun hf hr hn => ?_, fun hf hr hn => ?_⟩
  · rw [← hsig]
    exact flagged_computed hfree (cvtBody_noScale hf hr hn)
  · have hc := flagged_computed hfree (cvtBody_rounds (d := d) (a := a) (r := r) (w := w) hf hr hn)
    rw [hsrc, hsig] at hc
    exact hc

end

section

/-!
# Block conversion (R131)

The body of `cvtb` by its outcomes: PREFIX, ALIGN, or the block converted in core scratch.
-/

namespace Sys2Proof.Machine

variable {s s1 : State} {i : Instr} {body : State → Ex} {d a : Spec} {r : BitVec 3} {w : BitVec 2} {tf sf : BitVec 4} {q : SclPfx}
  {ft fs : FFmt}

/-! ### Writes of core scratch -/

theorem writeMasked_win (s : State) (c x a : Nat) (bs : List (Byte × Byte)) :
    ∃ m, s.writeMasked (.win c x) a bs = { s with scratch := m } := by
  induction bs generalizing s a with
  | nil => exact ⟨_, rfl⟩
  | cons b bs ih =>
    obtain ⟨m, hm⟩ := ih (s.writeByte (.win c x) a (maskByte (s.readByte (.win c x) a) b.1 b.2)) (a + 1)
    exact ⟨m, hm⟩

/-- A write of core scratch changes its bytes and the errors of its words alone. -/
theorem put_win (s : State) (c x a : Nat) (bs : List Byte) : ∃ m e, s.put (.win c x) a bs = { s with scratch := m, bad := e } := by
  obtain ⟨m, hm⟩ := writeMasked_win s c x a (full bs)
  unfold State.put State.putBytes
  rw [hm]
  split
  · exact ⟨_, _, rfl⟩
  · exact ⟨_, _, rfl⟩

/-- Bytes that have been stored stand whatever becomes of the threads. -/
theorem stored_with_th {sp : Space} {n : Nat} {bs : List Byte} (h : s.Stored s1 sp n bs) (u : Thread) :
    s.Stored { s1 with th := u } sp n bs where
  there := (readBytes_congr fun _ _ => by cases sp <;> rfl).trans h.there
  elsewhere := fun sq x hx => (by cases sq <;> rfl : ({ s1 with th := u } : State).readByte sq x = s1.readByte sq x).trans (h.elsewhere sq x hx)

/-! ### Completion -/

/-- A body that leaves a thread with its destination written, flags set and the generator at a value completes. -/
theorem flagged_done (h : s.Free i) {b : Thread} {v : Word} {fl : FFlags} {g : BitVec 32}
    (hb : body s = .done { s1 with th := (b.write d v).flagged fl g } v none .seq) :
    ∃ u, issueWord i body s = .next { s1 with th := u } ∧ b.Done u d v (b.ffl ||| fl) b.dz g := by
  obtain ⟨hrest, hffl, hdz, -, hy0, hy0Id, hpc, hla, hlc, hls, hle, -⟩ := write_rest b d v
  have hd := complete_done b ((b.write d v).flagged fl g) d v rfl rfl rfl ⟨hy0, hy0Id⟩ ⟨hpc, hla, hlc, hls, hle⟩ ((flagged_rest ..).trans hrest)
  rw [show ((b.write d v).flagged fl g).ffl = b.ffl ||| fl from congrArg (· ||| fl) hffl,
    show ((b.write d v).flagged fl g).dz = b.dz from hdz] at hd
  refine ⟨_, by rw [issueWord_free i body s h, hb]; exact congrArg _ (completeWord_seq _ _ v none rfl), ?_⟩
  split
  · exact done_transferred hd _
  · exact hd

/-! ### The body -/

/-- The pending pfx words fit a `cvtb` (R131): for a pack the scale goes to a register. -/
def CvtbFits (t : Thread) (tc sc : Nat) (q : SclPfx) : Prop :=
  cvtPfxOk t tc sc = true ∧ (isNarrow tc = true → q.imm = false ∧ q.sr ≠ 40 ∧ q.sr ≠ 41)

/-- The scale code of an unpack has arrived (R110). -/
def CodeLanded (t : Thread) (tc : Nat) (q : SclPfx) : Prop := isNarrow tc = false → q.imm = false → t.busy q.sr = false

theorem cvtbBody_unscaled (h : s.th.sv = false) : cvtbBody d a r tf sf s = .trap s { code := .pfx } := by
  have hq : s.th.sclPfx = none := if_neg (h ▸ Bool.false_ne_true)
  unfold cvtbBody
  simp only [hq]

/-- The elements of a block (R76, R131). -/
def blockSize (q : SclPfx) : Nat := if q.g = 1 then 32 else 128

/-- The bytes of a block and of its conversion lie in the thread's window, free of commands and of errors (R169, R170, R173). -/
structure State.BlockFree (s : State) (A D : Word) (srcN dstN : Nat) : Prop where
  srcIn : A.toNat + srcN ≤ s.windowLen s.th.core s.th.ctx
  dstIn : D.toNat + dstN ≤ s.windowLen s.th.core s.th.ctx
  srcIdle : rsBlocks (s.core s.th.core).sb (.win s.th.core s.th.ctx) A.toNat (A.toNat + srcN) false = false
  dstIdle : rsBlocks (s.core s.th.core).sb (.win s.th.core s.th.ctx) D.toNat (D.toNat + dstN) true = false
  srcGood : s.badAt (.win s.th.core s.th.ctx) A.toNat srcN = false
  dstGood : s.badPartial (.win s.th.core s.th.ctx) D.toNat dstN true = false

theorem cvtb_fits_not (h : CvtbFits t tf.toNat sf.toNat q) :
    ¬ (cvtPfxOk t tf.toNat sf.toNat = false ∨ (isNarrow tf.toNat = true ∧ (q.imm = true ∨ q.sr = 40 ∨ q.sr = 41))) := by
  obtain ⟨hp, hs⟩ := h
  rintro (hn | ⟨hk, hi⟩)
  · exact Bool.eq_false_iff.1 hn hp
  · obtain ⟨himm, h40, h41⟩ := hs hk
    rcases hi with h | h | h
    exacts [Bool.eq_false_iff.1 himm h, h40 h, h41 h]

theorem cvtb_landed_not (h : CodeLanded t tf.toNat q) : ¬ (isNarrow tf.toNat = false ∧ q.imm = false ∧ t.busy q.sr = true) := by
  rintro ⟨hk, hi, hb⟩
  exact Bool.eq_false_iff.1 (h hk hi) hb

theorem State.BlockFree.board {A D : Word} {m n : Nat} (h : s.BlockFree A D m n) :
    ¬ (rsBlocks (s.core s.th.core).sb (.win s.th.core s.th.ctx) A.toNat (A.toNat + m) false = true ∨
      rsBlocks (s.core s.th.core).sb (.win s.th.core s.th.ctx) D.toNat (D.toNat + n) true = true) :=
  not_or.2 ⟨Bool.eq_false_iff.1 h.srcIdle, Bool.eq_false_iff.1 h.dstIdle⟩

theorem put_win_th (s : State) (c x a : Nat) (bs : List Byte) : (s.put (.win c x) a bs).th = s.th := by
  obtain ⟨m, e, hp⟩ := put_win s c x a bs
  rw [hp]

section
variable (hq : s.th.sclPfx = some q) (hft : ffmt tf.toNat = some ft) (hfs : ffmt sf.toNat = some fs)
include hq hft hfs

theorem cvtbBody_unfit (h : ¬ CvtbFits s.th tf.toNat sf.toNat q) : cvtbBody d a r tf sf s = .trap s { code := .pfx } := by
  unfold cvtbBody
  dsimp only
  rw [hq, hft, hfs]
  refine if_pos ?_
  rcases not_and_or.1 h with hp | hs
  · exact .inl (Bool.eq_false_iff.2 hp)
  · obtain ⟨hv, hn⟩ := Classical.not_imp.1 hs
    refine .inr ⟨hv, ?_⟩
    by_cases hi : q.imm = true
    · exact .inl hi
    · refine .inr (by_contra fun hr => hn ⟨Bool.eq_false_iff.2 hi, not_or.1 hr⟩)

theorem cvtbBody_align (h : CvtbFits s.th tf.toNat sf.toNat q) (hl : CodeLanded s.th tf.toNat q) :
    let wide := if isNarrow tf.toNat then s.th.read a else s.th.read d
    wide.toNat % ((if isNarrow tf.toNat then fs.width else ft.width) / 8) ≠ 0 →
    cvtbBody d a r tf sf s = .trap s { code := .align, addr := wide } := by
  intro wide ha
  unfold cvtbBody
  dsimp only
  rw [hq, hft, hfs]
  refine (if_neg ?fits).trans ((if_neg ?landed).trans (if_pos ?unit))
  case unit =>
    rw [← apply_ite FFmt.width] at ha
    exact ha
  case fits => exact cvtb_fits_not h
  case landed => exact cvtb_landed_not hl

theorem cvtbBody_pack (h : CvtbFits s.th tf.toNat sf.toNat q) (hk : isNarrow tf.toNat = true)
    (ha : (s.th.read a).toNat % (fs.width / 8) = 0)
    (hf : s.BlockFree (s.th.read a) (s.th.read d) (blockSize q * (fs.width / 8)) (blockSize q * ft.width / 8))
    {x : Nat × List Nat × FFlags × BitVec 32}
    (hx : encodeBlock ft (cvtMode s.th r) s.th.srnd (wideElems fs
      (s.readBytes (.win s.th.core s.th.ctx) (s.th.read a).toNat (blockSize q * (fs.width / 8))) (blockSize q)) = x) :
    let sp := Space.win s.th.core s.th.ctx
    let n := blockSize q * ft.width / 8
    let D' := s.th.read d + BitVec.ofNat 64 n
    let u := ((s.th.write q.sr (BitVec.ofNat 64 x.1)).write d D').flagged x.2.2.1 x.2.2.2
    cvtbBody d a r tf sf s = .done { s.put sp (s.th.read d).toNat (leBytes n (packElems ft.width x.2.1)) with th := u } D' none .seq := by
  intro sp n D' u
  have hk' : decide (5 ≤ tf.toNat ∧ tf.toNat ≤ 9) = true := hk
  have hl : CodeLanded s.th tf.toNat q := fun hn => absurd hk (Bool.eq_false_iff.1 hn)
  unfold cvtbBody
  dsimp only
  rw [hq, hft, hfs]
  refine (if_neg (cvtb_fits_not h)).trans ((if_neg (cvtb_landed_not hl)).trans ?_)
  simp only [hk', if_true]
  refine (if_neg (not_not_intro ha)).trans ((if_neg (Nat.not_lt.2 hf.srcIn)).trans ((if_neg (Nat.not_lt.2 hf.dstIn)).trans ?_))
  refine (if_neg hf.board).trans ((if_neg (Bool.eq_false_iff.1 hf.srcGood)).trans ((if_neg (Bool.eq_false_iff.1 hf.dstGood)).trans ?_))
  rw [← cvtMode_eq, show (if q.g = 1 then 32 else 128) = blockSize q from rfl, hx]
  exact congrArg (fun t : Thread => Ex.done { s.put sp (s.th.read d).toNat (leBytes n (packElems ft.width x.2.1)) with
    th := ((t.write q.sr (BitVec.ofNat 64 x.1)).write d D').flagged x.2.2.1 x.2.2.2 } D' none .seq) (put_win_th ..)

theorem cvtbBody_unpack (h : CvtbFits s.th tf.toNat sf.toNat q) (hk : isNarrow tf.toNat = false) (hl : CodeLanded s.th tf.toNat q)
    (ha : (s.th.read d).toNat % (ft.width / 8) = 0)
    (hf : s.BlockFree (s.th.read a) (s.th.read d) (blockSize q * fs.width / 8) (blockSize q * (ft.width / 8))) :
    let sp := Space.win s.th.core s.th.ctx
    let n := blockSize q * (ft.width / 8)
    let D' := s.th.read d + BitVec.ofNat 64 n
    let x := unpackBlock fs ft (cvtMode s.th r) (if q.imm then q.sc else (s.th.read q.sr).toNat % 256) s.th.srnd
      (unpackElems fs.width (blockSize q) (ofLe (s.readBytes sp (s.th.read a).toNat (blockSize q * fs.width / 8))))
    let u := (s.th.write d D').flagged x.2.1 x.2.2
    cvtbBody d a r tf sf s = .done { s.put sp (s.th.read d).toNat (leBytes n (packElems ft.width x.1)) with th := u } D' none .seq := by
  intro sp n D' x u
  have hk' : decide (5 ≤ tf.toNat ∧ tf.toNat ≤ 9) = false := hk
  unfold cvtbBody
  dsimp only
  rw [hq, hft, hfs]
  refine (if_neg (cvtb_fits_not h)).trans ((if_neg (cvtb_landed_not hl)).trans ?_)
  simp only [hk', Bool.false_eq_true, if_false]
  refine (if_neg (not_not_intro ha)).trans ((if_neg (Nat.not_lt.2 hf.srcIn)).trans ((if_neg (Nat.not_lt.2 hf.dstIn)).trans ?_))
  refine (if_neg hf.board).trans ((if_neg (Bool.eq_false_iff.1 hf.srcGood)).trans ((if_neg (Bool.eq_false_iff.1 hf.dstGood)).trans ?_))
  rw [← cvtMode_eq]
  exact congrArg (fun t : Thread => Ex.done { s.put sp (s.th.read d).toNat (leBytes n (packElems ft.width x.1)) with
    th := (t.write d D').flagged x.2.1 x.2.2 } D' none .seq) (put_win_th ..)

end

theorem write_ffl (t : Thread) (x : Spec) (v : Word) : (t.write x v).ffl = t.ffl := by
  rw [← write_eq t x v]

theorem write_dz (t : Thread) (x : Spec) (v : Word) : (t.write x v).dz = t.dz := by
  rw [← write_eq t x v]

/-- A word that stores bytes in core scratch and writes its destination leaves those bytes and its thread. -/
theorem stores_win (h : s.Free i) {c x n : Nat} {bs : List Byte} {b : Thread} {v : Word} {fl : FFlags} {g : BitVec 32}
    (hb : body s = .done { s.put (.win c x) n bs with th := (b.write d v).flagged fl g } v none .seq) :
    ∃ u, issueWord i body s = .next u ∧ s.Stored u (.win c x) n bs ∧ { u with th := s.th, scratch := s.scratch, bad := s.bad } = s ∧
      b.Done u.th d v (b.ffl ||| fl) b.dz g := by
  obtain ⟨u, hu, hd⟩ := flagged_done h hb
  refine ⟨_, hu, stored_with_th (put_stored ..) u, ?_, hd⟩
  obtain ⟨m, e, hp⟩ := put_win s c x n bs
  rw [hp]

end Sys2Proof.Machine
end

section
open Sys2Proof Sys2Proof.Machine

/-- Settles O7: the body by its outcomes (`cvtbBody_unscaled`, `cvtbBody_unfit`, `cvtbBody_align`, and for a pack and an unpack
`cvtbBody_pack`, `cvtbBody_unpack`); what the last two store and write by `stores_win`. -/
theorem blockConversion : Obligations.BlockConversion := by
  unfold Obligations.BlockConversion
  intro s d a r w tf sf hfree i t
  refine ⟨fun hv => issueWord_trap hfree (cvtbBody_unscaled hv), fun q ft fs hq hft hfs => ?_⟩
  refine ⟨fun hn => issueWord_trap hfree (cvtbBody_unfit hq hft hfs hn),
    fun hf hl ha => issueWord_trap hfree (cvtbBody_align hq hft hfs hf hl ha), ?_⟩
  cases hk : isNarrow tf.toNat with
  | true =>
    rintro hf ⟨-, ha, hsrc, hdst, hsb, hdb, hbad, hpart⟩
    have hfit : CvtbFits s.th tf.toNat sf.toNat q := by
      rw [CvtbFits, hk]
      exact hf
    obtain ⟨u, hu, hstored, honly, hdone⟩ :=
      stores_win hfree (cvtbBody_pack (d := d) (a := a) (r := r) hq hft hfs hfit hk ha ⟨hsrc, hdst, hsb, hdb, hbad, hpart⟩ rfl)
    rw [write_ffl, write_dz] at hdone
    exact ⟨u, hu, hstored, honly, hdone⟩
  | false =>
    rintro hf ⟨hl, ha, hsrc, hdst, hsb, hdb, hbad, hpart⟩
    have hfit : CvtbFits s.th tf.toNat sf.toNat q := by
      rw [CvtbFits, hk]
      exact hf
    obtain ⟨u, hu, hstored, honly, hdone⟩ :=
      stores_win hfree (cvtbBody_unpack (d := d) (a := a) (r := r) hq hft hfs hfit hk (fun _ => hl rfl) ha ⟨hsrc, hdst, hsb, hdb, hbad, hpart⟩)
    exact ⟨u, hu, hstored, honly, hdone⟩

end

section

/-!
# What control registers read (R79, R115 to R120, R161)
-/

namespace Sys2Proof.Machine

variable {s : State} {t : Thread}

/-! ### Registers with fields, bit by bit -/

theorem ofBool_getLsbD {b : Bool} {j : Nat} : (ofBool b).getLsbD j = (decide (j = 0) && b) := by
  cases b <;> simp [ofBool]

theorem ite_eq_mul_toNat (b : Bool) (n : Nat) : (if b = true then n else 0) = n * b.toNat := by
  cases b <;> simp

/-- TS (R117). -/
theorem ts_getLsbD (t : Thread) {j : Nat} (hj : j < 64) : t.ts.getLsbD j =
    if j = 0 then t.dz else if j = 1 then (t.fv || t.sv) else if j = 3 then t.prv else if j = 4 then t.la
    else if 5 ≤ j ∧ j ≤ 7 then t.peng.getLsbD (j - 5) else false := by
  have hts : t.ts = BitVec.ofNat 64
      (Nat.bit t.dz (Nat.bit (t.fv || t.sv) (Nat.bit false (Nat.bit t.prv (Nat.bit t.la t.peng.toNat))))) := by
    simp only [Thread.ts, ← Bool.or_eq_true, ite_eq_mul_toNat, Nat.bit_val, Bool.toNat_false]
    congr 1
    omega
  rw [hts, getLsbD_ofNat_word hj]
  match j with
  | 0 => exact Nat.testBit_bit_zero ..
  | 1 | 2 | 3 | 4 =>
    simp only [Nat.testBit_bit_succ, Nat.testBit_bit_zero]
    rfl
  | j + 5 =>
    simp only [Nat.testBit_bit_succ, BitVec.testBit_toNat]
    by_cases h : j < 3
    · simp [show j ≤ 2 by omega]
    · simp [show ¬ j ≤ 2 by omega, BitVec.getLsbD_of_ge t.peng j (by omega)]

theorem testBit_toNat_bool (b : Bool) (j : Nat) : b.toNat.testBit j = if j = 0 then b else false := by
  cases b <;> cases j <;> simp [Nat.testBit_succ]

/-- PXS (R79). -/
theorem pxs_getLsbD (t : Thread) {j : Nat} (hj : j < 64) : t.pxs.getLsbD j =
    if j < 24 then t.fmt.getLsbD j else if j = 24 then t.fv else if j < 49 then t.scl.getLsbD (j - 25)
    else if j = 49 then t.sv else false := by
  have hpxs : t.pxs = BitVec.ofNat 64 (2 ^ 24 * Nat.bit t.fv (2 ^ 24 * t.sv.toNat + t.scl.toNat) + t.fmt.toNat) := by
    simp only [Thread.pxs, ite_eq_mul_toNat, Nat.bit_val]
    congr 1
    omega
  rw [hpxs, getLsbD_ofNat_word hj, Nat.testBit_two_pow_mul_add _ t.fmt.isLt, BitVec.testBit_toNat]
  by_cases h24 : j < 24
  · rw [if_pos h24, if_pos h24]
  rw [if_neg h24, if_neg h24]
  obtain ⟨k, rfl⟩ : ∃ k, j = 24 + k := ⟨j - 24, by omega⟩
  rw [Nat.add_sub_cancel_left]
  cases k with
  | zero => exact Nat.testBit_bit_zero ..
  | succ k =>
    rw [Nat.testBit_bit_succ, Nat.testBit_two_pow_mul_add _ t.scl.isLt, BitVec.testBit_toNat, if_neg (by omega : ¬ 24 + (k + 1) = 24)]
    by_cases hk : k < 24
    · rw [if_pos hk, if_pos (by omega), show 24 + (k + 1) - 25 = k by omega]
    · rw [if_neg hk, if_neg (by omega), testBit_toNat_bool]
      simp only [show k - 24 = 0 ↔ 24 + (k + 1) = 49 by omega]

theorem therm_getLsbD (s : State) (j : Nat) : s.therm.getLsbD j = if j = 0 then s.tlf else if j = 1 then s.pwx else false := by
  rw [State.therm, BitVec.getLsbD_or, BitVec.getLsbD_shiftLeft, ofBool_getLsbD, ofBool_getLsbD]
  match j with
  | 0 => simp
  | 1 => simp
  | j + 2 => simp

/-! ### Registers with fields, as numbers -/

/-- TID (R119). -/
theorem tid_fields (t : Thread) (hx : t.ctx < 64) (hc : t.core < 2 ^ 16) (hs : t.slot < 16) :
    fieldOf t.tid 0 4 = t.slot ∧ fieldOf t.tid 4 12 = 0 ∧ fieldOf t.tid 16 16 = t.core ∧ fieldOf t.tid 32 6 = t.ctx ∧
      fieldOf t.tid 38 26 = 0 := by
  have ht : t.tid.toNat = t.ctx * 2 ^ 32 + t.core * 2 ^ 16 + t.slot := by
    rw [Thread.tid, BitVec.toNat_ofNat]
    omega
  simp only [fieldOf, ht]
  omega

/-- SCSPLIT (R161). -/
theorem split_word_fields (x : Split) (hs : x.scr < 64) (hc : x.cch < 64) (hg : x.grant < 64) :
    fieldOf x.word 0 6 = x.scr ∧ fieldOf x.word 6 2 = 0 ∧ fieldOf x.word 8 6 = x.cch ∧ fieldOf x.word 14 2 = 0 ∧
      fieldOf x.word 16 6 = x.grant ∧ fieldOf x.word 22 9 = 0 ∧ x.word.getLsbD 31 = x.rej ∧ fieldOf x.word 32 32 = 0 := by
  have hw : x.word.toNat = x.scr + x.cch * 2 ^ 8 + x.grant * 2 ^ 16 + x.rej.toNat * 2 ^ 31 := by
    have hr := Bool.toNat_le x.rej
    rw [Split.word, BitVec.toNat_ofNat, ite_eq_mul_toNat]
    omega
  have hr := Bool.toNat_le x.rej
  have h31 : x.word.getLsbD 31 = x.rej := by
    rw [BitVec.getLsbD, Nat.testBit_eq_decide_div_mod_eq, hw]
    cases x.rej <;> simp <;> omega
  simp only [fieldOf, hw, h31, true_and]
  omega

/-! ### Engines (R116) -/

theorem csrRead_geometry (s : State) (t : Thread) {n e j : Nat} (h : geomOf n = some (e, j)) :
    s.csrRead t n = (s.engine e (engineUnit e t.core)).geom.getD j 0 := by
  unfold State.csrRead
  rw [h]

theorem geomOf_copy {j : Nat} (h : j < 8) : geomOf (0x040 + j) = some (0, j) := by
  rw [geomOf, if_pos (by omega), Nat.add_sub_cancel_left]

theorem geomOf_engine {n e j : Nat} (he : e < 4) (h : j < 4) (hn : n = 0x050 + (4 * e + j)) : geomOf n = some (1 + e, j) := by
  rw [geomOf, if_neg (by omega), if_pos (by omega), hn, Nat.add_sub_cancel_left, Nat.mul_add_div (by decide), Nat.mul_add_mod,
    Nat.div_eq_of_lt h, Nat.mod_eq_of_lt h]
  rfl

/-! ### The word -/

/-- Where it may be read, csrr is a word that only computes. -/
theorem exec_csrr {d : Spec} {n : BitVec 12} (h : ¬ (0x800 ≤ n.toNat ∧ s.th.prv = false)) :
    exec (.csrr d n) s = issueWord (.csrr d n) (valueWord d fun t => s.csrRead t n.toNat) s := by
  have hb : csrBody (.csrr d n) n.toNat d none s = valueWord d (fun t => s.csrRead t n.toNat) s := if_neg h
  show issueWord (.csrr d n) (csrBody (.csrr d n) n.toNat d none) s = _
  simp only [issueWord, hb]

theorem csrr_wf_false {d : Spec} {n : BitVec 12} (h : csrNumberOk n = false) : (Instr.csrr d n).wf = false := by
  rw [Instr.wf, Instr.fieldsOk, h, Bool.and_false]

end Sys2Proof.Machine
end

section
open Sys2Proof Sys2Proof.Machine

/-- Settles O8: the registers by their numbers, those with fields bit by bit (`ts_getLsbD`, `therm_getLsbD`, `pxs_getLsbD`) or as numbers
(`tid_fields`, `split_word_fields`), and the engines' by their place (`csrRead_geometry`); csrr only computes (`exec_csrr`). -/
theorem controlRegisterReads : Obligations.ControlRegisterReads := by
  unfold Obligations.ControlRegisterReads
  refine ⟨fun s t => ⟨fun j hj => ts_getLsbD t hj, rfl, rfl, rfl, rfl, rfl, rfl, ?cursors, fun j _ => therm_getLsbD s j, tid_fields t,
    BitVec.toNat_ofNat .., fun j hj => pxs_getLsbD t hj, split_word_fields _, ?copy, ?engines⟩, fun s d n hfree => ⟨fun hp => ?priv, fun hp => ?read⟩,
    fun s d n hm hn => ?illegal⟩
  case cursors =>
    intro j
    fin_cases j <;> rfl
  case copy => exact fun j hj => csrRead_geometry s t (geomOf_copy hj)
  case engines =>
    intro j hj
    exact ⟨csrRead_geometry s t (geomOf_engine (e := 0) (by decide) hj (by omega)),
      csrRead_geometry s t (geomOf_engine (e := 1) (by decide) hj (by omega)),
      csrRead_geometry s t (geomOf_engine (e := 2) (by decide) hj (by omega)),
      csrRead_geometry s t (geomOf_engine (e := 3) (by decide) hj (by omega))⟩
  case priv => exact issueWord_trap hfree (csrBody_unprivileged hp)
  case read =>
    rw [exec_csrr hp]
    exact valueWord_plain _ s hfree d _
  case illegal => exact issueWord_illegal hm (csrr_wf_false hn)

end

section

/-!
# The context image (R113, R117, R136)

The image has 64 words, and `restore` reads each register back from the word that holds it.
-/

namespace Sys2Proof.Machine

variable {t u : Thread} {pc : Word}

theorem image_length (t : Thread) (pc : Word) : (t.image pc).length = 64 := by
  simp [Thread.image]

/-- The words of the image before its cursors: 0, the general registers but g0, q0 to q7, and the result pair. -/
def imageFront (t : Thread) : List Word := (0 :: t.g.toList.drop 1) ++ t.q.toList ++ [t.y0, t.y1]

/-- The words of the image behind its cursors. -/
def imageBack (t : Thread) (pc : Word) : List Word :=
  [pc, t.ts, t.pxs, t.ffl.setWidth 64, t.frm.setWidth 64, t.srnd.setWidth 64, t.lc.setWidth 64, t.ls, t.le, t.join, t.parent,
    t.ticket, t.waitWord, t.wres, BitVec.ofNat 64 t.wflg, t.deadline, t.savea, 0]

theorem image_eq (t : Thread) (pc : Word) :
    t.image pc = imageFront t ++ (t.k.toList.map (fun k => k.setWidth 64) ++ imageBack t pc) :=
  List.append_assoc ..

theorem imageFront_length (t : Thread) : (imageFront t).length = 42 := by
  simp [imageFront]

theorem image_front (t : Thread) (pc : Word) {i : Nat} (h : i < 42) : (t.image pc).getD i 0 = (imageFront t).getD i 0 := by
  rw [image_eq, List.getD_append _ _ _ _ (by rw [imageFront_length]; exact h)]

theorem image_g (t : Thread) (pc : Word) {i : Nat} (h0 : 0 < i) (h : i < 32) : (t.image pc).getD i 0 = t.g[i] := by
  rw [image_front t pc (by omega), imageFront, List.append_assoc, List.getD_append _ _ _ _ (by simp; omega)]
  obtain ⟨j, rfl⟩ : ∃ j, i = j + 1 := ⟨i - 1, by omega⟩
  rw [List.getD_cons_succ, List.getD_eq_getElem _ _ (by simp; omega)]
  simp

theorem image_q (t : Thread) (pc : Word) {i : Nat} (h : i < 8) : (t.image pc).getD (32 + i) 0 = t.q[i] := by
  have hg : (0 :: t.g.toList.drop 1).length = 32 := by simp
  rw [image_front t pc (by omega), imageFront, List.append_assoc, List.getD_append_right _ _ _ _ (by omega), hg,
    Nat.add_sub_cancel_left, List.getD_append _ _ _ _ (by simpa using h), List.getD_eq_getElem _ _ (by simpa using h)]
  simp

theorem image_y (t : Thread) (pc : Word) : (t.image pc).getD 40 0 = t.y0 ∧ (t.image pc).getD 41 0 = t.y1 := by
  have hq : ((0 :: t.g.toList.drop 1) ++ t.q.toList).length = 40 := by simp
  rw [image_front t pc (by decide), image_front t pc (by decide), imageFront, List.getD_append_right _ _ _ _ (by omega),
    List.getD_append_right _ _ _ _ (by omega), hq]
  exact ⟨rfl, rfl⟩

theorem image_k (t : Thread) (pc : Word) {i : Nat} (h : i < 4) : (t.image pc).getD (42 + i) 0 = t.k[i].setWidth 64 := by
  rw [image_eq, List.getD_append_right _ _ _ _ (by rw [imageFront_length]; omega), imageFront_length, Nat.add_sub_cancel_left,
    List.getD_append _ _ _ _ (by simpa using h), List.getD_eq_getElem _ _ (by simpa using h)]
  simp

theorem image_back (t : Thread) (pc : Word) (i : Nat) : (t.image pc).getD (46 + i) 0 = (imageBack t pc).getD i 0 := by
  have hl : (imageFront t ++ t.k.toList.map (fun k => k.setWidth 64)).length = 46 := by simp [imageFront_length]
  rw [image_eq, ← List.append_assoc, List.getD_append_right _ _ _ _ (by omega), hl, Nat.add_sub_cancel_left]

/-! ### Fields that a word holds with others -/

theorem setWidth_round {n : Nat} (x : BitVec n) (h : n ≤ 64) : (x.setWidth 64).setWidth n = x := by
  rw [BitVec.setWidth_setWidth_of_le _ h, BitVec.setWidth_eq]

theorem pxs_fmt (t : Thread) : t.pxs.extractLsb' 0 24 = t.fmt := by
  apply BitVec.eq_of_getLsbD_eq
  intro j hj
  rw [BitVec.getLsbD_extractLsb', pxs_getLsbD t (by omega), Nat.zero_add, if_pos hj, decide_eq_true hj, Bool.true_and]

theorem pxs_scl (t : Thread) : t.pxs.extractLsb' 25 24 = t.scl := by
  apply BitVec.eq_of_getLsbD_eq
  intro j hj
  rw [BitVec.getLsbD_extractLsb', pxs_getLsbD t (by omega), if_neg (by omega), if_neg (by omega), if_pos (by omega), decide_eq_true hj,
    Bool.true_and, Nat.add_sub_cancel_left]

/-- WFLG (R136). -/
theorem wflg_bits (t : Thread) : (BitVec.ofNat 64 t.wflg).getLsbD 0 = t.wresValid ∧ (BitVec.ofNat 64 t.wflg).getLsbD 1 = t.wakePending := by
  rw [getLsbD_ofNat_word (by decide), getLsbD_ofNat_word (by decide), Thread.wflg]
  cases t.wresValid <;> cases t.wakePending <;> cases t.inHandler <;> decide

/-! ### What is restored -/

/-- The words of the image by their places. -/
abbrev imageWord (t : Thread) (pc : Word) (i : Nat) : Word := (t.image pc).getD i 0

theorem restore_g (t u : Thread) (pc : Word) (h0 : t.g[0] = 0) : (u.restore (imageWord t pc)).g = t.g := by
  refine Vector.ext fun i hi => ?_
  have hr : (u.restore (imageWord t pc)).g[i] = if i = 0 then 0 else imageWord t pc i := Vector.getElem_ofFn ..
  rw [hr]
  split
  · next h =>
    subst h
    exact h0.symm
  · next h => exact image_g t pc (by omega) hi

theorem restore_q (t u : Thread) (pc : Word) : (u.restore (imageWord t pc)).q = t.q :=
  Vector.ext fun _ hi => (Vector.getElem_ofFn ..).trans (image_q t pc hi)

theorem restore_k (t u : Thread) (pc : Word) : (u.restore (imageWord t pc)).k = t.k :=
  Vector.ext fun _ hi => (Vector.getElem_ofFn ..).trans ((congrArg _ (image_k t pc hi)).trans (setWidth_round _ (by decide)))

/-- What the words behind the cursors hold (R136). -/
theorem image_words (t : Thread) (pc : Word) :
    imageWord t pc 46 = pc ∧ imageWord t pc 47 = t.ts ∧ imageWord t pc 48 = t.pxs ∧ imageWord t pc 49 = t.ffl.setWidth 64 ∧
    imageWord t pc 50 = t.frm.setWidth 64 ∧ imageWord t pc 51 = t.srnd.setWidth 64 ∧ imageWord t pc 52 = t.lc.setWidth 64 ∧
    imageWord t pc 53 = t.ls ∧ imageWord t pc 54 = t.le ∧ imageWord t pc 55 = t.join ∧ imageWord t pc 56 = t.parent ∧
    imageWord t pc 57 = t.ticket ∧ imageWord t pc 59 = t.wres ∧ imageWord t pc 60 = BitVec.ofNat 64 t.wflg ∧
    imageWord t pc 61 = t.deadline ∧ imageWord t pc 62 = t.savea :=
  have back := image_back t pc
  ⟨back 0, back 1, back 2, back 3, back 4, back 5, back 6, back 7, back 8, back 9, back 10, back 11, back 13, back 14, back 15, back 16⟩

section
variable (u : Thread) (w : Nat → Word)

theorem restore_pair : (u.restore w).y0 = w 40 ∧ (u.restore w).y1 = w 41 := ⟨rfl, rfl⟩

/-- The program counter, TS and PXS (R79, R117). -/
theorem restore_control : (u.restore w).pc = w 46 ∧ (u.restore w).dz = (w 47).getLsbD 0 ∧ (u.restore w).la = (w 47).getLsbD 4 ∧
    (u.restore w).fv = (w 48).getLsbD 24 ∧ (u.restore w).fmt = (w 48).extractLsb' 0 24 ∧ (u.restore w).sv = (w 48).getLsbD 49 ∧
    (u.restore w).scl = (w 48).extractLsb' 25 24 :=
  ⟨rfl, rfl, rfl, rfl, rfl, rfl, rfl⟩

/-- PRV and PENG are not taken from the image (R117). -/
theorem restore_privilege : (u.restore w).prv = u.prv ∧ (u.restore w).peng = u.peng := by
  simp only [Thread.restore, Thread.setPxs, and_self]

/-- Float state and the hardware loop (R42, R46, R118). -/
theorem restore_modes : (u.restore w).ffl = (w 49).setWidth 5 ∧ (u.restore w).frm = (w 50).setWidth 3 ∧
    (u.restore w).srnd = (w 51).setWidth 32 ∧ (u.restore w).lc = (w 52).setWidth 32 ∧ (u.restore w).ls = maskLoopAddr (w 53) ∧
    (u.restore w).le = maskLoopAddr (w 54) := ⟨rfl, rfl, rfl, rfl, rfl, rfl⟩

/-- What a thread keeps of its family and its waits (R136). -/
theorem restore_family : (u.restore w).join = w 55 ∧ (u.restore w).parent = w 56 ∧ (u.restore w).ticket = w 57 ∧
    (u.restore w).wres = w 59 ∧ (u.restore w).wresValid = (w 60).getLsbD 0 ∧ (u.restore w).wakePending = (w 60).getLsbD 1 ∧
    (u.restore w).deadline = w 61 ∧ (u.restore w).savea = w 62 := ⟨rfl, rfl, rfl, rfl, rfl, rfl, rfl, rfl⟩

end

end Sys2Proof.Machine
end

section
open Sys2Proof Sys2Proof.Machine

/-- Settles O26: each register is restored from the word that the image holds it in: the general ones and the cursors by `restore_g`,
`restore_q`, `restore_k`, the others by `restore_control`, `restore_modes`, `restore_family` and `image_words`; TS, PXS and WFLG give their
fields back (`ts_getLsbD`, `pxs_fmt`, `pxs_scl`, `wflg_bits`). -/
theorem contextImageRestores : Obligations.ContextImageRestores := by
  unfold Obligations.ContextImageRestores
  intro t u pc h0 hls hle
  obtain ⟨hy0, hy1⟩ := image_y t pc
  obtain ⟨ipc, its, ipxs, iffl, ifrm, isrnd, ilc, ils, ile, ijoin, iparent, iticket, iwres, iwflg, ideadline, isavea⟩ := image_words t pc
  obtain ⟨ry0, ry1⟩ := restore_pair u (imageWord t pc)
  obtain ⟨rpc, rdz, rla, rfv, rfmt, rsv, rscl⟩ := restore_control u (imageWord t pc)
  obtain ⟨rprv, rpeng⟩ := restore_privilege u (imageWord t pc)
  obtain ⟨rffl, rfrm, rsrnd, rlc, rls, rle⟩ := restore_modes u (imageWord t pc)
  obtain ⟨rjoin, rparent, rticket, rwres, rvalid, rpending, rdeadline, rsavea⟩ := restore_family u (imageWord t pc)
  obtain ⟨hvalid, hpending⟩ := wflg_bits t
  rw [its, ts_getLsbD t (by decide)] at rdz rla
  rw [ipxs] at rfv rfmt rsv rscl
  refine ⟨image_length t pc, restore_g t u pc h0, restore_q t u pc, ry0.trans hy0, ry1.trans hy1, restore_k t u pc, rpc.trans ipc, rdz, rla,
    rfv.trans (pxs_fv t), rfmt.trans (pxs_fmt t), rsv.trans (pxs_sv t), rscl.trans (pxs_scl t), ?_, ?_, ?_, ?_, ?_, ?_, rjoin.trans ijoin,
    rparent.trans iparent, rticket.trans iticket, rwres.trans iwres, ?_, rdeadline.trans ideadline, rsavea.trans isavea, ?_, rprv, rpeng⟩
  · rw [rffl, iffl, setWidth_round _ (by decide)]
  · rw [rfrm, ifrm, setWidth_round _ (by decide)]
  · rw [rsrnd, isrnd, setWidth_round _ (by decide)]
  · rw [rlc, ilc, setWidth_round _ (by decide)]
  · rw [rls, ils, hls]
  · rw [rle, ile, hle]
  · rw [rvalid, iwflg, hvalid]
  · rw [rpending, iwflg, hpending]

end

section

/-!
# Loads of memory and deep scratch (R110, R172, R173)

Such a load leaves with its value in flight; a later step performs it and lands the value.
-/

namespace Sys2Proof.Machine

variable {s s1 : State} {t : Thread} {i : Instr} {d b : Spec} {d2 : Option Spec} {c : BitVec 2} {size a : Nat} {sgn : Bool} {o : Int}
  {sp : Space} {ea : Word}

/-! ### The address and its place -/

theorem effAddr_eq (t : Thread) (b : Spec) (o : BitVec 9) (size : Nat) : effAddr (t.read b) o size = addrOf t b o.toInt size := by
  rw [effAddr, addrOf, BitVec.ofInt_mul, BitVec.ofInt_natCast, BitVec.signExtend]

theorem exec_loadWord (h : loadWord i = some (d, d2, b, c, size, sgn, o)) (s : State) :
    ∃ off : BitVec 9, off.toInt = o ∧ exec i s = issueWord i (loadBody i d d2 b c size sgn off) s := by
  unfold loadWord at h
  split at h <;> cases h <;> exact ⟨_, rfl, rfl⟩

theorem tlbFillAt_core (s : State) (core : Nat) (e : Tlb) (k : Nat) :
    { (s.tlbFillAt core e).core k with tlb := (s.core k).tlb } = s.core k := by
  rw [State.tlbFillAt, core_setCore]
  split
  · next h => rw [h]
  · rfl

theorem walkBy_cores {stripe ctx : Nat} {va : Word} {acc : Acc} {prv : Bool} {e : Tlb} (h : s.walkBy stripe ctx va acc prv = .ok (e, s1)) :
    s1.cores = s.cores := by
  unfold State.walkBy at h
  split at h
  · cases h
    rfl
  · split at h
    · cases h
    · cases h
      rfl

/-- A translation leaves of every core all but its cached translations. -/
theorem translate_core {core ctx : Nat} {va : Word} {acc : Acc} {prv : Bool} {pa : Nat} (h : s.translate core ctx va acc prv = .ok (pa, s1))
    (k : Nat) : { s1.core k with tlb := (s.core k).tlb } = s.core k := by
  unfold State.translate at h
  split at h
  · cases h
    rfl
  · split at h
    · cases h
    · next e s2 hw =>
      cases h
      have hc : s2.core k = s.core k := by rw [State.core, walkBy_cores hw, State.core]
      rw [← hc]
      exact tlbFillAt_core s2 core e k

/-- Outside core scratch an access resolves to memory or deep scratch, and changes cached translations alone (R173). -/
theorem resolve_frame {acc : Acc} (hc : c ≠ 1) (h : s.resolve t c ea size acc = .ok (.at sp a, s1)) :
    (sp = .mem ∨ sp = .deep t.ctx) ∧ (∃ ws cs, s1 = { s with walkers := ws, cores := cs }) ∧
      ∀ k, { s1.core k with tlb := (s.core k).tlb } = s.core k := by
  unfold State.resolve at h
  split at h
  · exact absurd rfl hc
  · split at h
    · cases h
      exact ⟨.inr rfl, ⟨_, _, rfl⟩, fun _ => rfl⟩
    · cases h
  · split at h
    · cases h
    · next pa s2 ht =>
      have hs : sp = .mem ∧ s1 = s2 := by
        split at h
        · split at h <;> cases h
          exact ⟨rfl, rfl⟩
        · cases h
        · split at h
          · split at h
            · split at h <;> cases h
              exact ⟨rfl, rfl⟩
            · cases h
          · split at h <;> cases h
        · cases h
      obtain ⟨rfl, rfl⟩ := hs
      exact ⟨.inl rfl, translate_frame ht, translate_core ht⟩

/-! ### The load leaves -/

/-- Where no unit of the bytes holds an error, none is met (R170, R190). -/
theorem badFor_false {core n : Nat} {write whole : Bool} (h : s.badAt sp a n = false) : s.badFor core sp a n write whole = false := by
  rw [State.badAt, List.any_eq_false] at h
  rw [State.badFor, List.any_eq_false]
  intro p hp
  rw [Bool.and_eq_true]
  exact fun hb => h p hp hb.1

/-- The thread with values in flight. -/
def Thread.flying (t : Thread) (l : List InFlight) : Thread := { t with inflight := l }

/-- A load's value gets the next name, and stands behind the values in flight, none of which lands in its destinations any more. -/
theorem launchLate_load (s : State) (d : Spec) (hd : d2 ≠ some 0) (r : LoadReq) :
    ∃ old, old.map InFlight.id = s.th.inflight.map InFlight.id ∧
      s.launchLate (some d) d2 (.load r) = (s.nextId, { s with nextId := s.nextId + 1, th := s.th.flying (old ++
        [{ id := s.nextId, dst := if d = 0 then none else some d, dst2 := d2, late := .load r }]) }) := by
  have ids (x : Spec) (l : List InFlight) : (l.map (InFlight.cancel x)).map InFlight.id = l.map InFlight.id := by
    rw [List.map_map]
    exact List.map_congr_left fun f _ => cancel_id x f
  cases d2 with
  | none => exact ⟨s.th.inflight.map (InFlight.cancel d), ids .., rfl⟩
  | some x =>
    have hx : (if x = 0 then none else some x) = some x := if_neg fun h => hd (congrArg some h)
    refine ⟨(s.th.inflight.map (InFlight.cancel d)).map (InFlight.cancel x), (ids ..).trans (ids ..), ?_⟩
    simp only [State.launchLate, Option.bind_some, hx]
    rfl

theorem loadAt_leaves {req : Space → Nat → LoadReq} (hsp : sp = .mem ∨ sp = .deep t.ctx)
    (hw : s.mustWait s.th sp a (req sp a).size false = false) (hb : s.badAt sp a (req sp a).size = false)
    (hm : s.misses s.th.core < Config.missLimit) :
    loadAt i d d2 ea (.at sp a) req s = .done (s.launchLate (some d) d2 (.load (req sp a))).2 0 (some s.nextId) .seq := by
  have hfull : ¬ s.missesFull s.th.core = true := fun h => Nat.not_le.2 hm (of_decide_eq_true h)
  unfold loadAt
  refine (if_neg (Bool.eq_false_iff.1 hw)).trans ((if_neg (Bool.eq_false_iff.1 (badFor_false hb))).trans ?_)
  obtain rfl | rfl := hsp
  · exact if_neg hfull
  · exact if_neg hfull

/-- A word without a destination leaves the values in flight. -/
theorem flying_landing {l : List InFlight} {u : Thread} {v : Word} {f : BitVec 5} {z : Bool} {r : BitVec 32}
    (h : (t.flying l).Done u 0 v f z r) : u.inflight = l :=
  h.wrote.landing.trans (congrArg Thread.inflight (write_zero _ v))

/-- What remains of a load's word once its access has left. -/
theorem leftFor_of_done {r : LoadReq} {old : List InFlight} {u : Thread} {ws : List (Nat × List Tlb)} {cs : List (Nat × CoreSt)}
    (hcs : ∀ k, { ({ s with cores := cs } : State).core k with tlb := (s.core k).tlb } = s.core k)
    (hold : old.map InFlight.id = s.th.inflight.map InFlight.id)
    (h : (s.th.flying (old ++ [{ id := s.nextId, dst := if d = 0 then none else some d, dst2 := d2, late := .load r }])).Done u 0 0
      s.th.ffl s.th.dz s.th.srnd) :
    s.LeftFor { s with walkers := ws, cores := cs, nextId := s.nextId + 1, th := { u with y0Id := some s.nextId } } d d2 r where
  only := rfl
  cores := hcs
  name := rfl
  registers x hx := by
    by_cases h0 : x = 0
    · subst h0
      rw [read_zero, read_zero]
    · exact h.wrote.others x hx h0
  late := ⟨rfl, h.shifted.y1, h.shifted.y1Id⟩
  flight := ⟨old, hold, (flying_landing h : u.inflight = _)⟩
  busy := by
    intro hd
    have h0 : ¬ d = 0#6 := fun e => absurd (congrArg BitVec.toNat e) (Nat.ne_of_gt hd)
    have hl : u.inflight = _ := flying_landing h
    simp [Thread.busy, hl, h0]
  advanced := { seq := h.advanced.seq, last := h.advanced.last, back := h.advanced.back }
  kept := ⟨h.kept, h.flags⟩

section
variable {off : BitVec 9}

theorem loadBody_stalls (ha : (effAddr (s.th.read b) off size).toNat % size = 0)
    (hw : s.splitWaits s.th c (effAddr (s.th.read b) off size).toNat size = true) : loadBody i d d2 b c size sgn off s = .stall s :=
  (if_neg (not_not_intro ha)).trans (if_pos hw)

theorem loadBody_resolved {loc : Loc} (ha : (effAddr (s.th.read b) off size).toNat % size = 0)
    (hw : s.splitWaits s.th c (effAddr (s.th.read b) off size).toNat size = false)
    (hr : s.resolve s.th c (effAddr (s.th.read b) off size) size .rd = .ok (loc, s1)) :
    loadBody i d d2 b c size sgn off s =
      loadAt i d d2 (effAddr (s.th.read b) off size) loc (fun sp a => { space := sp, addr := a, size := size, sgn := sgn }) s1 := by
  refine (if_neg (not_not_intro ha)).trans ((if_neg (Bool.eq_false_iff.1 hw)).trans ?_)
  rw [hr]

end

/-- The second destination of a well-formed ldp is no g0 (R65). -/
theorem loadWord_second (h : loadWord i = some (d, d2, b, c, size, sgn, o)) (hw : i.wf = true) : d2 ≠ some 0 := by
  unfold loadWord at h
  split at h <;> cases h
  · nofun
  · nofun
  · have hd : d.toNat ≤ 30 := by
      simp only [Instr.wf, Instr.fieldsOk, Bool.and_eq_true, decide_eq_true_eq] at hw
      obtain ⟨-, -, -, hd⟩ := hw
      exact hd
    intro e
    injection e with e
    bv_omega

/-- A load that resolves to memory or deep scratch, with nothing in its way, leaves with its value in flight. -/
theorem load_leaves (h : loadWord i = some (d, d2, b, c, size, sgn, o)) (hc : c ≠ 1) (hf : s.Free i)
    (ha : (addrOf s.th b o size).toNat % size = 0) (hw : s.splitWaits s.th c (addrOf s.th b o size).toNat size = false)
    (hr : s.resolve s.th c (addrOf s.th b o size) size .rd = .ok (.at sp a, s1)) (hm : s1.mustWait s.th sp a size false = false)
    (hb : s1.badAt sp a size = false) (hl : s1.misses s.th.core < Config.missLimit) :
    ∃ t, exec i s = .next t ∧ s.LeftFor t d d2 { space := sp, addr := a, size := size, sgn := sgn } := by
  obtain ⟨off, rfl, he⟩ := exec_loadWord h s
  rw [← effAddr_eq] at ha hw hr
  obtain ⟨hsp, ⟨ws, cs, rfl⟩, hcs⟩ := resolve_frame hc hr
  obtain ⟨old, hold, hlaunch⟩ := launchLate_load { s with walkers := ws, cores := cs } d (loadWord_second h hf.wf)
    { space := sp, addr := a, size := size, sgn := sgn }
  have hbody := (loadBody_resolved (i := i) (d := d) (d2 := d2) (sgn := sgn) ha hw hr).trans (loadAt_leaves hsp hm hb hl)
  rw [hlaunch] at hbody
  obtain ⟨u, hu, hd⟩ := issueWord_late hf hbody
  exact ⟨_, he.trans hu, leftFor_of_done hcs hold hd⟩

end Sys2Proof.Machine
end

section

/-!
# A value in flight lands (R110)
-/

namespace Sys2Proof.Machine

variable {s : State} {t u : Thread} {f : InFlight} {v v2 : Word} {n : Nat}

/-! ### A thread replaced -/

theorem getT_uid (h : s.getT n = some t) : t.uid = n := by simpa using List.find?_some h

/-- A thread that takes the place of one that is there is found by its name. -/
theorem getT_setT (h : s.getT n = some t) (hu : u.uid = n) (he : u.mode ≠ .empty) : (s.setT u).getT n = some u := by
  subst hu
  unfold State.setT
  split
  · have hth : ({ s with th := u } : State).threads = u :: s.others := if_neg he
    rw [State.getT, hth]
    exact List.find?_cons_of_pos (beq_self_eq_true _)
  · next hn =>
    have hfound : s.others.find? (fun o => o.uid == u.uid) = some t := by
      unfold State.getT State.threads at h
      split at h
      · exact h
      · rwa [List.find?_cons_of_neg (p := fun o : Thread => o.uid == u.uid) (fun e => hn (beq_iff_eq.1 e))] at h
    have hrep := find?_replaced Thread.uid hfound
    unfold State.getT State.threads
    dsimp only
    split
    · exact hrep
    · rwa [List.find?_cons_of_neg (p := fun o : Thread => o.uid == u.uid) (fun e => hn (beq_iff_eq.1 e))]

theorem setT_sameBytes (s : State) (t : Thread) : s.SameBytes (s.setT t) := by
  unfold State.setT
  split <;> exact sameBytes_of_cells rfl rfl rfl rfl rfl

/-! ### Where a value lands -/

/-- The registers after a value has landed: its two destinations written, the second one last. -/
def landed (t : Thread) (f : InFlight) (v v2 : Word) : Thread :=
  let t1 := match f.dst with | some x => t.put x v | none => t
  match f.dst2 with | some x => t1.put x v2 | none => t1

theorem read_land (t : Thread) (f : InFlight) (v v2 : Word) {x : Spec} (hx : x.toNat < 40) :
    (t.land f v v2).read x = (landed t f v v2).read x := read_congr _ _ x rfl rfl hx

theorem read_landed_second {x : Spec} (h : f.dst2 = some x) (h0 : 0 < x.toNat) (h1 : x.toNat < 40) : (landed t f v v2).read x = v2 := by
  rw [landed, h]
  exact read_put_same _ x v2 h0 h1

theorem read_landed_first {x : Spec} (h : f.dst = some x) (hn : f.dst2 ≠ some x) (h0 : 0 < x.toNat) (h1 : x.toNat < 40) :
    (landed t f v v2).read x = v := by
  rw [landed, h]
  cases h2 : f.dst2 with
  | none => exact read_put_same t x v h0 h1
  | some z => exact (read_put_other _ z x v2 fun e => hn (h2.trans (congrArg some e.symm))).trans (read_put_same t x v h0 h1)

theorem read_landed_other {x : Spec} (h : f.dst ≠ some x) (hn : f.dst2 ≠ some x) : (landed t f v v2).read x = t.read x := by
  have other {u : Thread} {z : Spec} {w : Word} (hz : some z ≠ some x) : (u.put z w).read x = u.read x :=
    read_put_other u z x w fun e => hz (congrArg some e.symm)
  unfold landed
  cases h1 : f.dst with
  | none =>
    cases h2 : f.dst2 with
    | none => rfl
    | some z => exact other (h2 ▸ hn)
  | some y =>
    cases h2 : f.dst2 with
    | none => exact other (h1 ▸ h)
    | some z => exact (other (h2 ▸ hn)).trans (other (h1 ▸ h))

/-- A value that lands changes registers alone of the register file's thread. -/
theorem landed_eq (t : Thread) (f : InFlight) (v v2 : Word) :
    { t with g := (landed t f v v2).g, q := (landed t f v v2).q } = landed t f v v2 := by
  have again {u : Thread} (z : Spec) (w : Word) (hu : { t with g := u.g, q := u.q } = u) :
      { t with g := (u.put z w).g, q := (u.put z w).q } = u.put z w := by
    refine Eq.trans ?_ (put_eq u z w)
    generalize (u.put z w).g = g, (u.put z w).q = q
    rw [← hu]
  unfold landed
  cases f.dst <;> cases f.dst2
  · rfl
  · exact again _ _ rfl
  · exact again _ _ rfl
  · exact again _ _ (again _ _ rfl)

/-- The result pair where a value in flight has arrived that it may name (R110). -/
def arrived (t : Thread) (id : Nat) (v : Word) : Thread :=
  { t with y0 := if t.y0Id = some id then v else t.y0, y0Id := if t.y0Id = some id then none else t.y0Id,
           y1 := if t.y1Id = some id then v else t.y1, y1Id := if t.y1Id = some id then none else t.y1Id }

/-- What a value that lands changes of its thread: registers, the result pair, and the values in flight. -/
theorem land_eq (t : Thread) (f : InFlight) (v v2 : Word) : t.land f v v2 =
    { arrived t f.id v with g := (landed t f v v2).g, q := (landed t f v v2).q, inflight := t.inflight.filter (fun g => g.id != f.id) } := by
  have hland (u : Thread) (hu : landed t f v v2 = u) : t.land f v v2 =
      { u with inflight := t.inflight.filter (fun g => g.id != f.id), y0 := (arrived t f.id v).y0, y0Id := (arrived t f.id v).y0Id,
               y1 := (arrived t f.id v).y1, y1Id := (arrived t f.id v).y1Id } := hu ▸ rfl
  exact hland _ (landed_eq t f v v2).symm

/-- The thread with a load performed: its value has landed, and the stores that it has seen are noted (R188). -/
theorem landLoad_eq (s : State) (t : Thread) {r : LoadReq} (h : f.late = .load r) :
    ∃ l, s.landLoad t f = { t.land f (loadValue r (s.viewBytes t.core r.space r.addr r.size)).1
      (loadValue r (s.viewBytes t.core r.space r.addr r.size)).2 with seen := l } := by
  unfold State.landLoad
  rw [h]
  exact ⟨_, rfl⟩

theorem looked_eq (t : Thread) : ∃ m, t.looked = { t with mode := m } := by
  unfold Thread.looked
  split
  · exact ⟨_, rfl⟩
  · exact ⟨_, rfl⟩

/-- The thread when the oldest of its loads in flight has landed, and it has looked again. -/
theorem landLoad_looked (s : State) {i : Nat} {r : LoadReq} (hl : t.inflight = f :: t.inflight.tail)
    (hids : ∀ g ∈ t.inflight.tail, g.id ≠ f.id) (hi : f.id = i) (hr : f.late = .load r) :
    let x := loadValue r (s.viewBytes t.core r.space r.addr r.size)
    ∃ l m, (s.landLoad t f).looked = { arrived t i x.1 with
      g := (landed t f x.1 x.2).g, q := (landed t f x.1 x.2).q, inflight := t.inflight.tail, mode := m, seen := l } := by
  intro x
  obtain ⟨l, hland⟩ := landLoad_eq s t hr
  obtain ⟨m, hlook⟩ := looked_eq (s.landLoad t f)
  have htail : t.inflight.filter (fun g => g.id != f.id) = t.inflight.tail := by
    rw [hl, List.filter_cons_of_neg (by simp)]
    exact List.filter_eq_self.2 fun g hg => by simpa using hids g hg
  refine ⟨l, m, ?_⟩
  rw [hlook, hland, land_eq, htail, hi]

/-- A thread keeps its name and is still there when a load of it lands. -/
theorem landLoad_getT {r : LoadReq} (ht : s.getT n = some t) (hm : t.mode ≠ .empty) (hr : f.late = .load r) :
    (s.setT (s.landLoad t f)).unstall.getT n = some (s.landLoad t f).looked := by
  obtain ⟨l, hland⟩ := landLoad_eq s t hr
  rw [land_eq] at hland
  have huid : (s.landLoad t f).uid = t.uid := by rw [hland, arrived]
  have hmode : (s.landLoad t f).mode = t.mode := by rw [hland, arrived]
  rw [unstall_getT, getT_setT ht (huid.trans (getT_uid ht)) (hmode ▸ hm)]
  rfl

/-! ### The step -/

/-- The oldest load in flight of a thread is performed, and lands (R110, R190). -/
theorem loadDataReturn_oldest {i : Nat} {r : LoadReq} (ht : s.getT n = some t) (hl : t.inflight = f :: t.inflight.tail) (hi : f.id = i)
    (hr : f.late = .load r) : exec (.loadDataReturn n i) s = .next (s.setT (s.landLoad t f)).unstall := by
  have hfind : t.inflight.find? (fun f => f.id == i) = some f := by
    rw [hl]
    exact List.find?_cons_of_pos (beq_iff_eq.2 hi)
  have hold : t.inflight.takeWhile (fun g => g.id != i) = [] := by
    rw [hl]
    exact List.takeWhile_cons_of_neg (by simp [hi])
  have he : execLoadDataReturn n i s = .next (s.setT (s.landLoad t f)).unstall := by
    refine event_eq ?_
    rw [ht]
    simp only [hfind, hr, hold, List.any_nil, Bool.false_eq_true, if_false]
  exact he

end Sys2Proof.Machine
end

section
open Sys2Proof Sys2Proof.Machine

/-- Settles O12: a load waits for a change of split (`loadBody_stalls`) or leaves (`load_leaves`); when its data return it is performed
(`loadDataReturn_oldest`) and lands in its destinations (`read_landed_first`, `read_landed_second`) and nowhere else
(`read_landed_other`, `land_eq`). -/
theorem loadsInFlight : Obligations.LoadsInFlight := by
  unfold Obligations.LoadsInFlight
  refine ⟨?leaves, ?lands⟩
  case leaves =>
    intro s s1 i d d2 b c size sgn o sp a hi hc hfree ea ha
    refine ⟨fun hw => ?_, fun hw hr hm hb hl => load_leaves hi hc hfree ha hw hr hm hb hl⟩
    obtain ⟨off, rfl, he⟩ := exec_loadWord hi s
    rw [show ea = _ from (effAddr_eq ..).symm] at ha hw
    exact he.trans (issueWord_stall hfree (loadBody_stalls ha hw))
  case lands =>
    intro s u i t f r ht hmode hl hids hid hr v v2
    obtain ⟨l, m, hlook⟩ := landLoad_looked s hl hids hid hr
    have hread {x : Spec} (hx : x.toNat < 40) : (s.landLoad t f).looked.read x = (landed t f v v2).read x := by
      rw [hlook]
      exact read_congr _ _ x rfl rfl hx
    refine ⟨_, _, loadDataReturn_oldest ht hl hid hr, landLoad_getT ht hmode hr,
      fun x h1 h2 h0 hx => (hread hx).trans (read_landed_first h1 h2 h0 hx),
      fun x h2 h0 hx => (hread hx).trans (read_landed_second h2 h0 hx), fun y hy h1 h2 => (hread hy).trans (read_landed_other h1 h2), ?_⟩
    rw [hlook]
    exact ⟨rfl, rfl, fun h => ⟨if_pos h, if_pos h⟩, fun h => if_neg h, fun h => ⟨if_pos h, if_pos h⟩, fun h => if_neg h,
      fun sq x => (unstall_sameBytes _ sq x).trans (setT_sameBytes _ _ sq x)⟩

end

section

/-!
# Control transfers and hardware loops (R137 to R139)

A word that goes elsewhere completes as one that goes on in sequence, but for the program counter and the loop flag.
-/

namespace Sys2Proof.Machine

variable {s : State} {t : Thread} {i : Instr} {d : Spec} {v : Word}

/-! ### Targets -/

theorem relTarget_eq {n : Nat} (pc : Word) (d : BitVec n) : relTarget pc d = pc + BitVec.ofInt 64 (d.toInt * 4) := by
  rw [relTarget, BitVec.ofInt_mul]
  rfl

theorem loopEnd_eq (pc : Word) (l : BitVec 13) : pc + 4 + l.setWidth 64 * 4 = pc + 4 + BitVec.ofNat 64 (4 * l.toNat) := by
  bv_omega

/-! ### Completion with a transfer -/

theorem kept_of_wrote {u : Thread} (h : t.Wrote u 0 v) : t.Kept u where
  registers x hx := by
    by_cases h0 : x = 0
    · rw [h0, read_zero, read_zero]
    · exact h.others x hx h0
  landing := h.landing.trans (congrArg Thread.inflight (write_zero t v))

/-- A word that has written its destination completes with a taken transfer (R110, R137, R139). -/
theorem completeWord_jump (s : State) (d : Spec) (v target : Word) (leaves : Bool) :
    ∃ u, State.completeWord { s with th := s.th.write d v } (s.th.write d v) v none (.jump target leaves) = { s with th := u } ∧
      s.th.Wrote u d v ∧ s.th.Went u v target leaves := by
  refine ⟨_, setT_selected rfl, wrote_of s.th _ d v rfl rfl rfl, ?_⟩
  rw [← write_eq s.th d v]
  exact {
    shifted := ⟨rfl, rfl, rfl, rfl, ⟨rfl, rfl⟩, ⟨rfl, rfl⟩⟩
    pc := rfl
    loop := by
      refine ⟨rfl, ?_⟩
      show (if s.th.la = true ∧ leaves = true ∧ outsideLoop s.th target = true then false else s.th.la) = _
      cases s.th.la <;> cases leaves <;> cases outsideLoop s.th target <;> rfl
    flags := ⟨rfl, rfl, rfl⟩
    kept := rfl }

theorem issueWord_jump {body : State → Ex} {target : Word} {leaves : Bool} (h : s.Free i)
    (hb : body s = .done { s with th := s.th.write d v } v none (.jump target leaves)) :
    ∃ t, issueWord i body s = .next t ∧ s.OnlyThread t ∧ s.th.Wrote t.th d v ∧ s.th.Went t.th v target leaves := by
  obtain ⟨u, hu, hw, hg⟩ := completeWord_jump s d v target leaves
  refine ⟨{ s with th := u }, ?_, ⟨rfl⟩, hw, hg⟩
  rw [issueWord_free i body s h, hb, ← hu]

/-- The same for a word without a destination, whose value is 0. -/
theorem issueWord_goto {body : State → Ex} {target : Word} {leaves : Bool} (h : s.Free i)
    (hb : body s = .done s 0 none (.jump target leaves)) :
    ∃ t, issueWord i body s = .next t ∧ s.OnlyThread t ∧ s.th.Kept t.th ∧ s.th.Went t.th 0 target leaves := by
  have hb' : body s = .done { s with th := s.th.write 0 0 } 0 none (.jump target leaves) := by rw [write_zero]; exact hb
  obtain ⟨t, ht, ho, hw, hg⟩ := issueWord_jump h hb'
  exact ⟨t, ht, ho, kept_of_wrote hw, hg⟩

/-- A word that only completes, with value 0 and no destination, goes on in sequence. -/
theorem issueWord_plain {body : State → Ex} (h : s.Free i) (hb : body s = .done s 0 none .seq) :
    ∃ t, issueWord i body s = .next t ∧ s.Plain t 0 0 :=
  done_computed i body s h 0 0 s.th hb (by rw [write_zero]) (by rw [write_zero]) (by rw [write_zero]) ⟨rfl, rfl⟩ ⟨rfl, rfl, rfl, rfl, rfl⟩
    rfl rfl

/-! ### The words -/

/-- Each branch is the branch of its condition. -/
theorem exec_branchWord {a b : Spec} {d : BitVec 10} {c : Word → Word → Prop} (h : branchWord i = some (a, b, d, c)) (s : State) :
    ∃ f : Word → Word → Bool, exec i s = issueWord i (branchBody a b d f) s ∧ ∀ x y, f x y = true ↔ c x y := by
  unfold branchWord at h
  split at h <;> cases h
  · exact ⟨fun x y => x == y, rfl, fun _ _ => beq_iff_eq⟩
  · exact ⟨fun x y => x != y, rfl, fun _ _ => bne_iff_ne⟩
  · exact ⟨fun x y => x.slt y, rfl, fun _ _ => BitVec.slt_iff_toInt_lt⟩
  · exact ⟨fun x y => !x.slt y, rfl, fun _ _ => by rw [Bool.not_eq_true', Bool.eq_false_iff, Ne, BitVec.slt_iff_toInt_lt, not_lt]⟩
  · exact ⟨fun x y => x.ult y, rfl, fun _ _ => BitVec.ult_iff_toNat_lt⟩
  · exact ⟨fun x y => !x.ult y, rfl, fun _ _ => by rw [Bool.not_eq_true', Bool.eq_false_iff, Ne, BitVec.ult_iff_toNat_lt, not_lt]⟩

theorem branchBody_taken {a b : Spec} {d : BitVec 10} {f : Word → Word → Bool} (h : f (s.th.read a) (s.th.read b) = true) :
    branchBody a b d f s = .done s 0 none (.jump (s.th.pc + BitVec.ofInt 64 (d.toInt * 4)) true) := by
  rw [branchBody, ← relTarget_eq]
  exact congrArg _ (if_pos h)

theorem branchBody_passed {a b : Spec} {d : BitVec 10} {f : Word → Word → Bool} (h : ¬ f (s.th.read a) (s.th.read b) = true) :
    branchBody a b d f s = .done s 0 none .seq := congrArg _ (if_neg h)

theorem exec_jmp (d : BitVec 26) (s : State) : exec (.jmp d) s = execJmp d s := rfl

theorem exec_call (d : BitVec 26) (s : State) : exec (.call d) s = execCall d s := rfl

theorem exec_callr (d a : Spec) (s : State) : exec (.callr d a) s = execCallr d a s := rfl

theorem exec_jumpReg {a : Spec} (h : i = .jr a ∨ i = .ret a) (s : State) : exec i s = issueWord i (jumpReg a) s := by
  rcases h with rfl | rfl <;> rfl

/-- A loop word with its count (R138). -/
theorem exec_loopWord {n : BitVec 32} {l : BitVec 13}
    (h : (∃ c : BitVec 12, i = .loopi c l ∧ n = c.setWidth 32) ∨ (∃ a, i = .loop a l ∧ n = (s.th.read a).setWidth 32)) :
    ∃ body, exec i s = issueWord i body s ∧ body s = loopBody n l s := by
  rcases h with ⟨c, rfl, rfl⟩ | ⟨a, rfl, rfl⟩
  · exact ⟨_, rfl, rfl⟩
  · exact ⟨_, rfl, rfl⟩

end Sys2Proof.Machine
end

section
open Sys2Proof Sys2Proof.Machine

/-- Settles O20: a branch by whether it is taken (`branchBody_taken`, `branchBody_passed`), a jump through a register by whether its target is
aligned; a transfer that is taken completes by `issueWord_jump`. -/
theorem controlTransfers : Obligations.ControlTransfers := by
  unfold Obligations.ControlTransfers
  refine ⟨?branch, ?jmp, ?call, ?register, ?callr⟩
  case branch =>
    intro s i a b d c hi hfree
    obtain ⟨f, he, hf⟩ := exec_branchWord hi s
    rw [he, ← hf]
    exact ⟨fun h => issueWord_goto hfree (branchBody_taken h), fun h => issueWord_plain hfree (branchBody_passed h)⟩
  case jmp =>
    intro s d hfree
    rw [← relTarget_eq, exec_jmp, execJmp]
    exact issueWord_goto hfree (by rfl)
  case call =>
    intro s d hfree
    rw [← relTarget_eq, exec_call, execCall]
    exact issueWord_jump hfree (by rfl)
  case register =>
    intro s i a hi hfree
    rw [State.Traps, exec_jumpReg hi]
    exact ⟨fun h => issueWord_trap hfree (if_pos h), fun h => issueWord_goto hfree (if_neg (not_not_intro h))⟩
  case callr =>
    intro s d a hfree
    rw [State.Traps, exec_callr, execCallr]
    exact ⟨fun h => issueWord_trap hfree (by exact if_pos h), fun h => issueWord_jump hfree (by exact if_neg (not_not_intro h))⟩

/-- Settles O21: a length of 0 traps; any other sets the loop registers, and the word goes where its count says. -/
theorem hardwareLoops : Obligations.HardwareLoops := by
  unfold Obligations.HardwareLoops
  intro s i n l hi hfree
  obtain ⟨body, he, hb⟩ := exec_loopWord hi
  refine ⟨fun hl => ?_, fun hl => ?_⟩
  · exact he.trans (issueWord_trap hfree (hb.trans (if_pos hl)))
  · rw [he, issueWord_free i body s hfree, hb, ← loopEnd_eq]
    simp only [loopBody, if_neg hl]
    refine ⟨_, congrArg _ (setT_selected rfl), rfl, ⟨fun x hx => read_congr _ _ x rfl rfl hx, rfl⟩,
      ⟨rfl, rfl, rfl, rfl, ⟨rfl, rfl⟩, ⟨rfl, rfl⟩⟩, rfl, rfl, rfl, rfl, rfl, rfl, rfl, rfl, rfl⟩

end

section

/-!
# Threads by their names, and the completion of a word of any of them (R110, R133, R135)
-/

namespace Sys2Proof.Machine

variable {s s1 : State} {t u : Thread} {i : Instr} {n : Nat} {d : Spec} {v : Word}

/-! ### The threads of the module -/

theorem threads_selected (h : s.th.mode ≠ .empty) : s.threads = s.th :: s.others := if_neg h

theorem getT_selected (h : s.th.mode ≠ .empty) : s.getT s.th.uid = some s.th := by
  rw [State.getT, threads_selected h]
  exact List.find?_cons_of_pos (beq_self_eq_true _)

/-- A thread of another name than the selected one's is found among the others. -/
theorem getT_others (h : s.th.uid ≠ n) : s.getT n = s.others.find? (fun t => t.uid == n) := by
  unfold State.getT State.threads
  split
  · rfl
  · exact List.find?_cons_of_neg (p := fun t : Thread => t.uid == n) fun e => h (beq_iff_eq.1 e)

theorem getT_mem (h : s.getT n = some t) : t ∈ s.threads := List.mem_of_find?_eq_some h

theorem getT_congr {s t : State} (h : t.threads = s.threads) (n : Nat) : t.getT n = s.getT n := by rw [State.getT, h, State.getT]

/-- A list in which the entry of one name is replaced holds the same entries of other names. -/
theorem find?_replaced_other {l : List Thread} (h : t.uid ≠ n) :
    (l.map (fun o => if o.uid = t.uid then t else o)).find? (fun o => o.uid == n) = l.find? (fun o => o.uid == n) := by
  induction l with
  | nil => rfl
  | cons o l ih =>
    rw [List.map_cons, List.find?_cons, List.find?_cons, ih]
    by_cases ho : o.uid = t.uid
    · rw [if_pos ho, beq_eq_false_iff_ne.2 h, ho, beq_eq_false_iff_ne.2 h]
    · rw [if_neg ho]

/-- A thread that takes the place of one of its name leaves those of other names. -/
theorem getT_setT_other (h : t.uid ≠ n) : (s.setT t).getT n = s.getT n := by
  unfold State.setT
  split
  · next e => rw [getT_others (s := { s with th := t }) h, getT_others (e ▸ h)]
  · by_cases hn : s.th.uid = n
    · unfold State.getT State.threads
      dsimp only
      split
      · exact find?_replaced_other h
      · rw [List.find?_cons, List.find?_cons, beq_iff_eq.2 hn]
    · rw [getT_others hn]
      exact (getT_others (s := { s with others := s.others.map fun o => if o.uid = t.uid then t else o }) hn).trans (find?_replaced_other h)

theorem setT_th_other (h : s.th.uid ≠ t.uid) : (s.setT t).th = s.th := by rw [State.setT, if_neg h]

/-- What replacing a thread may change. -/
theorem setT_eq (s : State) (t : Thread) : ∃ x l, s.setT t = { s with th := x, others := l } := by
  unfold State.setT
  split
  · exact ⟨_, _, rfl⟩
  · exact ⟨_, _, rfl⟩

theorem looked_awake (h : t.mode ≠ .stalled) : t.looked = t := if_neg h

/-! ### Completion in sequence -/

/-- A word of a thread completes, wherever the thread stands: the thread with its destination written takes the place of the old one. -/
theorem completeWord_written (s : State) (t : Thread) (d : Spec) (v : Word) :
    ∃ w, s.completeWord (t.write d v) v none .seq = s.setT w ∧ t.Done w d v t.ffl t.dz t.srnd := by
  obtain ⟨hrest, hffl, hdz, hsrnd, hy0, hy0Id, hpc, hla, hlc, hls, hle, -, -⟩ := write_rest t d v
  have hd := complete_done t (t.write d v) d v rfl rfl rfl ⟨hy0, hy0Id⟩ ⟨hpc, hla, hlc, hls, hle⟩ hrest
  rw [hffl, hdz, hsrnd] at hd
  have hgone (b : Bool) : t.Done (if b then ((t.write d v).complete v none .seq).1.transferred s.fences else
      ((t.write d v).complete v none .seq).1) d v t.ffl t.dz t.srnd := by
    cases b
    · exact hd
    · exact done_transferred hd _
  exact ⟨_, rfl, hgone ((t.write d v).complete v none .seq).2⟩

theorem completeWord_plain (s : State) (t : Thread) (v : Word) :
    ∃ w, s.completeWord t v none .seq = s.setT w ∧ t.Done w 0 v t.ffl t.dz t.srnd := by
  obtain ⟨w, hw, hd⟩ := completeWord_written s t 0 v
  rw [write_zero] at hw
  exact ⟨w, hw, hd⟩

section
variable {w : Thread} {f : BitVec 5} {z : Bool} {r : BitVec 32}

theorem done_uid (h : t.Done w d v f z r) : w.uid = t.uid := (congrArg Thread.uid h.kept :)

theorem done_present (h : t.Done w d v f z r) : w.mode ≠ .empty := by rw [h.shifted.ready.1]; exact nofun

theorem done_awake (h : t.Done w d v f z r) : w.mode ≠ .stalled := by rw [h.shifted.ready.1]; exact nofun

/-- A thread whose word has completed is found by its name. -/
theorem done_getT (hg : s.getT n = some u) (hu : t.uid = n) (h : t.Done w d v f z r) : (s.setT w).getT n = some w :=
  getT_setT hg ((done_uid h).trans hu) (done_present h)

/-- A word without a destination keeps the registers and what is in flight. -/
theorem done_keeps (h : t.Done w 0 v f z r) : t.Kept w := kept_of_wrote h.wrote

theorem done_seen (h : t.Done w d v f z r) : w.seen = t.seen := (congrArg Thread.seen h.kept :)

/-- What a thread waited for is no part of what its completed word leaves. -/
theorem done_of_wait {x : Wait} (h : Thread.Done { t with wait := x } w d v f z r) : t.Done w d v f z r where
  wrote := ⟨h.wrote.value, h.wrote.zero, h.wrote.others, h.wrote.landing⟩
  shifted := ⟨h.shifted.y0, h.shifted.y0Id, h.shifted.y1, h.shifted.y1Id, h.shifted.prefixes, h.shifted.ready⟩
  advanced := ⟨h.advanced.seq, h.advanced.last, h.advanced.back⟩
  flags := h.flags
  kept := h.kept

end

/-- A step of the module completes a word of a thread. -/
theorem completed_getT (hg : s.getT n = some u) (hu : t.uid = n) :
    ∃ w, (s.completeWord (t.write d v) v none .seq).unstall.getT n = some w ∧ t.Done w d v t.ffl t.dz t.srnd := by
  obtain ⟨w, hw, hd⟩ := completeWord_written s t d v
  refine ⟨w, ?_, hd⟩
  rw [hw, unstall_getT, done_getT hg hu hd, Option.map_some, looked_awake (done_awake hd)]

theorem completed_getT_plain (hg : s.getT n = some u) (hu : t.uid = n) :
    ∃ w, (s.completeWord t v none .seq).unstall.getT n = some w ∧ t.Done w 0 v t.ffl t.dz t.srnd := by
  have h := completed_getT (d := 0) (v := v) hg hu
  rwa [write_zero] at h

/-! ### Words of the selected thread -/

/-- A word that writes its destination completes. -/
theorem issueWord_wrote {body : State → Ex} (h : s.Free i) (hb : body s = .done { s1 with th := s1.th.write d v } v none .seq) :
    ∃ w, issueWord i body s = .next { s1 with th := w } ∧ s1.th.Done w d v s1.th.ffl s1.th.dz s1.th.srnd := by
  obtain ⟨w, hw, hd⟩ := completeWord_written { s1 with th := s1.th.write d v } s1.th d v
  refine ⟨w, ?_, hd⟩
  rw [setT_selected ((write_rest s1.th d v).2.2.2.2.2.2.2.2.2.2.2.1.trans (done_uid hd).symm)] at hw
  rw [issueWord_free i body s h, hb]
  exact congrArg _ hw

/-- A word whose effect is on its thread alone completes. -/
theorem issueWord_sets {body : State → Ex} {t : Thread} (h : s.Free i) (hb : body s = .done { s with th := t } v none .seq) :
    ∃ u, issueWord i body s = .next u ∧ { u with th := s.th } = s ∧ t.Done u.th 0 v t.ffl t.dz t.srnd := by
  obtain ⟨w, hw, hd⟩ := issueWord_done (s1 := { s with th := t }) h hb
  exact ⟨_, hw, rfl, hd⟩

theorem issueWord_wait {body : State → Ex} (h : s.Free i) (hb : body s = .wait s1) : issueWord i body s = .next s1 := by
  rw [issueWord_free i body s h, hb]

/-- Without the answer that was kept for it, a thread's registers are written alike (R135). -/
theorem write_unanswered (t : Thread) (d : Spec) (v : Word) :
    ({ t with wresValid := false, wres := 0 } : Thread).write d v = { t.write d v with wresValid := false, wres := 0 } := by
  unfold Thread.write Thread.put
  dsimp only
  split_ifs <;> rfl

/-- A word that runs again and finds its answer kept for it completes with that (R135). -/
theorem issueWord_answered {body : State → Ex} (h : s.Free i)
    (hb : body s = .done { s with th := { s.th.write d s.th.wres with wresValid := false, wres := 0 } } s.th.wres none .seq) :
    ∃ t, issueWord i body s = .next t ∧ { t with th := s.th } = s ∧
      ({ s.th with wresValid := false, wres := 0 } : Thread).Done t.th d s.th.wres s.th.ffl s.th.dz s.th.srnd := by
  rw [← write_unanswered] at hb
  obtain ⟨w, hw, hd⟩ := issueWord_wrote (s1 := { s with th := { s.th with wresValid := false, wres := 0 } }) h hb
  exact ⟨_, hw, rfl, hd⟩

end Sys2Proof.Machine
end

section

/-!
# Releases where nothing is in flight, and names (R148, R188, R356)
-/

namespace Sys2Proof.Machine

variable {s s1 : State} {t : Thread} {core name c n : Nat}

/-! ### Releases (R188) -/

/-- The selected thread has seen no posted store of another. -/
def State.released (s : State) : State := { s with th := { s.th with seen := [] } }

/-- With no store posted, no value in flight and no error about, a release at scope region or wider only forgets what the thread has
seen. -/
theorem release_calm {scope : Nat} (h : s.Calm) (hm : s.th.mode ≠ .empty) (hs : 1 < scope) : s.release s.th scope = (s.released, none) := by
  have hth : s.th ∈ s.threads := by rw [threads_selected hm]; exact List.mem_cons_self ..
  have hset : s.setT s.th = s := setT_selected rfl
  have hdrain (l : List Nat) : s.drain l = s := by rw [State.drain, h.stores]; rfl
  have hmod : s.modT s.th.uid (fun u => { u with seen := [] }) = s.released := by
    rw [State.modT, getT_selected hm]
    exact setT_selected rfl
  have hget : s.released.getT s.th.uid = some s.released.th := getT_selected (s := s.released) hm
  have hdef : s.released.th.deferred = [] := (h.deferred s.th hth :)
  unfold State.release
  simp only [landAll_nil (h.loads _ hth), hset, hdrain, hmod, hget, hdef]
  rw [if_neg (by omega), if_neg (by omega)]

theorem calm_released (h : s.Calm) (hm : s.th.mode ≠ .empty) : s.released.Calm := by
  have ht : s.released.threads = s.released.th :: s.others := threads_selected (s := s.released) hm
  have hs := threads_selected hm
  have each {p : Thread → Prop} (hp : ∀ t ∈ s.threads, p t) (h0 : p s.th → p s.released.th) : ∀ t ∈ s.released.threads, p t := by
    rw [hs] at hp
    rw [ht]
    intro t hm
    rcases List.mem_cons.1 hm with rfl | hm
    · exact h0 (hp _ (List.mem_cons_self ..))
    · exact hp _ (List.mem_cons_of_mem _ hm)
  exact {
    stores := h.stores
    loads := each h.loads id
    errors := h.errors
    deferred := each h.deferred id
    names := by rw [ht]; have := h.names; rwa [hs] at this
    present := h.present }

theorem badAt_calm (h : s.Calm) (sp : Space) (a k : Nat) : s.badAt sp a k = false := by
  rw [State.badAt, h.errors]
  rfl

/-! ### Names (R356) -/

theorem assoc_none {l : List (Nat × Nat)} (h : ∀ x ∈ l, x.1 ≠ name) : assoc l name = none := by
  rw [assoc, List.find?_eq_none.2 fun x hx e => h x hx (beq_iff_eq.1 e)]

/-- A catalogue walk of a name that a core's cache does not hold (R356). -/
theorem resolveName_walks (h : ∀ x ∈ (s.core core).names, x.1 ≠ name) (hc : s.catalogue name = some c) :
    s.resolveName core name = some (c, s.setCore core { s.core core with names := nameFill (s.core core).names name c }) := by
  simp only [State.resolveName, assoc_none h, hc]

theorem resolveName_unmapped (h : ∀ x ∈ (s.core core).names, x.1 ≠ name) (hc : s.catalogue name = none) :
    s.resolveName core name = none := by
  simp only [State.resolveName, assoc_none h, hc]

/-- A name is resolved: the core's name cache may have changed, and nothing else. -/
theorem resolveName_frame (h : s.resolveName core name = some (c, s1)) :
    (∃ cs, s1 = { s with cores := cs }) ∧ ∀ k, { s1.core k with names := (s.core k).names } = s.core k := by
  unfold State.resolveName at h
  dsimp only at h
  split at h
  · cases h
    exact ⟨⟨_, rfl⟩, fun _ => rfl⟩
  · split at h <;> cases h
    refine ⟨⟨_, rfl⟩, fun k => ?_⟩
    rw [core_setCore]
    split
    · next e => rw [e]
    · rfl

/-! ### Senders to an arrival queue (R148) -/

/-- Whether a sender is held back depends on the target's queue and senders, and on threads. -/
theorem sendHeld_congr {t : State} (hc : { t.core c with names := (s.core c).names } = s.core c) (ht : t.threads = s.threads) (x : Thread) :
    t.sendHeld x c = s.sendHeld x c := by
  have hq : (t.core c).queue = (s.core c).queue := (congrArg CoreSt.queue hc :)
  have hs : (t.core c).senders = (s.core c).senders := (congrArg CoreSt.senders hc :)
  simp only [State.sendHeld, State.queueFull, hq, hs, getT_congr ht]

end Sys2Proof.Machine
end

section

/-!
# Yield, sleep and wake (R142 to R144)
-/

namespace Sys2Proof.Machine

variable {s s1 : State} {t u : Thread} {n : Nat} {a : Spec}

/-! ### A thread replaced with its saved context (R113) -/

theorem put_mem_getT (s : State) (a : Nat) (bs : List Byte) :
    ∃ len, ∀ n, (s.put .mem a bs).getT n = (s.getT n).map (Thread.touched a len) := by
  obtain ⟨m, len, e⟩ := put_mem_eq s a bs
  have huid (t : Thread) : (t.touched a len).uid = t.uid := by
    obtain ⟨w, hw⟩ := touched_eq a len t
    rw [hw]
  have hmode : (s.th.touched a len).mode = s.th.mode := by
    obtain ⟨w, hw⟩ := touched_eq a len s.th
    rw [hw]
  have ht : (s.put .mem a bs).threads = s.threads.map (Thread.touched a len) := by
    rw [e]
    unfold State.threads
    dsimp only
    rw [hmode]
    split <;> rfl
  refine ⟨len, fun n => ?_⟩
  rw [State.getT, ht, List.find?_map, State.getT]
  congr 2
  funext t
  exact congrArg (· == n) (huid t)

/-- A write leaves a thread that waits for no lock word (R152). -/
theorem touched_unlocked (a len : Nat) (h : ∀ va pa b, t.wait ≠ .lock va pa b) : t.touched a len = t := by
  unfold Thread.touched
  split
  · next e => exact absurd e (h _ _ _)
  · rfl

/-- A thread that is kept is there but for what it waits for, and wholly where it waits for no lock word. -/
theorem keepT_getT (hg : s.getT n = some u) (hu : t.uid = n) (hm : t.mode ≠ .empty) :
    ∃ x, (s.keepT t).getT n = some { t with wait := x } ∧ ((∀ va pa b, t.wait ≠ .lock va pa b) → x = t.wait) := by
  have hset := getT_setT hg hu hm
  unfold State.keepT
  split
  · next k c _ _ =>
    obtain ⟨len, hp⟩ := put_mem_getT (s.setT t) (c.storeAt k) (wordBytes (t.image t.pc))
    obtain ⟨x, hx⟩ := touched_eq (c.storeAt k) len t
    refine ⟨x, by rw [hp, hset, Option.map_some, hx], fun h => ?_⟩
    rw [touched_unlocked _ _ h] at hx
    exact (congrArg Thread.wait hx).symm
  · exact ⟨t.wait, hset, fun _ => rfl⟩

theorem keepT_bare (s : State) (t : Thread) : (s.keepT t).bare = s.bare := by
  have h : (s.setT t).bare = s.bare := by
    obtain ⟨x, l, e⟩ := setT_eq s t
    rw [e]
    rfl
  unfold State.keepT
  split
  · exact (put_bare ..).trans h
  · exact h

theorem keepT_wakes (s : State) (t : Thread) : (s.keepT t).wakes = s.wakes := (congrArg State.wakes (keepT_bare s t) :)

theorem completeWord_wakes (s : State) (t : Thread) (v : Word) (l : Option Nat) (n : Next) : (s.completeWord t v l n).wakes = s.wakes :=
  State.setT_wakes ..

/-- A thread that looks again keeps what its program sees. -/
theorem looked_kept (t : Thread) : t.looked.wakePending = t.wakePending ∧ t.looked.pc = t.pc ∧ t.looked.y0 = t.y0 := by
  unfold Thread.looked
  split <;> exact ⟨rfl, rfl, rfl⟩

/-! ### The words -/

theorem exec_yield (s : State) : exec .yield s = execYield s := rfl

theorem exec_sleep (a : Spec) (s : State) : exec (.sleep a) s = execSleep a s := rfl

theorem exec_wake (a : Spec) (s : State) : exec (.wake a) s = execWake a s := rfl

theorem read_toNat_zero (t : Thread) (a : Spec) : (t.read a).toNat = 0 ↔ t.read a = 0 :=
  (BitVec.toNat_eq (x := t.read a) (y := 0)).symm

/-- A sleep without a wake to take lasts until a wake, or for as many clk as its operand says (R144). -/
theorem exec_sleep_begins (hfree : s.Free (.sleep a)) (hw : s.th.wakePending = false) (hd : s.th.deadline = 0) :
    let due := if (s.th.read a).toNat = 0 then 0 else s.clk + (s.th.read a).toNat
    exec (.sleep a) s = .next { s with
      th := { s.th with
        mode := .sleeping, wait := .sleep, word := encode (.sleep a), deadline := BitVec.ofNat 64 due, sleepTo := due } } := by
  rw [exec_sleep, execSleep]
  refine issueWord_wait hfree ?_
  simp only [hw, hd, Bool.false_eq_true, if_false, ne_eq, not_true_eq_false]
  unfold State.waitAt
  dsimp only
  congr 3

/-- A wake to a core that the catalogue names is sent, after a release (R143). -/
theorem exec_wake_sends {c : Nat} (hfree : s.Free (.wake a)) (h : s.Calm)
    (hn : s.resolveName s.th.core ((s.th.read a).toNat % 2 ^ 16) = some (c, s1)) :
    ∃ cs w, exec (.wake a) s = .next { s with
        th := w, cores := cs, nextId := s.nextId + 1,
        wakes := s.wakes ++ [{ id := s.nextId, ctx := s.th.ctx, core := c, slot := (s.th.read a).toNat / 2 ^ 16 % 16 }] } ∧
      ({ s.th with seen := [] } : Thread).Done w 0 0 s.th.ffl s.th.dz s.th.srnd := by
  obtain ⟨⟨cs, rfl⟩, -⟩ := resolveName_frame hn
  have hcalm : ({ s with cores := cs } : State).Calm := ⟨h.stores, h.loads, h.errors, h.deferred, h.names, h.present⟩
  have hrel := release_calm (scope := 5) hcalm (by show s.th.mode ≠ _; rw [hfree.ready]; exact nofun) (by decide)
  refine ⟨cs, ?_⟩
  rw [exec_wake, execWake]
  refine issueWord_done (s1 := ({ s with cores := cs } : State).released.sendWake s.th.ctx c ((s.th.read a).toNat / 2 ^ 16 % 16)) hfree ?_
  simp only [hn, hrel]

/-! ### The steps of the module -/

/-- A wake that arrives at the thread in the slot that it names is taken from the way (R143). -/
theorem exec_wakeArrival {m : WakeMsg} (hm : s.wakes.find? (fun x => x.id == m.id) = some m)
    (ht : s.threads.find? (fun x => x.ctx == m.ctx && x.core == m.core && x.slot == m.slot && x.place == .slot) = some t) :
    let s1 : State := { s with wakes := s.wakes.filter (fun x => x.id != m.id) }
    exec (.wakeArrival m.id) s = .next
      (if t.mode = .sleeping then
        if t.sleepTo ≠ 0 ∧ t.sleepTo < s.clk then
          s1.completeWord { t with deadline := 0, sleepTo := 0, wakePending := true } 0 none .seq
        else s1.completeWord { t with deadline := 0, sleepTo := 0 } 1 none .seq
      else s1.keepT { t with wakePending := true } : State).unstall := by
  intro s1
  have he : exec (.wakeArrival m.id) s = execWakeArrival m.id s := rfl
  have ht1 : s1.threads.find? (fun x => x.ctx == m.ctx && x.core == m.core && x.slot == m.slot && x.place == .slot) = some t := ht
  rw [he, execWakeArrival, event]
  simp only [hm]
  rw [State.wakeThread]
  simp only [show ({ s with wakes := s.wakes.filter (fun x => x.id != m.id) } : State) = s1 from rfl, ht1]

theorem exec_sleepDeadline (hg : s.getT n = some t) (hm : t.mode = .sleeping) (h0 : t.sleepTo ≠ 0) (hp : t.sleepTo < s.clk) :
    exec (.sleepDeadline n) s = .next (s.completeWord { t with deadline := 0, sleepTo := 0 } 0 none .seq).unstall := by
  have he : exec (.sleepDeadline n) s = execSleepDeadline n s := rfl
  rw [he, execSleepDeadline, event]
  simp only [hg]
  rw [if_pos ⟨hm, h0, hp⟩]

end Sys2Proof.Machine
end

section
open Sys2Proof Sys2Proof.Machine

/-- Settles O29: yield and a sleep that takes a pending wake complete (`issueWord_done`), another sleep begins (`exec_sleep_begins`), a wake
is sent (`exec_wake_sends`); its arrival and the deadline complete the sleeper's word (`completed_getT_plain`), and a thread that is awake
keeps the wake (`keepT_getT`). -/
theorem yieldSleepWake : Obligations.YieldSleepWake := by
  unfold Obligations.YieldSleepWake
  refine ⟨?yield, ?sleep, ?wake, ?arrival, ?deadline⟩
  case yield =>
    intro s hfree others
    rw [exec_yield, execYield]
    exact issueWord_sets hfree (by rfl)
  case sleep =>
    intro s a hfree
    refine ⟨fun hp => ?_, fun hp hd => ⟨_, exec_sleep_begins hfree hp hd, rfl, rfl, ?_, ?_, rfl⟩⟩
    · rw [exec_sleep, execSleep]
      exact issueWord_sets hfree (by exact if_pos hp)
    · dsimp only
      rw [← if_congr (read_toNat_zero s.th a) rfl rfl, apply_ite (BitVec.ofNat 64), BitVec.ofNat_add, BitVec.ofNat_toNat, BitVec.setWidth_eq]
      rfl
    · exact if_congr (read_toNat_zero s.th a) rfl rfl
  case wake =>
    intro s a c hfree hcalm hnames
    refine ⟨fun hc => ?_, fun hc => ?_⟩
    · rw [State.Traps, exec_wake, execWake]
      refine issueWord_trap hfree ?_
      simp only [resolveName_unmapped hnames hc]
      rfl
    · obtain ⟨cs, w, hw, hd⟩ := exec_wake_sends hfree hcalm (resolveName_walks hnames hc)
      exact ⟨_, hw, rfl, sameBytes_of_cells rfl rfl rfl rfl rfl, hd⟩
  case arrival =>
    intro s m t hm hh ht
    have he := exec_wakeArrival hm ht
    have hg : ({ s with wakes := s.wakes.filter (fun x => x.id != m.id) } : State).getT t.uid = some t := hh.got
    refine ⟨_, he, ?_, fun hs hd => ?_, fun hs h0 hd => ?_, fun hs => ?_⟩
    · rw [State.unstall_wakes]
      split
      · split <;> exact completeWord_wakes ..
      · exact keepT_wakes ..
    · rw [if_pos hs, if_neg fun h => hd.elim h.1 (Nat.not_le.2 h.2)]
      exact completed_getT_plain hg rfl
    · rw [if_pos hs, if_pos ⟨h0, hd⟩]
      exact completed_getT_plain hg rfl
    · rw [if_neg hs]
      obtain ⟨x, hx, -⟩ := keepT_getT (t := { t with wakePending := true }) hg rfl hh.real
      rw [unstall_getT, hx, Option.map_some]
      exact ⟨_, rfl, looked_kept ..⟩
  case deadline =>
    intro s n t hh hm h0 hp
    obtain ⟨w, hw, hd⟩ := completed_getT_plain (t := { t with deadline := 0, sleepTo := 0 }) (v := 0) hh.got (getT_uid hh.got :)
    exact ⟨_, w, exec_sleepDeadline hh.got hm h0 hp, hw, hd⟩

end

section

/-!
# Engine pins (R151)
-/

namespace Sys2Proof.Machine

variable {s s1 : State} {t k : Thread} {e u w : Nat} {ws : List Nat} {x : Engine}

theorem engine_set (h : x.code = e ∧ x.unit = u) : (s.setEngine x).engine e u = x := by
  rw [engine_setEngine, if_pos ⟨h.1.symm, h.2.symm⟩]

theorem setEngine_getT (n : Nat) : (s.setEngine x).getT n = s.getT n := by
  obtain ⟨es, h⟩ := setEngine_eq s x
  rw [h]
  rfl

theorem setT_engine : (s.setT t).engine e u = s.engine e u := by
  simp only [State.engine, State.setT_engines]

/-- An engine that its holder has given up, with its oldest waiter as holder: geometry 0, no tables, an empty status (R151). -/
def Engine.passed (x : Engine) : Engine :=
  { x with holder := x.waiters.head?, waiters := x.waiters.tail, geom := x.geom.map (fun _ => 0), tabs := [],
           stat := { engst := 0, ovn := 0, maxocc := 0, stalen := 0 } }

theorem passed_place (s : State) (e u : Nat) : (s.engine e u).passed.code = e ∧ (s.engine e u).passed.unit = u := engine_place s e u

theorem handoff_free (h : (s.engine e u).waiters = []) : s.handoff e u = s.setEngine (s.engine e u).passed := by
  simp only [State.handoff, Engine.passed, h, List.head?_nil, List.tail_nil]

/-- The oldest waiter's pin completes. -/
theorem handoff_passes (h : (s.engine e u).waiters = w :: ws) (hg : s.getT w = some k) :
    ∃ k1, s.handoff e u = (s.setEngine (s.engine e u).passed).setT k1 ∧
      ({ k with peng := BitVec.ofNat 3 e } : Thread).Done k1 0 0 k.ffl k.dz k.srnd := by
  obtain ⟨k1, hk, hd⟩ := completeWord_plain (s.setEngine (s.engine e u).passed) { k with peng := BitVec.ofNat 3 e } 0
  refine ⟨k1, ?_, hd⟩
  rw [← hk]
  simp only [State.handoff, Engine.passed, h, List.head?_cons, List.tail_cons, setEngine_getT, hg]

theorem handoff_empty (h : (s.engine e u).waiters = w :: ws) (hg : s.getT w = none) : s.handoff e u = s.setEngine (s.engine e u).passed := by
  simp only [State.handoff, Engine.passed, h, List.head?_cons, List.tail_cons, setEngine_getT, hg]

theorem handoff_engine (s : State) (e u : Nat) : (s.handoff e u).engine e u = (s.engine e u).passed := by
  have hset := engine_set (s := s) (passed_place s e u)
  cases h : (s.engine e u).waiters with
  | nil => rw [handoff_free h, hset]
  | cons w ws =>
    cases hg : s.getT w with
    | none => rw [handoff_empty h hg, hset]
    | some k =>
      obtain ⟨k1, hk, -⟩ := handoff_passes h hg
      rw [hk, setT_engine, hset]

/-- A hand-off to a waiter leaves the threads of other names. -/
theorem handoff_keeps {n : Nat} (h : (s.engine e u).waiters = w :: ws) (hg : s.getT w = some k) (hn : w ≠ n) :
    (s.handoff e u).getT n = s.getT n := by
  obtain ⟨k1, hk, hd⟩ := handoff_passes h hg
  have hu : k1.uid = w := (done_uid hd).trans (getT_uid hg :)
  rw [hk, getT_setT_other (hu ▸ hn), setEngine_getT]

theorem unstall_engine : s.unstall.engine e u = s.engine e u := rfl

/-- Another selected thread of the same name leaves the threads of other names. -/
theorem getT_th_other {n : Nat} (hu : t.uid = s.th.uid) (h : s.th.uid ≠ n) : ({ s with th := t } : State).getT n = s.getT n := by
  rw [getT_others h, getT_others (s := { s with th := t }) (hu ▸ h)]

theorem issueWord_leaves {i : Instr} {body : State → Ex} {v : Word} (h : s.Free i) (hb : body s = .done s1 v none .seq) (ht : s1.th = t) :
    ∃ w, issueWord i body s = .next { s1 with th := w } ∧ t.Done w 0 v t.ffl t.dz t.srnd := by
  subst ht
  exact issueWord_done h hb

/-! ### The words -/

variable {c : BitVec 3}

theorem exec_pin (s : State) (e : BitVec 3) : exec (.pin e) s = execPin e s := rfl

theorem exec_unpin (s : State) (e : BitVec 3) : exec (.unpin e) s = execUnpin e s := rfl

theorem idleFor_iff {n : Nat} : x.idleFor n = true ↔ ∀ c ∈ x.fifo, c.uid ≠ n := by
  simp [Engine.idleFor]

/-- The pin of a free engine (R151). -/
theorem exec_pin_free (hfree : s.Free (.pin c)) (hp : s.th.peng = 7) (hh : (s.engine c.toNat (engineUnit c.toNat s.th.core)).holder = none)
    (hw : (s.engine c.toNat (engineUnit c.toNat s.th.core)).waiters = []) :
    ∃ w, exec (.pin c) s = .next { s.setEngine { s.engine c.toNat (engineUnit c.toNat s.th.core) with holder := some s.th.uid } with th := w } ∧
      ({ s.th with peng := c } : Thread).Done w 0 0 s.th.ffl s.th.dz s.th.srnd := by
  rw [exec_pin, execPin]
  refine issueWord_leaves (s1 := { s.setEngine { s.engine c.toNat (engineUnit c.toNat s.th.core) with holder := some s.th.uid } with
    th := { (s.setEngine { s.engine c.toNat (engineUnit c.toNat s.th.core) with holder := some s.th.uid }).th with peng := c } }) hfree ?_ ?_
  · exact (if_neg fun h => h hp).trans (if_pos ⟨hh, hw⟩)
  · rw [State.setEngine_th]

/-- Another thread's pin waits in its place (R151). -/
theorem exec_pin_waits (hfree : s.Free (.pin c)) (hp : s.th.peng = 7)
    (h : (s.engine c.toNat (engineUnit c.toNat s.th.core)).holder ≠ none ∨ (s.engine c.toNat (engineUnit c.toNat s.th.core)).waiters ≠ []) :
    exec (.pin c) s = .next ((s.setEngine { s.engine c.toNat (engineUnit c.toNat s.th.core) with
      waiters := (s.engine c.toNat (engineUnit c.toNat s.th.core)).waiters ++ [s.th.uid] }).waitAt (.pin c) (.pin c.toNat)) := by
  rw [exec_pin, execPin]
  refine issueWord_wait hfree ?_
  simp only [hp, ne_eq, not_true_eq_false, if_false]
  exact if_neg fun hn => h.elim (· hn.1) (· hn.2)

/-- The selected thread without its engine. -/
def State.unpinned (s : State) : State := { s with th := { s.th with peng := 7 } }

/-- An unpin whose commands have ended hands the engine on (R151). -/
theorem exec_unpin_ends (hfree : s.Free (.unpin c)) (hp : s.th.peng = c)
    (hi : ∀ x ∈ (s.engine c.toNat (s.heldUnit c.toNat s.th)).fifo, x.uid ≠ s.th.uid)
    (hth : (s.unpinned.handoff c.toNat (s.heldUnit c.toNat s.th)).th = s.unpinned.th) :
    ∃ w, exec (.unpin c) s = .next { s.unpinned.handoff c.toNat (s.heldUnit c.toNat s.th) with th := w } ∧
      s.unpinned.th.Done w 0 0 s.th.ffl s.th.dz s.th.srnd := by
  rw [exec_unpin, execUnpin]
  refine issueWord_leaves (t := s.unpinned.th) hfree ?_ hth
  exact (if_neg fun h => h hp).trans (if_pos (idleFor_iff.2 hi))

theorem exec_unpin_waits (hfree : s.Free (.unpin c)) (hp : s.th.peng = c)
    (hi : ∃ x ∈ (s.engine c.toNat (s.heldUnit c.toNat s.th)).fifo, x.uid = s.th.uid) :
    exec (.unpin c) s = .next (s.waitAt (.unpin c) (.unpin c.toNat)) := by
  rw [exec_unpin, execUnpin]
  obtain ⟨x, hx, hu⟩ := hi
  refine issueWord_wait hfree ?_
  exact (if_neg fun h => h hp).trans (if_neg fun h => idleFor_iff.1 h x hx hu)

/-- The hand-off of an engine whose holder waits for its commands (R151). -/
theorem exec_pinHandoff {h : Nat} (hh : (s.engine c.toNat u).holder = some h) (hg : s.getT h = some t) (hw : t.wait = .unpin c.toNat)
    (hi : ∀ x ∈ (s.engine c.toNat u).fifo, x.uid ≠ h) :
    exec (.pinHandoff c u) s = .next ((s.completeWord { t with peng := 7 } 0 none .seq).handoff c.toNat u).unstall := by
  have he : exec (.pinHandoff c u) s = execPinHandoff c u s := rfl
  rw [he, execPinHandoff, event]
  simp only [hh, hg]
  rw [if_pos ⟨hw, idleFor_iff.2 hi⟩]

end Sys2Proof.Machine
end

section
open Sys2Proof Sys2Proof.Machine

/-- Settles O34: a pin of a free engine and an unpin complete, another pin and an unpin whose commands are in flight wait, and the engine
passes to its oldest waiter, whose pin completes (`handoff_passes`). -/
theorem enginePins : Obligations.EnginePins := by
  unfold Obligations.EnginePins
  refine ⟨?pin, ?unpin, ?event⟩
  case pin =>
    intro s e hfree
    refine ⟨fun hp => ?_, fun hp hh hw => ?_, fun hp h => ⟨_, exec_pin_waits hfree hp h, ?_, rfl, rfl, ?_⟩⟩
    · rw [State.Traps, exec_pin, execPin]
      exact issueWord_trap hfree (by exact if_pos hp)
    · obtain ⟨w, hx, hd⟩ := exec_pin_free hfree hp hh hw
      exact ⟨_, hx, engine_set (engine_place ..), hd, setEngine_only ..⟩
    · exact engine_set (engine_place ..)
    · exact (congrArg Thread.pc (State.setEngine_th s _) :)
  case unpin =>
    intro s e hfree
    have hready : s.th.mode ≠ .empty := by rw [hfree.ready]; exact nofun
    refine ⟨fun hp => ?_, fun hp hi hw => ?_, fun w ws k hp hi hw hne hk => ?_, fun hp hi => ⟨_, exec_unpin_waits hfree hp hi, rfl, rfl, rfl⟩⟩
    · rw [State.Traps, exec_unpin, execUnpin]
      exact issueWord_trap hfree (by exact if_pos hp)
    · have hx := handoff_free (s := s.unpinned) hw
      obtain ⟨w, hn, hd⟩ := exec_unpin_ends hfree hp hi (by rw [hx, State.setEngine_th])
      have he := handoff_engine s.unpinned e.toNat (s.heldUnit e.toNat s.th)
      refine ⟨_, hn, (congrArg Engine.holder he).trans ?_, congrArg Engine.geom he, hd⟩
      exact congrArg List.head? hw
    · have hk1 : s.unpinned.getT w = some k := (getT_others (s := s.unpinned) (Ne.symm hne)).trans ((getT_others (Ne.symm hne)).symm.trans hk.got)
      obtain ⟨k1, hx, hd1⟩ := handoff_passes (s := s.unpinned) hw hk1
      have hu : k1.uid = w := (done_uid hd1).trans (getT_uid hk1 :)
      have hth : (s.unpinned.handoff e.toNat (s.heldUnit e.toNat s.th)).th = s.unpinned.th := by
        rw [hx, setT_th_other (by rw [hu, State.setEngine_th]; exact Ne.symm hne), State.setEngine_th]
      obtain ⟨v, hn, hd⟩ := exec_unpin_ends hfree hp hi hth
      have he := handoff_engine s.unpinned e.toNat (s.heldUnit e.toNat s.th)
      refine ⟨_, k1, hn, ?_, (congrArg Engine.holder he).trans (congrArg List.head? hw), (congrArg Engine.waiters he).trans (congrArg List.tail hw),
        congrArg Engine.geom he, ?_, hd⟩
      · have hv : v.uid = s.unpinned.th.uid := done_uid hd
        rw [getT_th_other (hv.trans (congrArg Thread.uid hth).symm) (by rw [hth]; exact Ne.symm hne), hx]
        exact done_getT (t := { k with peng := BitVec.ofNat 3 e.toNat }) ((setEngine_getT w).trans hk1) (getT_uid hk1 :) hd1
      · rwa [BitVec.ofNat_toNat, BitVec.setWidth_eq] at hd1
  case event =>
    intro s e u h w ws t k _ hh hw ht hk hne hwait hm hi
    obtain ⟨t1, ht1, hd⟩ := completeWord_plain s { t with peng := 7 } 0
    have hu : t1.uid = h := (done_uid hd).trans (getT_uid ht.got :)
    have hx := exec_pinHandoff hh ht.got hwait hi
    rw [ht1] at hx
    have hw1 : ((s.setT t1).engine e.toNat u).waiters = w :: ws := by rw [setT_engine, hw]
    have hk1 : (s.setT t1).getT w = some k := by rw [getT_setT_other (hu ▸ hne), hk.got]
    have htg : (s.setT t1).getT h = some t1 := done_getT (t := { t with peng := 7 }) ht.got (getT_uid ht.got :) hd
    obtain ⟨k1, hp, hdk⟩ := handoff_passes hw1 hk1
    have he : (((s.setT t1).handoff e.toNat u).unstall).engine e.toNat u = (s.engine e.toNat u).passed := by
      rw [unstall_engine, handoff_engine, setT_engine]
    refine ⟨_, t1, k1, hx, ?_, ?_, hd, ?_, (congrArg Engine.holder he).trans (congrArg List.head? hw),
      (congrArg Engine.waiters he).trans (congrArg List.tail hw), congrArg Engine.geom he⟩
    · rw [unstall_getT, handoff_keeps hw1 hk1 (Ne.symm hne), htg, Option.map_some, looked_awake (done_awake hd)]
    · rw [unstall_getT, hp, done_getT (t := { k with peng := BitVec.ofNat 3 e.toNat }) ((setEngine_getT w).trans hk1) (getT_uid hk1 :) hdk,
        Option.map_some, looked_awake (done_awake hdk)]
    · rwa [BitVec.ofNat_toNat, BitVec.setWidth_eq] at hdk

end

section

/-!
# Semaphores (R145, R188, R193)
-/

namespace Sys2Proof.Machine

variable {s s1 : State} {t k u : Thread} {c w : Nat} {ws : List Nat} {n : BitVec 4}

/-! ### A release at scope core (R188) -/

/-- The posted stores that a release of the selected thread covers are acknowledged at its core. -/
def State.acknowledged (s : State) : State :=
  { s with stores := s.stores.map (fun x => if (s.covered s.th).contains x.id then { x with rel := true } else x) }

theorem release_core (h : s.th.inflight = []) : s.release s.th 1 = (s.acknowledged, none) := by
  have hset : s.setT s.th = s := setT_selected rfl
  simp only [State.release, landAll_nil h, hset, Nat.succ_ne_zero, if_false, if_true]
  rfl

/-- A thread's own posted stores are among those that its release covers. -/
theorem covered_own {y : Store} (hy : y ∈ s.stores) (hu : y.uid = t.uid) (hc : y.core = t.core) : (s.covered t).contains y.id = true :=
  List.contains_iff_mem.2 (List.mem_append_left _ (List.mem_map_of_mem (List.mem_filter.2 ⟨hy, by simp [hu, hc]⟩)))

theorem acknowledged_acked (s : State) : s.Acked s.acknowledged s.th where
  same := by
    unfold State.acknowledged
    rw [List.map_map]
    refine List.map_congr_left fun x _ => ?_
    dsimp only [Function.comp_apply]
    split <;> rfl
  acked x hx hu hc := by
    obtain ⟨y, hy, rfl⟩ := List.mem_map.1 hx
    split at hu
    · next h => rw [if_pos h]
    · next h =>
      rw [if_neg h] at hc
      exact absurd (covered_own hy hu hc) h
  kept x hx hr := by
    refine ⟨x, List.mem_map.2 ⟨x, hx, ?_⟩, rfl⟩
    split
    · rw [← hr]
    · rfl

theorem acked_of_stores {x : Thread} {s2 : State} (h : s.Acked s1 x) (e : s2.stores = s1.stores) : s.Acked s2 x :=
  ⟨e ▸ h.same, e ▸ h.acked, e ▸ h.kept⟩

/-! ### The semaphores of a core -/

/-- The semaphore of a number. -/
def State.sem (s : State) (c : Nat) (n : BitVec 4) : Sem := (s.core c).sems.toList.getD n.toNat Sem.initial

/-- The semaphore of a number replaced. -/
def State.putSem (s : State) (c : Nat) (n : BitVec 4) (y : Sem) : State :=
  s.setCore c { s.core c with sems := Vector.ofFn (fun i => if i.val = n.toNat then y else (s.core c).sems[i]) }

theorem sem_putSem (s : State) (c : Nat) (n : BitVec 4) (y : Sem) : (s.putSem c n y).sem c n = y := by
  have hn : n.toNat < (Vector.ofFn (fun i : Fin 16 => if i.val = n.toNat then y else (s.core c).sems[i])).toList.length := by
    rw [Vector.length_toList]
    exact n.isLt
  rw [State.sem, State.putSem, core_setCore, if_pos rfl, List.getD_eq_getElem _ _ hn, Vector.getElem_toList, Vector.getElem_ofFn, if_pos rfl]

theorem putSem_eq (s : State) (c : Nat) (n : BitVec 4) (y : Sem) : ∃ cs, s.putSem c n y = { s with cores := cs } := ⟨_, rfl⟩

theorem semV_nil (h : (s.sem c n).waiters = []) :
    s.semV c n.toNat =
      if (s.sem c n).count < 2 ^ 32 - 1 then s.putSem c n { s.sem c n with count := (s.sem c n).count + 1 } else s := by
  generalize hr : (if (s.sem c n).count < 2 ^ 32 - 1 then s.putSem c n { s.sem c n with count := (s.sem c n).count + 1 } else s) = r
  unfold State.semV
  dsimp only
  split
  · next e => exact absurd (h.symm.trans e) (List.cons_ne_nil _ _).symm
  · exact hr

/-- With nobody waiting the count rises, up to its bound. -/
theorem semV_counts (h : (s.sem c n).waiters = []) :
    ∃ cs, s.semV c n.toNat = { s with cores := cs } ∧ ({ s with cores := cs } : State).sem c n =
      { s.sem c n with count := if (s.sem c n).count < 2 ^ 32 - 1 then (s.sem c n).count + 1 else (s.sem c n).count } := by
  by_cases hc : (s.sem c n).count < 2 ^ 32 - 1
  · rw [semV_nil h, if_pos hc, if_pos hc]
    exact ⟨_, rfl, sem_putSem ..⟩
  · rw [semV_nil h, if_neg hc, if_neg hc]
    exact ⟨_, rfl, rfl⟩

/-- The oldest waiter's semp completes, and it has acquired. -/
theorem semV_passes (h : (s.sem c n).waiters = w :: ws) (hg : s.getT w = some u) :
    ∃ k, s.semV c n.toNat = (s.putSem c n { s.sem c n with waiters := ws }).setT k ∧ (s.acquired u).Done k 0 0 u.ffl u.dz u.srnd := by
  obtain ⟨k, hk, hd⟩ := completeWord_plain (s.putSem c n { s.sem c n with waiters := ws }) (s.acquired u) 0
  refine ⟨k, ?_, hd⟩
  rw [← hk]
  unfold State.semV
  dsimp only
  split
  · next v vs e =>
    obtain ⟨rfl, rfl⟩ := List.cons_eq_cons.1 (h.symm.trans e)
    have hg1 : (s.putSem c n { s.sem c n with waiters := ws }).getT w = some u := hg
    split
    · next e1 =>
      obtain rfl := Option.some.inj (hg1.symm.trans e1)
      rfl
    · next e1 => exact absurd (hg1.symm.trans e1) (Option.some_ne_none _)
  · next e => exact absurd (h.symm.trans e) (List.cons_ne_nil _ _)

/-! ### The words -/

theorem exec_semp (s : State) (n : BitVec 4) : exec (.semp n) s = execSemp n s := rfl

theorem exec_semv (s : State) (n : BitVec 4) : exec (.semv n) s = execSemv n s := rfl

theorem exec_semp_takes (hfree : s.Free (.semp n)) (hg : (s.sem s.th.core n).grant = some s.th.ctx) (hc : 0 < (s.sem s.th.core n).count) :
    ∃ v, exec (.semp n) s = .next { s.putSem s.th.core n { s.sem s.th.core n with count := (s.sem s.th.core n).count - 1 } with th := v } ∧
      (s.acquired s.th).Done v 0 0 s.th.ffl s.th.dz s.th.srnd := by
  rw [exec_semp, execSemp]
  refine issueWord_leaves (t := s.acquired s.th) (s1 := { s.putSem s.th.core n { s.sem s.th.core n with
    count := (s.sem s.th.core n).count - 1 } with th := s.acquired s.th }) hfree ?_ rfl
  exact (if_neg fun h => h hg).trans (if_pos hc)

theorem exec_semp_waits (hfree : s.Free (.semp n)) (hg : (s.sem s.th.core n).grant = some s.th.ctx) (hc : (s.sem s.th.core n).count = 0) :
    exec (.semp n) s = .next ((s.putSem s.th.core n { s.sem s.th.core n with
      waiters := (s.sem s.th.core n).waiters ++ [s.th.uid] }).waitAt (.semp n) (.sem n.toNat)) := by
  rw [exec_semp, execSemp]
  refine issueWord_wait hfree ?_
  exact (if_neg fun h => h hg).trans (if_neg fun h => absurd hc (Nat.ne_of_gt h))

/-- semv acknowledges, then gives the count to the semaphore or to its oldest waiter (R145). -/
theorem exec_semv_gives (hfree : s.Free (.semv n)) (hg : (s.sem s.th.core n).grant = some s.th.ctx) (hin : s.th.inflight = [])
    (hth : (s.acknowledged.semV s.th.core n.toNat).th = s.th) :
    ∃ v, exec (.semv n) s = .next { s.acknowledged.semV s.th.core n.toNat with th := v } ∧ s.th.Done v 0 0 s.th.ffl s.th.dz s.th.srnd := by
  rw [exec_semv, execSemv]
  refine issueWord_leaves (s1 := s.acknowledged.semV s.th.core n.toNat) hfree ?_ hth
  refine (if_neg fun h => h hg).trans ?_
  rw [release_core hin]

end Sys2Proof.Machine
end

section
open Sys2Proof Sys2Proof.Machine

/-- Settles O30: without the grant both words trap; semp takes a count or waits (`exec_semp_takes`, `exec_semp_waits`), and semv, whose
stores are acknowledged first (`acknowledged_acked`), counts up (`semV_counts`) or completes the oldest waiter (`semV_passes`). -/
theorem semaphores : Obligations.Semaphores := by
  unfold Obligations.Semaphores
  intro s n hin x after
  refine ⟨fun hx => ⟨fun hfree => ?_, fun hfree => ?_⟩, fun hx hfree hc => ?takes, fun hx hfree hc => ?waits, fun hx hfree hw => ?counts,
    fun w ws u hx hfree hw hne hu => ?passes⟩
  · rw [State.Traps, exec_semp, execSemp]
    exact issueWord_trap hfree (by exact if_pos hx)
  · rw [State.Traps, exec_semv, execSemv]
    exact issueWord_trap hfree (by exact if_pos hx)
  case takes =>
    obtain ⟨v, he, hd⟩ := exec_semp_takes hfree hx hc
    refine ⟨_, he, sem_putSem .., rfl, ?_⟩
    have hs : v.seen = (s.acquired s.th).seen := done_seen hd
    rw [show ({ s.putSem s.th.core n { s.sem s.th.core n with count := (s.sem s.th.core n).count - 1 } with th := v } : State).th = v from rfl, hs]
    exact hd
  case waits => exact ⟨_, exec_semp_waits hfree hx hc, sem_putSem .., rfl, rfl, rfl⟩
  case counts =>
    obtain ⟨cs, hv, hs⟩ := semV_counts (s := s.acknowledged) (c := s.th.core) hw
    obtain ⟨v, he, hd⟩ := exec_semv_gives hfree hx hin (by rw [hv]; rfl)
    rw [hv] at he
    exact ⟨_, he, hs, rfl, acked_of_stores (acknowledged_acked s) rfl, hd⟩
  case passes =>
    obtain ⟨k, hv, hk⟩ := semV_passes (s := s.acknowledged) (c := s.th.core) (n := n) hw (by exact hu.got)
    have hku : k.uid = w := (done_uid hk).trans (getT_uid hu.got :)
    have hth : (s.acknowledged.semV s.th.core n.toNat).th = s.th := by
      rw [hv]
      exact setT_th_other fun e => hne (e.trans hku).symm
    obtain ⟨v, he, hd⟩ := exec_semv_gives hfree hx hin hth
    obtain ⟨y, l, hset⟩ := setT_eq (s.acknowledged.putSem s.th.core n { s.acknowledged.sem s.th.core n with waiters := ws }) k
    have hs : k.seen = (s.acknowledged.acquired u).seen := done_seen hk
    refine ⟨_, k, he, ?_, ?_, ?_, ?_, ?_, fun hc y hy hyu hyc => ?_, hd⟩
    · rw [hv, hset]
      exact sem_putSem s.acknowledged s.th.core n _
    · rw [getT_th_other ((done_uid hd).trans (congrArg Thread.uid hth).symm) (by rw [hth]; exact Ne.symm hne), hv]
      exact done_getT (t := s.acknowledged.acquired u) hu.got (getT_uid hu.got :) hk
    · rw [hv, hset]
      exact acked_of_stores (acknowledged_acked s) rfl
    · rw [hv, hset]
      rfl
    · rw [hs]
      exact hk
    · rw [hs]
      refine List.mem_append_right _ (List.mem_map.2 ⟨{ y with rel := true }, List.mem_filter.2 ⟨List.mem_map.2 ⟨y, hy, if_pos ?_⟩, ?_⟩, rfl⟩)
      · exact covered_own hy hyu hyc
      · have huu : u.uid = w := getT_uid hu.got
        simp [hyc, hc, hyu, huu, Ne.symm hne]

end

section

/-!
# A thread leaves the module (R141, R150, R350)
-/

namespace Sys2Proof.Machine

variable {s s1 : State} {t x : Thread} {c n : Nat}

/-! ### Slots given to the arrival queue (R148) -/

theorem others_sub (h : x ∈ s.others) : x ∈ s.threads := by
  unfold State.threads
  split
  · exact h
  · exact List.mem_cons_of_mem _ h

theorem threads_sub (h : x ∈ s.threads) : x = s.th ∨ x ∈ s.others := by
  unfold State.threads at h
  split at h
  · exact .inr h
  · exact List.mem_cons.1 h

/-- Every thread after a replacement is the new one, or was there before. -/
theorem setT_mem (h : x ∈ (s.setT t).threads) : x = t ∨ x ∈ s.threads := by
  unfold State.setT at h
  split at h
  · exact (threads_sub h).imp id fun h => others_sub (s := s) h
  · by_cases hm : s.th.mode = .empty
    · have h' : x ∈ s.others.map (fun o => if o.uid = t.uid then t else o) := by
        unfold State.threads at h
        rwa [if_pos hm] at h
      obtain ⟨o, ho, rfl⟩ := List.mem_map.1 h'
      split
      · exact .inl rfl
      · exact .inr (others_sub ho)
    · rw [threads_selected hm]
      rcases threads_sub h with h | h
      · exact .inr (h ▸ List.mem_cons_self ..)
      · obtain ⟨o, ho, rfl⟩ := List.mem_map.1 h
        split
        · exact .inl rfl
        · exact .inr (List.mem_cons_of_mem _ ho)

/-- The state holds no thread of a name. -/
def State.Lacks (s : State) (n : Nat) : Prop := ∀ x ∈ s.threads, x.uid ≠ n

theorem lacks_setT (h : s.Lacks n) (ht : t.uid ≠ n) : (s.setT t).Lacks n := fun x hx => (setT_mem hx).elim (fun e => e ▸ ht) (h x)

theorem getT_ne (h : s.Lacks n) {u : Nat} (hg : s.getT u = some t) : t.uid ≠ n := h t (getT_mem hg)

/-- What taking a slot leaves of a state: all but its threads and cores. -/
theorem enterSlot_eq (s : State) (t : Thread) (core slot : Nat) :
    ∃ w, s.enterSlot t core slot = s.setT w ∧ w.uid = t.uid := by
  unfold State.enterSlot
  refine ⟨_, rfl, ?_⟩
  split <;> rfl

/-- What serving an arrival queue may change, and that it brings no thread of a new name. -/
def State.Served (s t : State) : Prop := (∃ x l cs, t = { s with th := x, others := l, cores := cs }) ∧ ∀ n, s.Lacks n → t.Lacks n

theorem served_refl (s : State) : s.Served s := ⟨⟨_, _, _, rfl⟩, fun _ h => h⟩

theorem served_trans {s t u : State} (h : s.Served t) (h' : t.Served u) : s.Served u := by
  obtain ⟨⟨x, l, cs, rfl⟩, hl⟩ := h
  obtain ⟨⟨x', l', cs', rfl⟩, hl'⟩ := h'
  exact ⟨⟨x', l', cs', rfl⟩, fun n hn => hl' n (hl n hn)⟩

theorem foldl_served {α : Type} (f : State → α → State) (hf : ∀ (s : State) (a : α), s.Served (f s a)) (l : List α) (s : State) : s.Served (l.foldl f s) := by
  induction l generalizing s with
  | nil => exact served_refl s
  | cons a l ih => exact served_trans (hf s a) (ih _)

theorem serveQueue_served (s : State) (c : Nat) : s.Served (s.serveQueue c) := by
  unfold State.serveQueue
  refine foldl_served _ (fun s u => ?_) _ s
  dsimp only
  split
  · exact served_refl s
  · next t hg =>
    split
    · exact served_refl s
    · next j _ =>
      obtain ⟨w, hw, hu⟩ := enterSlot_eq (s.setCore c { s.core c with queue := (s.core c).queue.filter (fun v => v != u) }) t c j
      rw [hw]
      obtain ⟨x, l, hset⟩ := setT_eq (s.setCore c { s.core c with queue := (s.core c).queue.filter (fun v => v != u) }) w
      exact ⟨⟨x, l, _, hset⟩, fun n hn => lacks_setT (s := s.setCore c _) hn (hu ▸ getT_ne hn hg)⟩

theorem serveQueue_nil (h : (s.core c).queue = []) : s.serveQueue c = s := by
  rw [State.serveQueue, h, List.foldl_nil]

/-! ### A hand-off (R151) -/

/-- A replacement keeps the names of the threads where they stand. -/
theorem setT_names (s : State) (t : Thread) :
    (s.setT t).th.uid = s.th.uid ∧ (s.setT t).others.map Thread.uid = s.others.map Thread.uid := by
  unfold State.setT
  split
  · next h => exact ⟨h.symm, rfl⟩
  · refine ⟨rfl, ?_⟩
    rw [List.map_map]
    refine List.map_congr_left fun o _ => ?_
    dsimp only [Function.comp_apply]
    split
    · next h => exact h.symm
    · rfl

/-- What a hand-off may change; it keeps the names of the threads where they stand. -/
theorem handoff_eq (s : State) (e u : Nat) :
    ∃ x l es, s.handoff e u = { s with th := x, others := l, engines := es } ∧ x.uid = s.th.uid ∧ l.map Thread.uid = s.others.map Thread.uid := by
  obtain ⟨es, he⟩ := setEngine_eq s (s.engine e u).passed
  cases h : (s.engine e u).waiters with
  | nil => exact ⟨_, _, es, by rw [handoff_free h, he], rfl, rfl⟩
  | cons w ws =>
    cases hg : s.getT w with
    | none => exact ⟨_, _, es, by rw [handoff_empty h hg, he], rfl, rfl⟩
    | some k =>
      obtain ⟨k1, hk, -⟩ := handoff_passes h hg
      obtain ⟨x, l, hset⟩ := setT_eq { s with engines := es } k1
      have hn := setT_names { s with engines := es } k1
      rw [hset] at hn
      exact ⟨x, l, es, by rw [hk, he, hset], hn.1, hn.2⟩

/-! ### The end of a thread (R141, R350) -/

/-- A thread waits for no engine and no semaphore of its core, and is in no queue there (R141). -/
def State.withdrawn (s : State) (t : Thread) : State :=
  { s with
    cores := assocSet s.cores t.core { s.core t.core with
      sems := (s.core t.core).sems.map (fun x => { x with waiters := x.waiters.filter (fun u => u != t.uid) }),
      queue := (s.core t.core).queue.filter (fun u => u != t.uid), senders := (s.core t.core).senders.filter (fun u => u.1 != t.uid) }
    engines := s.engines.map (fun (x : Engine) => { x with waiters := x.waiters.filter (fun u => u != t.uid) })
    chans := s.chans.map (fun (c : Chan) => { c with getters := c.getters.filter (fun u => u != t.uid) }) }

theorem endThread_pinned (h : t.peng.toNat < 5) :
    s.endThread t = (((s.handoff t.peng.toNat (s.heldUnit t.peng.toNat t)).withdrawn t).delT t.uid).serveQueue t.core := by
  rw [State.endThread, if_pos h]
  rfl

theorem endThread_unpinned (h : ¬ t.peng.toNat < 5) : s.endThread t = ((s.withdrawn t).delT t.uid).serveQueue t.core := by
  rw [State.endThread, if_neg h]
  rfl

theorem delT_eq (s : State) (n : Nat) : ∃ x l, s.delT n = { s with th := x, others := l } := by
  unfold State.delT
  split
  · exact ⟨_, _, rfl⟩
  · exact ⟨_, _, rfl⟩

/-- Without the selected thread a state lacks its name, where no other thread has it. -/
theorem delT_lacks (h : ∀ o ∈ s.others, o.uid ≠ s.th.uid) : (s.delT s.th.uid).Lacks s.th.uid := by
  rw [State.delT, if_pos rfl]
  exact fun x hx => h x hx

/-- The end of a thread changes threads, cores, engines and channels alone. -/
theorem endThread_eq (s : State) (t : Thread) :
    ∃ x l cs es ch, s.endThread t = { s with th := x, others := l, cores := cs, engines := es, chans := ch } := by
  have leaves (s : State) :
      ∃ x l cs es ch, ((s.withdrawn t).delT t.uid).serveQueue t.core = { s with th := x, others := l, cores := cs, engines := es, chans := ch } := by
    obtain ⟨x, l, hd⟩ := delT_eq (s.withdrawn t) t.uid
    obtain ⟨⟨y, m, cs, hs⟩, -⟩ := serveQueue_served ((s.withdrawn t).delT t.uid) t.core
    rw [hs, hd]
    exact ⟨y, m, cs, _, _, rfl⟩
  by_cases h : t.peng.toNat < 5
  · rw [endThread_pinned h]
    obtain ⟨x, l, es, hh, -⟩ := handoff_eq s t.peng.toNat (s.heldUnit t.peng.toNat t)
    obtain ⟨y, m, cs, es', ch, he⟩ := leaves (s.handoff t.peng.toNat (s.heldUnit t.peng.toNat t))
    rw [he, hh]
    exact ⟨y, m, cs, es', ch, rfl⟩
  · rw [endThread_unpinned h]
    exact leaves s

theorem endThread_lacks (h : ∀ o ∈ s.others, o.uid ≠ s.th.uid) : (s.endThread s.th).Lacks s.th.uid := by
  have leaves (s1 : State) (hth : s1.th.uid = s.th.uid) (ho : s1.others.map Thread.uid = s.others.map Thread.uid) :
      (((s1.withdrawn s.th).delT s.th.uid).serveQueue s.th.core).Lacks s.th.uid := by
    refine (serveQueue_served _ _).2 _ ?_
    rw [← hth]
    refine delT_lacks (s := s1.withdrawn s.th) fun o (hm : o ∈ s1.others) => ?_
    obtain ⟨o', hm', he⟩ := List.mem_map.1 (ho ▸ List.mem_map_of_mem (f := Thread.uid) hm)
    exact fun e => h o' hm' (he.trans (e.trans hth))
  by_cases hp : s.th.peng.toNat < 5
  · rw [endThread_pinned hp]
    obtain ⟨x, l, es, hh, hx, hl⟩ := handoff_eq s s.th.peng.toNat (s.heldUnit s.th.peng.toNat s.th)
    rw [hh]
    exact leaves _ hx hl
  · rw [endThread_unpinned hp]
    exact leaves s rfl rfl

theorem endThread_sameBytes (s : State) (t : Thread) : s.SameBytes (s.endThread t) := by
  obtain ⟨x, l, cs, es, ch, h⟩ := endThread_eq s t
  rw [h]
  exact sameBytes_of_cells rfl rfl rfl rfl rfl

end Sys2Proof.Machine
end

section

/-!
# Calls to other cores (R150, R356)
-/

namespace Sys2Proof.Machine

variable {s s1 : State} {t u x : Thread} {c n : Nat} {d a b : Spec} {v : Word}

theorem exec_callx (d a b : Spec) (s : State) : exec (.callx d a b) s = execCallx d a b s := rfl

theorem exec_reply (a : Spec) (s : State) : exec (.reply a) s = execReply a s := rfl

/-! ### The request -/

/-- The callee's thread, which arrives at the core that is called (R150). -/
def callee (s : State) (c : Nat) (e v : Word) : Thread :=
  { Thread.initial with
    uid := s.nextId, ctx := s.th.ctx, core := c, mode := .waiting, place := .queue, wait := .arrival, pc := e,
    g := (Thread.initial).g.set 1 v, prv := s.th.prv, bornPrv := s.th.prv, ticket := BitVec.ofNat 64 (2 ^ 63 + s.th.uid),
    origin := s.th.origin, since := s.clk }

/-- The request has reached the arrival queue of the core that is called (R150). -/
def State.calls (s : State) (c : Nat) (x : Thread) : State :=
  let s1 := (({ s with nextId := s.nextId + 1 } : State).addT x).sentOff s.th c
  s1.setCore c { s1.core c with queue := (s1.core c).queue ++ [x.uid] }

theorem sentOff_queue (s : State) (t : Thread) (c k : Nat) : ((s.sentOff t c).core k).queue = (s.core k).queue := by
  rw [State.sentOff, core_setCore]
  split
  · next h => rw [h]
  · rfl

theorem calls_queue (s : State) (c : Nat) (x : Thread) : ((s.calls c x).core c).queue = (s.core c).queue ++ [x.uid] := by
  rw [State.calls, core_setCore, if_pos rfl]
  exact congrArg (· ++ [x.uid]) (sentOff_queue ..)

theorem calls_sameBytes (s : State) (cs : List (Nat × CoreSt)) (c : Nat) (x : Thread) (i : Instr) (w : Wait) :
    s.SameBytes ((({ s with cores := cs } : State).released.calls c x).waitAt i w) :=
  sameBytes_of_cells rfl rfl rfl rfl rfl

theorem holdBack_queue (s : State) (t : Thread) (c k : Nat) : ((s.holdBack t c).core k).queue = (s.core k).queue := by
  rw [State.holdBack, core_setCore]
  split
  · next h => rw [h]
  · rfl

section
variable (hfree : s.Free (.callx d a b)) (hw : s.th.wresValid = false) (ha : (s.th.read a).toNat % 4 = 0)
  (hr : s.resolveName s.th.core ((s.th.read d).toNat % 2 ^ 16) = some (c, s1))
include hfree hw ha hr

/-- A call of a core whose queue has room, with nothing to release (R150). -/
theorem exec_callx_calls (hh : s.sendHeld s.th c = false) (hcalm : s.Calm) :
    ∃ cs, s1 = { s with cores := cs } ∧
      exec (.callx d a b) s =
        .next ((s1.released.calls c (callee s c (s.th.read a) (s.th.read b))).waitAt (.callx d a b) (.callx d)) := by
  obtain ⟨⟨cs, rfl⟩, hk⟩ := resolveName_frame hr
  have hc : ({ s with cores := cs } : State).Calm := ⟨hcalm.stores, hcalm.loads, hcalm.errors, hcalm.deferred, hcalm.names, hcalm.present⟩
  have hrel := release_calm (scope := 5) hc (by show s.th.mode ≠ _; rw [hfree.ready]; exact nofun) (by decide)
  have hh1 : ({ s with cores := cs } : State).sendHeld s.th c = false := (sendHeld_congr (hk c) rfl s.th).trans hh
  refine ⟨cs, rfl, ?_⟩
  rw [exec_callx, execCallx]
  refine issueWord_wait hfree ?_
  rw [callxBody]
  simp only [hw, ha, hr, hh1, hrel, Bool.false_eq_true, if_false, ne_eq, not_true_eq_false]
  rfl

theorem exec_callx_held (hh : s.sendHeld s.th c = true) : exec (.callx d a b) s = .next (s1.holdBack s.th c).stallAt := by
  obtain ⟨⟨cs, rfl⟩, hk⟩ := resolveName_frame hr
  have hh1 : ({ s with cores := cs } : State).sendHeld s.th c = true := (sendHeld_congr (hk c) rfl s.th).trans hh
  rw [exec_callx, execCallx, issueWord_free _ _ _ hfree, callxBody]
  simp only [hw, ha, hr, hh1, Bool.false_eq_true, if_false, if_true, ne_eq, not_true_eq_false]

end

/-! ### The answer -/

/-- The end of a callee that replies, with nothing to release (R150). -/
theorem exec_reply_ends (hfree : s.Free (.reply a)) (ht : s.th.ticket.getLsbD 63 = true) (hc : s.hasCmds s.th = false) (hcalm : s.Calm) :
    exec (.reply a) s = .next ((s.released.answer s.th.ticket (s.th.read a)).endThread s.released.th) := by
  have hrel := release_calm (scope := 5) hcalm (by rw [hfree.ready]; exact nofun) (by decide)
  rw [exec_reply, execReply]
  refine issueWord_stop hfree ?_
  simp only [ht, hc, hrel, Bool.false_eq_true, if_false, reduceCtorEq]

theorem answer_taken {m : Answer} (hm : s.answers = [m]) :
    s.answers.find? (fun a => a.uid == m.uid) = some m ∧ s.answers.filter (fun x => x != m) = [] := by
  rw [hm]
  exact ⟨List.find?_cons_of_pos (beq_self_eq_true _), by rw [List.filter_cons_of_neg (by simp), List.filter_nil]⟩

section
variable {m : Answer} (hm : s.answers = [m]) (hg : s.getT m.uid = some t) (hw : t.wait = .callx d)
include hm hg hw

/-- The step that takes the only answer under way, a value, to its caller (R150). -/
theorem exec_callxAnswer_value (hf : m.fault = none) :
    exec (.callxAnswer m.uid) s = .next
      (if t.mode = .descheduled then ({ s with answers := [] } : State).keepT { t with wres := m.value, wresValid := true }
      else ({ s with answers := [] } : State).completeWord (t.write d m.value) m.value none .seq : State).unstall := by
  have he : exec (.callxAnswer m.uid) s = execCallxAnswer m.uid s := rfl
  obtain ⟨hfind, hrest⟩ := answer_taken hm
  rw [he, execCallxAnswer, event]
  simp only [hfind, hg, hrest, hw, hf]

/-- The same of a fault (R346). -/
theorem exec_callxAnswer_fault {tr : Trap} (hf : m.fault = some tr) (hmode : t.mode ≠ .descheduled) :
    exec (.callxAnswer m.uid) s = .next (({ s with answers := [] } : State).takeFault t tr t.word).unstall := by
  have he : exec (.callxAnswer m.uid) s = execCallxAnswer m.uid s := rfl
  obtain ⟨hfind, hrest⟩ := answer_taken hm
  rw [he, execCallxAnswer, event]
  simp only [hfind, hg, hrest, hw, hf, hmode, if_false]

end

/-! ### A catalogue walk (R356) -/

theorem assoc_nameFill (l : List (Nat × Nat)) (name c : Nat) : assoc (nameFill l name c) name = some c := by
  have h : (nameFill l name c).find? (fun p => p.1 == name) = some (name, c) := List.find?_cons_of_pos (by exact beq_self_eq_true name)
  rw [assoc, h]

theorem exec_nameWalkDone {core : Nat} {name : BitVec 16} (hr : s.resolveName core name.toNat = some (c, s1)) :
    exec (.nameWalkDone core name) s = .next s1.unstall := by
  have he : exec (.nameWalkDone core name) s = execNameWalkDone core name s := rfl
  rw [he, execNameWalkDone, event]
  simp only [hr]

end Sys2Proof.Machine
end

section
open Sys2Proof Sys2Proof.Machine

/-- Settles O32: a caller completes with the answer kept for it (`issueWord_answered`), or its request goes to the queue of the core that
it names (`exec_callx_calls`); a reply ends the callee (`exec_reply_ends`), and its answer completes the caller's word
(`exec_callxAnswer`). -/
theorem callsToOtherCores : Obligations.CallsToOtherCores := by
  unfold Obligations.CallsToOtherCores
  refine ⟨?kept, ?callx, ?reply, ?answer, ?fault, ?walk⟩
  case kept =>
    intro s d a b hfree hw
    rw [exec_callx, execCallx]
    exact issueWord_answered hfree (by exact if_pos hw)
  case callx =>
    intro s d a b c hfree hw
    refine ⟨fun ha => ?_, fun ha hn hc => ?_, fun ha hn hc hh hcalm => ?_, fun ha hn hc hh => ?_⟩
    · rw [State.Traps, exec_callx, execCallx]
      refine issueWord_trap hfree ?_
      rw [callxBody]
      simp only [hw, Bool.false_eq_true, if_false]
      exact if_pos ha
    · rw [State.Traps, exec_callx, execCallx]
      refine issueWord_trap hfree ?_
      rw [callxBody]
      simp only [hw, ha, resolveName_unmapped hn hc, Bool.false_eq_true, if_false, ne_eq, not_true_eq_false]
      rfl
    · have hr := resolveName_walks hn hc
      obtain ⟨cs, hs1, he⟩ := exec_callx_calls hfree hw ha hr hh hcalm
      have hk := (resolveName_frame hr).2 c
      rw [hs1] at he hk
      refine ⟨_, callee s c (s.th.read a) (s.th.read b), he, rfl, rfl, rfl, List.mem_append_right _ (List.mem_singleton.2 rfl), rfl, rfl, rfl,
        rfl, rfl, rfl, rfl, rfl, (calls_queue ..).trans ?_, calls_sameBytes _ _ _ _ _ _⟩
      exact congrArg (· ++ [s.nextId]) (congrArg CoreSt.queue hk :)
    · have hr := resolveName_walks hn hc
      have hk := (resolveName_frame hr).2 c
      exact ⟨_, exec_callx_held hfree hw ha hr hh, rfl, rfl, rfl, (holdBack_queue ..).trans (congrArg CoreSt.queue hk :),
        sameBytes_of_cells rfl rfl rfl rfl rfl⟩
  case reply =>
    intro s a hfree
    refine ⟨fun ht => ?_, fun ht hc hp hcalm => ⟨_, exec_reply_ends hfree ht hc hcalm, ?_, ?_, ?_⟩⟩
    · rw [State.Traps, exec_reply, execReply]
      exact issueWord_trap hfree (by exact if_pos ht)
    · obtain ⟨x, l, cs, es, ch, h⟩ := endThread_eq (s.released.answer s.th.ticket (s.th.read a)) s.released.th
      rw [h]
      rfl
    · exact endThread_lacks (s := s.released.answer s.th.ticket (s.th.read a)) fun o ho => (hcalm.present o ho).2
    · exact endThread_sameBytes (s.released.answer s.th.ticket (s.th.read a)) _
  case answer =>
    intro s u t d v hm ht hw
    have he := exec_callxAnswer_value hm ht.got hw rfl
    refine ⟨fun hmode => ?_, fun hmode => ?_⟩
    · rw [if_neg (by rw [hmode]; exact nofun)] at he
      obtain ⟨w, hg, hd⟩ := completed_getT (s := { s with answers := [] }) (d := d) (v := v) ht.got (getT_uid ht.got :)
      exact ⟨_, w, he, State.setT_answers .., hg, hd⟩
    · rw [if_pos hmode] at he
      obtain ⟨x, hx, hxw⟩ := keepT_getT (s := { s with answers := [] }) (t := { t with wres := v, wresValid := true }) ht.got
        (getT_uid ht.got :) ht.real
      rw [hxw (by rw [hw]; exact nofun)] at hx
      refine ⟨_, _, he, ?_, (unstall_getT ..).trans ((congrArg (Option.map Thread.looked) hx).trans
        (congrArg some (looked_awake (by rw [hmode]; exact nofun)))), rfl, rfl, rfl⟩
      exact (congrArg State.answers (keepT_bare { s with answers := [] } { t with wres := v, wresValid := true }) :)
  case fault =>
    intro s u t d tr hm ht hw hmode
    exact exec_callxAnswer_fault hm ht.got hw rfl (by rw [hmode]; exact nofun)
  case walk =>
    intro s core name c hn hc _
    have hr := resolveName_walks hn hc
    have hn : assoc ((s.setCore core { s.core core with names := nameFill (s.core core).names name.toNat c }).unstall.core core).names name.toNat =
        some c := by
      show assoc ((s.setCore core _).core core).names _ = _
      rw [core_setCore, if_pos rfl]
      exact assoc_nameFill ..
    refine ⟨_, exec_nameWalkDone hr, hn, fun sq x => (unstall_sameBytes _ sq x).trans (sameBytes_setCore s core _ sq x), ?_⟩
    unfold State.resolveName
    simp only [hn]

end

section

/-!
# Migration and arrival (R148, R149)
-/

namespace Sys2Proof.Machine

variable {s s1 : State} {t u w : Thread} {c k n : Nat} {a : Spec}

theorem exec_migr (a : Spec) (s : State) : exec (.migr a) s = execMigr a s := rfl

/-! ### A saved thread (R113) -/

/-- The image of a thread does not say whether the lock word that it waits for has been written. -/
theorem touched_image (a len : Nat) (t : Thread) (pc : Word) : (t.touched a len).image pc = t.image pc := by
  unfold Thread.touched
  split
  · next va pa b h =>
    split
    · have hw : ({ t with wait := .lock va pa true } : Thread).waitWord = t.waitWord := by simp only [Thread.waitWord, h]
      unfold Thread.image
      rw [hw]
      rfl
    · rfl
  · rfl

theorem keepT_saved {x : Ctx} (hk : t.saveAt = some k) (hc : s.ctx? t.ctx = some x) :
    s.keepT t = (s.setT t).put .mem (x.storeAt k) (wordBytes (t.image t.pc)) := by
  simp only [State.keepT, hk, hc]

/-- A thread that is kept at its place in the store is there but for what it waits for, and its image stands at that place (R113). -/
theorem keepT_stored {x : Ctx} (hk : t.saveAt = some k) (hc : s.ctx? t.ctx = some x) (hg : s.getT n = some u) (hu : t.uid = n)
    (hm : t.mode ≠ .empty) :
    ∃ y, (s.keepT t).getT n = some { t with wait := y } ∧ (∀ pc, ({ t with wait := y } : Thread).image pc = t.image pc) ∧
      s.Stored (s.keepT t) .mem (x.storeAt k) (wordBytes (t.image t.pc)) := by
  obtain ⟨len, hp⟩ := put_mem_getT (s.setT t) (x.storeAt k) (wordBytes (t.image t.pc))
  obtain ⟨y, hy⟩ := touched_eq (x.storeAt k) len t
  have hst := put_stored (s.setT t) .mem (x.storeAt k) (wordBytes (t.image t.pc))
  rw [keepT_saved hk hc]
  refine ⟨y, ?_, fun pc => ?_, hst.there, fun sq z h => (hst.elsewhere sq z h).trans (setT_sameBytes s t sq z)⟩
  · rw [hp, getT_setT hg hu hm, Option.map_some, hy]
  · rw [← hy, touched_image]

theorem stored_unstall {sp : Space} {bs : List Byte} (h : s.Stored s1 sp n bs) : s.Stored s1.unstall sp n bs where
  there := (readBytes_congr fun _ _ => unstall_sameBytes s1 _ _).trans h.there
  elsewhere := fun sq x hx => (unstall_sameBytes s1 sq x).trans (h.elsewhere sq x hx)

/-! ### The word -/

/-- A thread has left its slot for a core's arrival queue (R149). -/
def arriving (w : Thread) (c clk : Nat) : Thread :=
  { w with core := c, place := .queue, mode := .waiting, wait := .arrival, since := clk, seen := [] }

/-- The selected thread enters the arrival queue of another core, and nobody waits for the slot that it leaves. -/
theorem sendThread_arrival (hq : (s.core s.th.core).queue = []) (hc : c ≠ s.th.core) :
    s.sendThread s.th c .arrival =
      { s.setCore c { s.core c with queue := (s.core c).queue ++ [s.th.uid] } with th := arriving s.th c s.clk } := by
  have hset : s.setT (arriving s.th c s.clk) = { s with th := arriving s.th c s.clk } := setT_selected rfl
  unfold State.sendThread
  refine (congrArg (fun x : State => (x.setCore c { x.core c with queue := (x.core c).queue ++ [s.th.uid] }).serveQueue s.th.core) hset).trans
    (serveQueue_nil ?_)
  rw [core_setCore, if_neg (Ne.symm hc)]
  exact hq


section
variable (hfree : s.Free (.migr a)) (hr : s.resolveName s.th.core ((s.th.read a).toNat % 2 ^ 16) = some (c, s1))
include hfree hr

theorem exec_migr_stays (hc : c = s.th.core) :
    ∃ w, exec (.migr a) s = .next { s1 with th := w } ∧ s.th.Done w 0 0 s.th.ffl s.th.dz s.th.srnd := by
  obtain ⟨⟨cs, rfl⟩, -⟩ := resolveName_frame hr
  rw [exec_migr, execMigr]
  refine issueWord_leaves (s1 := { s with cores := cs }) hfree ?_ rfl
  simp only [hr, hc, if_true]

variable (hc : c ≠ s.th.core)
include hc

theorem exec_migr_pinned (hp : s.th.peng ≠ 7) : exec (.migr a) s = .next (s1.takeFault s.th { code := .priv } (encode (.migr a))) := by
  obtain ⟨⟨cs, rfl⟩, -⟩ := resolveName_frame hr
  rw [exec_migr, execMigr, issueWord_free _ _ _ hfree]
  simp only [hr, hc, hp, if_false, ne_eq, not_false_eq_true, if_true]
  rfl

variable (hp : s.th.peng = 7)
include hp

theorem exec_migr_busy (hb : s.hasCmds s.th = true) : exec (.migr a) s = .next s1.stallAt := by
  obtain ⟨⟨cs, rfl⟩, -⟩ := resolveName_frame hr
  have hb1 : ({ s with cores := cs } : State).hasCmds s.th = true := hb
  rw [exec_migr, execMigr, issueWord_free _ _ _ hfree]
  simp only [hr, hc, hp, hb1, if_false, ne_eq, not_true_eq_false, if_true]

variable (hb : s.hasCmds s.th = false)
include hb

theorem exec_migr_held (hh : s.sendHeld s.th c = true) : exec (.migr a) s = .next (s1.holdBack s.th c).stallAt := by
  obtain ⟨⟨cs, rfl⟩, hk⟩ := resolveName_frame hr
  have hb1 : ({ s with cores := cs } : State).hasCmds s.th = false := hb
  have hh1 : ({ s with cores := cs } : State).sendHeld s.th c = true := (sendHeld_congr (hk c) rfl s.th).trans hh
  rw [exec_migr, execMigr, issueWord_free _ _ _ hfree]
  simp only [hr, hc, hp, hb1, hh1, if_false, ne_eq, not_true_eq_false, if_true, Bool.false_eq_true]

/-- A migration with nothing to release: the word completes, and the thread is in the queue of the core that it names. -/
theorem exec_migr_leaves (hh : s.sendHeld s.th c = false) (hq : (s.core s.th.core).queue = []) (hcalm : s.Calm) :
    ∃ w cs, exec (.migr a) s = .next { s with th := arriving w c s.clk, cores := cs } ∧
      ({ s.th with seen := [] } : Thread).Done w 0 0 s.th.ffl s.th.dz s.th.srnd ∧
      (({ s with cores := cs } : State).core c).queue = (s.core c).queue ++ [s.th.uid] := by
  obtain ⟨⟨cs, rfl⟩, hk⟩ := resolveName_frame hr
  have hb1 : ({ s with cores := cs } : State).hasCmds s.th = false := hb
  have hh1 : ({ s with cores := cs } : State).sendHeld s.th c = false := (sendHeld_congr (hk c) rfl s.th).trans hh
  have hc1 : ({ s with cores := cs } : State).Calm := ⟨hcalm.stores, hcalm.loads, hcalm.errors, hcalm.deferred, hcalm.names, hcalm.present⟩
  have hrel := release_calm (scope := 5) hc1 (by show s.th.mode ≠ _; rw [hfree.ready]; exact nofun) (by decide)
  have hqueue (k : Nat) : (({ s with cores := cs } : State).core k).queue = (s.core k).queue := (congrArg CoreSt.queue (hk k) :)
  obtain ⟨w, hw, hd⟩ := completeWord_plain (({ s with cores := cs } : State).released.sentOff s.th c) ({ s with cores := cs } : State).released.th 0
  have hu : w.uid = s.th.uid := (done_uid hd :)
  have hcore : w.core = s.th.core := (congrArg Thread.core hd.kept :)
  have hset := setT_selected (s := ({ s with cores := cs } : State).released.sentOff s.th c) (t := w) hu.symm
  have hsent (k : Nat) : ((({ s with cores := cs } : State).released.sentOff s.th c).core k).queue = (s.core k).queue :=
    (sentOff_queue ({ s with cores := cs } : State).released s.th c k).trans (hqueue k)
  have hsend := sendThread_arrival (s := { ({ s with cores := cs } : State).released.sentOff s.th c with th := w }) (c := c)
    ((hsent w.core).trans (hcore ▸ hq)) (hcore ▸ hc)
  refine ⟨w, _, Eq.trans ?_ (congrArg Host.Outcome.next hsend), hd, ?_⟩
  · rw [exec_migr, execMigr, issueWord_free _ _ _ hfree]
    simp only [hr, hc, hp, hb1, hh1, hrel, if_false, ne_eq, not_true_eq_false, Bool.false_eq_true]
    rw [hw, hset]
  · refine (congrArg CoreSt.queue ((core_setCore _ c c _).trans (if_pos rfl)) :).trans ?_
    exact congrArg₂ (· ++ [·]) (hsent c) hu

end

/-! ### The steps of the module -/

/-- An arrival alone in its queue waits while no slot is free for it (R148). -/
theorem serveQueue_waits (hq : (s.core c).queue = [n]) (hg : s.getT n = some t) (hj : s.freeSlot c t.ctx = none) : s.serveQueue c = s := by
  simp only [State.serveQueue, hq, List.foldl_cons, List.foldl_nil, hg, hj]

/-- The thread that has entered a slot of a core (R148). -/
theorem serveQueue_enters (hq : (s.core c).queue = [n]) (hg : s.getT n = some t) (hj : s.freeSlot c t.ctx = some k) :
    s.serveQueue c = (s.setCore c { s.core c with queue := [] }).enterSlot t c k := by
  have hf : (s.core c).queue.filter (fun v => v != n) = [] := by simp [hq]
  rw [State.serveQueue, hq, List.foldl_cons, List.foldl_nil]
  simp only [hg, hj, hf]

/-- The launch whose bind record grants a slot to a thread, else the one that the thread has. -/
def State.ticketAt (s : State) (t : Thread) (core slot : Nat) : Nat :=
  match s.grant core t.ctx slot with
  | some b => b.ticket
  | none => t.bindTicket

/-- A migrating atomic waits in its slot (R148). -/
theorem enterSlot_amo {r : AmoReq} {m : Nat} (h : t.wait = .amo r) :
    s.enterSlot t c m =
      s.setT { t with core := c, slot := m, place := .slot, bindTicket := s.ticketAt t c m, since := s.clk, mode := .waiting } := by
  simp only [State.enterSlot, h]
  rfl

/-- Another arrival is ready in its slot (R148). -/
theorem enterSlot_ready {m : Nat} (h : ∀ r, t.wait ≠ .amo r) :
    s.enterSlot t c m = s.setT { t with
      core := c, slot := m, place := .slot, bindTicket := s.ticketAt t c m, since := s.clk, mode := .ready, wait := .none } := by
  unfold State.enterSlot
  dsimp only
  refine congrArg s.setT ?_
  split
  · next r e => exact absurd e (h r)
  · rfl

/-- A thread that is ready or waits in a slot of a core, with the registers of an arrival (R148). -/
structure Entered (t w : Thread) (c m : Nat) : Prop where
  place : w.core = c ∧ w.slot = m ∧ w.place = .slot
  registers : w.pc = t.pc ∧ w.g = t.g ∧ w.q = t.q
  uid : w.uid = t.uid
  mode : w.mode = .ready ∨ w.mode = .waiting
  ready : t.wait = .arrival → w.mode = .ready ∧ w.wait = .none
  atomic : ∀ r, t.wait = .amo r → w.mode = .waiting ∧ w.wait = .amo r

theorem enterSlot_entered (s : State) (t : Thread) (c m : Nat) : ∃ w, s.enterSlot t c m = s.setT w ∧ Entered t w c m := by
  by_cases h : ∃ r, t.wait = .amo r
  · obtain ⟨r, h⟩ := h
    exact ⟨_, enterSlot_amo h, ⟨rfl, rfl, rfl⟩, ⟨rfl, rfl, rfl⟩, rfl, .inr rfl, fun e => absurd (h.symm.trans e) nofun, fun _ e => ⟨rfl, e⟩⟩
  · exact ⟨_, enterSlot_ready fun r e => h ⟨r, e⟩, ⟨rfl, rfl, rfl⟩, ⟨rfl, rfl, rfl⟩, rfl, .inl rfl, fun _ => ⟨rfl, rfl⟩,
      fun r e => absurd ⟨r, e⟩ h⟩

/-- An entry of an arrival queue that has waited a quantum is saved (R148). -/
theorem exec_arrivalRelief {us : List Nat} (hq : (s.core s.unit).queue = n :: us) (hg : s.getT n = some t) (ht : t.uid = n)
    (hs : t.since + Config.quantum ≤ s.clk) (hk : s.storeSlot t.ctx none = some k) (hn : n ∉ us) :
    exec .arrivalRelief s = .next ((s.setCore s.unit { s.core s.unit with queue := us }).keepT
      { t with mode := .descheduled, since := s.clk, place := .saved, saveAt := some k }).unstall := by
  have he : exec .arrivalRelief s = execArrivalRelief s := rfl
  have hfind : ((s.core s.unit).queue.filterMap s.getT).find? (fun t => decide (t.since + Config.quantum ≤ s.clk)) = some t := by
    rw [hq, List.filterMap_cons_some hg]
    exact List.find?_cons_of_pos (decide_eq_true hs)
  have hf : (s.core s.unit).queue.filter (fun v => v != t.uid) = us := by
    rw [hq, ht, List.filter_cons_of_neg (by simp), List.filter_eq_self.2 fun v hv => bne_iff_ne.2 fun (e : v = n) => hn (e ▸ hv)]
  have hst : (s.setCore s.unit { s.core s.unit with queue := us }).stow { t with mode := .descheduled, since := s.clk } none =
      some ((s.setCore s.unit { s.core s.unit with queue := us }).keepT
        { t with mode := .descheduled, since := s.clk, place := .saved, saveAt := some k }) := by
    unfold State.stow
    exact congrArg (Option.map _) hk
  rw [he, execArrivalRelief, event]
  simp only [hfind, hf, hst]

end Sys2Proof.Machine
end

section
open Sys2Proof Sys2Proof.Machine

/-- Settles O33: the cases of migr are those of its body (`exec_migr_stays` to `exec_migr_leaves`); an arrival enters the slot that is free
for it (`serveQueue_enters`) or waits, and one that has waited a quantum is saved at its place (`exec_arrivalRelief`, `keepT_stored`). -/
theorem migration : Obligations.Migration := by
  unfold Obligations.Migration
  refine ⟨?word, ?arrival, ?retry, ?relief⟩
  case word =>
    intro s a hfree
    refine ⟨fun hn => ?_, fun c s1 hr => ⟨fun hc => ?_, fun hc hp => exec_migr_pinned hfree hr hc hp,
      fun hc hp hb => exec_migr_busy hfree hr hc hp hb, fun hc hp hb hh => exec_migr_held hfree hr hc hp hb hh, fun hc hp hb hh hq hcalm => ?_⟩⟩
    · rw [State.Traps, exec_migr, execMigr]
      refine issueWord_trap hfree ?_
      simp only [hn]
      rfl
    · obtain ⟨w, he, hd⟩ := exec_migr_stays hfree hr hc
      obtain ⟨⟨cs, rfl⟩, -⟩ := resolveName_frame hr
      exact ⟨_, he, hd, rfl⟩
    · obtain ⟨w, cs, he, hd, hcq⟩ := exec_migr_leaves hfree hr hc hp hb hh hq hcalm
      have hkept := done_keeps hd
      refine ⟨_, he, (done_uid hd :), rfl, rfl, rfl, rfl, ⟨hkept.registers, hkept.landing⟩, hd.shifted.y0, hd.shifted.y1,
        ⟨hd.advanced.seq, hd.advanced.last, hd.advanced.back⟩, hcq, sameBytes_of_cells rfl rfl rfl rfl rfl⟩
  case arrival =>
    intro s u t hq ht hm
    have he : exec .migrationArrival s = .next (s.serveQueue s.unit).unstall := rfl
    refine ⟨fun hj => by rw [he, serveQueue_waits hq ht.got hj], fun j hj => ?_⟩
    obtain ⟨w, hw, h⟩ := enterSlot_entered (s.setCore s.unit { s.core s.unit with queue := [] }) t s.unit j
    obtain ⟨hcore, hslot, hplace⟩ := h.place
    obtain ⟨hpc, hg, hqr⟩ := h.registers
    obtain ⟨x, l, hset⟩ := setT_eq (s.setCore s.unit { s.core s.unit with queue := [] }) w
    rw [serveQueue_enters hq ht.got hj, hw] at he
    have hgot : ((s.setCore s.unit { s.core s.unit with queue := [] }).setT w).getT u = some w :=
      getT_setT (s := s.setCore s.unit _) ht.got (h.uid.trans (getT_uid ht.got)) (by rcases h.mode with e | e <;> rw [e] <;> exact nofun)
    refine ⟨_, w, he, ?_, ?_, hcore, hslot, hplace, hpc, hg, hqr, ?_, h.ready, h.atomic⟩
    · rw [hset]
      exact (congrArg CoreSt.queue ((core_setCore s s.unit s.unit _).trans (if_pos rfl)) :)
    · rw [unstall_getT, hgot, Option.map_some, looked_awake (by rcases h.mode with e | e <;> rw [e] <;> exact nofun)]
    · intro sq x
      exact ((unstall_sameBytes _ sq x).trans (setT_sameBytes _ w sq x)).trans (sameBytes_setCore s s.unit _ sq x)
  case retry =>
    intro s u t ht hm
    have he : exec (.arrivalSendRetry u) s =
        .next (s.modT u fun t => if t.mode = .stalled then { t with mode := .ready } else t).unstall := rfl
    have hmod : (s.modT u fun t => if t.mode = .stalled then { t with mode := .ready } else t) = s.setT { t with mode := .ready } := by
      simp only [State.modT, ht.got, hm, if_true]
    rw [hmod] at he
    refine ⟨_, { t with mode := .ready }, he, ?_, ?_, rfl, fun sq x => (unstall_sameBytes _ sq x).trans (setT_sameBytes s _ sq x)⟩
    · rw [unstall_getT, getT_setT (u := { t with mode := .ready }) ht.got (getT_uid ht.got :) nofun]
      rfl
    · rw [← hm]
  case relief =>
    intro s u k us t c hq ht hs hc hk hn
    have hu := getT_uid ht.got
    obtain ⟨y, hy, himg, hst⟩ := keepT_stored (s := s.setCore s.unit { s.core s.unit with queue := us }) (n := u) (u := t) (k := k)
      (t := { t with mode := .descheduled, since := s.clk, place := .saved, saveAt := some k }) rfl hc ht.got hu nofun
    refine ⟨_, _, exec_arrivalRelief hq ht.got hu hs hk hn, ?_, (unstall_getT ..).trans ((congrArg (Option.map Thread.looked) hy).trans
      (congrArg some (looked_awake nofun))), rfl, rfl, rfl, rfl, ?_⟩
    · refine (congrArg (fun x : State => (x.core s.unit).queue) (keepT_bare (s.setCore s.unit { s.core s.unit with queue := us })
        { t with mode := .descheduled, since := s.clk, place := .saved, saveAt := some k }) :).trans ?_
      exact (congrArg CoreSt.queue ((core_setCore s s.unit s.unit _).trans (if_pos rfl)) :)
    · have h := stored_unstall hst
      rw [← himg] at h
      exact ⟨h.there, fun sq x hx => (h.elsewhere sq x hx).trans (sameBytes_setCore s s.unit _ sq x)⟩

end

section

/-!
# Lock words (R152, R339)
-/

namespace Sys2Proof.Machine

variable {s s1 : State} {t u w : Thread} {c n j pa : Nat} {a : Spec} {va : Word}

theorem exec_waitl (a : Spec) (s : State) : exec (.waitl a) s = execWaitl a s := rfl

/-! ### Reads of a lock word -/

/-- With nothing in flight and no store posted, a lock word reads as its bytes in memory, and the read leaves the thread as it is. -/
theorem readLock_calm (h : s.stores = []) (ht : t.inflight = []) :
    s.readLock t pa = (BitVec.ofNat 64 (s.readNat .mem pa 8), t) := by
  have hland : s.landOverlap t .mem pa 8 = t := by rw [State.landOverlap, ht]; rfl
  simp only [State.readLock, hland, viewBytes_no_stores h, State.acquired, State.seenStores, h, List.filter_nil, List.map_nil, List.append_nil]
  rfl

theorem exec_waitl_read (hfree : s.Free (.waitl a)) (ha : (s.th.read a).toNat % 8 = 0)
    (hr : s.resolve s.th 0 (s.th.read a) 8 .rd = .ok (.at .mem pa, s1)) (hcalm : s.Calm) :
    (∃ ws cs, s1 = { s with walkers := ws, cores := cs }) ∧
    (BitVec.ofNat 64 (s.readNat .mem pa 8) = (0 : Word) →
      ∃ w, exec (.waitl a) s = .next { s1 with th := w } ∧ s.th.Done w 0 0 s.th.ffl s.th.dz s.th.srnd) ∧
    (BitVec.ofNat 64 (s.readNat .mem pa 8) ≠ (0 : Word) →
      exec (.waitl a) s = .next (s1.waitAt (.waitl a) (.lock (s.th.read a) pa false))) := by
  obtain ⟨-, ⟨ws, cs, rfl⟩, -⟩ := resolve_frame (by decide) hr
  have hbad : ({ s with walkers := ws, cores := cs } : State).badAt .mem pa 8 = false := badAt_calm hcalm ..
  have hth : s.th ∈ s.threads := by
    rw [threads_selected (by rw [hfree.ready]; exact nofun)]
    exact List.mem_cons_self ..
  have hlock : ({ s with walkers := ws, cores := cs } : State).readLock s.th pa = (BitVec.ofNat 64 (s.readNat .mem pa 8), s.th) :=
    readLock_calm hcalm.stores (hcalm.loads _ hth)
  refine ⟨⟨ws, cs, rfl⟩, fun hv => ?_, fun hv => ?_⟩
  · rw [exec_waitl, execWaitl]
    refine issueWord_leaves (s1 := { s with walkers := ws, cores := cs }) hfree ?_ rfl
    simp only [ha, hr, hbad, hlock, hv, ne_eq, not_true_eq_false, if_false, if_true, Bool.false_eq_true]
  · rw [exec_waitl, execWaitl]
    refine issueWord_wait hfree ?_
    simp only [ha, hr, hbad, hlock, hv, ne_eq, not_true_eq_false, if_false, Bool.false_eq_true]

/-! ### Writes to a lock word -/

theorem put_mem_th (s : State) (a : Nat) (bs : List Byte) : (s.put .mem a bs).th = s.th.touched a bs.length := by
  obtain ⟨m, hm⟩ := writeBytes_mem_eq s a bs
  rw [writeBytes_eq_writeMasked] at hm
  unfold State.put State.putBytes
  rw [hm, full, List.length_map]
  simp only [State.clearBad, ite_self]
  rfl

/-- A thread that waits on a lock word sees a write that touches it. -/
theorem touched_lock {b : Bool} {len : Nat} {x : Nat} (h : t.wait = .lock va pa b) (h1 : x < pa + 8) (h2 : pa < x + len) :
    (t.touched x len).wait = .lock va pa true := by
  unfold Thread.touched
  rw [h]
  dsimp only
  rw [if_pos ⟨h1, h2⟩]

/-! ### Free slots (R140, R148) -/

/-- Where a thread stands, if it is one. -/
def Thread.standing (t : Thread) : Bool × Nat × Nat × Place := (t.mode == .empty, t.core, t.slot, t.place)

theorem freeSlot_congr {s t : State} (h : t.threads.map Thread.standing = s.threads.map Thread.standing) (hb : t.binds = s.binds) (c x : Nat) :
    t.freeSlot c x = s.freeSlot c x := by
  have hany (s : State) (m : Nat) : s.threads.any (fun t => t.core == c && t.slot == m && t.place == .slot) =
      (s.threads.map Thread.standing).any (fun p => p.2.1 == c && p.2.2.1 == m && p.2.2.2 == .slot) := by
    rw [List.any_map]
    rfl
  simp only [State.freeSlot, State.slotEmpty, State.grant, hany, h, hb]

/-- A thread replaced by one that stands in its place. -/
theorem setT_standing (h0 : s.th.uid = t.uid → s.th.standing = t.standing)
    (h1 : s.th.uid ≠ t.uid → ∀ o ∈ s.others, o.uid = t.uid → o.standing = t.standing) :
    (s.setT t).threads.map Thread.standing = s.threads.map Thread.standing := by
  have hthreads (s : State) : s.threads.map Thread.standing =
      if s.th.standing.1 then s.others.map Thread.standing else s.th.standing :: s.others.map Thread.standing := by
    unfold State.threads
    by_cases h : s.th.mode = .empty
    · rw [if_pos h, if_pos (by exact beq_iff_eq.2 h)]
    · rw [if_neg h, if_neg (by rw [Thread.standing]; simpa using h), List.map_cons]
  rw [hthreads, hthreads]
  by_cases hu : s.th.uid = t.uid
  · have he : s.setT t = { s with th := t } := setT_selected hu
    rw [he, h0 hu]
  · have hm : (s.others.map fun o => if o.uid = t.uid then t else o).map Thread.standing = s.others.map Thread.standing := by
      rw [List.map_map]
      refine List.map_congr_left fun o ho => ?_
      dsimp only [Function.comp_apply]
      split
      · next h => exact (h1 hu o ho h).symm
      · rfl
    have he : s.setT t = { s with others := s.others.map fun o => if o.uid = t.uid then t else o } := if_neg hu
    rw [he, hm]

/-- Where the threads stand once one of them has been kept: those of its name stand where it does. -/
theorem keepT_standing (s : State) (t : Thread) :
    ((s.keepT t).th.uid = t.uid → (s.keepT t).th.standing = t.standing) ∧
      ((s.keepT t).th.uid ≠ t.uid → ∀ o ∈ (s.keepT t).others, o.uid = t.uid → o.standing = t.standing) := by
  have hset : ((s.setT t).th.uid = t.uid → (s.setT t).th.standing = t.standing) ∧
      ((s.setT t).th.uid ≠ t.uid → ∀ o ∈ (s.setT t).others, o.uid = t.uid → o.standing = t.standing) := by
    unfold State.setT
    split
    · next h => exact ⟨fun _ => rfl, fun h' => absurd rfl h'⟩
    · next h =>
      refine ⟨fun h' => absurd h' h, fun _ o ho hu => ?_⟩
      obtain ⟨x, -, rfl⟩ := List.mem_map.1 ho
      split
      · rfl
      · next hx => rw [if_neg hx] at hu; exact absurd hu hx
  unfold State.keepT
  split
  · next k c _ _ =>
    obtain ⟨m, len, e⟩ := put_mem_eq (s.setT t) (c.storeAt k) (wordBytes (t.image t.pc))
    have htouch (x : Thread) : (x.touched (c.storeAt k) len).uid = x.uid ∧ (x.touched (c.storeAt k) len).standing = x.standing := by
      obtain ⟨y, hy⟩ := touched_eq (c.storeAt k) len x
      rw [hy]
      exact ⟨rfl, rfl⟩
    rw [e]
    dsimp only
    rw [(htouch _).1, (htouch _).2]
    refine ⟨hset.1, fun h o ho hu => ?_⟩
    obtain ⟨x, hx, rfl⟩ := List.mem_map.1 ho
    rw [(htouch x).1] at hu
    rw [(htouch x).2]
    exact hset.2 h x hx hu
  · exact hset

/-- A thread that a step of the module leaves awake is found by its name. -/
theorem setT_unstall_getT (hg : s.getT n = some u) (hu : w.uid = n) (he : w.mode ≠ .empty) (hs : w.mode ≠ .stalled) :
    (s.setT w).unstall.getT n = some w := by
  rw [unstall_getT, getT_setT hg hu he, Option.map_some, looked_awake hs]

/-! ### A saved thread takes a slot again (R113, R135, R339) -/

theorem restore_uid (t : Thread) (f : Nat → Word) : (t.restore f).uid = t.uid := by
  simp only [Thread.restore, Thread.setPxs]

theorem unstow_uid (s : State) (t : Thread) : (s.unstow t).uid = t.uid := by
  unfold State.unstow
  split
  · simp only [restore_uid]
  · rfl

/-- A context is reloaded from memory alone. -/
theorem unstow_congr {s t : State} (hm : t.mem = s.mem) (hc : t.ctxs = s.ctxs) (x : Thread) : t.unstow x = s.unstow x := by
  have hctx (n : Nat) : t.ctx? n = s.ctx? n := by rw [State.ctx?, hc, State.ctx?]
  have hread (i : Nat) : t.readNat .mem i 8 = s.readNat .mem i 8 :=
    congrArg ofLe (readBytes_congr fun k _ => by rw [State.readByte, State.readByte, State.cells, State.cells, hm])
  simp only [State.unstow, hctx, hread]

/-- A thread whose context has been reloaded, ready in a slot. -/
def State.resumed (s : State) (t : Thread) (core slot : Nat) : Thread :=
  { s.unstow t with
    core := core, slot := slot, place := .slot, bindTicket := s.ticketAt t core slot, since := s.clk, mode := .ready, wait := .none }

theorem resumed_uid (s : State) (t : Thread) (c j : Nat) : (s.resumed t c j).uid = t.uid := unstow_uid s t

/-- A thread whose word runs again is ready in its slot. -/
theorem resumeAt_ready (h : t.wait = .none) : s.resumeAt t c j = s.setT (s.resumed t c j) := by
  simp only [State.resumeAt, h]
  rfl

/-- The registrar's lendings of a thread have ended (R339). -/
def State.unlent (s : State) (n : Nat) : State := { s with reg := { s.reg with lends := s.reg.lends.filter (fun e => e.waiter != n) } }

/-- A thread whose lock word has been written is ready in its slot, and lends it no more (R339). -/
theorem resumeAt_lock (h : t.wait = .lock va pa true) : s.resumeAt t c j = (s.unlent t.uid).setT (s.resumed t c j) := by
  simp only [State.resumeAt, h]
  rfl

theorem resumeThread_free {l : List Nat} (h : s.freeSlot t.core t.ctx = some j) : s.resumeThread t l = s.resumeAt t t.core j := by
  rw [State.resumeThread, h]

/-! ### Lending a slot (R339) -/

theorem landAll_uid (s : State) (t : Thread) : (s.landAll t).uid = t.uid := by
  have hload (t : Thread) (f : InFlight) : (s.landLoad t f).uid = t.uid := by
    cases h : f.late with
    | load r =>
      obtain ⟨l, hl⟩ := landLoad_eq s t h
      rw [hl, land_eq]
      rfl
    | status => rw [State.landLoad, h]
  have hfold (l : List InFlight) (t : Thread) : (l.foldl (fun u f => s.landLoad u f) t).uid = t.uid := by
    induction l generalizing t with
    | nil => rfl
    | cons f l ih => exact (ih _).trans (hload t f)
  exact hfold ..

/-- A thread that has been saved, at its place in the store (R113, R135). -/
def State.savedAs (s : State) (t : Thread) (k : Nat) : Thread :=
  { s.landAll t with mode := .descheduled, wait := t.wait.kept, since := s.clk, place := .saved, saveAt := some k }

theorem saveThread_keeps {s2 : State} (h : s.saveThread t none = some s2) : ∃ k, s2 = (s.unwait t).keepT (s.savedAs t k) := by
  unfold State.saveThread at h
  split at h
  · obtain ⟨k, -, hk⟩ := Option.map_eq_some_iff.1 h
    exact ⟨k, hk.symm⟩
  · exact absurd h nofun

/-- A thread of another name stands as it did, but for what it waits for, once one has been kept. -/
theorem keepT_getT_other (h : t.uid ≠ n) (hg : s.getT n = some u) : ∃ x, (s.keepT t).getT n = some { u with wait := x } := by
  have hset : (s.setT t).getT n = some u := (getT_setT_other h).trans hg
  unfold State.keepT
  split
  · next k c _ _ =>
    obtain ⟨len, hp⟩ := put_mem_getT (s.setT t) (c.storeAt k) (wordBytes (t.image t.pc))
    obtain ⟨x, hx⟩ := touched_eq (c.storeAt k) len u
    exact ⟨x, by rw [hp, hset, Option.map_some, hx]⟩
  · exact ⟨u.wait, hset⟩

theorem learnName_eq (s : State) (i : Iface) (n : Nat) : ∃ cs, s.learnName i n = { s with caches := cs } := by
  unfold State.learnName
  split
  · exact ⟨_, rfl⟩
  · exact ⟨s.caches, rfl⟩

/-- A look at the lock words changes name caches alone (R356). -/
theorem readLocks_eq (s : State) : ∃ cs, s.readLocks = { s with caches := cs } := by
  have hfold (l : List Thread) (s : State) : ∃ cs, l.foldl (fun s w => match w.onLock with
      | some pa => if nfield (s.readNat .mem pa 8) 20 6 = w.ctx then s.learnName .registrar (s.readNat .mem pa 8 % 2 ^ 16) else s
      | none => s) s = { s with caches := cs } := by
    induction l generalizing s with
    | nil => exact ⟨s.caches, rfl⟩
    | cons w l ih =>
      have hone : ∃ cs, (match w.onLock with
          | some pa => if nfield (s.readNat .mem pa 8) 20 6 = w.ctx then s.learnName .registrar (s.readNat .mem pa 8 % 2 ^ 16) else s
          | none => s) = ({ s with caches := cs } : State) := by
        split
        · split
          · exact learnName_eq ..
          · exact ⟨s.caches, rfl⟩
        · exact ⟨s.caches, rfl⟩
      obtain ⟨cs, h⟩ := hone
      obtain ⟨cs', h'⟩ := ih { s with caches := cs }
      exact ⟨cs', by rw [List.foldl_cons, h, h']⟩
  exact hfold ..

/-- A waiter, which has been saved, goes on waiting and lends its slot to the holder of its lock word (R339). -/
def State.lendsSlot (s : State) (w h : Thread) (va : Word) (pa pri : Nat) : State :=
  let s1 := s.modT w.uid (fun t => { t with wait := .lock va pa false })
  { s1.readLocks with
    reg := { s1.reg with
      lends := s1.reg.lends.filter (fun o => o.waiter != w.uid) ++ [{ holder := h.uid, waiter := w.uid, pri := pri, pa := pa }] } }

/-- A thread replaced, with other name caches and other lendings. -/
def State.lent (s : State) (t : Thread) (cs : List (Iface × List (Nat × Nat))) (l : List Lend) : State :=
  { s.setT t with caches := cs, reg := { s.reg with lends := l } }

theorem lendsSlot_eq {h : Thread} {pri : Nat} (hg : s.getT w.uid = some u) :
    ∃ cs l, s.lendsSlot w h va pa pri =
      s.lent { u with wait := .lock va pa false } cs (l ++ [{ holder := h.uid, waiter := w.uid, pri := pri, pa := pa }]) := by
  have hmod : s.modT w.uid (fun t => { t with wait := .lock va pa false }) = s.setT { u with wait := .lock va pa false } := by
    simp only [State.modT, hg]
  obtain ⟨cs, hcs⟩ := readLocks_eq (s.setT { u with wait := .lock va pa false })
  refine ⟨cs, s.reg.lends.filter (fun o => o.waiter != w.uid), ?_⟩
  simp only [State.lendsSlot, State.lent, hmod, hcs, State.setT_reg]

theorem exec_lockLend {s2 : State} {h : Thread} (hg : s.getT n = some w) (hm : w.mode = .waiting) (hw : w.wait = .lock va pa false)
    (hh : s.holderOf w (s.readNat .mem pa 8) = some h) (hp : s.threadPri h < s.threadPri w) (hr : s.resumable h = true)
    (hs : s.saveThread w none = some s2) :
    exec (.lockLend n) s = .next ((s2.lendsSlot w h va pa (s.threadPri w)).resumeThread h [h.uid]).unstall := by
  have he : exec (.lockLend n) s = execLockLend n s := rfl
  have hnot : ¬ (s.threadPri w ≤ s.threadPri h ∨ s.resumable h = false) := by rw [hr]; simp [hp]
  rw [he, execLockLend, event]
  simp only [hg, hm, hw, if_true, hh, hs, if_neg hnot]
  rfl

theorem exec_waitlEnd_reads (hg : s.getT n = some t) (hw : t.wait = .lock va pa true) (hm : t.mode = .waiting) (hcalm : s.Calm) :
    exec (.waitlEnd n) s = .next (s.completeWord t (BitVec.ofNat 64 (s.readNat .mem pa 8)) none .seq).unstall := by
  have he : exec (.waitlEnd n) s = execWaitlEnd n s := rfl
  have hlock := readLock_calm (pa := pa) hcalm.stores (hcalm.loads t (getT_mem hg))
  have hbad := badAt_calm hcalm .mem pa 8
  rw [he, execWaitlEnd, event]
  simp only [hg, hw, hm, hlock, hbad, reduceCtorEq, if_false, ne_eq, not_true_eq_false, Bool.false_eq_true]

theorem exec_waitlEnd_resumes (hg : s.getT n = some t) (hw : t.wait = .lock va pa true) (hm : t.mode = .descheduled) :
    exec (.waitlEnd n) s = .next (s.resumeThread t [t.uid]).unstall := by
  have he : exec (.waitlEnd n) s = execWaitlEnd n s := rfl
  rw [he, execWaitlEnd, event]
  simp only [hg, hw, hm, if_true]

end Sys2Proof.Machine
end

section
open Sys2Proof Sys2Proof.Machine

/-- Settles O35: waitl reads the lock word (`exec_waitl_read`), a write to it ends the wait (`touched_lock`), the waiter lends its slot to the
holder (`exec_lockLend`, `lendsSlot_eq`) and takes one again (`resumeAt_lock`). -/
theorem lockWords : Obligations.LockWords := by
  unfold Obligations.LockWords
  refine ⟨?word, ?ends, ?write, ?lend, ?resume⟩
  case word =>
    intro s s1 a pa hfree
    refine ⟨fun ha => ?_, fun ha hr hcalm => ?_⟩
    · rw [State.Traps, exec_waitl, execWaitl]
      exact issueWord_trap hfree (by exact if_pos ha)
    · obtain ⟨⟨ws, cs, rfl⟩, hfreed, hheld⟩ := exec_waitl_read hfree ha hr hcalm
      refine ⟨fun hv => ?_, fun hv => ⟨_, hheld hv, rfl, rfl, rfl, sameBytes_of_cells rfl rfl rfl rfl rfl⟩⟩
      obtain ⟨w, he, hd⟩ := hfreed hv
      exact ⟨_, he, hd, sameBytes_of_cells rfl rfl rfl rfl rfl⟩
  case ends =>
    intro s u pa t va ht hw hm hcalm
    obtain ⟨w, hg, hd⟩ := completed_getT_plain (v := BitVec.ofNat 64 (s.readNat .mem pa 8)) ht.got (getT_uid ht.got)
    exact ⟨_, w, exec_waitlEnd_reads ht.got hw hm hcalm, hg, hd⟩
  case write =>
    rintro s _ a bs va pa hw rfl h1 h2
    rw [put_mem_th]
    exact touched_lock hw h1 h2
  case lend =>
    intro s s2 u pa j w h va hw hm hwait hpl hh hhold hne hp hr hs hj hnone
    have hwu : w.uid = u := getT_uid hw.got
    subst hwu
    obtain ⟨k, rfl⟩ := saveThread_keeps hs
    have hsu : (s.savedAs w k).uid = w.uid := landAll_uid s w
    have hkept : (s.savedAs w k).wait = .none := by
      show w.wait.kept = _
      rw [hwait]
      rfl
    obtain ⟨x, hx, hxw⟩ := keepT_getT (s := s.unwait w) (t := s.savedAs w k) hw.got hsu nofun
    rw [hxw (by rw [hkept]; exact nofun)] at hx
    obtain ⟨y, hy⟩ := keepT_getT_other (s := s.unwait w) (t := s.savedAs w k) (by rw [hsu]; exact Ne.symm hne) hhold.got
    obtain ⟨cs, l, hl⟩ := lendsSlot_eq (h := h) (va := va) (pa := pa) (pri := s.threadPri w) hx
    have hhu : h.uid ≠ (s.savedAs w k).uid := by rw [hsu]; exact hne
    have hst := keepT_standing (s.unwait w) (s.savedAs w k)
    have hfree := (freeSlot_congr (t := ((s.unwait w).keepT (s.savedAs w k)).lent { s.savedAs w k with wait := .lock va pa false } cs
      (l ++ [{ holder := h.uid, waiter := w.uid, pri := s.threadPri w, pa := pa }]))
      (setT_standing hst.1 hst.2) (State.setT_binds ..) h.core h.ctx).trans hj
    have hunstow := unstow_congr (t := ((s.unwait w).keepT (s.savedAs w k)).lent { s.savedAs w k with wait := .lock va pa false } cs
      (l ++ [{ holder := h.uid, waiter := w.uid, pri := s.threadPri w, pa := pa }])) (State.setT_mem ..) (State.setT_ctxs ..) h
    have he := exec_lockLend hw.got hm hwait hh hp hr hs
    rw [hl, resumeThread_free hfree, resumeAt_ready hnone] at he
    have hru : (State.resumed _ h h.core j).uid = h.uid := resumed_uid (((s.unwait w).keepT (s.savedAs w k)).lent
      { s.savedAs w k with wait := .lock va pa false } cs (l ++ [{ holder := h.uid, waiter := w.uid, pri := s.threadPri w, pa := pa }])) h h.core j
    refine ⟨_, { s.savedAs w k with wait := .lock va pa false }, _, he, ?_, rfl, rfl, rfl,
      setT_unstall_getT ((getT_setT_other (t := { s.savedAs w k with wait := .lock va pa false }) (Ne.symm hhu)).trans hy) hru nofun nofun,
      rfl, rfl, rfl, (congrArg Thread.pc hunstow :), (congrArg Thread.g hunstow :), ?_⟩
    · rw [unstall_getT, getT_setT_other (by rw [hru]; exact hne)]
      exact congrArg (Option.map Thread.looked) (getT_setT (u := { s.savedAs w k with wait := .lock va pa false }) hx hsu nofun)
    · rw [State.unstall_reg, State.setT_reg]
      exact List.mem_append_right _ (List.mem_singleton.2 rfl)
  case resume =>
    intro s u pa j t va ht hw hm hj
    have hu := getT_uid ht.got
    have he := exec_waitlEnd_resumes ht.got hw hm
    rw [resumeThread_free hj, resumeAt_lock hw] at he
    refine ⟨_, s.resumed t t.core j, he, setT_unstall_getT (s := s.unlent t.uid) ht.got ((resumed_uid s t t.core j).trans hu) nofun nofun,
      rfl, rfl, rfl, rfl, rfl, fun e hm => ?_⟩
    rw [State.unstall_reg, State.setT_reg] at hm
    have := (List.mem_filter.1 hm).2
    rwa [hu, bne_iff_ne] at this

end

section

/-!
# Bus barriers (R146, R147)
-/

namespace Sys2Proof.Machine

variable {s s1 : State} {t u w : Thread} {n before bus bid ctx : Nat} {bval cw v : Word} {i : Instr} {dst : Option Spec} {a : Arrival}

/-! ### A released participant (R146) -/

/-- What a released participant answers: the root's value to a bcast, to a barr the releases so far, with bit 63 for another count. -/
def busAnswer (before : Nat) (bval : Word) (d : Option Spec) (odd : Bool) : Word :=
  if d.isSome then bval else BitVec.ofNat 64 (before + (if odd then 2 ^ 63 else 0))

theorem busComplete_waiting {d : Option Spec} {k : Nat} (hg : s.getT a.uid = some u) (hw : u.wait = .bus d k) (hm : u.mode = .waiting) :
    ∃ w, s.busComplete before bval a = s.setT w ∧ u.Done w (d.getD 0) (busAnswer before bval d a.mismatch) u.ffl u.dz u.srnd := by
  unfold State.busComplete
  simp only [hg, hw, hm, reduceCtorEq, if_false]
  cases d with
  | none => exact completeWord_plain s u _
  | some d => exact completeWord_written s u d bval

/-- A thread waits at its bus word. -/
def State.AtBus (s : State) (a : Arrival) : Prop := ∃ u d k, s.getT a.uid = some u ∧ u.wait = .bus d k ∧ u.mode = .waiting

theorem atBus_congr {t : State} (h : t.getT a.uid = s.getT a.uid) (hb : s.AtBus a) : t.AtBus a := by
  obtain ⟨u, d, k, hg, hr⟩ := hb
  exact ⟨u, d, k, h.trans hg, hr⟩

/-- What the release of participants leaves: threads of other names, and of each participant the thread whose word has completed. -/
structure Freed (before : Nat) (bval : Word) (as : List Arrival) (s t : State) : Prop where
  frame : ∃ x l, t = { s with th := x, others := l }
  selected : t.th.uid = s.th.uid ∧ (s.th.mode ≠ .empty → t.th.mode ≠ .empty)
  others : ∀ n, (∀ a ∈ as, a.uid ≠ n) → t.getT n = s.getT n
  each : ∀ a ∈ as, ∀ u d k, s.getT a.uid = some u → u.wait = .bus d k →
    ∃ w, t.getT a.uid = some w ∧ u.Done w (d.getD 0) (busAnswer before bval d a.mismatch) u.ffl u.dz u.srnd

theorem freed_one (h : s.AtBus a) : Freed before bval [a] s (s.busComplete before bval a) := by
  obtain ⟨u, d, k, hg, hw, hm⟩ := h
  obtain ⟨w, he, hd⟩ := busComplete_waiting (before := before) (bval := bval) hg hw hm
  have hu : w.uid = a.uid := (done_uid hd).trans (getT_uid hg)
  rw [he]
  refine ⟨setT_eq s w, ⟨(setT_names s w).1, fun h0 => ?_⟩, fun n hn => ?_, fun b hb u' d' k' hg' hw' => ?_⟩
  · by_cases h : s.th.uid = w.uid
    · rw [setT_selected h]
      exact done_present hd
    · rw [setT_th_other h]
      exact h0
  · exact getT_setT_other (by rw [hu]; exact hn a (List.mem_singleton.2 rfl))
  · obtain rfl := List.mem_singleton.1 hb
    obtain rfl := Option.some.inj (hg.symm.trans hg')
    obtain ⟨rfl, -⟩ := Wait.bus.inj (hw.symm.trans hw')
    exact ⟨w, done_getT hg (getT_uid hg) hd, hd⟩

/-- Participants of different names are released one after the other. -/
theorem freed_all (as : List Arrival) (hn : (as.map Arrival.uid).Nodup) (h : ∀ a ∈ as, s.AtBus a) :
    Freed before bval as s (as.foldl (fun s a => s.busComplete before bval a) s) := by
  induction as generalizing s with
  | nil => exact ⟨⟨_, _, rfl⟩, ⟨rfl, id⟩, fun _ _ => rfl, nofun⟩
  | cons a as ih =>
    obtain ⟨ha, hn⟩ := List.nodup_cons.1 hn
    have hne (b : Arrival) (hb : b ∈ as) : a.uid ≠ b.uid := fun e => ha (e ▸ List.mem_map_of_mem hb)
    have h1 := freed_one (before := before) (bval := bval) (h a (List.mem_cons_self ..))
    have hstay (b : Arrival) (hb : b ∈ as) : (s.busComplete before bval a).getT b.uid = s.getT b.uid :=
      h1.others b.uid fun c hc => by rw [List.mem_singleton.1 hc]; exact hne b hb
    have h2 := ih hn fun b hb => atBus_congr (hstay b hb) (h b (List.mem_cons_of_mem _ hb))
    obtain ⟨x, l, he⟩ := h1.frame
    refine ⟨?_, ⟨h2.selected.1.trans h1.selected.1, h2.selected.2 ∘ h1.selected.2⟩, fun n hn => ?_, fun b hb u d k hg hw => ?_⟩
    · obtain ⟨y, m, he2⟩ := h2.frame
      rw [List.foldl_cons, he2, he]
      exact ⟨y, m, rfl⟩
    · exact (h2.others n fun b hb => hn b (List.mem_cons_of_mem _ hb)).trans
        (h1.others n fun b hb => hn b (List.mem_singleton.1 hb ▸ List.mem_cons_self ..))
    · rcases List.mem_cons.1 hb with rfl | hb
      · obtain ⟨w, hw1, hd⟩ := h1.each b (List.mem_singleton.2 rfl) u d k hg hw
        exact ⟨w, (h2.others b.uid fun c hc => (hne c hc).symm).trans hw1, hd⟩
      · exact h2.each b hb u d k ((hstay b hb).trans hg) hw

/-! ### Counts of releases (R147) -/

theorem busReleased_count (s : State) (bus bid ctx : Nat) :
    (s.busReleased bus bid ctx).busCount bus bid ctx = (s.busCount bus bid ctx + 1) % 2 ^ 32 := by
  have hnone : (s.busCounts.filter fun p => !(p.1 == bus && p.2.1 == bid && p.2.2.1 == ctx)).find?
      (fun p => p.1 == bus && p.2.1 == bid && p.2.2.1 == ctx) = none := by
    refine List.find?_eq_none.2 fun p hp h => ?_
    have := (List.mem_filter.1 hp).2
    rw [h] at this
    exact absurd this (by decide)
  have hone : ∀ m : Nat, [(bus, bid, ctx, m)].find? (fun p : Nat × Nat × Nat × Nat => p.1 == bus && p.2.1 == bid && p.2.2.1 == ctx) = some (bus, bid, ctx, m) :=
    fun m => by simp
  rw [State.busReleased, State.busCount]
  simp only [List.find?_append, hnone, hone, Option.none_or]

/-! ### Arrivals (R146) -/

/-- An instance of a key. -/
def busKey (bus bid ctx : Nat) (b : BusInst) : Bool := b.bus == bus && b.bid == bid && b.ctx == ctx

/-- The arrival of a thread with a count at an instance of count n. -/
def arrivalOf (t : Thread) (root : Bool) (v : Word) (count n : Nat) : Arrival :=
  { uid := t.uid, coord := coreCoord t.core, slot := t.slot, root := root, value := v, mismatch := count != n }

theorem arrivalOf_mismatch {t : Thread} {root : Bool} {v : Word} {count n : Nat} :
    (arrivalOf t root v count n).mismatch = decide (count ≠ n) := by
  rw [decide_not]
  rfl

/-- The value of the first root to arrive, or 0. -/
def rootValue (as : List Arrival) : Word := match as.find? Arrival.root with | some a => a.value | none => 0

/-- The release of an instance: its key counts one release more, and its participants complete. -/
def State.freeAll (s : State) (bus bid ctx : Nat) (as : List Arrival) : State :=
  as.foldl (fun x a => x.busComplete (s.busCount bus bid ctx) (rootValue as) a)
    (({ s with buses := s.buses.filter (fun b => !busKey bus bid ctx b) } : State).busReleased bus bid ctx)

variable {count : Nat} {root : Bool}

theorem filter_absent {p : BusInst → Bool} {l : List BusInst} (h : l.find? p = none) : l.filter (fun b => !p b) = l :=
  List.filter_eq_self.2 fun b hb => by simpa using List.find?_eq_none.1 h b hb

theorem arrive_first (h : s.buses.find? (busKey bus bid t.ctx) = none) :
    s.arrive t bus bid count root v =
      if 1 < count then
        { s with buses := s.buses ++ [{ bus := bus, bid := bid, ctx := t.ctx, count := count, arrivals := [arrivalOf t root v count count] }] }
      else s.freeAll bus bid t.ctx [arrivalOf t root v count count] := by
  have hf := filter_absent h
  unfold busKey at h hf
  unfold State.arrive State.freeAll busKey
  simp only [h, hf]
  rfl

theorem arrive_next {b : BusInst} (h : s.buses.find? (busKey bus bid t.ctx) = some b) :
    s.arrive t bus bid count root v =
      if b.arrivals.length + 1 < b.count then
        { s with buses := s.buses.filter (fun b => !busKey bus bid t.ctx b) ++
          [{ b with arrivals := b.arrivals ++ [arrivalOf t root v count b.count] }] }
      else s.freeAll bus bid t.ctx (b.arrivals ++ [arrivalOf t root v count b.count]) := by
  unfold busKey at h
  unfold State.arrive State.freeAll busKey
  simp only [h, List.length_append, List.length_singleton]
  rfl

/-- The last arrival releases every participant of its instance, itself among them. -/
theorem freeAll_freed {as : List Arrival} (hn : (as.map Arrival.uid).Nodup) (h : ∀ a ∈ as, s.AtBus a) :
    Freed (s.busCount bus bid ctx) (rootValue as) as
      (({ s with buses := s.buses.filter (fun b => !busKey bus bid ctx b) } : State).busReleased bus bid ctx) (s.freeAll bus bid ctx as) :=
  freed_all as hn fun a ha => atBus_congr (s := s) rfl (h a ha)

/-! ### The words -/

/-- The words that arrive at a bus, with the registers that they name (R147). -/
theorem busWord_exec (h : (∃ a, i = .barr a ∧ dst = none ∧ cw = s.th.read a ∧ v = 0) ∨
      (∃ d a, i = .bcast d a ∧ dst = some d ∧ cw = s.th.read d ∧ v = s.th.read a)) :
    ∃ body, exec i s = issueWord i body s ∧ body s = busBody i dst cw v s := by
  rcases h with ⟨a, rfl, rfl, rfl, rfl⟩ | ⟨d, a, rfl, rfl, rfl, rfl⟩
  · have he : exec (.barr a) s = execBarr a s := rfl
    exact ⟨_, he.trans (by rw [execBarr]), by rfl⟩
  · have he : exec (.bcast d a) s = execBcast d a s := rfl
    exact ⟨_, he.trans (by rw [execBcast]), by rfl⟩

/-- The selected thread waits at its bus word (R147). -/
def State.busWaits (s : State) (i : Instr) (dst : Option Spec) (cw : Word) : State := s.released.waitAt i (.bus dst (fieldOf cw 0 5))

/-- The body of a word that arrives, with nothing to release. -/
theorem busBody_arrives (hfree : s.Free i) (hw : s.th.wresValid = false) (hc : fieldOf cw 16 9 ≤ 255)
    (hroom : s.buses.find? (busKey (busOf s.th.core (cw.getLsbD 4)) (fieldOf cw 0 4) s.th.ctx) = none →
      (s.buses.filter (fun b => b.bus == busOf s.th.core (cw.getLsbD 4))).length < 64) (hcalm : s.Calm) :
    busBody i dst cw v s = .wait ((s.busWaits i dst cw).arrive (s.busWaits i dst cw).th
      (busOf s.th.core (cw.getLsbD 4)) (fieldOf cw 0 4) (fieldOf cw 16 9 + 1) (dst.isSome && cw.getLsbD 8) v) := by
  have hrel (x : Bool) := release_calm (scope := if x then 4 else 3) hcalm (by rw [hfree.ready]; exact nofun) (by cases x <;> decide)
  have hbusy : (!s.buses.any (fun b => b.bus == busOf s.th.core (cw.getLsbD 4) && b.bid == fieldOf cw 0 4 && b.ctx == s.th.ctx) &&
      decide (64 ≤ (s.buses.filter (fun b => b.bus == busOf s.th.core (cw.getLsbD 4))).length)) = false := by
    by_cases h : s.buses.find? (busKey (busOf s.th.core (cw.getLsbD 4)) (fieldOf cw 0 4) s.th.ctx) = none
    · rw [decide_eq_false (Nat.not_le.2 (hroom h)), Bool.and_false]
    · have hany : s.buses.any (busKey (busOf s.th.core (cw.getLsbD 4)) (fieldOf cw 0 4) s.th.ctx) = true := by
        obtain ⟨b, hb⟩ := Option.ne_none_iff_exists'.1 h
        exact List.any_eq_true.2 ⟨b, List.mem_of_find?_eq_some hb, List.find?_some hb⟩
      have hany' : s.buses.any (fun b => b.bus == busOf s.th.core (cw.getLsbD 4) && b.bid == fieldOf cw 0 4 && b.ctx == s.th.ctx) = true := hany
      rw [hany', Bool.not_true, Bool.false_and]
  unfold busBody
  simp only [hw, Bool.false_eq_true, if_false, if_neg (Nat.not_lt.2 hc), hbusy, hrel]
  rfl

theorem busWaits_getT (s : State) (i : Instr) (dst : Option Spec) (cw : Word) (h : s.th.uid ≠ n) : (s.busWaits i dst cw).getT n = s.getT n :=
  getT_th_other (s := s) (t := (s.busWaits i dst cw).th) rfl h

/-- The word of a thread that waits completes as that of the thread that has not begun to wait. -/
theorem done_of_waiting {m : TMode} {x : Wait} {y : Word32} {d : Spec} {f : BitVec 5} {z : Bool} {r : BitVec 32}
    (h : Thread.Done { t with mode := m, wait := x, word := y } w d v f z r) : t.Done w d v f z r where
  wrote := ⟨h.wrote.value, h.wrote.zero, h.wrote.others, h.wrote.landing⟩
  shifted := ⟨h.shifted.y0, h.shifted.y0Id, h.shifted.y1, h.shifted.y1Id, h.shifted.prefixes, h.shifted.ready⟩
  advanced := ⟨h.advanced.seq, h.advanced.last, h.advanced.back⟩
  flags := h.flags
  kept := h.kept

/-- What the last arrival at an instance leaves (R146). -/
structure Passed (s : State) (dst : Option Spec) (bus bid : Nat) (as : List Arrival) (odd : Bool) (t : State) : Prop where
  gone : t.buses = s.buses.filter (fun b => !busKey bus bid s.th.ctx b)
  counted : t.busCount bus bid s.th.ctx = (s.busCount bus bid s.th.ctx + 1) % 2 ^ 32
  bytes : s.SameBytes t
  self : ({ s.th with seen := [] } : Thread).Done t.th (dst.getD 0) (busAnswer (s.busCount bus bid s.th.ctx) (rootValue as) dst odd) s.th.ffl
    s.th.dz s.th.srnd
  each : ∀ a ∈ as, a.uid ≠ s.th.uid → ∀ u d k, s.getT a.uid = some u → u.wait = .bus d k → ∃ w, t.getT a.uid = some w ∧
    u.Done w (d.getD 0) (busAnswer (s.busCount bus bid s.th.ctx) (rootValue as) d a.mismatch) u.ffl u.dz u.srnd

theorem freeAll_passed {as : List Arrival} (ha : a.uid = s.th.uid) (hn : (as.map Arrival.uid).Nodup)
    (hat : ∀ b ∈ as, b.uid ≠ s.th.uid ∧ s.AtBus b) :
    Passed s dst bus bid (as ++ [a]) a.mismatch ((s.busWaits i dst cw).freeAll bus bid s.th.ctx (as ++ [a])) := by
  have hself : (s.busWaits i dst cw).getT a.uid = some (s.busWaits i dst cw).th := ha ▸ getT_selected (s := s.busWaits i dst cw) nofun
  have hnodup : ((as ++ [a]).map Arrival.uid).Nodup := by
    rw [List.map_append, List.map_singleton]
    refine hn.append (List.nodup_singleton _) fun x hx hx' => ?_
    obtain ⟨b, hb, rfl⟩ := List.mem_map.1 hx
    exact (hat b hb).1 ((List.mem_singleton.1 hx').trans ha)
  have hall : ∀ b ∈ as ++ [a], (s.busWaits i dst cw).AtBus b := by
    intro b hb
    rcases List.mem_append.1 hb with hb | hb
    · exact atBus_congr (busWaits_getT s i dst cw (hat b hb).1.symm) (hat b hb).2
    · obtain rfl := List.mem_singleton.1 hb
      exact ⟨_, _, _, hself, rfl, rfl⟩
  have hfreed := freeAll_freed (bus := bus) (bid := bid) (ctx := s.th.ctx) hnodup hall
  obtain ⟨w, hw, hd⟩ := hfreed.each a (List.mem_append_right _ (List.mem_singleton.2 rfl)) _ _ _ hself rfl
  have hth : ((s.busWaits i dst cw).freeAll bus bid s.th.ctx (as ++ [a])).th = w := by
    have hsel := getT_selected (hfreed.selected.2 (by exact nofun))
    rw [hfreed.selected.1] at hsel
    have hw' : ((s.busWaits i dst cw).freeAll bus bid s.th.ctx (as ++ [a])).getT s.th.uid = some w := ha ▸ hw
    exact Option.some.inj (hsel.symm.trans hw')
  obtain ⟨x, l, hframe⟩ := hfreed.frame
  refine ⟨?_, ?_, ?_, ?_, fun b hb hne u d k hg hwait => ?_⟩
  · rw [hframe]
    rfl
  · rw [hframe]
    exact busReleased_count { s.busWaits i dst cw with buses := _ } bus bid s.th.ctx
  · rw [hframe]
    exact sameBytes_of_cells rfl rfl rfl rfl rfl
  · rw [hth]
    exact done_of_waiting hd
  · exact hfreed.each b hb u d k ((busWaits_getT s i dst cw hne.symm).trans hg) hwait

end Sys2Proof.Machine
end

section
open Sys2Proof Sys2Proof.Machine

/-- Settles O31: a thread that finds its release kept completes (`issueWord_answered`), another arrives (`busBody_arrives`) and waits, or as
the last releases every participant (`freeAll_passed`). -/
theorem busBarriers : Obligations.BusBarriers := by
  unfold Obligations.BusBarriers
  intro s i dst cw v hi hfree
  obtain ⟨body, he, hb⟩ := busWord_exec hi
  refine ⟨fun hw => ?kept, fun hw => ⟨fun hc => ?illegal, fun hc hf h64 => ?full, fun hc hcalm hf h64 => ?first, fun b hc hcalm hf => ?next⟩⟩
  case kept =>
    rw [he]
    refine issueWord_answered hfree (hb.trans ?_)
    unfold busBody
    cases dst with
    | none => rw [if_pos hw, Option.getD_none, write_zero]
    | some d => exact if_pos hw
  case illegal =>
    rw [State.Traps, he]
    refine issueWord_trap hfree (hb.trans ?_)
    unfold busBody
    simp only [hw, Bool.false_eq_true, if_false]
    exact if_pos hc
  case full =>
    have hany : s.buses.any (fun b => b.bus == busOf s.th.core (cw.getLsbD 4) && b.bid == fieldOf cw 0 4 && b.ctx == s.th.ctx) = false := by
      simpa using hf
    rw [he]
    refine issueWord_stall hfree (hb.trans ?_)
    unfold busBody
    simp only [hw, Bool.false_eq_true, if_false, if_neg (Nat.not_lt.2 hc), hany, decide_eq_true h64, Bool.not_false, Bool.and_self, if_true]
  case first =>
    have harr := issueWord_wait hfree (hb.trans (busBody_arrives (dst := dst) (v := v) hfree hw hc (fun _ => h64) hcalm))
    rw [← he] at harr
    have hfirst := arrive_first (s := s.busWaits i dst cw) (t := (s.busWaits i dst cw).th) (count := fieldOf cw 16 9 + 1)
      (root := dst.isSome && cw.getLsbD 8) (v := v) hf
    refine ⟨fun h0 => ⟨_, harr.trans (congrArg _ (hfirst.trans (if_pos (by omega)))), ?_, rfl⟩, fun h0 => ?_⟩
    · exact ⟨rfl, rfl, rfl, ⟨fun _ _ => rfl, rfl⟩, sameBytes_of_cells rfl rfl rfl rfl rfl, rfl⟩
    · have hp := freeAll_passed (i := i) (dst := dst) (cw := cw) (bus := busOf s.th.core (cw.getLsbD 4)) (bid := fieldOf cw 0 4) (as := [])
        (a := arrivalOf s.th (dst.isSome && cw.getLsbD 8) v (fieldOf cw 16 9 + 1) (fieldOf cw 16 9 + 1)) rfl List.nodup_nil nofun
      refine ⟨_, harr.trans (congrArg _ (hfirst.trans (if_neg (by omega)))), ?_, hp.counted, hp.bytes, ?_⟩
      · exact hp.gone.trans (filter_absent hf)
      · have hself := hp.self
        rw [arrivalOf_mismatch, decide_eq_false (not_not.2 rfl), h0] at hself
        simp only [h0]
        exact hself
  case next =>
    have harr := issueWord_wait hfree (hb.trans (busBody_arrives (dst := dst) (v := v) hfree hw hc
      (fun h => absurd (h.symm.trans hf) nofun) hcalm))
    rw [← he] at harr
    have hnext := arrive_next (s := s.busWaits i dst cw) (t := (s.busWaits i dst cw).th) (count := fieldOf cw 16 9 + 1)
      (root := dst.isSome && cw.getLsbD 8) (v := v) hf
    refine ⟨fun hlt => ⟨_, harr.trans (congrArg _ (hnext.trans (if_pos hlt))), ?_, rfl⟩, fun hge hn hat => ?_⟩
    · exact ⟨rfl, rfl, rfl, ⟨fun _ _ => rfl, rfl⟩, sameBytes_of_cells rfl rfl rfl rfl rfl, rfl⟩
    · have hp := freeAll_passed (i := i) (dst := dst) (cw := cw) (bus := busOf s.th.core (cw.getLsbD 4)) (bid := fieldOf cw 0 4)
        (as := b.arrivals) (a := arrivalOf s.th (dst.isSome && cw.getLsbD 8) v (fieldOf cw 16 9 + 1) b.count) rfl hn
        fun c hc => let ⟨hne, u, d, k, hh, hr⟩ := hat c hc; ⟨hne, u, d, k, hh.got, hr⟩
      refine ⟨_, harr.trans (congrArg _ (hnext.trans (if_neg (Nat.not_lt.2 hge)))), hp.gone, hp.counted, hp.bytes, ?_,
        fun c hc u d k hg hwt => hp.each c (List.mem_append_left _ hc) (hat c hc).1 u d k hg hwt⟩
      have hself := hp.self
      rw [arrivalOf_mismatch] at hself
      exact hself

end

section

/-!
# Join counters and spawn (R140)
-/

namespace Sys2Proof.Machine

variable {s s1 : State} {t u w : Thread} {n pa slot : Nat} {d a b : Spec} {j v : Word}

/-! ### Join counters (R140) -/

/-- The place of a join counter is found through cached translations alone. -/
theorem joinPlace_resolve (h : s.joinPlace t j = .ok (pa, s1)) : s.resolve t 0 j 8 .wr = .ok (.at .mem pa, s1) := by
  unfold State.joinPlace at h
  split at h
  · exact absurd h nofun
  · next pa' s2 hr =>
    split at h
    · exact absurd h nofun
    · cases h
      exact hr
  · exact absurd h nofun

theorem joinPlace_frame (h : s.joinPlace t j = .ok (pa, s1)) :
    (∃ ws cs, s1 = { s with walkers := ws, cores := cs }) ∧ ∀ k, (s1.core k).queue = (s.core k).queue := by
  obtain ⟨-, hframe, hcore⟩ := resolve_frame (by decide) (joinPlace_resolve h)
  exact ⟨hframe, fun k => (congrArg CoreSt.queue (hcore k) :)⟩

/-- The counter after an addition, which changes no other byte; threads may see their lock word written. -/
theorem joinAdd_counts (s : State) (pa : Nat) (v : Word) :
    ∃ m x l, (s.joinAdd pa v).2 = { s with mem := m, th := { s.th with wait := x }, others := l } ∧ l.length = s.others.length ∧
      l.map Thread.uid = s.others.map Thread.uid ∧
      (s.joinAdd pa v).2.readNat .mem pa 8 = (s.readNat .mem pa 8 + v.toNat) % 2 ^ 64 ∧ s.SameBut (s.joinAdd pa v).2 .mem pa 8 := by
  obtain ⟨m, len, he⟩ := put_mem_eq s pa (leBytes 8 (BitVec.ofNat 64 (s.readNat .mem pa 8) + v).toNat)
  obtain ⟨x, hx⟩ := touched_eq pa len s.th
  refine ⟨m, x, s.others.map (Thread.touched pa len), ?_, List.length_map .., ?_, ?_, put_sameBut (Nat.le_refl _) ?_⟩
  · rw [← hx]
    exact he
  · rw [List.map_map]
    refine List.map_congr_left fun o _ => ?_
    obtain ⟨y, hy⟩ := touched_eq pa len o
    rw [Function.comp_apply, hy]
  · refine (readNat_put_leBytes s pa 8 _).trans ?_
    rw [BitVec.toNat_add, BitVec.toNat_ofNat]
    omega
  · rw [leBytes_length]

/-! ### The word -/

theorem exec_spawn (d a b : Spec) (s : State) : exec (.spawn d a b) s = execSpawn d a b s := rfl

/-- Where the thread that spawn creates is counted: its join counter's place, if it has one. -/
def State.joinAt (s : State) (j : Word) : Except Trap (Nat × State) := if j = 0 then .ok (0, s) else s.joinPlace s.th j

theorem joinAt_frame (h : s.joinAt j = .ok (pa, s1)) :
    (∃ ws cs, s1 = { s with walkers := ws, cores := cs }) ∧ ∀ k, (s1.core k).queue = (s.core k).queue := by
  unfold State.joinAt at h
  split at h
  · cases h
    exact ⟨⟨_, _, rfl⟩, fun _ => rfl⟩
  · exact joinPlace_frame h

/-- The join counter of a thread that spawn creates is counted up. -/
def State.countUp (s : State) (j : Word) (pa : Nat) : State := if j = 0 then s else (s.joinAdd pa 1).2

theorem countUp_eq (s : State) (j : Word) (pa : Nat) :
    (∃ m x l, s.countUp j pa = { s with mem := m, th := { s.th with wait := x }, others := l } ∧ l.length = s.others.length) ∧
      (j ≠ 0 → (s.countUp j pa).readNat .mem pa 8 = (s.readNat .mem pa 8 + 1) % 2 ^ 64 ∧ s.SameBut (s.countUp j pa) .mem pa 8) ∧
      (j = 0 → s.countUp j pa = s) := by
  unfold State.countUp
  split
  · next h => exact ⟨⟨s.mem, s.th.wait, s.others, rfl, rfl⟩, fun h' => absurd h h', fun _ => rfl⟩
  · next h =>
    obtain ⟨m, x, l, he, hl, -, hr, hs⟩ := joinAdd_counts s pa 1
    exact ⟨⟨m, x, l, he, hl⟩, fun _ => ⟨hr, hs⟩, fun h' => absurd h' h⟩

/-- The state with the thread that a thread has created in a slot of its core (R114, R140). -/
def State.spawns (s : State) (t : Thread) (slot clk : Nat) (e v j : Word) : State :=
  ({ s with nextId := s.nextId + 1 } : State).addT (spawned t s.nextId slot (s.ticketAt t t.core slot) clk e v j)

theorem issueWord_writes {i : Instr} {body : State → Ex} (h : s.Free i)
    (hb : body s = .done { s1 with th := s1.th.write d v } v none .seq) (ht : s1.th = t) :
    ∃ w, issueWord i body s = .next { s1 with th := w } ∧ t.Done w d v t.ffl t.dz t.srnd := by
  subst ht
  exact issueWord_wrote h hb

/-- Without a join counter and without a slot, spawn answers all ones. -/
theorem exec_spawn_full (hfree : s.Free (.spawn d a b)) (he : (s.th.read a).toNat % 4 = 0) (hj : s.th.read d = 0)
    (hq : (s.core s.th.core).queue = []) (hslot : s.freeSlot s.th.core s.th.ctx = none) :
    ∃ t, exec (.spawn d a b) s = .next t ∧ s.Plain t d (BitVec.allOnes 64) := by
  have hb : spawnBody d a b s = valueWord d (fun _ => BitVec.allOnes 64) s := by
    have h8 : (0 : Word).toNat % 8 = 0 := rfl
    unfold spawnBody valueWord
    simp only [he, hj, h8, serveQueue_nil hq, hslot, ne_eq, not_true_eq_false, if_false, if_true]
  obtain ⟨t, ht, hp⟩ := valueWord_plain (.spawn d a b) s hfree d (fun _ => BitVec.allOnes 64)
  refine ⟨t, ?_, hp⟩
  rw [exec_spawn, execSpawn, issueWord_free _ _ _ hfree, hb, ← issueWord_free _ _ _ hfree, ht]

/-- A thread with a slot of its own is created there (R140). -/
theorem exec_spawn_creates (hfree : s.Free (.spawn d a b)) (he : (s.th.read a).toNat % 4 = 0) (hj : (s.th.read d).toNat % 8 = 0)
    (hp : s.joinAt (s.th.read d) = .ok (pa, s1)) (hq : (s.core s.th.core).queue = []) (hslot : s.freeSlot s.th.core s.th.ctx = some slot) (hcalm : s.Calm) :
    ∃ x w, exec (.spawn d a b) s = .next
        { (s1.released.countUp (s.th.read d) pa).spawns s.th slot s.clk (s.th.read a) (s.th.read b) (s.th.read d) with th := w } ∧
      ({ s.th with seen := [], wait := x } : Thread).Done w d (BitVec.ofNat 64 slot) s.th.ffl s.th.dz s.th.srnd := by
  obtain ⟨⟨ws, cs, rfl⟩, hqueue⟩ := joinAt_frame hp
  have hserve := serveQueue_nil ((hqueue s.th.core).trans hq)
  have hslot1 : ({ s with walkers := ws, cores := cs } : State).freeSlot s.th.core s.th.ctx = some slot := hslot
  have hc1 : ({ s with walkers := ws, cores := cs } : State).Calm :=
    ⟨hcalm.stores, hcalm.loads, hcalm.errors, hcalm.deferred, hcalm.names, hcalm.present⟩
  have hrel := release_calm (scope := 5) hc1 (by show s.th.mode ≠ _; rw [hfree.ready]; exact nofun) (by decide)
  obtain ⟨⟨m, x, l, hcount, -⟩, -⟩ := countUp_eq ({ s with walkers := ws, cores := cs } : State).released (s.th.read d) pa
  unfold State.joinAt at hp
  refine ⟨x, ?_⟩
  rw [exec_spawn, execSpawn]
  refine issueWord_writes hfree ?_ (congrArg State.th hcount)
  unfold spawnBody
  simp only [he, hj, hp, hserve, hslot1, hrel, ne_eq, not_true_eq_false, if_false]
  rfl

end Sys2Proof.Machine
end

section
open Sys2Proof Sys2Proof.Machine

/-- Settles O27: without a slot the word answers all ones (`exec_spawn_full`); with one the thread is created there and counted
(`exec_spawn_creates`, `joinAdd_counts`). -/
theorem spawnCreatesThread : Obligations.SpawnCreatesThread := by
  unfold Obligations.SpawnCreatesThread
  intro s d a b hfree j e v noQueue
  refine ⟨fun he => ?code, fun he hj => ?counter, fun he hj hq hslot => ?full, fun slot pa s1 he hj hq hslot hcalm hp => ?creates⟩
  case code =>
    rw [State.Traps, exec_spawn, execSpawn]
    exact issueWord_trap hfree (by exact if_pos he)
  case counter =>
    rw [State.Traps, exec_spawn, execSpawn]
    exact issueWord_trap hfree (by exact (if_neg fun h => h he).trans (if_pos hj))
  case full => exact exec_spawn_full hfree he hj hq hslot
  case creates =>
    obtain ⟨pa', s1', hp', hpa⟩ : ∃ pa' s1', s.joinAt (s.th.read d) = .ok (pa', s1') ∧ (j ≠ 0 → pa' = pa) := by
      by_cases h : j = 0
      · exact ⟨0, s, if_pos h, fun h' => absurd h h'⟩
      · exact ⟨pa, s1, (if_neg h).trans (hp h), fun _ => rfl⟩
    obtain ⟨⟨ws, cs, rfl⟩, -⟩ := joinAt_frame hp'
    obtain ⟨x, w, hx, hd⟩ := exec_spawn_creates hfree he hj hp' hq hslot hcalm
    obtain ⟨⟨m, y, l, hcount, hl⟩, hbytes, hsame⟩ := countUp_eq ({ s with walkers := ws, cores := cs } : State).released (s.th.read d) pa'
    refine ⟨_, _, hx, List.mem_append_right _ (List.mem_singleton.2 rfl), ?_, rfl, rfl, rfl, rfl, rfl, rfl, rfl, rfl, rfl, rfl, rfl, rfl, ?_, ?_,
      fun h0 => ?_, fun h0 => ?_, done_of_wait hd⟩
    · rw [hcount]
      rfl
    · refine (List.length_append ..).trans ?_
      rw [hcount]
      exact congrArg (· + 1) hl
    · refine congrArg (· + 1) (?_ : State.nextId _ = _)
      rw [hcount]
      rfl
    · obtain ⟨hr, hs⟩ := hbytes h0
      rw [← hpa h0]
      exact ⟨hr, hs⟩
    · rw [hsame h0]
      exact sameBytes_of_cells rfl rfl rfl rfl rfl

end

section

/-!
# exit (R141, R150, R151, R333)
-/

namespace Sys2Proof.Machine

variable {s s1 : State} {t u w x : Thread} {n pa c e : Nat} {a : Spec} {j v : Word}

/-! ### Translations do not depend on the threads (R183, R185) -/

theorem walkFrom_th (s : State) (x : Thread) (c : Ctx) (va : Nat) (acc : Acc) (prv : Bool) (fuel tbl : Nat) :
    State.walkFrom { s with th := x } c va acc prv fuel tbl = s.walkFrom c va acc prv fuel tbl := by
  induction fuel generalizing tbl with
  | zero => rfl
  | succ fuel ih =>
    simp only [State.walkFrom, ih]
    rfl

theorem walkBy_th {stripe ctx : Nat} {va : Word} {acc : Acc} {prv : Bool} {y : Tlb} (h : s.walkBy stripe ctx va acc prv = .ok (y, s1)) :
    State.walkBy { s with th := x } stripe ctx va acc prv = .ok (y, { s1 with th := x }) := by
  have hwalk : State.walk { s with th := x } ctx va acc prv = s.walk ctx va acc prv := by
    unfold State.walk
    simp only [walkFrom_th]
    rfl
  have hwalker : State.walker { s with th := x } stripe = s.walker stripe := rfl
  unfold State.walkBy at h ⊢
  rw [hwalk, hwalker]
  split at h
  · cases h
    simp only
  · split at h
    · exact absurd h nofun
    · cases h
      rfl

theorem translate_th {core ctx : Nat} {va : Word} {acc : Acc} {prv : Bool} (h : s.translate core ctx va acc prv = .ok (pa, s1)) :
    State.translate { s with th := x } core ctx va acc prv = .ok (pa, { s1 with th := x }) := by
  have hcore : State.core { s with th := x } core = s.core core := rfl
  unfold State.translate at h ⊢
  rw [hcore]
  split at h
  · cases h
    simp only
  · split at h
    · exact absurd h nofun
    · next e s2 hw =>
      cases h
      simp only [walkBy_th hw]
      rfl

/-- The place of a join counter is the same for a thread of the same core, context and privilege. -/
theorem joinPlace_th (hc : x.core = t.core) (hx : x.ctx = t.ctx) (hp : x.prv = t.prv) (h : s.joinPlace t j = .ok (pa, s1)) :
    State.joinPlace { s with th := x } x j = .ok (pa, { s1 with th := x }) := by
  have hr := joinPlace_resolve h
  have hbad : s1.badAt .mem pa 8 = false := by
    unfold State.joinPlace at h
    simp only [hr] at h
    split at h
    · exact absurd h nofun
    · next hb => exact Bool.eq_false_iff.2 hb
  have hres : State.resolve { s with th := x } x 0 j 8 .wr = .ok (.at .mem pa, { s1 with th := x }) := by
    unfold State.resolve at hr ⊢
    rw [hc, hx, hp]
    split at hr
    · next h1 => exact absurd h1 (by decide)
    · next h2 => exact absurd h2 (by decide)
    · cases ht : s.translate t.core t.ctx j .wr t.prv with
      | error tr =>
        simp only [ht] at hr
        exact absurd hr nofun
      | ok p =>
        obtain ⟨pa', s2⟩ := p
        simp only [ht, translate_th ht] at hr ⊢
        split at hr
        · split at hr
          · exact absurd hr nofun
          · next hsh =>
            cases hr
            exact if_neg hsh
        · exact absurd hr nofun
        · split at hr
          · next hpeer =>
            split at hr
            · split at hr
              · exact absurd hr nofun
              · next hsh =>
                cases hr
                exact (if_pos hpeer).trans (if_neg hsh)
            · exact absurd hr nofun
          · split at hr <;> exact absurd hr nofun
        · exact absurd hr nofun
  unfold State.joinPlace
  simp only [hres]
  exact if_neg (Bool.eq_false_iff.1 hbad)

theorem readNat_lt (s : State) (a : Nat) : s.readNat .mem a 8 < 2 ^ 64 := by
  have h := ofLe_take (s.readBytes .mem a 8) 8
  rw [List.take_of_length_le (readBytes_length ..).le] at h
  rw [State.readNat, h]
  exact Nat.mod_lt _ (by decide)

/-- A counter that is counted down reaches 0 from 1 alone. -/
theorem countDown_zero {k : Nat} (h : k < 2 ^ 64) : BitVec.ofNat 64 k + BitVec.allOnes 64 = 0 ↔ k = 1 := by
  have h0 : (0 : Word).toNat = 0 := rfl
  rw [← BitVec.toNat_inj, BitVec.toNat_add, BitVec.toNat_ofNat, BitVec.toNat_allOnes, h0]
  omega

/-! ### Launches (R333) -/

theorem takeExits_none (he : s.exits = []) (hl : s.reg.launches = []) : s.takeExits = s := by
  have h : ({ s with exits := [] } : State) = s := by rw [← he]
  rw [State.takeExits]
  simp only [he, List.foldl_nil, hl, List.filter_nil, h]

/-- The exit code of a thread counts toward its launch (R333). -/
def Launch.exited (l : Launch) (code : Nat) : Launch :=
  { l with left := l.left - 1, nnz := if code = 0 then l.nnz else l.nnz + 1, xmax := Nat.max l.xmax code }

theorem exited_eq (l : Launch) (code : Nat) :
    l.exited code = { l with left := l.left - 1, nnz := l.nnz + (if code = 0 then 0 else 1), xmax := Nat.max l.xmax code } := by
  unfold Launch.exited
  split <;> rfl

theorem takeExits_one {l : Launch} {k rank code : Nat} (he : s.exits = [(k, rank, code)]) (hl : s.reg.launches = [l]) (hk : l.ticket = k)
    (h2 : 2 ≤ l.left) : s.takeExits = { s with exits := [], reg := { s.reg with launches := [l.exited code] } } := by
  have hfind : s.launch? k = some l := by
    rw [State.launch?, hl]
    exact List.find?_cons_of_pos (by exact beq_iff_eq.2 hk)
  have hset : s.setLaunch { l with left := l.left - 1, nnz := if code = 0 then l.nnz else l.nnz + 1, xmax := Nat.max l.xmax code } =
      { s with reg := { s.reg with launches := [l.exited code] } } := by
    rw [State.setLaunch, hl, List.map_singleton, if_pos rfl]
    rfl
  have hleft : decide ((l.exited code).left = 0) = false := decide_eq_false (by show l.left - 1 ≠ 0; omega)
  unfold State.takeExits
  rw [he]
  simp only [List.foldl_cons, List.foldl_nil, hfind, hset, List.filter_cons, hleft, Bool.and_false, Bool.false_and, List.filter_nil,
    Bool.false_eq_true, if_false]

/-! ### The end of a thread that holds an engine (R151) -/

theorem getT_delT_other (h : s.th.uid ≠ n) : (s.delT s.th.uid).getT n = s.getT n := by
  have hd : s.delT s.th.uid = { s with th := Thread.initial } := if_pos rfl
  rw [hd, getT_others h]
  rfl

/-- Withdrawing a thread's waits leaves an engine but for its waiters. -/
theorem withdrawn_engine (s : State) (t : Thread) (e u : Nat) :
    (s.withdrawn t).engine e u = { s.engine e u with waiters := (s.engine e u).waiters.filter (fun v => v != t.uid) } := by
  have hf : (s.withdrawn t).engines.find? (fun x => x.code == e && x.unit == u) =
      (s.engines.find? (fun x => x.code == e && x.unit == u)).map
        (fun x : Engine => { x with waiters := x.waiters.filter (fun v => v != t.uid) }) := List.find?_map ..
  rw [State.engine, hf, State.engine]
  cases s.engines.find? (fun x => x.code == e && x.unit == u) <;> rfl

theorem withdrawn_queue (s : State) (t : Thread) (h : (s.core t.core).queue = []) : ((s.withdrawn t).core t.core).queue = [] := by
  have hc : (s.withdrawn t).core t.core = { s.core t.core with
      sems := (s.core t.core).sems.map (fun x => { x with waiters := x.waiters.filter (fun u => u != t.uid) }),
      queue := (s.core t.core).queue.filter (fun u => u != t.uid), senders := (s.core t.core).senders.filter (fun u => u.1 != t.uid) } :=
    (core_setCore s t.core t.core _).trans (if_pos rfl)
  rw [hc]
  dsimp only
  rw [h, List.filter_nil]

theorem delT_engine (s : State) (n e u : Nat) : (s.delT n).engine e u = s.engine e u := by
  obtain ⟨x, l, h⟩ := delT_eq s n
  rw [h]
  rfl

/-- The engine of a thread that ends passes on, where no arrival waits for its slot (R141, R151). -/
theorem endThread_passes (hp : s.th.peng.toNat < 5) (hq : (s.core s.th.core).queue = []) :
    let e := s.th.peng.toNat
    let u := s.heldUnit e s.th
    ((s.endThread s.th).engine e u).holder = (s.engine e u).waiters.head? ∧
      ((s.endThread s.th).engine e u).geom = (s.engine e u).geom.map (fun _ => 0) ∧
      ∀ n, s.th.uid ≠ n → (s.endThread s.th).getT n = (s.handoff e u).getT n := by
  intro e u
  obtain ⟨x, l, es, hh, hx, -⟩ := handoff_eq s e u
  have hqueue : (((s.handoff e u).withdrawn s.th).core s.th.core).queue = [] := withdrawn_queue _ s.th (by rw [hh]; exact hq)
  have hqueue' : ((((s.handoff e u).withdrawn s.th).delT s.th.uid).core s.th.core).queue = [] := by
    obtain ⟨y, m, hd⟩ := delT_eq ((s.handoff e u).withdrawn s.th) s.th.uid
    rw [hd]
    exact hqueue
  have hend : s.endThread s.th = ((s.handoff e u).withdrawn s.th).delT s.th.uid := (endThread_pinned hp).trans (serveQueue_nil hqueue')
  have huid : ((s.handoff e u).withdrawn s.th).th.uid = s.th.uid := by
    rw [hh]
    exact hx
  have heng : (s.endThread s.th).engine e u = { (s.engine e u).passed with
      waiters := (s.engine e u).passed.waiters.filter (fun v => v != s.th.uid) } := by
    rw [hend, delT_engine, withdrawn_engine, handoff_engine]
  refine ⟨congrArg Engine.holder heng, congrArg Engine.geom heng, fun n hn => ?_⟩
  rw [hend, ← huid, getT_delT_other (by rw [huid]; exact hn)]
  rfl

/-! ### The word -/

@[simp] theorem released_ticket (s : State) : s.released.th.ticket = s.th.ticket := rfl
@[simp] theorem released_byBind (s : State) : s.released.th.byBind = s.th.byBind := rfl
@[simp] theorem released_escape (s : State) : s.released.th.escape = s.th.escape := rfl
@[simp] theorem released_join (s : State) : s.released.th.join = s.th.join := rfl
@[simp] theorem released_parent (s : State) : s.released.th.parent = s.th.parent := rfl
@[simp] theorem released_core (s : State) : s.released.th.core = s.th.core := rfl
@[simp] theorem released_ctx (s : State) : s.released.th.ctx = s.th.ctx := rfl
@[simp] theorem released_origin (s : State) : s.released.th.origin = s.th.origin := rfl

theorem exec_exit_stops (hfree : s.Free (.exit a)) (hb : exitBody a s = .stop s1) : exec (.exit a) s = .next s1.takeExits := by
  have he : exec (.exit a) s = execExit a s := rfl
  rw [he, execExit]
  refine issueWord_stop hfree ?_
  simp only [hb]

/-- What a word of R141 leaves outside threads, cores, engines and channels. -/
theorem endThread_keeps (s : State) (t : Thread) :
    (s.endThread t).exits = s.exits ∧ (s.endThread t).reg = s.reg ∧ (s.endThread t).wakes = s.wakes ∧ (s.endThread t).answers = s.answers := by
  obtain ⟨x, l, cs, es, ch, h⟩ := endThread_eq s t
  rw [h]
  exact ⟨rfl, rfl, rfl, rfl⟩

section
variable (hfree : s.Free (.exit a)) (hc : s.hasCmds s.th = false) (hcalm : s.Calm)
include hfree hc hcalm

/-- A callee answers its caller (R150). -/
theorem exitBody_answers (ht : s.th.ticket.getLsbD 63 = true) :
    exitBody a s = .stop ((s.released.answer s.th.ticket (s.th.read a)).endThread s.released.th) := by
  have hrel := release_calm (scope := 5) hcalm (by rw [hfree.ready]; exact nofun) (by decide)
  unfold exitBody
  simp only [hc, hrel, released_ticket, ht, Bool.false_eq_true, if_false, if_true]

variable (ht : s.th.ticket.getLsbD 63 = false) (hesc : s.th.escape = none)
include ht hesc

/-- A thread of no bind record and without a join counter ends (R141). -/
theorem exitBody_ends (hb : s.th.byBind = none) (hj : s.th.join = 0) : exitBody a s = .stop (s.released.endThread s.released.th) := by
  have hrel := release_calm (scope := 5) hcalm (by rw [hfree.ready]; exact nofun) (by decide)
  unfold exitBody
  simp only [hc, hrel, released_ticket, released_byBind, released_escape, released_join, ht, hb, hj, hesc,
    Bool.false_eq_true, if_false, if_true]

/-- A thread of a bind record leaves its exit code (R333). -/
theorem exitBody_counts {rank : Nat} (hb : s.th.byBind = some rank) (hj : s.th.join = 0) :
    exitBody a s = .stop (State.endThread { s.released with exits := s.exits ++ [(s.th.origin, rank, (s.th.read a).toNat % 2 ^ 32)] }
      s.released.th) := by
  have hrel := release_calm (scope := 5) hcalm (by rw [hfree.ready]; exact nofun) (by decide)
  unfold exitBody
  simp only [hc, hrel, released_ticket, released_byBind, released_escape, released_join, released_origin, ht, hb, hj,
    hesc, Bool.false_eq_true, if_false, if_true]
  rfl

section
variable {s2 s3 s4 : State} (hb : s.th.byBind = none) (hj : s.th.join ≠ 0)
  (hp : s.released.joinPlace s.released.th s.th.join = .ok (pa, s2)) (hadd : s2.joinAdd pa (BitVec.allOnes 64) = (v, s3))
include hb hj hp hadd

/-- The last thread that counts a join counter down wakes its parent. -/
theorem exitBody_wakes (hv : v = 0) (hpar : s.th.parent.getLsbD 63 = true)
    (hw : s3.resolveName s.th.core (s.th.parent.toNat % 2 ^ 16) = some (c, s4)) :
    exitBody a s = .stop ((s4.sendWake s.th.ctx c (s.th.parent.toNat / 2 ^ 16 % 16)).endThread s4.th) := by
  have hrel := release_calm (scope := 5) hcalm (by rw [hfree.ready]; exact nofun) (by decide)
  unfold exitBody
  simp only [hc, hrel, released_ticket, released_byBind, released_escape, released_join, released_parent, released_core, released_ctx, ht, hb, hj,
    hesc, hp, hadd, hv, hpar, hw, and_self, Bool.false_eq_true, if_false, if_true]
  rfl

theorem exitBody_leaves (hv : v ≠ 0) : exitBody a s = .stop (s3.endThread s3.th) := by
  have hrel := release_calm (scope := 5) hcalm (by rw [hfree.ready]; exact nofun) (by decide)
  unfold exitBody
  simp only [hc, hrel, released_ticket, released_byBind, released_escape, released_join, ht, hb, hj, hesc, hp, hadd, hv, false_and,
    Bool.false_eq_true, if_false]

end

/-- A thread with a join counter counts it down, and wakes its parent where it is the last (R141). -/
theorem exitBody_joins (hb : s.th.byBind = none) (hj : s.th.join ≠ 0) (hp : s.joinPlace s.th s.th.join = .ok (pa, s1))
    (hpar : s.th.parent.getLsbD 63 = true) (hn : ∀ y ∈ (s.core s.th.core).names, y.1 ≠ s.th.parent.toNat % 2 ^ 16)
    (hcat : s.catalogue (s.th.parent.toNat % 2 ^ 16) = some c) :
    ∃ x : State, exitBody a s = .stop (x.endThread x.th) ∧ (x.th.uid = s.th.uid ∧ x.others.map Thread.uid = s.others.map Thread.uid) ∧
      (x.exits = s.exits ∧ x.reg = s.reg) ∧
      (x.readNat .mem pa 8 = (s.readNat .mem pa 8 + (2 ^ 64 - 1)) % 2 ^ 64 ∧ s.SameBut x .mem pa 8) ∧
      x.wakes = s.wakes ++ (if s.readNat .mem pa 8 = 1 then
        [{ id := s.nextId, ctx := s.th.ctx, core := c, slot := s.th.parent.toNat / 2 ^ 16 % 16 }] else []) := by
  obtain ⟨-, ⟨ws, cs, rfl⟩, hcore⟩ := resolve_frame (by decide) (joinPlace_resolve hp)
  have hjp : s.released.joinPlace s.released.th s.th.join = .ok (pa, { s with walkers := ws, cores := cs, th := s.released.th }) :=
    joinPlace_th (x := s.released.th) rfl rfl rfl hp
  obtain ⟨m, y, l, hadd, -, huid, hread, hbut⟩ := joinAdd_counts { s with walkers := ws, cores := cs, th := s.released.th } pa (BitVec.allOnes 64)
  have hpair : State.joinAdd { s with walkers := ws, cores := cs, th := s.released.th } pa (BitVec.allOnes 64) =
      (BitVec.ofNat 64 (s.readNat .mem pa 8) + BitVec.allOnes 64,
        { s with walkers := ws, cores := cs, mem := m, th := { s.released.th with wait := y }, others := l }) := Prod.ext rfl hadd
  rw [hadd] at hread hbut
  have hlast := countDown_zero (readNat_lt s pa)
  by_cases h1 : s.readNat .mem pa 8 = 1
  · have hnames := congrArg CoreSt.names (hcore s.th.core)
    have hwalk := resolveName_walks (s := { s with walkers := ws, cores := cs, mem := m, th := { s.released.th with wait := y }, others := l })
      (fun y hy => hn y (hnames ▸ hy)) hcat
    obtain ⟨⟨cs', hs4⟩, -⟩ := resolveName_frame hwalk
    rw [hs4] at hwalk
    refine ⟨_, exitBody_wakes hfree hc hcalm ht hesc hb hj hjp hpair (hlast.2 h1) hpar hwalk, ⟨rfl, huid⟩, ⟨rfl, rfl⟩, ⟨hread, hbut⟩, ?_⟩
    rw [if_pos h1]
    rfl
  · refine ⟨_, exitBody_leaves hfree hc hcalm ht hesc hb hj hjp hpair fun h => h1 (hlast.1 h), ⟨rfl, huid⟩, ⟨rfl, rfl⟩, ⟨hread, hbut⟩, ?_⟩
    rw [if_neg h1, List.append_nil]

end

end Sys2Proof.Machine
end

section
open Sys2Proof Sys2Proof.Machine

/-- Settles O28: the thread ends (`endThread_lacks`) after its join counter (`exitBody_joins`), its caller (`exitBody_answers`), its engine
(`endThread_passes`) or its launch (`takeExits_one`) has been told. -/
theorem exitEndsThread : Obligations.ExitEndsThread := by
  unfold Obligations.ExitEndsThread
  intro s a hfree hc hesc hexits hcalm x gone plain
  have hpresent : ∀ o ∈ s.others, o.uid ≠ s.th.uid := fun o ho => (hcalm.present o ho).2
  have hquiet (y : State) (t : Thread) (he : y.exits = s.exits) (hr : y.reg = s.reg) (hl : s.reg.launches = []) :
      (y.endThread t).takeExits = y.endThread t := by
    obtain ⟨hexit, hreg, -, -⟩ := endThread_keeps y t
    exact takeExits_none (by rw [hexit, he, hexits]) (by rw [hreg, hr, hl])
  refine ⟨fun ⟨ht, hb, hl⟩ hp hj => ?plain, fun pa s1 c ⟨ht, hb, hl⟩ hp hj hplace hpar hn hcat => ?joins, fun ht hl hp => ?answers,
    fun ⟨ht, hb, hl⟩ he hj hq => ⟨fun hw => ?unheld, fun w ws k hw hne hk => ?passes⟩, fun rank l ht hb hp hj hl hk h2 => ?counts⟩
  case plain =>
    have hx := exec_exit_stops hfree (exitBody_ends hfree hc hcalm ht hesc hb hj)
    rw [hquiet s.released _ rfl rfl hl] at hx
    obtain ⟨-, -, hwakes, hanswers⟩ := endThread_keeps s.released s.released.th
    exact ⟨_, hx, endThread_lacks (s := s.released) hpresent, endThread_sameBytes s.released _, hwakes, hanswers⟩
  case joins =>
    obtain ⟨y, hbody, ⟨huid, hothers⟩, ⟨he, hr⟩, ⟨hread, hbut⟩, hw⟩ := exitBody_joins hfree hc hcalm ht hesc hb hj hplace hpar hn hcat
    have hx := exec_exit_stops hfree hbody
    rw [hquiet y _ he hr hl] at hx
    obtain ⟨-, -, hwakes, -⟩ := endThread_keeps y y.th
    have hlacks := endThread_lacks (s := y) fun o ho => by
      obtain ⟨o', ho', e⟩ := List.mem_map.1 (hothers ▸ List.mem_map_of_mem (f := Thread.uid) ho)
      rw [huid, ← e]
      exact hpresent o' ho'
    rw [huid] at hlacks
    refine ⟨_, hx, hlacks, (readNat_sameBytes (endThread_sameBytes y y.th) ..).trans hread, ?_, hwakes.trans hw⟩
    exact fun sq z h => (endThread_sameBytes y y.th sq z).trans (hbut sq z h)
  case answers =>
    have hx := exec_exit_stops hfree (exitBody_answers hfree hc hcalm ht)
    rw [hquiet (s.released.answer s.th.ticket (s.th.read a)) _ rfl rfl hl] at hx
    obtain ⟨-, -, hwakes, hanswers⟩ := endThread_keeps (s.released.answer s.th.ticket (s.th.read a)) s.released.th
    exact ⟨_, hx, endThread_lacks (s := s.released.answer s.th.ticket (s.th.read a)) hpresent,
      endThread_sameBytes (s.released.answer s.th.ticket (s.th.read a)) _, hwakes, hanswers⟩
  case unheld =>
    have hx := exec_exit_stops hfree (exitBody_ends hfree hc hcalm ht hesc hb hj)
    rw [hquiet s.released _ rfl rfl hl] at hx
    obtain ⟨hholder, hgeom, -⟩ := endThread_passes (s := s.released) he hq
    exact ⟨_, hx, endThread_lacks (s := s.released) hpresent, endThread_sameBytes s.released _, hholder.trans (congrArg List.head? hw), hgeom⟩
  case passes =>
    have hx := exec_exit_stops hfree (exitBody_ends hfree hc hcalm ht hesc hb hj)
    rw [hquiet s.released _ rfl rfl hl] at hx
    obtain ⟨hholder, hgeom, hothers⟩ := endThread_passes (s := s.released) he hq
    have hk1 : s.released.getT w = some k := (getT_th_other (s := s) (t := s.released.th) rfl (Ne.symm hne)).trans hk.got
    obtain ⟨k1, hpass, hd⟩ := handoff_passes (s := s.released) hw hk1
    refine ⟨_, k1, hx, endThread_lacks (s := s.released) hpresent, ?_, hholder.trans (congrArg List.head? hw), hgeom, ?_⟩
    · rw [hothers w (Ne.symm hne)]
      refine (congrArg (fun y : State => y.getT w) hpass).trans ?_
      exact done_getT (t := { k with peng := BitVec.ofNat 3 s.th.peng.toNat }) ((setEngine_getT w).trans hk1) (getT_uid hk1 :) hd
    · rwa [BitVec.ofNat_toNat, BitVec.setWidth_eq] at hd
  case counts =>
    have hx := exec_exit_stops hfree (exitBody_counts hfree hc hcalm ht hesc hb hj)
    obtain ⟨hexit, hreg, -, -⟩ := endThread_keeps { s.released with exits := s.exits ++ [(s.th.origin, rank, (s.th.read a).toNat % 2 ^ 32)] } s.released.th
    have hone := takeExits_one (hexit.trans (by rw [hexits]; rfl)) (by rw [hreg]; exact hl) hk h2
    rw [hone, hreg] at hx
    refine ⟨_, hx, endThread_lacks (s := { s.released with exits := _ }) hpresent, endThread_sameBytes { s.released with exits := _ } _, rfl, ?_⟩
    exact congrArg (fun y : Launch => [y]) (exited_eq l _)

end

section

/-!
# Fault records and fault logs (R345, R348)
-/

namespace Sys2Proof.Machine

variable {s t : State} {x u : Thread} {c : Ctx} {a k n : Nat} {bs : List Byte}

/-! ### The fields of a record (R345) -/

theorem faultRecord_length (r : RecordAt) (tr : Trap) (fatal : Bool) (clk seq : Nat) : (faultRecord r tr fatal clk seq).length = 64 := rfl

/-- A field is read from the bytes that it stands among. -/
theorem recNat_prefix {p q : List Byte} {off : Nat} (h : off + k ≤ p.length) : recNat (p ++ q) off k = recNat p off k := by
  rw [recNat, List.drop_append_of_le_length (by omega), List.take_append_of_le_length (by rw [List.length_drop]; omega), recNat]

theorem recNat_last {p : List Byte} {off v : Nat} (h : p.length = off) : recNat (p ++ leBytes k v) off k = v % 256 ^ k := by
  rw [recNat, List.drop_append_of_le_length h.ge, List.drop_of_length_le h.le, List.nil_append,
    List.take_of_length_le (leBytes_length ..).le, ofLe_leBytes]

/-- FLAGS of a record: FATAL, RETRY, REMOTE and DEFER. -/
def recordFlags (tr : Trap) (fatal : Bool) : Nat :=
  (if fatal then 1 else 0) + (if tr.retry then 2 else 0) + (if tr.remote then 4 else 0) + (if tr.defer then 8 else 0)

theorem recordFlags_lt (tr : Trap) (fatal : Bool) : recordFlags tr fatal < 256 := by
  unfold recordFlags
  split_ifs <;> decide

section
variable {r : RecordAt} {tr : Trap} {fatal : Bool} {clk seq : Nat} (h : s.readBytes .mem a 64 = faultRecord r tr fatal clk seq)
include h

/-- A field of a record that stands in memory. -/
theorem readNat_field {off : Nat} (hl : off + k ≤ 64) : s.readNat .mem (a + off) k = recNat (faultRecord r tr fatal clk seq) off k := by
  rw [← h, recNat_readBytes s .mem hl]

theorem readNat_head :
    s.readNat .mem a 1 = tr.code.num ∧ s.readNat .mem (a + 1) 1 = r.kind % 256 ∧ s.readNat .mem (a + 2) 1 = recordFlags tr fatal ∧
      s.readNat .mem (a + 3) 1 = tr.trapn % 64 := by
  have one {off b : Nat} (hl : off + 1 ≤ 64) (hb : ((faultRecord r tr fatal clk seq).drop off).take 1 = [BitVec.ofNat 8 b]) :
      s.readNat .mem (a + off) 1 = b % 256 := by
    rw [readNat_field h hl, recNat, hb, ofLe, ofLe, BitVec.toNat_ofNat, Nat.mul_zero, Nat.add_zero]
  have hcode := Nat.mod_eq_of_lt (code_num_lt tr.code)
  have hflags := Nat.mod_eq_of_lt (recordFlags_lt tr fatal)
  have htrap : tr.trapn % 64 % 256 = tr.trapn % 64 := Nat.mod_eq_of_lt (by omega)
  exact ⟨(one (off := 0) (by decide) rfl).trans hcode, one (off := 1) (by decide) rfl, (one (off := 2) (by decide) rfl).trans hflags,
    (one (off := 3) (by decide) rfl).trans htrap⟩

theorem readNat_places :
    s.readNat .mem (a + 8) 8 = r.pc.toNat ∧ s.readNat .mem (a + 16) 8 = tr.addr.toNat ∧ s.readNat .mem (a + 24) 4 = r.word.toNat ∧
      s.readNat .mem (a + 40) 8 = tr.clk.getD clk % 2 ^ 64 ∧ s.readNat .mem (a + 56) 4 = seq % 2 ^ 32 := by
  refine ⟨?pc, ?addr, ?word, ?clk, ?seq⟩
  all_goals
    rw [readNat_field h (by decide)]
    simp (disch := simp [leBytes_length]) only [faultRecord, recNat_prefix, recNat_last]
    omega

end

/-! ### What a write to memory leaves of the threads (R152) -/

/-- Threads after writes to memory: only what those that wait on a lock word see of it has changed. -/
structure Rewaits (f : Thread → Thread) : Prop where
  only : ∀ x, ∃ w, f x = { x with wait := w }
  unlocked : ∀ x : Thread, (∀ va pa b, x.wait ≠ .lock va pa b) → f x = x

/-- A state whose threads have been mapped so. -/
def State.rewaited (s : State) (f : Thread → Thread) : State := { s with th := f s.th, others := s.others.map f }

theorem rewaits_touched (a k : Nat) : Rewaits (Thread.touched a k) := ⟨touched_eq a k, fun _ => touched_unlocked a k⟩

theorem rewaits_comp {f g : Thread → Thread} (hf : Rewaits f) (hg : Rewaits g) : Rewaits (g ∘ f) where
  only x := by
    obtain ⟨w, hw⟩ := hf.only x
    obtain ⟨w', hw'⟩ := hg.only (f x)
    exact ⟨w', hw'.trans (by rw [hw])⟩
  unlocked x hx := (congrArg g (hf.unlocked x hx)).trans (hg.unlocked x hx)

theorem put_mem_rewaited (s : State) (a : Nat) (bs : List Byte) : ∃ f m, Rewaits f ∧ s.put .mem a bs = { s.rewaited f with mem := m } := by
  obtain ⟨m, len, e⟩ := put_mem_eq s a bs
  exact ⟨_, m, rewaits_touched a len, e⟩

theorem rewaited_threads {f : Thread → Thread} (hf : Rewaits f) (s : State) : (s.rewaited f).threads = s.threads.map f := by
  have hm : (f s.th).mode = s.th.mode := by
    obtain ⟨w, hw⟩ := hf.only s.th
    rw [hw]
  unfold State.threads State.rewaited
  dsimp only
  rw [hm]
  split <;> rfl

theorem rewaited_getT {f : Thread → Thread} (hf : Rewaits f) (s : State) (n : Nat) : (s.rewaited f).getT n = (s.getT n).map f := by
  rw [State.getT, rewaited_threads hf, List.find?_map, State.getT]
  congr 2
  funext x
  obtain ⟨w, hw⟩ := hf.only x
  rw [Function.comp_apply, hw]

/-! ### A record is appended (R348) -/

theorem ctx?_setCtx {d : Ctx} (hc : s.ctx? n = some c) (hd : d.idx = c.idx) : (s.setCtx d).ctx? n = some d := by
  have hn : c.idx = n := beq_iff_eq.1 (List.find?_some (p := fun o : Ctx => o.idx == n) hc)
  have hl (l : List Ctx) (h : l.find? (fun o => o.idx == n) = some c) :
      (l.map (fun o => if o.idx = d.idx then d else o)).find? (fun o => o.idx == n) = some d := by
    induction l with
    | nil => exact absurd h nofun
    | cons o l ih =>
      rw [List.map_cons, List.find?_cons]
      by_cases ho : o.idx = n
      · rw [if_pos (by rw [ho, hd, hn]), beq_iff_eq.2 (hd.trans hn)]
      · rw [if_neg (by rw [hd, hn]; exact ho), beq_eq_false_iff_ne.2 ho]
        rw [List.find?_cons, beq_eq_false_iff_ne.2 ho] at h
        exact ih h
  exact hl s.ctxs hc

/-- The context whose log holds one record more. -/
def Ctx.logged (c : Ctx) : Ctx := { c with logNext := (c.logNext % 2 ^ 32 + 1) % 2 ^ 32 }

/-- Where the next record of a context's log goes. -/
def Ctx.logPlace (c : Ctx) : Nat := c.saveBase + 64 * (1 + c.logNext % 2 ^ 32 % 1023)

/-- A record in the next place of a log, and the number of the one after it. -/
def State.recorded (s : State) (c : Ctx) (bs : List Byte) : State :=
  (s.put .mem c.logPlace bs).put .mem c.saveBase (leBytes 4 (c.logNext % 2 ^ 32 + 1))

/-- In a log that holds no record of the clk, a record goes to the next place. -/
theorem appendLog_fresh (hc : s.ctx? n = some c) (hf : s.LogFresh c) (mk : Nat → List Byte) :
    s.appendLog n mk = ((s.recorded c (mk (c.logNext % 2 ^ 32))).setCtx c.logged).sendMsi s.vec := by
  rw [State.appendLog, hc]
  simp only [laterRecords_fresh hf, Nat.sub_zero]
  rfl

/-- What appending changes: bytes of memory, what threads see of lock words, the context, and what the host is told. -/
theorem appendLog_eq (hc : s.ctx? n = some c) (hf : s.LogFresh c) (mk : Nat → List Byte) :
    ∃ f m cs ms o, Rewaits f ∧ s.appendLog n mk = { s.rewaited f with mem := m, ctxs := cs, msi := ms, out := o } ∧
      (s.appendLog n mk).ctx? n = some c.logged := by
  have hmsi (s : State) (v : Nat) : ∃ ms o, s.sendMsi v = { s with msi := ms, out := o } := by
    unfold State.sendMsi
    split
    · exact ⟨s.msi, s.out, rfl⟩
    · split
      · exact ⟨s.msi, _, rfl⟩
      · exact ⟨_, s.out, rfl⟩
  obtain ⟨f, m, hf1, e1⟩ := put_mem_rewaited s c.logPlace (mk (c.logNext % 2 ^ 32))
  obtain ⟨g, m', hg, e2⟩ := put_mem_rewaited (s.put .mem c.logPlace (mk (c.logNext % 2 ^ 32))) c.saveBase (leBytes 4 (c.logNext % 2 ^ 32 + 1))
  obtain ⟨ms, o, e3⟩ := hmsi ((s.recorded c (mk (c.logNext % 2 ^ 32))).setCtx c.logged) s.vec
  have hrec : s.recorded c (mk (c.logNext % 2 ^ 32)) = { s.rewaited (g ∘ f) with mem := m' } := by
    rw [State.recorded, e2, e1]
    simp only [State.rewaited, List.map_map, Function.comp_apply]
  rw [appendLog_fresh hc hf, e3, hrec]
  exact ⟨g ∘ f, m', _, ms, o, rewaits_comp hf1 hg, rfl, ctx?_setCtx (s := s) hc rfl⟩

/-- But for the record and NEXT, appending changes no byte. -/
theorem appendLog_sameBytes (hc : s.ctx? n = some c) (hf : s.LogFresh c) (mk : Nat → List Byte) :
    (s.recorded c (mk (c.logNext % 2 ^ 32))).SameBytes (s.appendLog n mk) := by
  rw [appendLog_fresh hc hf]
  exact fun sq y => (sendMsi_sameBytes _ _ sq y).trans (setCtx_sameBytes _ _ sq y)

/-- Bytes that lie apart from those that changed read as before. -/
theorem readBytes_sameBut {b m : Nat} (h : s.SameBut t .mem b m) (hd : a + n ≤ b ∨ b + m ≤ a) : t.readBytes .mem a n = s.readBytes .mem a n :=
  readBytes_congr fun i hi => h .mem (a + i) fun ⟨_, h1, h2⟩ => by
    simp only [Space.key] at h1 h2
    omega

/-- The record that has been appended stands in its place, and NEXT counts on (R345, R348). -/
theorem appendLog_there (hc : s.ctx? n = some c) (hf : s.LogFresh c) (mk : Nat → List Byte) (hl : ∀ i, (mk i).length = 64) :
    (s.appendLog n mk).readBytes .mem c.logPlace 64 = mk (c.logNext % 2 ^ 32) ∧
      (s.appendLog n mk).readNat .mem c.saveBase 4 = (c.logNext + 1) % 2 ^ 32 := by
  have hsame := appendLog_sameBytes hc hf mk
  have hst := (put_stored s .mem c.logPlace (mk (c.logNext % 2 ^ 32))).there
  rw [hl] at hst
  constructor
  · rw [readBytes_congr fun i _ => hsame .mem (c.logPlace + i)]
    refine (readBytes_sameBut (put_sameBut (n := 4) le_rfl (by rw [leBytes_length])) (Or.inr ?_)).trans hst
    unfold Ctx.logPlace
    omega
  · rw [readNat_sameBytes hsame, State.recorded, readNat_put_leBytes]
    omega

/-- A record of a thread's fault that has been appended reads as R345 says, wherever the log's bytes read alike. -/
theorem appended_of_log {r : RecordAt} {tr : Trap} {fatal : Bool} (hc : s.ctx? n = some c) (hf : s.LogFresh c) (hk : tr.clk = none)
    (hr : r.kind = 1) (hsame : ∀ i < 0x10000, t.readByte .mem (c.saveBase + i) =
      (s.appendLog n (faultRecord r tr fatal s.clk)).readByte .mem (c.saveBase + i)) :
    s.Appended t c tr.code.num 1 (recordFlags tr fatal) r.pc tr.addr := by
  obtain ⟨hthere, hnext⟩ := appendLog_there hc hf (faultRecord r tr fatal s.clk) (fun _ => rfl)
  have hplace : c.logPlace = c.saveBase + 64 * (1 + c.logNext % 2 ^ 32 % 1023) := rfl
  have hlog : t.readBytes .mem c.logPlace 64 = faultRecord r tr fatal s.clk (c.logNext % 2 ^ 32) := by
    refine (readBytes_congr fun i hi => ?_).trans hthere
    rw [hplace, Nat.add_assoc]
    exact hsame _ (by omega)
  have hcount : t.readNat .mem c.saveBase 4 = (c.logNext + 1) % 2 ^ 32 := by
    refine Eq.trans (congrArg ofLe (readBytes_congr fun i hi => hsame i (by omega))) hnext
  obtain ⟨h0, h1, h2, -⟩ := readNat_head hlog
  obtain ⟨hpc, haddr, -, hclk, hseq⟩ := readNat_places hlog
  rw [hr] at h1
  rw [hk] at hclk
  rw [Nat.mod_mod] at hseq
  exact ⟨⟨h0, h1, h2⟩, ⟨hpc, haddr, hclk, hseq⟩, hcount⟩

end Sys2Proof.Machine
end

section

/-!
# Faults of a thread (R153, R347 to R350)
-/

namespace Sys2Proof.Machine

variable {s s1 s2 : State} {t u : Thread} {tr : Trap} {word : Word32} {b : Bind} {c : Ctx} {k n pr pc pr0 pc0 : Nat}

/-! ### The shape of a fault -/

/-- A thread that was stalled with a fault takes it now. -/
def Thread.unfaulted (t : Thread) : Thread := match t.wait with | .fault _ => { t with wait := .none } | _ => t

theorem unfaulted_eq (t : Thread) :
    ∃ w, t.unfaulted = { t with wait := w } ∧ (∀ pc, ({ t with wait := w } : Thread).image pc = t.image pc) ∧
      (t.wait = .none → w = .none) := by
  unfold Thread.unfaulted
  split
  · next x h =>
    have hw : ({ t with wait := .none } : Thread).waitWord = t.waitWord := by simp only [Thread.waitWord, h]
    refine ⟨.none, rfl, fun pc => ?_, fun _ => rfl⟩
    unfold Thread.image
    rw [hw]
    rfl
  · exact ⟨t.wait, rfl, fun _ => rfl, id⟩

theorem noteUe_plain (h : tr.code ≠ .eccUe) (s : State) : s.noteUe tr = s := by
  unfold State.noteUe
  split
  · exact if_neg h
  · rfl

/-- Where a fault goes: to the handler, else to the registrar. A thread that was stalled with a fault waits for nothing then. -/
theorem takeFault_goes (hc : s.hasCmds t = false) (hu : tr.code ≠ .eccUe) (word : Word32) :
    ∃ w, (∀ pc, ({ t with wait := w } : Thread).image pc = t.image pc) ∧ (t.wait = .none → w = .none) ∧
      s.takeFault t tr word = (s.toHandler { t with wait := w } tr word).getD (s.toRegistrar { t with wait := w } tr word) := by
  obtain ⟨w, hw, himage, hnone⟩ := unfaulted_eq t
  refine ⟨w, himage, hnone, ?_⟩
  rw [State.takeFault, hc, noteUe_plain hu, ← hw]
  show (match s.toHandler t.unfaulted tr word with | some s1 => s1 | none => s.toRegistrar t.unfaulted tr word) = _
  cases s.toHandler t.unfaulted tr word <;> rfl

/-- A word that raises TRAP, or that is no instruction: the code of its fault, its trap number, and the program counter that is saved. -/
def State.Raises (s : State) (i : Instr) (code n : Nat) (saved : Word) : Prop :=
  (∃ m : BitVec 6, i = .trap m ∧ s.Free i ∧ code = 0x10 ∧ n = m.toNat ∧ saved = s.th.pc + 4) ∨
  (∃ w, i = .illegalWord w ∧ s.th.mode = .ready ∧ code = 1 ∧ n = 0 ∧ saved = s.th.pc) ∨
  (∃ w, i = .unassignedFnWord w ∧ s.th.mode = .ready ∧ code = (if w.toNat / 2 ^ 26 = 0x30 then 2 else 1) ∧ n = 0 ∧ saved = s.th.pc)

/-- What such a word raises. -/
structure Raised (s : State) (i : Instr) (e : Code) (code n : Nat) (saved : Word) : Prop where
  exec : exec i s = .next (s.takeFault s.th { code := e, trapn := n } (encode i))
  code : e.num = code
  trapn : n < 64
  plain : e ≠ .eccUe
  ready : s.th.mode = .ready
  saved : (if e = .trapCode then s.th.pc + 4 else s.th.pc) = saved

theorem raised_of_raises {i : Instr} {code : Nat} {saved : Word} (h : s.Raises i code n saved) : ∃ e, Raised s i e code n saved := by
  rcases h with ⟨m, rfl, hfree, rfl, rfl, rfl⟩ | ⟨w, rfl, hm, rfl, rfl, rfl⟩ | ⟨w, rfl, hm, rfl, rfl, rfl⟩
  · have he : exec (.trap m) s = execTrap m s := rfl
    refine ⟨.trapCode, ?_, rfl, m.isLt, nofun, hfree.ready, rfl⟩
    rw [he, execTrap]
    exact issueWord_trap hfree rfl
  · have he : exec (.illegalWord w) s = execIllegalWord w s := rfl
    refine ⟨.illegal, ?_, rfl, by decide, nofun, hm, rfl⟩
    rw [he, execIllegalWord, if_neg (not_not_intro hm)]
    rfl
  · have he : exec (.unassignedFnWord w) s = execUnassignedFnWord w s := rfl
    have hmajor : fld w 26 6 = 0x30#6 ↔ w.toNat / 2 ^ 26 = 0x30 := by
      rw [← BitVec.toNat_inj, fld, BitVec.extractLsb'_toNat, Nat.shiftRight_eq_div_pow]
      have hw := w.isLt
      show w.toNat / 2 ^ 26 % 64 = 48 ↔ _
      omega
    refine ⟨if fld w 26 6 = 0x30#6 then .pfx else .illegal, ?_, ?_, by decide, ?_, hm, ?_⟩
    · rw [he, execUnassignedFnWord, if_neg (not_not_intro hm)]
      rfl
    · simp only [hmajor]
      split <;> rfl
    · split <;> exact nofun
    · rw [if_neg]
      split <;> exact nofun

theorem recordAt_raised {i : Instr} {e : Code} {code : Nat} {saved : Word} {w : Wait} (h : Raised s i e code n saved) :
    (Thread.recordAt { s.th with wait := w } { code := e, trapn := n } word).pc = saved := by
  rw [← h.saved]
  simp only [Thread.recordAt, and_true]

/-! ### The handler (R153, R154) -/

theorem wordBytes_length (ws : List Word) : (wordBytes ws).length = 8 * ws.length := by
  induction ws with
  | nil => rfl
  | cons w ws ih =>
    rw [wordBytes, List.flatMap_cons, List.length_append, leBytes_length, List.length_cons]
    unfold wordBytes at ih
    omega

/-- Two ranges whose pages are written without a fault. -/
theorem placePieces_two {va vb : Word} {xs ys : List Byte}
    (ha : s.translate t.core t.ctx va .wr true = .ok (pr0, s1)) (hra : s1.reachPa va .wr pr0 = .ok pr)
    (hb : s1.translate t.core t.ctx vb .wr true = .ok (pc0, s2)) (hrb : s2.reachPa vb .wr pc0 = .ok pc) (hbad : s.bad = []) :
    s.placePieces t .wr [(va.toNat, xs), (vb.toNat, ys)] = some ([(pr, xs), (pc, ys)], s2) := by
  have hv (v : Word) : BitVec.ofNat 64 v.toNat = v := (BitVec.ofNat_toNat ..).trans (BitVec.setWidth_eq v)
  obtain ⟨ws, cs, h1⟩ := translate_frame ha
  obtain ⟨ws', cs', h2⟩ := translate_frame hb
  have hb1 : s1.badAt .mem pr xs.length = false := by rw [h1, State.badAt, hbad]; rfl
  have hb2 : s2.badAt .mem pc ys.length = false := by rw [h2, h1, State.badAt, hbad]; rfl
  simp only [State.placePieces, hv, ha, hra, hb, hrb, hb1, hb2, Bool.false_eq_true, if_false]

/-- With no store posted, bytes of the module's own land at once. -/
theorem putAfter_calm (h : s.stores = []) (core a : Nat) (bs : List Byte) : s.putAfter core a bs = s.put .mem a bs := by
  have hd : s.drain [] = s := by rw [State.drain, h]; rfl
  rw [State.putAfter, h, List.filter_nil, List.map_nil, hd]

/-- The place of a thread in the handler save areas of its context (R153, R331). -/
def Ctx.handlerSave (c : Ctx) (t : Thread) : Word := c.hsave + BitVec.ofNat 64 (512 * saveSlot t)

/-- The place of a thread's fault record behind the save areas (R153, R331). -/
def Ctx.handlerRecord (c : Ctx) (t : Thread) : Word := c.hsave + BitVec.ofNat 64 (0xC00000 + 64 * saveSlot t)

/-- A state in which the record and the context of a fault have been written. -/
def State.handed (s : State) (t : Thread) (tr : Trap) (word : Word32) (clk pr pc : Nat) : State :=
  (s.put .mem pr (faultRecord (t.recordAt tr word) tr false clk 0)).put .mem pc (wordBytes (t.image (t.recordAt tr word).pc))

/-- The bytes that the entry of a handler leaves: the record and the context at their places, which lie apart. -/
theorem handed_bytes (hd : pr + 64 ≤ pc ∨ pc + 512 ≤ pr) (clk : Nat) :
    (s.handed t tr word clk pr pc).readBytes .mem pr 64 = faultRecord (t.recordAt tr word) tr false clk 0 ∧
    (s.handed t tr word clk pr pc).readBytes .mem pc 512 = wordBytes (t.image (t.recordAt tr word).pc) ∧
    ∀ x, ¬ (pr ≤ x ∧ x < pr + 64) → ¬ (pc ≤ x ∧ x < pc + 512) →
      (s.handed t tr word clk pr pc).readByte .mem x = s.readByte .mem x := by
  have hlen : (wordBytes (t.image (t.recordAt tr word).pc)).length = 512 := by rw [wordBytes_length, image_length]
  obtain ⟨hrec, hrest⟩ := put_stored s .mem pr (faultRecord (t.recordAt tr word) tr false clk 0)
  obtain ⟨hctx, hrest'⟩ := put_stored (s.put .mem pr (faultRecord (t.recordAt tr word) tr false clk 0)) .mem pc
    (wordBytes (t.image (t.recordAt tr word).pc))
  rw [hlen] at hctx hrest'
  rw [faultRecord_length] at hrec hrest
  rw [State.handed]
  refine ⟨(readBytes_sameBut hrest' (by omega)).trans hrec, hctx, fun x hx hx' => ?_⟩
  exact (hrest' .mem x fun h => hx' h.2).trans (hrest .mem x fun h => hx h.2)

theorem handed_th_uid (s : State) (t : Thread) (clk : Nat) : (s.handed t tr word clk pr pc).th.uid = s.th.uid := by
  have put_uid (s : State) (a : Nat) (bs : List Byte) : (s.put .mem a bs).th.uid = s.th.uid := by
    obtain ⟨w, hw⟩ := touched_eq a bs.length s.th
    rw [put_mem_th, hw]
  rw [State.handed, put_uid, put_uid]

/-- A handler has been entered: what its thread is, the record and the context at their places, and every other byte of memory. -/
structure State.HandedOver (s y : State) (x : Thread) (record : List Byte) (image : List Word) (pr pc : Nat) : Prop where
  th : y.th = x
  record : y.readBytes .mem pr 64 = record
  context : y.readBytes .mem pc 512 = wordBytes image
  rest : ∀ a, ¬ (pr ≤ a ∧ a < pr + 64) → ¬ (pc ≤ a ∧ a < pc + 512) → y.readByte .mem a = s.readByte .mem a

/-- Once the record and the context are written, the selected thread stands at the handler's entry. -/
theorem handedOver {clk : Nat} {entry save recAddr : Word} (hd : pr + 64 ≤ pc ∨ pc + 512 ≤ pr)
    (hs : s.SameBytes s2) (hu : s2.th.uid = t.uid) :
    s.HandedOver ((s2.handed t tr word clk pr pc).setT (t.enterHandler entry save recAddr)) (t.enterHandler entry save recAddr)
      (faultRecord (t.recordAt tr word) tr false clk 0) (t.image (t.recordAt tr word).pc) pr pc := by
  obtain ⟨hrec, hctx, hrest⟩ := handed_bytes (s := s2) (t := t) (tr := tr) (word := word) hd clk
  have hsame := setT_sameBytes (s2.handed t tr word clk pr pc) (t.enterHandler entry save recAddr)
  refine ⟨?_, (readBytes_congr fun _ _ => hsame ..).trans hrec, (readBytes_congr fun _ _ => hsame ..).trans hctx, fun a ha ha' => ?_⟩
  · rw [setT_selected (t := t.enterHandler entry save recAddr) ((handed_th_uid ..).trans hu)]
  · exact (hsame .mem a).trans ((hrest a ha ha').trans (hs .mem a))

section
variable (hg : s.grant t.core t.ctx t.slot = some b) (hc : s.ctx? t.ctx = some c) (hh : b.handler ≠ 0) (hs : c.hsave ≠ 0)
    (hin : t.inHandler = false) (hl : t.inflight = []) (hst : s.stores = []) (hbad : s.bad = [])
    (hr : (c.handlerRecord t).toNat % 4096 + 64 ≤ 4096) (hv : (c.handlerSave t).toNat % 4096 + 512 ≤ 4096)
    (h1 : s.translate t.core t.ctx (c.handlerRecord t) .wr true = .ok (pr0, s1)) (h2 : s1.reachPa (c.handlerRecord t) .wr pr0 = .ok pr)
    (h3 : s1.translate t.core t.ctx (c.handlerSave t) .wr true = .ok (pc0, s2)) (h4 : s2.reachPa (c.handlerSave t) .wr pc0 = .ok pc)
include hg hc hh hs hin hl hst hbad hr hv h1 h2 h3 h4

theorem toHandler_eq :
    s.toHandler t tr word =
      some ((s2.handed t tr word s.clk pr pc).setT (t.enterHandler b.handler (c.handlerSave t) (c.handlerRecord t))) := by
  have hrec : pagePieces 2 (c.handlerRecord t).toNat (faultRecord (t.recordAt tr word) tr false s.clk 0) =
      [((c.handlerRecord t).toNat, faultRecord (t.recordAt tr word) tr false s.clk 0)] :=
    pagePieces_whole (by exact List.ne_nil_of_length_pos (by rw [faultRecord_length]; decide)) hr 0
  have hlen : (wordBytes (t.image (t.recordAt tr word).pc)).length = 512 := by rw [wordBytes_length, image_length]
  have hsave : pagePieces 2 (c.handlerSave t).toNat (wordBytes (t.image (t.recordAt tr word).pc)) =
      [((c.handlerSave t).toNat, wordBytes (t.image (t.recordAt tr word).pc))] :=
    pagePieces_whole (List.ne_nil_of_length_pos (by rw [hlen]; decide)) (by rw [hlen]; exact hv) 0
  have hplace := placePieces_two (xs := faultRecord (t.recordAt tr word) tr false s.clk 0)
    (ys := wordBytes (t.image (t.recordAt tr word).pc)) h1 h2 h3 h4 hbad
  obtain ⟨ws, cs, e1⟩ := translate_frame h1
  obtain ⟨ws', cs', e2⟩ := translate_frame h3
  have hst2 : s2.stores = [] := by rw [e2, e1]; exact hst
  have hst3 : (s2.put .mem pr (faultRecord (t.recordAt tr word) tr false s.clk 0)).stores = [] := by
    obtain ⟨f, m, -, e⟩ := put_mem_rewaited s2 pr (faultRecord (t.recordAt tr word) tr false s.clk 0)
    rw [e]
    exact hst2
  have hcond : ¬ (b.handler = 0 ∨ c.hsave = 0 ∨ t.inHandler = true) := by
    rw [hin]
    simp only [hh, hs, Bool.false_eq_true, or_self, not_false_eq_true]
  simp only [State.toHandler, hg, hc, landAll_nil hl]
  rw [if_neg hcond]
  simp only [Ctx.handlerRecord, Ctx.handlerSave] at hrec hsave hplace
  simp only [hrec, hsave, List.cons_append, List.nil_append, hplace, List.foldl_cons, List.foldl_nil, putAfter_calm hst2, putAfter_calm hst3]
  rfl

theorem toHandler_enters (hd : pr + 64 ≤ pc ∨ pc + 512 ≤ pr) (hu : t.uid = s.th.uid) :
    ∃ y, s.toHandler t tr word = some y ∧ s.HandedOver y (t.enterHandler b.handler (c.handlerSave t) (c.handlerRecord t))
      (faultRecord (t.recordAt tr word) tr false s.clk 0) (t.image (t.recordAt tr word).pc) pr pc := by
  obtain ⟨ws, cs, e1⟩ := translate_frame h1
  obtain ⟨ws', cs', e2⟩ := translate_frame h3
  have hs2 : s.SameBytes s2 := by
    rw [e2, e1]
    exact sameBytes_of_cells rfl rfl rfl rfl rfl
  have hth : s2.th = s.th := by rw [e2, e1]
  exact ⟨_, toHandler_eq hg hc hh hs hin hl hst hbad hr hv h1 h2 h3 h4, handedOver hd hs2 (hu.symm ▸ congrArg Thread.uid hth)⟩

end

/-! ### The registrar: a fatal fault (R347, R348, R350) -/

theorem toHandler_none (hg : s.grant t.core t.ctx t.slot = some b) (hc : s.ctx? t.ctx = some c)
    (h : b.handler = 0 ∨ c.hsave = 0 ∨ t.inHandler = true) : s.toHandler t tr word = none := by
  simp only [State.toHandler, hg, hc]
  exact if_pos h

/-- A fault without a handler to go to. -/
theorem toHandler_unhandled (h : s.handled t = false) : s.toHandler t tr word = none := by
  unfold State.handled at h
  unfold State.toHandler
  split
  · next b c hg hc =>
    simp only [hg, hc] at h
    refine if_pos ?_
    by_contra hn
    obtain ⟨h1, h2⟩ := not_or.1 hn
    obtain ⟨h2, h3⟩ := not_or.1 h2
    rw [decide_eq_true ⟨h1, h2⟩, Bool.eq_false_iff.2 h3] at h
    exact absurd h (by decide)
  · rfl

/-- The log of a context with the record of a thread's fault. -/
def State.logFor (s : State) (t : Thread) (tr : Trap) (word : Word32) : State :=
  s.appendLog t.ctx (faultRecord (t.recordAt tr word) tr (t.fatalFor tr) s.clk)

theorem logFault_logs (hl : tr.logged = false) (h : (if t.fatalFor tr then t.ticket.getLsbD 63 else t.again tr) = false) :
    s.logFault t tr word = s.logFor t tr word := by
  unfold State.logFault
  refine if_neg ?_
  rw [hl, h]
  simp only [Bool.false_eq_true, or_self, not_false_eq_true]

/-- The launch of a thread is to be aborted (R350). -/
def State.dooms (s : State) (t : Thread) : State :=
  { s with dying := if s.dying.contains t.origin then s.dying else s.dying ++ [t.origin] }

theorem toRegistrar_ends (hr : tr.retry = false) (hl : tr.logged = false) (ht : t.ticket.getLsbD 63 = false) (he : t.escape = none) :
    s.toRegistrar t tr word = ((s.logFor t tr word).dooms t).endThread t := by
  have hf : t.fatalFor tr = true := by rw [Thread.fatalFor, hr]; rfl
  rw [State.toRegistrar, logFault_logs hl (by rw [hf, if_pos rfl, ht])]
  simp only [hf, if_true, State.fatal, ht, he, Option.isSome_none, Bool.false_eq_true, if_false]
  rfl

theorem dooms_mem (s : State) (t : Thread) : t.origin ∈ (s.dooms t).dying := by
  show t.origin ∈ (if s.dying.contains t.origin then s.dying else s.dying ++ [t.origin])
  split
  · next h => exact List.contains_iff_mem.1 h
  · exact List.mem_append_right _ (List.mem_singleton.2 rfl)

theorem endThread_dying (s : State) (t : Thread) : (s.endThread t).dying = s.dying := by
  obtain ⟨x, l, cs, es, ch, h⟩ := endThread_eq s t
  rw [h]

/-- A thread that holds no engine leaves the module, whatever it waits for. -/
theorem endThread_lacks_unpinned (hp : ¬ t.peng.toNat < 5) (hu : t.uid = s.th.uid) (h : ∀ o ∈ s.others, o.uid ≠ s.th.uid) :
    (s.endThread t).Lacks t.uid := by
  rw [endThread_unpinned hp, hu]
  exact (serveQueue_served _ _).2 _ (delT_lacks (s := s.withdrawn t) h)

theorem others_unlike (hm : s.th.mode ≠ .empty) (hn : (s.threads.map Thread.uid).Nodup) : ∀ o ∈ s.others, o.uid ≠ s.th.uid := by
  rw [threads_selected hm, List.map_cons] at hn
  exact fun o ho e => (List.nodup_cons.1 hn).1 (e ▸ List.mem_map_of_mem ho)

theorem rewaited_unlike {f : Thread → Thread} (hf : Rewaits f) (h : ∀ o ∈ s.others, o.uid ≠ s.th.uid) :
    (f s.th).uid = s.th.uid ∧ ∀ o ∈ s.others.map f, o.uid ≠ (f s.th).uid := by
  have hu (x : Thread) : (f x).uid = x.uid := by
    obtain ⟨w, hw⟩ := hf.only x
    rw [hw]
  refine ⟨hu _, fun o ho => ?_⟩
  obtain ⟨y, hy, rfl⟩ := List.mem_map.1 ho
  rw [hu, hu]
  exact h y hy

theorem toRegistrar_fatal (hr : tr.retry = false) (hl : tr.logged = false) (hk : tr.clk = none) (ht : t.ticket.getLsbD 63 = false)
    (he : t.escape = none) (hc : s.ctx? t.ctx = some c) (hf : s.LogFresh c) (hp : t.peng = 7) (hu : t.uid = s.th.uid)
    (ho : ∀ o ∈ s.others, o.uid ≠ s.th.uid) :
    s.Appended (s.toRegistrar t tr word) c tr.code.num 1 (recordFlags tr true) (t.recordAt tr word).pc tr.addr ∧
      t.origin ∈ (s.toRegistrar t tr word).dying ∧ (s.toRegistrar t tr word).Lacks t.uid := by
  have hlog : s.logFor t tr word = s.appendLog t.ctx (faultRecord (t.recordAt tr word) tr true s.clk) := by
    rw [State.logFor, Thread.fatalFor, hr]
    rfl
  obtain ⟨f, m, cs, ms, o, hf', heq, -⟩ := appendLog_eq hc hf (faultRecord (t.recordAt tr word) tr true s.clk)
  have hsame := endThread_sameBytes ((s.logFor t tr word).dooms t) t
  rw [toRegistrar_ends hr hl ht he]
  refine ⟨appended_of_log (n := t.ctx) hc hf hk rfl fun i _ => (hsame .mem _).trans ?_, ?_, ?_⟩
  · rw [hlog]
    rfl
  · rw [endThread_dying]
    exact dooms_mem _ t
  · obtain ⟨huid, hothers⟩ := rewaited_unlike hf' ho
    rw [hlog, heq]
    exact endThread_lacks_unpinned (s := State.dooms { s.rewaited f with mem := m, ctxs := cs, msi := ms, out := o } t)
      (by rw [hp]; decide) (hu.trans huid.symm) hothers

/-! ### The registrar: a fault that is retried (R349) -/

/-- Writes to memory, a context's log and what the host is told do not change which place of a store is free. -/
theorem storeSlot_rewaited {f : Thread → Thread} (hf : Rewaits f) {m cs ms o} (hc : s.ctx? n = some c)
    (hc' : ({ s.rewaited f with mem := m, ctxs := cs, msi := ms, out := o } : State).ctx? n = some c.logged) (own : Option Nat) :
    ({ s.rewaited f with mem := m, ctxs := cs, msi := ms, out := o } : State).storeSlot n own = s.storeSlot n own := by
  let s' : State := { s.rewaited f with mem := m, ctxs := cs, msi := ms, out := o }
  have hthreads : s'.threads = s.threads.map f := rewaited_threads hf s
  have keeps {α : Type} (g : Thread → α) (hg : ∀ x w, g { x with wait := w } = g x) : g ∘ f = g := by
    funext x
    obtain ⟨w, hw⟩ := hf.only x
    exact (congrArg g hw).trans (hg x w)
  have hslots : s'.storeSlots n = s.storeSlots n := by
    rw [State.storeSlots, hthreads, List.filter_map, List.filterMap_map, keeps _ fun _ _ => rfl, keeps _ fun _ _ => rfl, State.storeSlots]
  have hpages : s'.storePages n = s.storePages n := by
    rw [State.storePages, hslots]
    rfl
  have hfor : s'.pagesFor = s.pagesFor := by
    funext l
    rw [State.pagesFor, hthreads, List.filter_map, List.length_map, keeps _ fun _ _ => rfl]
    rfl
  have hreserved : s'.reserved n own = s.reserved n own := by
    rw [State.reserved, hfor]
    rfl
  have hholds : s'.storeHolds n 1 own = s.storeHolds n 1 own := by
    have hc1 : s'.ctx? n = some c.logged := hc'
    simp only [State.storeHolds, hc1, hc, hpages, hreserved]
    rfl
  show s'.storeSlot n own = s.storeSlot n own
  simp only [State.storeSlot, hslots, hholds]

/-- A thread in the registrar's store. -/
def Thread.stowed (t : Thread) (k : Nat) : Thread := { t with mode := .descheduled, place := .saved, saveAt := some k }

/-- Waits for a token of a channel end (R272). -/
def State.ungot (s : State) (t : Thread) : State :=
  { s with chans := s.chans.map (fun (c : Chan) => { c with getters := c.getters.filter (fun v => v != t.uid) }) }

/-- A thread with nothing in flight goes to a free place of the store, and nobody waits for its slot. -/
theorem deschedule_stows (hl : t.inflight = []) (hk : s.storeSlot t.ctx none = some k) (hq : (s.core t.core).queue = []) :
    s.deschedule t = (s.ungot t).keepT (t.stowed k) := by
  have hslot : (s.ungot t).storeSlot t.ctx none = some k := hk
  have hstow : (s.ungot t).stow { t with mode := .descheduled } none = some ((s.ungot t).keepT (t.stowed k)) := by
    simp only [State.stow, hslot, Option.map_some]
    rfl
  have hcore : ((s.ungot t).keepT (t.stowed k)).core t.core = s.core t.core :=
    (congrArg (fun x : State => x.core t.core) (keepT_bare (s.ungot t) (t.stowed k)) :)
  unfold State.deschedule
  simp only [landAll_nil hl]
  show (match (s.ungot t).stow { t with mode := .descheduled } none with
    | some s2 => s2.serveQueue t.core
    | none => (s.ungot t).setT { t with mode := .descheduled }) = _
  rw [hstow]
  exact serveQueue_nil (by rw [hcore, hq])

/-- The thread that has been descheduled, and the bytes of its context's log, which stands before the saved threads (R338, R348). -/
theorem deschedule_saved (hl : t.inflight = []) (hk : s.storeSlot t.ctx none = some k) (hq : (s.core t.core).queue = [])
    (hc : s.ctx? t.ctx = some c) (hg : s.getT t.uid = some u) (hw : t.wait = .none) :
    (s.deschedule t).getT t.uid = some (t.stowed k) ∧
      ∀ i < 0x10000, (s.deschedule t).readByte .mem (c.saveBase + i) = s.readByte .mem (c.saveBase + i) := by
  have hg1 : (s.ungot t).getT t.uid = some u := hg
  have hc1 : (s.ungot t).ctx? (t.stowed k).ctx = some c := hc
  rw [deschedule_stows hl hk hq]
  constructor
  · obtain ⟨x, hx, hfree⟩ := keepT_getT (t := t.stowed k) hg1 rfl nofun
    have hwait : (t.stowed k).wait = .none := hw
    rw [hfree (by rw [hwait]; exact nofun)] at hx
    exact hx
  · intro i hi
    rw [keepT_saved rfl hc1]
    refine ((put_stored _ .mem (c.storeAt k) _).elsewhere .mem _ fun ⟨_, h, _⟩ => ?_).trans (setT_sameBytes (s.ungot t) _ .mem _)
    simp only [Space.key, Ctx.storeAt] at h
    omega

section
variable (hf : t.fatalFor tr = false)
include hf

/-- What a thread keeps of a fault that it meets for the first time. -/
def State.firstRetry (s : State) (tr : Trap) (word : Word32) : Retry :=
  { trap := { tr with clk := some (tr.clk.getD s.clk), logged := false }, word := word, first := s.reg.ticks, last := s.reg.ticks }

theorem toRegistrar_first (hl : tr.logged = false) (ha : t.again tr = false) :
    s.toRegistrar t tr word = (s.logFor t tr word).deschedule { t with retry := some (s.firstRetry tr word) } := by
  rw [State.toRegistrar, logFault_logs hl (by rw [hf, ha]; rfl)]
  simp only [hf, ha, Bool.false_eq_true, if_false]
  rfl

/-- A fault that is retried for the first time leaves a record, and the thread keeps the fault. -/
theorem toRegistrar_waits (hl : tr.logged = false) (hk : tr.clk = none) (ha : t.again tr = false) (hc : s.ctx? t.ctx = some c)
    (hfresh : s.LogFresh c) (hin : t.inflight = []) (hw : t.wait = .none) (hslot : s.storeSlot t.ctx none = some k)
    (hq : (s.core t.core).queue = []) (hg : s.getT t.uid = some u) :
    (s.toRegistrar t tr word).getT t.uid = some (Thread.stowed { t with retry := some (s.firstRetry tr word) } k) ∧
      s.Appended (s.toRegistrar t tr word) c tr.code.num 1 (recordFlags tr false) (t.recordAt tr word).pc tr.addr := by
  have hlog : s.logFor t tr word = s.appendLog t.ctx (faultRecord (t.recordAt tr word) tr false s.clk) := by rw [State.logFor, hf]
  obtain ⟨f, m, cs, ms, o, hf', heq, hctx⟩ := appendLog_eq hc hfresh (faultRecord (t.recordAt tr word) tr false s.clk)
  have hslot' : (s.logFor t tr word).storeSlot t.ctx none = some k := by
    rw [hlog, heq, storeSlot_rewaited hf' hc (heq ▸ hctx), hslot]
  have hq' : ((s.logFor t tr word).core t.core).queue = [] := by
    rw [hlog, heq]
    exact hq
  have hg' : ∃ x, (s.logFor t tr word).getT t.uid = some x := by
    rw [hlog, heq]
    exact ⟨f u, (rewaited_getT hf' s t.uid).trans (congrArg (Option.map f) hg)⟩
  obtain ⟨x, hg'⟩ := hg'
  rw [toRegistrar_first hf hl ha]
  obtain ⟨hu, hbytes⟩ := deschedule_saved (s := s.logFor t tr word) (t := { t with retry := some (s.firstRetry tr word) }) hin hslot' hq'
    (hlog ▸ hctx) hg' hw
  refine ⟨hu, appended_of_log (n := t.ctx) hc hfresh hk rfl fun i hi => (hbytes i hi).trans ?_⟩
  rw [hlog]
  rfl

/-- A fault that the thread's retry has met again has no new record. -/
theorem toRegistrar_again (ha : t.again tr = true) : s.toRegistrar t tr word = s.deschedule t := by
  have hlog : s.logFault t tr word = s := by
    rw [State.logFault, if_pos]
    rw [hf, ha]
    exact .inr rfl
  simp only [State.toRegistrar, hlog, hf, ha, Bool.false_eq_true, if_false, if_true]

end

end Sys2Proof.Machine
end

section
open Sys2Proof Sys2Proof.Machine

/-- Settles O24: `raised_of_raises` says what trap and a word that is no instruction raise, and `takeFault_goes` where a fault goes. At the
handler `toHandler_enters` gives the writes and the entry; at the registrar `appended_of_log` gives the record, `endThread_lacks_unpinned`
the end, and `deschedule_saved` the thread that is retried. -/
theorem trapEntersHandler : Obligations.TrapEntersHandler := by
  unfold Obligations.TrapEntersHandler
  refine ⟨?handler, ?ends, ?retries⟩
  case handler =>
    intro s s1 s2 i code n saved b c pr0 pc0 pr pc hi hcmds hl hst hg hc hh hs hin save rec' hr hv h1 h2 h3 h4 hbad hd
    obtain ⟨e, he⟩ := raised_of_raises (s := s) hi
    obtain ⟨w, himage, -, hgoes⟩ := takeFault_goes hcmds (tr := { code := e, trapn := n }) he.plain (encode i)
    obtain ⟨y, hy, hth, hrec, hctx, hrest⟩ := toHandler_enters (t := { s.th with wait := w }) (tr := { code := e, trapn := n })
      (word := encode i) hg hc hh hs hin hl hst hbad hr hv h1 h2 h3 h4 hd rfl
    rw [recordAt_raised he, himage] at hctx
    obtain ⟨hcode, hkind, -, htrapn⟩ := readNat_head hrec
    obtain ⟨hat, -, hword, -, -⟩ := readNat_places hrec
    rw [hy] at hgoes
    refine ⟨y, he.exec.trans (congrArg _ hgoes), ?_⟩
    rw [hth]
    exact ⟨rfl, rfl, rfl, rfl, rfl, rfl, rfl, rfl, rfl, rfl, rfl, rfl, rfl, rfl, rfl, rfl, rfl, rfl, rfl, rfl, rfl, hctx, hcode.trans he.code,
      hkind, htrapn.trans (Nat.mod_eq_of_lt he.trapn), hat.trans (congrArg _ (recordAt_raised he)), hword, hrest⟩
  case ends =>
    intro s i code saved b c hi hcmds hg hc hf hn ht hesc hp hnodup
    obtain ⟨n, hi⟩ : ∃ n, s.Raises i code n saved := by
      rcases hi with ⟨m, hi, hfree, hcode, hpc⟩ | ⟨w, hi, hm, hcode, hpc⟩ | ⟨w, hi, hm, hcode, hpc⟩
      · exact ⟨_, .inl ⟨m, hi, hfree, hcode, rfl, hpc⟩⟩
      · exact ⟨_, .inr (.inl ⟨w, hi, hm, hcode, rfl, hpc⟩)⟩
      · exact ⟨_, .inr (.inr ⟨w, hi, hm, hcode, rfl, hpc⟩)⟩
    obtain ⟨e, he⟩ := raised_of_raises hi
    obtain ⟨w, -, -, hgoes⟩ := takeFault_goes hcmds (tr := { code := e, trapn := n }) he.plain (encode i)
    rw [toHandler_none (t := { s.th with wait := w }) hg hc hn] at hgoes
    obtain ⟨happ, hdying, hlacks⟩ := toRegistrar_fatal (s := s) (t := { s.th with wait := w }) (tr := { code := e, trapn := n })
      (word := encode i) rfl rfl rfl ht hesc hc hf hp rfl (others_unlike (by rw [he.ready]; exact nofun) hnodup)
    rw [recordAt_raised he, he.code] at happ
    exact ⟨_, he.exec.trans (congrArg _ hgoes), happ, hdying, hlacks⟩
  case retries =>
    intro s tr word c k hcmds hh hin hm hw hl hr hcode hue hclk hlogged hc hf hk hq hnodup kept saved
    obtain ⟨w, -, hwait, hgoes⟩ := takeFault_goes (s := s) hcmds hue word
    have hth : ({ s.th with wait := w } : Thread) = s.th := by rw [hwait hw, ← hw]
    have hfatal : s.th.fatalFor tr = false := by rw [Thread.fatalFor, hr, hin]; rfl
    rw [hth, toHandler_unhandled hh] at hgoes
    have hgot := getT_selected (s := s) (by rw [hm]; exact nofun)
    constructor
    · intro hretry
      have hagain : s.th.again tr = false := by rw [Thread.again, hretry]
      obtain ⟨hu, happ⟩ := toRegistrar_waits (word := word) hfatal hlogged hclk hagain hc hf hl hw hk hq hgot
      have hpc : (s.th.recordAt tr word).pc = s.th.pc := if_neg fun h => hcode h.1
      have hflags : recordFlags tr false = 2 + (if tr.remote then 4 else 0) + (if tr.defer then 8 else 0) := by
        rw [recordFlags, hr]
        rfl
      have hkept : kept (s.firstRetry tr word) := by
        refine ⟨?_, ?_, rfl, rfl, rfl⟩
        · rw [State.firstRetry, ← hclk, ← hlogged]
        · rw [State.firstRetry, hclk]
          rfl
      rw [hpc, hflags] at happ
      rw [hgoes, Option.getD_none]
      exact ⟨_, _, ⟨hu, rfl, rfl, rfl, rfl⟩, rfl, hkept, happ⟩
    · intro r hretry hrcode hraddr
      have hagain : s.th.again tr = true := by
        rw [Thread.again, hretry]
        simp only [hrcode, hraddr, beq_self_eq_true, Bool.and_self]
      obtain ⟨hu, hbytes⟩ := deschedule_saved hl hk hq hc hgot hw
      rw [hgoes, Option.getD_none, toRegistrar_again hfatal hagain]
      exact ⟨_, ⟨hu, rfl, rfl, rfl, rfl⟩, hretry, readBytes_congr hbytes⟩

end
